-- ==== Sys2Proof/Word.lean ====
section
/-!
DEFINITION. Sys2Proof/Word.lean: the register word of the BAR0 view (32 bits, little-endian) and the byte.
-/

namespace Sys2Proof

/-- A register as a host reads or writes it: 32 bits. -/
abbrev Word := BitVec 32

/-- One byte. -/
abbrev Byte := BitVec 8

end Sys2Proof
end

