-- ==== Sys2Proof/Syntax.lean ====
section
/-!
DEFINITION. Sys2Proof/Syntax.lean: the commands of the block, one constructor per row of spec/opcode_table.json, with
the data each brings from outside: the port a host write comes by and the value written, the instance an event names,
and what a packet, a task's result or a sensor reports.
-/

namespace Sys2Proof

/-- What an Announce message carries (R121): the sender's port identity, the grandmaster's identity and data set, the
steps to it, currentUtcOffset and logAnnounceInterval. -/
structure Announce where
  port  : Nat
  gm    : Nat
  prio1 : Nat
  cls   : Nat
  acc   : Nat
  var   : Nat
  prio2 : Nat
  steps : Nat
  utc   : Int
  logInt : Int
deriving DecidableEq, Repr

/-- Who reads a DRAM block (R463): an engine a reference row of context ctx (picture and row; row 256 + j is row j of the safe
reconstruction); an engine, of the lead (0) or of the standby (1), composed row j of frame k of context ctx; a compositor source
row `row` of layer instance `layer` for row j of frame k of channel n; engine e a decode reference or bitstream; DRAM helper e;
egress audio of an input; a replay retrieval; a host's DMA or the AOC. -/
inductive Reader where
  | reference (ctx pic row : Nat)
  | composed (ctx k j which : Nat)
  | source (n k j layer row : Nat)
  | decode (e : Nat)
  | helper (e : Nat)
  | audio (input : Nat)
  | replay (port : Nat)
  | dma (port : Nat)
deriving DecidableEq, Repr

/-- A DRAM access that completes (R454, R463, R464): its DRAM address, service class and wait in ns, the retries its link
errors took and whether they were exhausted; for a read whether its data came clean (0), corrected (1) or uncorrectable
(2), and the corrected lane group, bank and row of its error record. -/
structure Access where
  da      : Nat
  cls     : Nat
  waited  : Nat
  retries : Nat
  dead    : Bool
  result  : Nat
  lane    : Nat
  bank    : Nat
  row     : Nat
deriving DecidableEq, Repr

/-- An Ethernet frame as a lane receives it (R443): FCS correct, length with FCS, destination MAC, VLAN identifier (0
untagged), EtherType after the tag, IPv4 header in order, fragmented, protocol, source and destination addresses, UDP
destination port; the target of an ARP request (none for another frame); group and maximum response time in ns of an
IGMP query (group 0: general query; none for another frame). -/
structure Frame where
  fcs   : Bool
  len   : Nat
  dst   : Nat
  vlan  : Nat
  ety   : Nat
  ipOk  : Bool
  frag  : Bool
  proto : Nat
  src   : Nat
  dip   : Nat
  dport : Nat
  arp   : Option Nat
  query : Option (Nat × Nat)
deriving DecidableEq, Repr


/-- An ST 2110-20 packet after its flow match (R147 to R149): path (0 A, 1 B), sequence number extended to 32 bits, RTP
timestamp, payload type, marker bit, and its sample row data: line, first sample and samples of each segment. -/
structure VideoPkt where
  path   : Nat
  seq    : Nat
  ts     : Nat
  pt     : Nat
  marker : Bool
  segs   : List (Nat × Nat × Nat)
deriving DecidableEq, Repr

/-- A Morvolos-link packet (R163): type 1 FRAME_START, 2 LINE, 3 FRAME_END; frame number; bytes [5:4], [7:6] and [9:8] of
its header; the CRC-32C holds. -/
structure MvPkt where
  typ   : Nat
  frame : Nat
  a     : Nat
  b     : Nat
  c     : Nat
  crc   : Bool
deriving DecidableEq, Repr

/-- One slice of a camera access unit (R181 to R188): arrived whole; the first source row it touches; source rows that hold
final values once it is decoded. -/
structure CamSlice where
  whole : Bool
  row   : Nat
  done  : Nat
deriving DecidableEq, Repr

/-- A camera access unit as its bitstream spells it (R176 to R192): bytes; a reference picture; random-access point: 0
none, 1 IDR, 2 CRA or BLA, 3 recovery point SEI with recovery_frame_cnt `frames`; a RASL picture; its SPS is present and
supported, and its profile, level and cropped size; it changes an active parameter set elsewhere than at a random-access
point; a picture it refers to is missing; the stream keeps it for reference, and how many earlier ones; its slices. -/
structure CamAu where
  bytes   : Nat
  ref     : Bool
  rap     : Nat
  frames  : Nat
  rasl    : Bool
  supp    : Bool
  profile : Nat
  level   : Nat
  w       : Nat
  h       : Nat
  badSet  : Bool
  noRef   : Bool
  keep    : Nat
  slices  : List CamSlice
deriving DecidableEq, Repr

/-- A camera RTP packet after its flow match (R178, R179): as VideoPkt; its payload structure is one of the subset; the
access unit that it ends by its marker bit, or by its later timestamp (the one before it). -/
structure CamPkt where
  path   : Nat
  seq    : Nat
  ts     : Nat
  pt     : Nat
  marker : Bool
  known  : Bool
  before : Option CamAu
  ends   : Option CamAu
deriving DecidableEq, Repr

/-- What an engine's front end reports of a row (R287 to R289, R294): scroll candidates that won a quadrant, verified hash
matches, hash hits that failed, candidate and quadrant pairs removed; sectors read from references and the sectors of the
same units uncompressed. -/
structure Search where
  hint    : Nat
  hash    : Nat
  hfalse  : Nat
  drop    : Nat
  sectors : Nat
  full    : Nat
deriving DecidableEq, Repr
/-- What an audit finds at a crossing (R45, R484): the crossing, whether it is the direction from the fabric, and the credits
that the sender holds, that the receiver holds and that are in transit. -/
structure Snap where
  x       : Nat
  out     : Bool
  free    : Nat
  held    : Nat
  transit : Nat
deriving DecidableEq, Repr


/-- One slot or subframe of an audio port frame (R377, R383): its 24 bits, failed AES3 parity, V and C bit. -/
structure AudSlot where
  smp : Nat
  bad : Bool
  v   : Bool
  c   : Bool
deriving DecidableEq, Repr

/-- A frame of an audio port: its slots, whether it began with a Z preamble, and the error of its stamp in ns, within ±10
(R389). -/
structure AudFrame where
  slots : List AudSlot
  z     : Bool
  jit   : Int
deriving DecidableEq, Repr

/-- An ST 2110-30 packet (R167): path (0 A, 1 B), RTP sequence number extended, RTP timestamp, and the samples of each
sample frame by channel. -/
structure AudPkt where
  path   : Nat
  seq    : Nat
  ts     : Nat
  frames : List (List Nat)
deriving DecidableEq, Repr

/-- The egress store of one context as a SAFE section gives it (R356, R362): sizes of the safe picture's units before row 0, of
each safe row and of each skip row, the rows whose safe row has an uncorrectable error, and the header template's size (R345). -/
structure Store where
  pre  : Nat := 0
  safe : List Nat := []
  skip : List Nat := []
  bad  : List Nat := []
  tmpl : Nat := 0
deriving DecidableEq, Repr

/-- What a section of an Ecotte image holds (R525 to R527, section types): REGS records; SELTYPE words; microcode version and
CRC; coefficient sets (set, tap code, CMP_COEF_DATA words); table slots (slot, type, points); safe pictures by context, from
the section's instance on; `rest` stands for the bytes of a section whose layout the manual does not give. -/
inductive Body where
  | regs (l : List (Nat × BitVec 32))
  | seltype (l : List (BitVec 32))
  | ucode (version crc rest : Nat)
  | dramfw (rest : Nat)
  | bands (rest : Nat)
  | coef (l : List (Nat × Nat × List (BitVec 32)))
  | lut (l : List (Nat × Nat × List Nat))
  | safe (l : List Store) (rest : Nat)
  | note (rest : Nat)
  | unlisted (rest : Nat)
deriving DecidableEq, Repr

/-- An entry of an image's section table with its section: type code, instance, offset, length, flags; its reserved bytes are 0;
its stored CRC-32C matches its bytes. -/
structure Sect where
  typ  : Nat
  inst : Nat
  off  : Nat
  len  : Nat
  flags : Nat
  clear : Bool
  crc  : Bool
  body : Body
deriving DecidableEq, Repr

/-- An Ecotte image in a slot (R525, R528): its magic and version are those of the header table; generation, length, offset of
its check block, ordering codes, lowest ROM version, build identity; its reserved fields are 0; the stored header and image
checks match; `pad` stands for the bytes between its parts. -/
structure Img where
  magic : Bool
  gen   : Nat
  len   : Nat
  cbOff : Nat
  codes : Nat
  romMin : Nat
  build : Nat
  clear : Bool
  hdrCrc : Bool
  imgCrc : Bool
  sects : List Sect
  pad   : Nat
deriving DecidableEq, Repr

/-- A check-value descriptor (R514): its fields, its reserved bits zero or not. -/
structure Desc where
  src   : Nat
  len   : Nat
  space : Nat
  init  : Bool
  fin   : Bool
  cmp   : Bool
  dual  : Bool
  clear : Bool
  aux   : Nat
  next  : Nat
deriving DecidableEq, Repr

/-- What is in work in the instance that a block reset, a halt or a loss of clock cuts short: samples received of each audio
port's frame in progress, and of a check-value unit the descriptor with the bytes of its ranges that are processed. -/
structure Cut where
  got   : List Nat
  desc  : Option Desc
  bytes : List (BitVec 8)
  second : List (BitVec 8)
deriving DecidableEq, Repr

/-- The commands of the KZE-9256 (spec/opcode_table.json). -/
inductive Instr where
  /-- POWER_ON (R551): Power-on applies module reset, restarts sequence numbers and puts the module in HOLD. -/
  | powerOn
  /-- MOD_ENABLE_LOW (R584): MOD_ENABLE falls low and forces HOLD with cause ENABLE, ending every channel at once. -/
  | modEnableLow
  /-- HOLD_EXIT (R595): Supply good and MOD_ENABLE have been high for 1 ms, so the module samples SLOT_ID and enters LOAD. -/
  | holdExit (slot : Nat)
  /-- SUPPLY_GOOD_LOSS (R591): An undervoltage, overvoltage or rail fault deasserts supply good and forces HOLD, recorded in SYS_PWR_STAT. -/
  | supplyGoodLoss (cause : Nat)
  /-- JUNCTION_SENSOR_READ (R599): The 1 ms read of the eight junction sensors updates TJ and evaluates the warning and the trip. -/
  | junctionSensorRead (temps : List Int)
  /-- REMOVE_REQUEST (R551): REMOVE_REQ_N has been low for 1 ms, so DRAIN is requested. -/
  | removeRequest
  /-- PORT_RESET (R567): A hot reset, link-down or FLR of host port h clears that port's queue, taps, retrieval, interrupts and pending writes. -/
  | portReset (h : Nat) (byHost : Bool) (down : Bool)
  /-- HOST_LINK_STATE_CHANGE (R487): A host port's PCIe link changes state, raising HST_LINK when it leaves L0 without the host initiating it. -/
  | hostLinkStateChange (h : Nat) (lstate : Nat) (speed : Nat) (width : Nat) (bme : Bool) (byHost : Bool)
  /-- HOST_WRITE_POSTED (R568): A posted host write arrives at its port queue, and credits are withheld while 64 writes wait. -/
  | hostWritePosted (h : Nat) (a : Nat) (v : Word)
  /-- HOST_REGISTER_WRITE (R568): The register arbiter takes, numbers, applies and journals a host write to a register that has no row of its own. -/
  | hostRegisterWrite (h : Nat) (a : Nat) (v : Word)
  /-- ACCESS_ERROR (R6): An access that is not an aligned 32-bit word completes without effect and counts in ACCERR. -/
  | accessError (h : Nat) (rd : Bool)
  /-- READ_AND_CLEAR (R10): A read of an rsc field returns the field and clears it, and occurrences in the same cycle count towards the next read. -/
  | readAndClear (h : Nat) (a : Nat)
  /-- LATCHING_READ (R12): A read of a low word or first word latches the companion words for a consistent value. -/
  | latchingRead (h : Nat) (a : Nat)
  /-- CHN_START (R96): A CHN_CTL.START write requests admission of an IDLE channel at its next capture frame start. -/
  | chnStart (h : Nat) (n : Nat) (v : Word)
  /-- CHN_RELEASE (R96): A CHN_CTL.RELEASE write cancels a pending start, or releases the channel at its next boundary or audit point. -/
  | chnRelease (h : Nat) (n : Nat) (v : Word)
  /-- CHN_COMMIT (R88): A CHN_COMMIT.COMMIT write requests admission of the shadow configuration at the next capture frame start. -/
  | chnCommit (h : Nat) (n : Nat)
  /-- CHN_GROUP_COMMIT (R71): A commit with GROUP = 1 requests that all members of the alignment group be admitted together or refused together. -/
  | chnGroupCommit (h : Nat) (n : Nat)
  /-- LAYER_COMMIT (R199): A CMP_LYR_COMMIT.COMMIT write requests a commit of one layer at its channel's next frame start. -/
  | layerCommit (h : Nat) (c : Nat) (i : Nat) (v : Word)
  /-- SET_COMMIT (R200): A CMP_CHL_COMMIT.SET write requests the pending layers and channel output fields of one channel as one unit. -/
  | setCommit (h : Nat) (n : Nat) (v : Word)
  /-- COEF_SELECT (R237): A CMP_COEF_SEL write chooses a set and tap count and empties the staging buffer. -/
  | coefSelect (h : Nat) (c : Nat) (v : Word)
  /-- COEF_DATA_WRITE (R237): A CMP_COEF_DATA write appends two taps to the staging buffer. -/
  | coefDataWrite (h : Nat) (c : Nat) (v : Word)
  /-- COEF_LOAD (R237): A CMP_COEF_LOAD.LOAD write requests the check and copy of the staging buffer at the next tick. -/
  | coefLoad (h : Nat) (c : Nat) (v : Word)
  /-- COEF_LOAD_CHECK (R238): At the next 1 µs tick the staged coefficients are checked for FIXED, BUSY, COUNT and SUM, then copied or refused. -/
  | coefLoadCheck (c : Nat)
  /-- LUT_SELECT (R239): A CMP_LUT_SEL write chooses a slot and type and empties the staging buffer. -/
  | lutSelect (h : Nat) (c : Nat) (v : Word)
  /-- LUT_DATA_WRITE (R239): A CMP_LUT_DATA write appends one point to the staging buffer. -/
  | lutDataWrite (h : Nat) (c : Nat) (v : Word)
  /-- LUT_LOAD (R239): A CMP_LUT_LOAD.LOAD write requests the check and copy of the staged table. -/
  | lutLoad (h : Nat) (c : Nat) (v : Word)
  /-- LUT_LOAD_CHECK (R238): At the next tick the staged table is checked for BUSY, COUNT and RANGE, then loaded or refused. -/
  | lutLoadCheck (c : Nat)
  /-- SOURCE_ENABLE (R609): A write of ING_SRC_CFG.EN = 1 reads 1 until the enable check at the next tick. -/
  | sourceEnable (h : Nat) (i : Nat) (v : Word)
  /-- SOURCE_ENABLE_CHECK (R145): At the next tick a source enable is checked in refusal order, and the source then reserves buffers and enters WAIT or is refused. -/
  | sourceEnableCheck (i : Nat)
  /-- SOURCE_DISABLE (R152): A write of EN = 0 closes the open frame and takes the source to IDLE. -/
  | sourceDisable (h : Nat) (i : Nat) (v : Word)
  /-- AUDIO_FLOW_ENABLE (R167): A write of ING_AFL_CFG.EN enables or disables a network audio flow with its flow entries. -/
  | audioFlowEnable (h : Nat) (f : Nat) (v : Word)
  /-- AUD_PORT_ENABLE (R380): A write of AUD_PORT_CFG.EN = 1 starts the port into CLK_WAIT. -/
  | audPortEnable (h : Nat) (a : Nat) (v : Word)
  /-- AUD_PORT_DISABLE (R380): A write of EN = 0 disables data at the next frame boundary and starts STOPPING. -/
  | audPortDisable (h : Nat) (a : Nat) (v : Word)
  /-- AUD_INPUT_ENABLE (R387): A write of AUD_IN_CFG.EN = 1 is checked for MASK, RANGE and OVERLAP and either enables the input or is refused. -/
  | audInputEnable (h : Nat) (i : Nat) (v : Word)
  /-- AUD_INPUT_DISABLE (R380): A write of AUD_IN_CFG.EN = 0 disables data at the next frame boundary. -/
  | audInputDisable (h : Nat) (i : Nat) (v : Word)
  /-- LANE_ENABLE (R609): A write of LNK_CFG.EN = 1 reads 1 until the enable check at the next tick. -/
  | laneEnable (h : Nat) (l : Nat) (v : Word)
  /-- LANE_ENABLE_CHECK (R433): At the next tick a lane enable or disable is checked for FAMILY, BOND and IN_USE, and the lane then starts, stops or is refused. -/
  | laneEnableCheck (l : Nat)
  /-- LANE_DISABLE (R433): A write of EN = 0 requests that the lane go OFF, subject to the IN_USE check. -/
  | laneDisable (h : Nat) (l : Nat) (v : Word)
  /-- LANE_TEST_ENABLE (R447): A write of LNK_TEST.EN = 1 requests TEST, accepted at the next tick in LOOPBACK or on an unbound lane. -/
  | laneTestEnable (h : Nat) (l : Nat) (v : Word)
  /-- LANE_TEST_ACCEPT (R447): At the next tick an accepted test enable takes the lane, or its bonded port, into TEST. -/
  | laneTestAccept (l : Nat)
  /-- LANE_TEST_DISABLE (R449): A write of LNK_TEST.EN = 0 returns the lane to TRAIN or LOCKING as from OFF. -/
  | laneTestDisable (h : Nat) (l : Nat) (v : Word)
  /-- PRBS_INJECT_SINGLE (R448): An LNK_INJ.SINGLE write inverts one generated test bit. -/
  | prbsInjectSingle (h : Nat) (l : Nat) (v : Word)
  /-- PRBS_INJECT_BURST (R448): An LNK_INJ.BURST write inverts BLEN consecutive generated bits. -/
  | prbsInjectBurst (h : Nat) (l : Nat) (v : Word)
  /-- TIM_FORCE (R126): A TIM_CTL.FORCE write switches to the other domain when it is QUALIFIED, and otherwise counts FORCE_NQ. -/
  | timForce (h : Nat) (v : Word)
  /-- PTP_DOMAIN_ENABLE (R124): A write of TIM_DOM_CFG.EN = 1 takes a domain from DISABLED to LISTENING. -/
  | ptpDomainEnable (h : Nat) (d : Nat) (v : Word)
  /-- PTP_DOMAIN_DISABLE (R124): A write of EN = 0 takes a domain to DISABLED. -/
  | ptpDomainDisable (h : Nat) (d : Nat) (v : Word)
  /-- EGR_COMMIT (R355): An EGR_CH_COMMIT.COMMIT write requests an egress commit, taking effect at the next audit point for a running channel. -/
  | egrCommit (h : Nat) (n : Nat) (v : Word)
  /-- EGR_COMMIT_CHECK (R360): At the next tick the egress commit of an IDLE channel is checked for lane, store and cap limits, then admitted or refused. -/
  | egrCommitCheck (n : Nat)
  /-- RPL_REQUEST_START (R371): An RPL_RQ_CFG.START write starts a replay retrieval request into SEARCH. -/
  | rplRequestStart (h : Nat) (p : Nat) (v : Word)
  /-- RPL_REQUEST_ABORT (R374): An RPL_RQ_CFG.ABORT write ends the request, releases its holds and sets DONE. -/
  | rplRequestAbort (h : Nat) (p : Nat) (v : Word)
  /-- SEL_CLEAR_FIRST (R496): An SEL_CLR.FIRST write empties the first-cause capture slot. -/
  | selClearFirst (h : Nat) (v : Word)
  /-- SEL_CLEAR_SECOND (R496): An SEL_CLR.SECOND write empties the secondary capture slot. -/
  | selClearSecond (h : Nat) (v : Word)
  /-- SEL_CLEAR_RECOV (R504): An SEL_CLR.RECOV write sets SINCE to 0, clears HELD and starts the quiet period. -/
  | selClearRecov (h : Nat) (v : Word)
  /-- SEL_FORCE (R510): An SEL_FORCE bit write schedules one forced occurrence of a listed source at the next always-on cycle. -/
  | selForce (h : Nat) (w : Nat) (v : Word)
  /-- SEL_TYPE_CFG_WRITE (R511): A write to SEL_TYPE_CFG changes T, W or REACT, except where the type is fixed or the value is out of range. -/
  | selTypeCfgWrite (h : Nat) (t : Nat) (v : Word)
  /-- CKV_GO (R519): A CKV_CTL.GO write starts a descriptor chain from CKV_HEAD when the unit is not BUSY. -/
  | ckvGo (h : Nat) (u : Nat) (v : Word)
  /-- CKV_ABORT (R519): A CKV_CTL.ABORT write halts a BUSY chain at the next byte boundary with cause ABORT. -/
  | ckvAbort (h : Nat) (u : Nat) (v : Word) (cut : Cut)
  /-- NVM_UPDATE_GO (R545): An NVM_UPD_CTL.GO write checks an image update request and starts writing the slot. -/
  | nvmUpdateGo (h : Nat) (v : Word)
  /-- NVM_UPDATE_ABORT (R546): An NVM_UPD_CTL.ABORT write ends the update with result ABORT. -/
  | nvmUpdateAbort (h : Nat) (v : Word)
  /-- NVM_READOUT_GO (R547): An NVM_RD_CTL.GO write starts a readout of non-volatile memory into host memory. -/
  | nvmReadoutGo (h : Nat) (v : Word)
  /-- NVM_READOUT_ABORT (R547): An NVM_RD_CTL.ABORT write ends the readout with result ABORT. -/
  | nvmReadoutAbort (h : Nat) (v : Word)
  /-- MODE_REQUEST_HOLD (R553): A keyed SYS_REQ write requests HOLD. -/
  | modeRequestHold (h : Nat) (v : Word)
  /-- MODE_REQUEST_RUN (R553): A keyed SYS_REQ write requests RUN, which leaves LOOPBACK. -/
  | modeRequestRun (h : Nat) (v : Word)
  /-- MODE_REQUEST_SAFE (R553): A keyed SYS_REQ write requests SAFE. -/
  | modeRequestSafe (h : Nat) (v : Word)
  /-- MODE_REQUEST_DRAIN (R553): A keyed SYS_REQ write requests DRAIN. -/
  | modeRequestDrain (h : Nat) (v : Word)
  /-- MODE_REQUEST_LOOPBACK (R553): A keyed SYS_REQ write requests LOOPBACK, which is refused while any channel runs or is STARTING. -/
  | modeRequestLoopback (h : Nat) (v : Word)
  /-- MODE_REQUEST_SELFTEST (R553): A keyed SYS_REQ write requests SELFTEST, which is refused while any channel runs or is STARTING. -/
  | modeRequestSelftest (h : Nat) (v : Word)
  /-- MODE_REQUEST_SERVICE (R553): A keyed SYS_REQ write requests SERVICE, which stays pending when written during LOAD. -/
  | modeRequestService (h : Nat) (v : Word)
  /-- MODE_REQUEST_INVALID (R553): A SYS_REQ write with a wrong key or an unrequestable code is refused with KEY or CODE. -/
  | modeRequestInvalid (h : Nat) (v : Word)
  /-- REF_RESTORE (R474): A CLK_CTL.REF_RESTORE write returns every PLL except the memory PLLs to the cleaner one at a time, when the cleaner has been good for 10 s. -/
  | refRestore (h : Nat) (v : Word) (cut : Cut)
  /-- PLL_TARGET_WRITE (R480): A CLK_PLL_TGT write to a core PLL requests a new frequency, checked at the next tick. -/
  | pllTargetWrite (h : Nat) (p : Nat) (v : Word)
  /-- PLL_TARGET_CHECK (R480): At the next tick a core target is checked against R76, R77 and R78, then ramped, relocked or refused. -/
  | pllTargetCheck (p : Nat) (inBand : Bool)
  /-- DRAM_RETRAIN_REQUEST (R469): A DRC_CTL.RETRAIN write starts a retraining of an ACTIVE channel. -/
  | dramRetrainRequest (h : Nat) (d : Nat) (v : Word)
  /-- DRAM_INJECT_SINGLE (R509): A DRC_INJ.SINGLE write corrupts one lane group's check bits on the next write. -/
  | dramInjectSingle (h : Nat) (d : Nat) (v : Word)
  /-- DRAM_INJECT_DOUBLE (R509): A DRC_INJ.DOUBLE write corrupts two lane groups' check bits on the next write. -/
  | dramInjectDouble (h : Nat) (d : Nat) (v : Word)
  /-- ENGINE_CONDEMN_CMD (R614): An ENC_RED_CMD.CONDEMN write condemns the engine with cause HOST, or records it as condemned for ARM when written in CALIBRATE. -/
  | engineCondemnCmd (h : Nat) (e : Nat) (v : Word)
  /-- ENGINE_RETEST_CMD (R411): An ENC_RED_CMD.RETEST write sends a CONDEMNED engine to TESTING. -/
  | engineRetestCmd (h : Nat) (e : Nat) (v : Word)
  /-- ENGINE_INJECT_RESIDUE (R509): An ENC_INJ.RESIDUE write feeds inverted check bits to a residue checker in the next back end. -/
  | engineInjectResidue (h : Nat) (e : Nat) (v : Word)
  /-- ENGINE_INJECT_PARITY (R509): An ENC_INJ.PARITY write inverts the parity of the next store read. -/
  | engineInjectParity (h : Nat) (e : Nat) (v : Word)
  /-- ENGINE_INJECT_SIG (R509): An ENC_INJ.SIG write inverts bit 0 of the next row signature without a flag. -/
  | engineInjectSig (h : Nat) (e : Nat) (v : Word)
  /-- DUPLEX_SWAP (R409): A CHN_DUP_CMD.SWAP write requests an exchange of lead and standby at the next frame start when the pair is IN_STEP. -/
  | duplexSwap (h : Nat) (n : Nat) (v : Word)
  /-- BOB_HISTOGRAM_CLEAR (R430): A BOB_EX_HCLR.CLR write sets the list's 16 wait histogram bins to 0. -/
  | bobHistogramClear (h : Nat) (x : Nat) (v : Word)
  /-- EVENT_QUEUE_ENABLE (R575): A write of HST_EQ_CFG.EN = 1 sets the head to the tail and starts the queue. -/
  | eventQueueEnable (h : Nat) (p : Nat) (v : Word)
  /-- TAP_ENABLE (R578): A write of HST_TAP_CFG.EN = 1 sets the tap head to the tail and starts copying. -/
  | tapEnable (h : Nat) (p : Nat) (k : Nat) (v : Word)
  /-- RETRIEVAL_RING_ENABLE (R579): A write of HST_RD_CFG.EN switches the port's retrieval ring on or off. -/
  | retrievalRingEnable (h : Nat) (p : Nat) (v : Word)
  /-- CAPTURE_FRAME_START (R97): Stitch 0 of a channel's capture frame starts the frame, computes the next start and creates its COMPOSE_ROW tasks. -/
  | captureFrameStart (n : Nat)
  /-- ROW_DEADLINE (R105): At d_j the compositor reads the source rows covering output row j. -/
  | rowDeadline (n : Nat) (k : Nat) (j : Nat)
  /-- RELEASE_DECISION (R343): At the decision instant egress chooses a coded row, skip row or safe row for row j. -/
  | releaseDecision (m : Nat) (k : Nat) (j : Nat)
  /-- ROW_RELEASE (R29): Row j is released at e_j and its tile entries are written to the sampler. -/
  | rowRelease (m : Nat) (k : Nat) (j : Nat) (dev : Nat)
  /-- PACKET_DEPARTURE (R348): A scheduled packet of a row starts on its lane under the lead-window arbitration. -/
  | packetDeparture (n : Nat) (x : Nat)
  /-- AUDIT_POINT (R18): The end of an egress slot audits the channel's promises and updates its counter set. -/
  | auditPoint (n : Nat) (units : Nat) (l : List Snap)
  /-- IDLE_AUDIT_TICK (R42): With no channel running outside HOLD, every pool is audited every 1 ms. -/
  | idleAuditTick (l : List Snap)
  /-- ST2110_PACKET_RECEIVED (R158): An ST 2110-20 packet passes flow match and merge and writes samples into the filling buffer. -/
  | st2110PacketReceived (i : Nat) (p : VideoPkt)
  /-- MORVOLOS_PACKET_RECEIVED (R163): A Morvolos-link packet is checked and accepted or discarded, and its credit is returned. -/
  | morvolosPacketReceived (i : Nat) (p : MvPkt)
  /-- CAMERA_PACKET_RECEIVED (R178): An H.264 or H.265 RTP packet of a camera source is depacketised into NAL units. -/
  | cameraPacketReceived (i : Nat) (p : CamPkt)
  /-- AUDIO_FLOW_PACKET_RECEIVED (R168): An ST 2110-30 packet accepted by the merge delivers received samples to its audio input. -/
  | audioFlowPacketReceived (f : Nat) (p : AudPkt)
  /-- PATH_LOSS_TIMEOUT (R160): A path is down after LOSS_MS without packets, and the source enters LOST when every feeding path is down. -/
  | pathLossTimeout (i : Nat) (x : Nat)
  /-- CARRY_FORWARD_COMPLETE (R153): A DRAM helper copy of a carried row's newest version into the closed buffer completes. -/
  | carryForwardComplete (e : Nat)
  /-- DECODE_SLICE_COMPLETE (R183): A DECODE_SLICE task completes and writes its decoded rows into the filling picture. -/
  | decodeSliceComplete (e : Nat) (result : Nat)
  /-- BOB_TICK (R421): At each 1 µs tick BOB moves tasks whose ready tick or condition has come to the ready lists. -/
  | bobTick
  /-- TASK_DISPATCH (R422): A free executor is handed the first task by level, ready tick, due time and context. -/
  | taskDispatch (e : Nat) (pre : Nat)
  /-- TASK_EXPIRY (R424): A COMPOSE_ROW, ENCODE_ROW or PACK_ROW task whose expiry has come is cancelled with cause EXPIRED. -/
  | taskExpiry
  /-- INGEST_ROW_COMPLETE (R418): An INGEST_ROW task completes the row's change bits and scroll hints. -/
  | ingestRowComplete (e : Nat) (mask : Nat) (hints : List (Nat × Int × Int × Nat))
  /-- COMPOSE_ROW_COMPLETE (R227): A compositor completes a composed row and the row's ENCODE_ROW tasks are created. -/
  | composeRowComplete (c : Nat)
  /-- FRONT_END_COMPLETE (R250): An engine's front end finishes a row's mode decisions, and the back end may start. -/
  | frontEndComplete (m : Nat) (k : Nat) (j : Nat) (w : Nat) (x : Search)
  /-- BACK_END_COMPLETE (R323): A row leaves FC, so the cap check, ceiling check, charge, memory update, QP law and unpick test run. -/
  | backEndComplete (m : Nat) (k : Nat) (j : Nat) (w : Nat) (size : Nat) (sig : Nat)
  /-- PACK_ROW_COMPLETE (R418): An egress packer completes a packed row into the pacing buffer. -/
  | packRowComplete (p : Nat)
  /-- REFERENCE_REPAIR_COMPLETE (R253): A DRAM helper copy makes a replaced row's reference match what the decoder holds, so the row is final. -/
  | referenceRepairComplete (e : Nat)
  /-- CHECKER_FIRING (R400): A residue or parity checker of an engine fires and flags the rows in flight. -/
  | checkerFiring (e : Nat) (parity : Bool)
  /-- TASK_TIME_LIMIT (R412): A dispatched task that exceeds TASK_LIMIT raises ENG_HANG and condemns the engine. -/
  | taskTimeLimit (e : Nat)
  /-- SELFTEST_INTERVAL_START (R415): At the start of each ST_INTERVAL BOB creates the 32 slices of an ACTIVE engine's pass. -/
  | selftestIntervalStart (e : Nat)
  /-- SELFTEST_OVERDUE (R415): 100 ms before the interval ends an unfinished pass's slices are raised to SUSP_PRIO. -/
  | selftestOverdue (e : Nat)
  /-- SELFTEST_SLICE_COMPLETE (R413): A test slice completes and its signature is compared with the known value. -/
  | selftestSliceComplete (e : Nat) (clean : Bool)
  /-- LANE_FRAME_RECEIVED (R443): An Ethernet frame passes or fails the receive acceptance checks in order. -/
  | laneFrameReceived (l : Nat) (f : Frame)
  /-- IGMP_REPORT_TIMER (R338): A scheduled IGMPv3 report, query response or repeat of a state change is sent. -/
  | igmpReportTimer (i : Nat)
  /-- LANE_BLOCK_LOCK (R437): 64 valid sync headers declare block lock, and the lane enters UP when every condition holds. -/
  | laneBlockLock (l : Nat) (fec : Bool)
  /-- LANE_LOCK_LOSS (R437): Loss of block lock, hi_ber, FEC lock or alignment takes the lane to LOCKING and raises LNK_DOWN. -/
  | laneLockLoss (l : Nat) (align : Bool) (bad : Nat)
  /-- REMOTE_FAULT_RECEIVED (R435): A remote fault sequence takes an UP lane to LOCKING. -/
  | remoteFaultReceived (l : Nat)
  /-- LOCK_TIME_EXPIRY (R440): A training lane not UP within LOCK_MS returns to TRAIN. -/
  | lockTimeExpiry (l : Nat)
  /-- TRAINING_COMPLETE (R440): Both sides report receiver ready, so the lane leaves TRAIN for LOCKING. -/
  | trainingComplete (l : Nat) (pre : Nat) (main : Nat) (post : Nat) (inv : Bool)
  /-- TRAINING_TIMEOUT (R441): max_wait_timer expires, the attempt fails as NO_PARTNER or NO_SETTING and back-off begins. -/
  | trainingTimeout (l : Nat) (frames : Bool)
  /-- BACKOFF_EXPIRY (R441): The back-off time elapses and the lane trains again. -/
  | backoffExpiry (l : Nat)
  /-- UP_STABLE_RESET (R441): A lane UP for 10 s resets its failed-attempt count. -/
  | upStableReset (l : Nat)
  /-- BOND_ALIGNMENT (R439): A bonded port finds and reorders its logical lanes and declares alignment. -/
  | bondAlignment (q : Nat) (map : Nat) (skew : Nat)
  /-- FEC_UNCORRECTABLE (R438): An uncorrectable codeword counts and raises LNK_FEC. -/
  | fecUncorrectable (l : Nat) (corrected : Nat)
  /-- MORVOLOS_ALIGNMENT (R445): Three K28.5 characters align a Morvolos lane, which sends its initial CREDIT. -/
  | morvolosAlignment (l : Nat)
  /-- MORVOLOS_ALIGN_LOSS (R445): Invalid code groups or missing commas lose alignment and drop the credit state. -/
  | morvolosAlignLoss (l : Nat) (bad : Nat)
  /-- MORVOLOS_POLARITY_FLIP (R446): Eight unexpected-disparity commas invert the receiver and restart the alignment hunt. -/
  | morvolosPolarityFlip (l : Nat)
  /-- PRBS_CHECKER_LOCK (R448): 256 error-free bits lock the pattern checker. -/
  | prbsCheckerLock (l : Nat)
  /-- PRBS_CHECKER_LOSS (R448): 128 errors within 1,024 bits lose lock, set LOSS and reseed. -/
  | prbsCheckerLoss (l : Nat) (errs : Nat) (bits : Nat)
  /-- REFRESH_DUE (R457): A refresh falls due on the tREFI grid and is postponed or issued. -/
  | refreshDue (d : Nat) (u : Nat) (busy : Bool)
  /-- DRAM_TEMP_READ (R458): The 1 ms device temperature read sets the refresh rate and the hot state. -/
  | dramTempRead (d : Nat) (temps : List Int)
  /-- NEIGHBOUR_REFRESH (R461): A randomly scheduled neighbour refresh of rows around an activated row runs. -/
  | neighbourRefresh (d : Nat)
  /-- AGE_PROMOTION (R454): A request that has waited past its class age limit is promoted to LIVE. -/
  | agePromotion (d : Nat) (cls : Nat) (waited : Nat)
  /-- DRAM_READ_COMPLETE (R463): A DRAM read completes, corrected or poisoned, and the reader acts on the result. -/
  | dramReadComplete (a : Access) (r : Reader)
  /-- SCRUB_READ (R465): The patrol scrub reads the next block and writes back a corrected one. -/
  | scrubRead (d : Nat) (result : Nat) (lane : Nat) (bank : Nat) (row : Nat) (cancelled : Bool)
  /-- DQS_TRACKING (R469): Every 100 ms write timing is corrected from the DQS oscillator, starting a retrain beyond range. -/
  | dqsTracking (d : Nat) (beyond : Bool)
  /-- DRAM_RETRAIN_COMPLETE (R469): A retraining ends, passing or failing the channel. -/
  | dramRetrainComplete (d : Nat) (rd : Nat) (wr : Nat) (vrd : Nat) (vwr : Nat) (clean : Bool)
  /-- DRAM_TRAINING_COMPLETE (R467): A channel's CALIBRATE training ends ACTIVE or FAILED. -/
  | dramTrainingComplete (d : Nat) (rd : Nat) (wr : Nat) (vrd : Nat) (vwr : Nat) (clean : Bool)
  /-- DRAM_TRAINING_TIMEOUT (R467): A channel not trained within 200 ms of its PLL lock fails. -/
  | dramTrainingTimeout (d : Nat)
  /-- PLL_LOCK_DECLARED (R475): A PLL's phase error stays inside the window for LOCK_N cycles, so the output leaves bypass. -/
  | pllLockDeclared (p : Nat) (band : Nat) (cut : Cut)
  /-- PLL_LOCK_LOSS (R475): A PLL loses lock, its output goes to bypass and it reacquires. -/
  | pllLockLoss (p : Nat) (cut : Cut)
  /-- PLL_BAND_SEARCH_STEP (R476): A 10 µs binary band search step completes. -/
  | pllBandSearchStep (p : Nat)
  /-- PLL_TABLE_BAND_TIMEOUT (R476): A table band without lock in 200 µs starts a search and sets TBL_MISS. -/
  | pllTableBandTimeout (p : Nat)
  /-- PLL_ACQUIRE_TIMEOUT (R476): No lock within 2 ms fails the attempt and starts RETRY. -/
  | pllAcquireTimeout (p : Nat)
  /-- PLL_RETRY_EXPIRY (R476): RETRY_MS elapses and the PLL acquires again. -/
  | pllRetryExpiry (p : Nat)
  /-- PLL_RAMP_COMPLETE (R480): A ramping core PLL reaches its new target and enters LOCKED. -/
  | pllRampComplete (p : Nat)
  /-- CLOCK_MONITOR_WINDOW (R481): A monitor window ends, and an overfrequency count forces bypass and raises CLK_OVER. -/
  | clockMonitorWindow (p : Nat) (khz : Nat) (cut : Cut)
  /-- CLEANER_LOSS (R474): 64 ns without cleaner edges moves every PLL to the bypass reference. -/
  | cleanerLoss (cut : Cut)
  /-- PTP_SYNC_RECEIVED (R123): A Sync updates the domain tracker or counts as an outlier. -/
  | ptpSyncReceived (d : Nat) (port : Nat) (t1 : Int) (corr : Int) (t2 : Nat) (logInt : Int)
  /-- PTP_ANNOUNCE_RECEIVED (R121): An Announce feeds the best-master comparison. -/
  | ptpAnnounceReceived (d : Nat) (a : Announce)
  /-- PTP_DELAY_RESP_RECEIVED (R123): A Delay_Resp updates the filtered mean path delay. -/
  | ptpDelayRespReceived (d : Nat) (t4 : Int) (corr : Int) (logInt : Int)
  /-- PTP_DELAY_REQ_SEND (R121): The Delay_Req interval elapses and a Delay_Req is sent. -/
  | ptpDelayReqSend (d : Nat)
  /-- PTP_QUALIFICATION_COMPLETE (R124): 10 s without a disqualifying event makes a domain QUALIFIED. -/
  | ptpQualificationComplete (d : Nat)
  /-- PTP_ANNOUNCE_TIMEOUT (R124): No Announce for 3 intervals returns the domain to LISTENING. -/
  | ptpAnnounceTimeout (d : Nat)
  /-- PTP_SYNC_TIMEOUT (R124): No accepted Sync for 3 intervals returns the domain to UNCALIBRATED. -/
  | ptpSyncTimeout (d : Nat)
  /-- ACQUISITION_STEP (R118): At the tick after the first qualification the LTC is stepped to the domain time. -/
  | acquisitionStep
  /-- SLEW_COMPLETE (R119): The remaining slew falls within ±10 ns and the time state becomes LOCKED. -/
  | slewComplete
  /-- REF_IN_QUALIFIED (R128): 10 s of stable REF_IN qualifies it. -/
  | refInQualified
  /-- REF_IN_STOP (R128): No REF_IN edge for 1 µs disqualifies it. -/
  | refInStop
  /-- REF_IN_RATE_GATE (R128): A 100 ms frequency gate counts REF_IN and disqualifies it after two bad gates. -/
  | refInRateGate (periods : Nat)
  /-- REF_IN_GLITCH (R128): A phase excursion inside the lock window is absorbed and counted. -/
  | refInGlitch
  /-- PPS_IN_EDGE (R131): A PPS_IN rising edge is stamped at the LTC. -/
  | ppsInEdge
  /-- PPS_OUT_SECOND (R132): PPS_OUT rises at a whole LTC second. -/
  | ppsOutSecond
  /-- ARM_WAIT_EXPIRY (R133): ARM_WAIT seconds in ARM set ARM_READY without time. -/
  | armWaitExpiry
  /-- HOLDOVER_LONG_EXPIRY (R139): HOLDOVER lasting 3,600 s raises HOLDOVER_LONG. -/
  | holdoverLongExpiry
  /-- SLEW_FAR_EXPIRY (R139): FAR set for 60 s raises SLEW_FAR. -/
  | slewFarExpiry
  /-- AUDIO_PORT_FRAME (R385): An audio port frame completes and its masked slots are compacted and stored. -/
  | audioPortFrame (a : Nat) (f : AudFrame)
  /-- PORT_PRIME_DONE (R380): 64 frames in PRIME enable data at a frame boundary. -/
  | portPrimeDone (a : Nat)
  /-- PORT_STOP_DONE (R380): 64 frames in STOPPING take the port to OFF. -/
  | portStopDone (a : Nat)
  /-- PORT_CLOCK_VALID (R379): A valid clock takes a port from CLK_WAIT to PRIME. -/
  | portClockValid (a : Nat)
  /-- PORT_CLOCK_LOSS (R379): No frame clock for 2 frame periods returns the port to CLK_WAIT, with a partial frame. -/
  | portClockLoss (a : Nat) (got : Nat)
  /-- PORT_RATE_GATE (R379): A 100 ms gate measures the port's rate, and two out-of-range gates return it to CLK_WAIT. -/
  | portRateGate (a : Nat) (ppm : Int) (got : Nat)
  /-- RING_QUOTA_RECOMPUTE (R367): At the tick after a change the ring quotas are recomputed. -/
  | ringQuotaRecompute
  /-- RETRIEVAL_SEARCH_DONE (R371): A retrieval request finds its records in the index and enters COPY or EMPTY. -/
  | retrievalSearchDone (h : Nat)
  /-- RETRIEVAL_SEGMENT_READ (R372): A held segment is checked against the index and its records are read, or it is skipped as a gap. -/
  | retrievalSegmentRead (h : Nat)
  /-- RETRIEVAL_RECORD_DELIVERY (R579): A record is delivered into the host retrieval ring once space exists. -/
  | retrievalRecordDelivery (h : Nat) (bad : Bool)
  /-- FAULT_OCCURRENCE (R489): A fault source occurrence reaches SEL, is counted and judged transient or lasting. -/
  | faultOccurrence (code : Nat) (cut : Cut)
  /-- SHADOW_CLOSE (R499): SHADOW_US after its end, a shadow closes. -/
  | shadowClose (opener : Nat) (inst : Nat)
  /-- REACTION_COMPLETE (R495): A block reset, capacity evaluation or SAFE entry ends handling and pending reactions start. -/
  | reactionComplete (code : Nat) (cut : Cut)
  /-- QUIET_PERIOD_EXPIRY (R503): The quiet period in SAFE completes and a standing RECOVER request is made. -/
  | quietPeriodExpiry
  /-- SEL_SELF_ERROR (R502): A parity or vote error in SEL requests SAFE and re-reads the type configuration. -/
  | selSelfError (k : Nat)
  /-- SELTYPE_REREAD_COMPLETE (R540): The AOC finishes re-reading SELTYPE, or applies defaults and sets SELTYPE_BAD. -/
  | seltypeRereadComplete (good : Bool)
  /-- EVENT_ARBITER_ARRIVAL (R608): An event reaches the arbiter input after synchronisation. -/
  | eventArbiterArrival (i : Nat)
  /-- EVENT_NUMBERING (R506): The arbiter numbers the next waiting event and writes the ring, journal buffer and host queues. -/
  | eventNumbering
  /-- MODE_EVALUATION (R549): Each 1 µs the controller takes or refuses pending mode requests in precedence order. -/
  | modeEvaluation (remove : Bool)
  /-- LOAD_COMPLETE (R532): The AOC finishes applying the selected image and LOAD ends in CALIBRATE or SERVICE. -/
  | loadComplete (fail : Option Nat) (ecc : Nat)
  /-- CALIBRATE_TIMEOUT (R535): CAL_MS after entry CALIBRATE ends and unlocked memory channels fail. -/
  | calibrateTimeout
  /-- SOURCE_WAIT_EXPIRY (R538): SRC_WAIT_S seconds in ARM stop the wait for sources. -/
  | sourceWaitExpiry
  /-- DEGRADED_HOLD_EXPIRY (R555): The full condition held for DEG_HOLD_S, so the module returns to RUN. -/
  | degradedHoldExpiry
  /-- RECOVER_REBUILD_COMPLETE (R558): Every non-shed context holds its safe reconstruction, so RECOVER ends in RUN or DEGRADED. -/
  | recoverRebuildComplete
  /-- RECOVER_TIMEOUT (R558): 250 ms after entry RECOVER ends and contexts without a safe reconstruction are shed. -/
  | recoverTimeout
  /-- DRAIN_CLOSE_TIMEOUT (R559): A channel still CLOSING 1,500 ms after DRAIN entry closes with its safe picture. -/
  | drainCloseTimeout
  /-- DRAIN_SUMMARY_WRITTEN (R559): The ring summary reaches the journal, DRAINED is set and the module passes to HOLD when REMOVE_REQ_N is high. -/
  | drainSummaryWritten (remove : Bool)
  /-- SELFTEST_COMPLETE (R561): The built-in test finishes and the module leaves SELFTEST for RUN or DEGRADED. -/
  | selftestComplete (cond : List Nat) (cmp : Nat) (ce : Nat) (ue : Nat)
  /-- JOURNAL_WRITE (R543): The journal writer drains a buffered record into NVM, verifies it and rewrites it on mismatch. -/
  | journalWrite (good : Bool)
  /-- NVM_UPDATE_WRITE_DONE (R545): An image update finishes writing its slot and starts verification. -/
  | nvmUpdateWriteDone (x : Option Img) (units : Nat)
  /-- NVM_UPDATE_VERIFY_DONE (R545): Read-back and R528 checks end the update with its result. -/
  | nvmUpdateVerifyDone (same : Bool)
  /-- NVM_READOUT_DONE (R547): A readout finishes or halts with its result. -/
  | nvmReadoutDone (good : Bool)
  /-- CKV_DESCRIPTOR_DONE (R514): A check-value unit finishes one descriptor, records its result and compares. -/
  | ckvDescriptorDone (u : Nat) (d : Desc) (bytes : List (BitVec 8)) (second : List (BitVec 8))
  /-- CKV_FETCH_ERROR (R518): A fetch error halts the chain with cause FETCH and raises CKV_DMA. -/
  | ckvFetchError (u : Nat) (cut : Cut)
  /-- EVENT_QUEUE_WRITE (R573): A numbered event of a selected kind is written to a host's event queue or dropped. -/
  | eventQueueWrite (h : Nat)
  /-- MSIX_MODERATION_EXPIRY (R576): The moderation interval passes and a pending MSI-X vector is sent. -/
  | msixModerationExpiry (h : Nat) (v : Nat)
  /-- LOST_HANDOVER (R304): A pool buffer that has stayed ISSUED or RETURN for more than 1 ms of system-counter time raises the pool's stuck fault source. -/
  | lostHandover (i : Nat) (returning : Bool)
  /-- CLEANER_RETURN (R474): The clock cleaner's output is present again, so CLEANER_OK is set and the 10 s that REF_RESTORE needs begins. -/
  | cleanerReturn
  /-- PPS_OUT_FALL (R132): PPS_OUT falls once it has been high for TIM_PPS.WIDTH ms. -/
  | ppsOutFall
  /-- REF_IN_RESUME (R128): The first REF_IN edge after a disqualification restarts the 10 s qualification count and moves RSTATE to QUALIFYING. -/
  | refInResume
  /-- REMOTE_FAULT_CLEAR (R435): No remote or local fault sequence has arrived for 1 µs on a locked Ethernet lane, so the lane enters UP again. -/
  | remoteFaultClear (l : Nat)
  /-- DRAM_WRITE_COMPLETE (R464): A DRAM write completes, or exhausts its write-CRC and CA-parity retries, which leaves the block unknown and raises DRC_LINK. -/
  | dramWriteComplete (a : Access)
  /-- SAFE_RECONSTRUCTION_DECODED (R277): The home engine finishes decoding the safe rows into the safe reconstruction buffer, which sets its S mark. -/
  | safeReconstructionDecoded (n : Nat)
  /-- RING_RECORD_COMPLETE (R364): The writer finishes copying a record from the pacing store into its ring segment and writes the record header last, which makes the record valid. -/
  | ringRecordComplete (n : Nat) (reused : Bool)
  /-- TAP_RECORD_COMPLETE (R577): A tap's DMA writes of a record into host memory complete, so HST_TAP_HEAD advances and the TAP interrupt cause is set. -/
  | tapRecordComplete (h : Nat) (k : Nat) (reused : Bool)
  /-- FAR_CLEAR (R120): As off slews, the remaining slew falls to 1,000,000 ns or less and TIM_STAT.FAR clears. -/
  | farClear
  /-- POWER_MONITOR_UPDATE (R602): Every 100 ms the always-on domain updates the power and temperature fields of SYS_PWR and SYS_THERM. -/
  | powerMonitorUpdate (vin : Nat) (watt : Nat) (inlet : Int) (outlet : Int)
deriving DecidableEq, Repr

end Sys2Proof
end

