-- ==== Sys2Proof/Decode.lean ====
section
/-!
DEFINITION. Sys2Proof/Decode.lean: commands spelt by words. spec/opcode_table.json gives no row any bits: the block has
no instruction encoding, and its commands arrive as events.
-/

namespace Sys2Proof

/-- The command that a word spells by the table's bits: no row of the table has bits, so none. -/
def decodeTableWord (_nbits _w : Nat) : Option Instr := none

end Sys2Proof
end

