-- ==== Sys2Proof/Config.lean ====
section
/-!
DEFINITION. Sys2Proof/Config.lean: what one part fixes (straps, ROM) and the free values: values the manual does not
fix. Each free value is an opaque constant without a body, so nothing can be proved of its value.
-/

namespace Sys2Proof.Config

/-- SYS_ID.CODE, strapped: 0 KZE-9256-2T, 1 -1T, 2 -512G (spec/23, SYS_ID). DESIGN CHOICE, notes/assumptions/1. -/
opaque orderingStrap : Nat

/-- SYS_ID.STEP, strapped: the device stepping (spec/23, SYS_ID). DESIGN CHOICE, notes/assumptions/1. -/
opaque stepStrap : Nat

/-- NVM_ID.ROM_VER: the AOC ROM version (spec/22, NVM_ID). DESIGN CHOICE, notes/assumptions/1. -/
opaque romVersion : Nat

/-- x_step_freq of R123, in ppb: from the accepted x, the predicted x and the ns since the last accepted Sync. The
manual names it and does not define it. DESIGN CHOICE, notes/assumptions/3. -/
opaque stepFreq : Int → Int → Nat → Int

/-- The q of R317 and the target t_j of row j where the row estimates sum to 0, from b_rows: a division by 0 that the
manual leaves open. DESIGN CHOICE, notes/assumptions/11. -/
opaque zeroQ : Int → Int
opaque zeroTarget : Int → Nat → Int

/-- The merge skew limit of an audio flow in µs: R167 merges flows under R158, whose limit is a register of sources only.
DESIGN CHOICE, notes/assumptions/17. -/
opaque flowSkewUs : Nat → Nat

/-- The n-th free natural number a step takes where the manual fixes no value; the counter stands in State.free.
DESIGN CHOICE, notes/assumptions/2. -/
opaque freeNat : Nat → Nat

end Sys2Proof.Config
end

