-- ==== Sys2Proof/Machine/Regs.lean ====
section
/-!
DEFINITION. Sys2Proof/Machine/Regs.lean: the BAR0 address of every register of the register index (R603) and the
place of every field of the field tables. `R.<register>` is the address, its arguments the instance numbers in
the order of the chapter's heading; `F.<register><field>` is the field. Offsets, strides and bit ranges are those
of the field tables of the chapter named before each block.
-/

namespace Sys2Proof.Machine

/-- One field of one register: the BAR0 address of the register, the lowest bit and the width (R7, R8). -/
structure Fld where
  addr  : Nat
  lo    : Nat
  width : Nat
deriving DecidableEq, Repr

/-! Block SYS, spec/10_motion_and_references.md -/

def R.sysPoolSize (i : Nat) : Nat := 0x00000400 + i * 0x20
def F.sysPoolSizePages (i : Nat) : Fld := ⟨R.sysPoolSize i, 0, 20⟩
def R.sysPoolFree (i : Nat) : Nat := 0x00000404 + i * 0x20
def F.sysPoolFreePages (i : Nat) : Fld := ⟨R.sysPoolFree i, 0, 20⟩
def R.sysPoolIng (i : Nat) : Nat := 0x00000408 + i * 0x20
def F.sysPoolIngPages (i : Nat) : Fld := ⟨R.sysPoolIng i, 0, 20⟩
def R.sysPoolRef (i : Nat) : Nat := 0x0000040C + i * 0x20
def F.sysPoolRefPages (i : Nat) : Fld := ⟨R.sysPoolRef i, 0, 20⟩
def R.sysPoolCmp (i : Nat) : Nat := 0x00000410 + i * 0x20
def F.sysPoolCmpPages (i : Nat) : Fld := ⟨R.sysPoolCmp i, 0, 20⟩
def R.sysPoolFlt (i : Nat) : Nat := 0x00000414 + i * 0x20
def F.sysPoolFltPages (i : Nat) : Fld := ⟨R.sysPoolFlt i, 0, 20⟩
def R.sysPoolAud (i : Nat) : Nat := 0x00000418 + i * 0x20
def F.sysPoolAudMismatch (i : Nat) : Fld := ⟨R.sysPoolAud i, 0, 1⟩
def F.sysPoolAudStuck (i : Nat) : Fld := ⟨R.sysPoolAud i, 1, 1⟩
def R.sysPoolMinfree (i : Nat) : Nat := 0x0000041C + i * 0x20
def F.sysPoolMinfreePages (i : Nat) : Fld := ⟨R.sysPoolMinfree i, 0, 20⟩

/-! Block SYS, spec/15_engine_redundancy.md -/

def R.sysRedCfg : Nat := 0x00000500
def F.sysRedCfgNspare : Fld := ⟨R.sysRedCfg, 0, 4⟩
def F.sysRedCfgSuspPrio : Fld := ⟨R.sysRedCfg, 4, 4⟩
def F.sysRedCfgRepairMax : Fld := ⟨R.sysRedCfg, 8, 4⟩
def F.sysRedCfgStInterval : Fld := ⟨R.sysRedCfg, 16, 16⟩
def R.sysRedCfg2 : Nat := 0x00000504
def F.sysRedCfg2RepairPasses : Fld := ⟨R.sysRedCfg2, 0, 8⟩
def F.sysRedCfg2TaskLimit : Fld := ⟨R.sysRedCfg2, 16, 16⟩
def R.sysRedStat : Nat := 0x00000508
def F.sysRedStatActive : Fld := ⟨R.sysRedStat, 0, 8⟩
def F.sysRedStatSpare : Fld := ⟨R.sysRedStat, 8, 8⟩
def F.sysRedStatDown : Fld := ⟨R.sysRedStat, 16, 8⟩
def F.sysRedStatSpareLow : Fld := ⟨R.sysRedStat, 24, 1⟩
def R.sysRedCond (i : Nat) : Nat := 0x00000510 + i * 0x4
def F.sysRedCondCond (i : Nat) : Fld := ⟨R.sysRedCond i, 0, 32⟩

/-! Block SYS, spec/23_modes.md -/

def R.sysId : Nat := 0x00000000
def F.sysIdPart : Fld := ⟨R.sysId, 0, 16⟩
def F.sysIdCode : Fld := ⟨R.sysId, 16, 2⟩
def F.sysIdStep : Fld := ⟨R.sysId, 24, 8⟩
def R.sysMode : Nat := 0x00000004
def F.sysModeMode : Fld := ⟨R.sysMode, 0, 4⟩
def F.sysModePrev : Fld := ⟨R.sysMode, 4, 4⟩
def F.sysModeCause : Fld := ⟨R.sysMode, 8, 3⟩
def R.sysModeSeqLo : Nat := 0x00000008
def F.sysModeSeqLoSeq : Fld := ⟨R.sysModeSeqLo, 0, 32⟩
def R.sysModeSeqHi : Nat := 0x0000000C
def F.sysModeSeqHiSeq : Fld := ⟨R.sysModeSeqHi, 0, 16⟩
def R.sysStat : Nat := 0x00000010
def F.sysStatSafeSet : Fld := ⟨R.sysStat, 0, 1⟩
def F.sysStatLiveSet : Fld := ⟨R.sysStat, 1, 1⟩
def F.sysStatFull : Fld := ⟨R.sysStat, 2, 1⟩
def F.sysStatDrained : Fld := ⟨R.sysStat, 3, 1⟩
def F.sysStatPreArmSafe : Fld := ⟨R.sysStat, 4, 1⟩
def F.sysStatDegLeft : Fld := ⟨R.sysStat, 8, 8⟩
def R.sysReq : Nat := 0x00000014
def F.sysReqReq : Fld := ⟨R.sysReq, 0, 4⟩
def F.sysReqKey : Fld := ⟨R.sysReq, 24, 8⟩
def R.sysReqStat : Nat := 0x00000018
def F.sysReqStatLast : Fld := ⟨R.sysReqStat, 0, 4⟩
def F.sysReqStatResult : Fld := ⟨R.sysReqStat, 4, 3⟩
def F.sysReqStatPending : Fld := ⟨R.sysReqStat, 7, 1⟩
def F.sysReqStatRefused : Fld := ⟨R.sysReqStat, 8, 1⟩
def R.sysCfg : Nat := 0x0000001C
def F.sysCfgDegHoldS : Fld := ⟨R.sysCfg, 0, 8⟩
def R.sysSelftest : Nat := 0x00000020
def F.sysSelftestEngCond : Fld := ⟨R.sysSelftest, 0, 8⟩
def F.sysSelftestCmpFail : Fld := ⟨R.sysSelftest, 8, 16⟩
def F.sysSelftestDone : Fld := ⟨R.sysSelftest, 24, 1⟩
def R.sysSelftestEcc : Nat := 0x00000024
def F.sysSelftestEccCe : Fld := ⟨R.sysSelftestEcc, 0, 16⟩
def F.sysSelftestEccUe : Fld := ⟨R.sysSelftestEcc, 16, 16⟩
def R.sysCntSafe : Nat := 0x00000040
def F.sysCntSafe : Fld := ⟨R.sysCntSafe, 0, 32⟩
def R.sysCntDegraded : Nat := 0x00000044
def F.sysCntDegraded : Fld := ⟨R.sysCntDegraded, 0, 32⟩
def R.sysCntRecovered : Nat := 0x00000048
def F.sysCntRecovered : Fld := ⟨R.sysCntRecovered, 0, 32⟩
def R.sysCntRefused : Nat := 0x0000004C
def F.sysCntRefused : Fld := ⟨R.sysCntRefused, 0, 32⟩

/-! Block SYS, spec/25_module_hardware.md -/

def R.sysSlot : Nat := 0x00000600
def F.sysSlotSlotId : Fld := ⟨R.sysSlot, 0, 6⟩
def F.sysSlotEnable : Fld := ⟨R.sysSlot, 6, 1⟩
def F.sysSlotRemove : Fld := ⟨R.sysSlot, 7, 1⟩
def R.sysPwr : Nat := 0x00000604
def F.sysPwrVin : Fld := ⟨R.sysPwr, 0, 12⟩
def F.sysPwrPin : Fld := ⟨R.sysPwr, 16, 10⟩
def R.sysTherm : Nat := 0x00000608
def F.sysThermTj : Fld := ⟨R.sysTherm, 0, 8⟩
def F.sysThermInlet : Fld := ⟨R.sysTherm, 8, 8⟩
def F.sysThermOutlet : Fld := ⟨R.sysTherm, 16, 8⟩
def F.sysThermWarn : Fld := ⟨R.sysTherm, 24, 1⟩
def R.sysPwrStat : Nat := 0x0000060C
def F.sysPwrStatUv : Fld := ⟨R.sysPwrStat, 0, 1⟩
def F.sysPwrStatOv : Fld := ⟨R.sysPwrStat, 1, 1⟩
def F.sysPwrStatRail : Fld := ⟨R.sysPwrStat, 2, 1⟩
def F.sysPwrStatTrip : Fld := ⟨R.sysPwrStat, 3, 1⟩
def F.sysPwrStatTjPeak : Fld := ⟨R.sysPwrStat, 8, 8⟩

/-! Block SEL, spec/20_selvedge.md -/

def R.selCtl : Nat := 0x00010000
def F.selCtlShadowUs : Fld := ⟨R.selCtl, 0, 10⟩
def R.selStat : Nat := 0x00010004
def F.selStatFirstValid : Fld := ⟨R.selStat, 0, 1⟩
def F.selStatSecondValid : Fld := ⟨R.selStat, 1, 1⟩
def F.selStatHandling : Fld := ⟨R.selStat, 2, 1⟩
def F.selStatSelf : Fld := ⟨R.selStat, 3, 1⟩
def F.selStatHeld : Fld := ⟨R.selStat, 4, 1⟩
def F.selStatMore : Fld := ⟨R.selStat, 8, 8⟩
def F.selStatQuietLeft : Fld := ⟨R.selStat, 16, 8⟩
def R.selQuiet : Nat := 0x00010008
def F.selQuietQuietS : Fld := ⟨R.selQuiet, 0, 8⟩
def F.selQuietRcap : Fld := ⟨R.selQuiet, 8, 8⟩
def R.selRecov : Nat := 0x0001000C
def F.selRecovCount : Fld := ⟨R.selRecov, 0, 16⟩
def F.selRecovSince : Fld := ⟨R.selRecov, 16, 8⟩
def R.selClr : Nat := 0x00010010
def F.selClrFirst : Fld := ⟨R.selClr, 0, 1⟩
def F.selClrSecond : Fld := ⟨R.selClr, 1, 1⟩
def F.selClrRecov : Fld := ⟨R.selClr, 2, 1⟩
def R.selCapCode (i : Nat) : Nat := 0x00010020 + i * 0x20
def F.selCapCodeCode (i : Nat) : Fld := ⟨R.selCapCode i, 0, 16⟩
def F.selCapCodeReact (i : Nat) : Fld := ⟨R.selCapCode i, 16, 3⟩
def F.selCapCodeForced (i : Nat) : Fld := ⟨R.selCapCode i, 19, 1⟩
def F.selCapCodeUnnum (i : Nat) : Fld := ⟨R.selCapCode i, 20, 1⟩
def R.selCapSeqLo (i : Nat) : Nat := 0x00010024 + i * 0x20
def F.selCapSeqLoSeq (i : Nat) : Fld := ⟨R.selCapSeqLo i, 0, 32⟩
def R.selCapSeqHi (i : Nat) : Nat := 0x00010028 + i * 0x20
def F.selCapSeqHiSeq (i : Nat) : Fld := ⟨R.selCapSeqHi i, 0, 16⟩
def R.selCapTsLo (i : Nat) : Nat := 0x0001002C + i * 0x20
def F.selCapTsLoTs (i : Nat) : Fld := ⟨R.selCapTsLo i, 0, 32⟩
def R.selCapTsHi (i : Nat) : Nat := 0x00010030 + i * 0x20
def F.selCapTsHiTs (i : Nat) : Fld := ⟨R.selCapTsHi i, 0, 32⟩
def R.selSeqLo : Nat := 0x00010060
def F.selSeqLoSeq : Fld := ⟨R.selSeqLo, 0, 32⟩
def R.selSeqHi : Nat := 0x00010064
def F.selSeqHiSeq : Fld := ⟨R.selSeqHi, 0, 16⟩
def R.selBoot : Nat := 0x00010068
def F.selBoot : Fld := ⟨R.selBoot, 0, 32⟩
def R.selEvtHead : Nat := 0x0001006C
def F.selEvtHeadIdx : Fld := ⟨R.selEvtHead, 0, 10⟩
def R.selEvtOvf : Nat := 0x00010070
def F.selEvtOvf : Fld := ⟨R.selEvtOvf, 0, 32⟩
def R.selPeekCode : Nat := 0x00010080
def F.selPeekCodeCode : Fld := ⟨R.selPeekCode, 0, 16⟩
def R.selPeekData : Nat := 0x00010084
def F.selPeekDataWin : Fld := ⟨R.selPeekData, 0, 4⟩
def F.selPeekDataLive : Fld := ⟨R.selPeekData, 4, 1⟩
def F.selPeekDataSticky : Fld := ⟨R.selPeekData, 5, 1⟩
def F.selPeekDataPending : Fld := ⟨R.selPeekData, 6, 1⟩
def F.selPeekDataTotal : Fld := ⟨R.selPeekData, 16, 16⟩
def R.selTypeCfg (i : Nat) : Nat := 0x00010100 + i * 0x4
def F.selTypeCfgT (i : Nat) : Fld := ⟨R.selTypeCfg i, 0, 4⟩
def F.selTypeCfgW (i : Nat) : Fld := ⟨R.selTypeCfg i, 4, 16⟩
def F.selTypeCfgReact (i : Nat) : Fld := ⟨R.selTypeCfg i, 20, 3⟩
def F.selTypeCfgFixed (i : Nat) : Fld := ⟨R.selTypeCfg i, 23, 1⟩
def R.selForce (i : Nat) : Nat := 0x00012000 + i * 0x4
def F.selForceForce (i : Nat) : Fld := ⟨R.selForce i, 0, 32⟩
def R.selLive (i : Nat) : Nat := 0x00014000 + i * 0x4
def F.selLiveLive (i : Nat) : Fld := ⟨R.selLive i, 0, 32⟩
def R.selSticky (i : Nat) : Nat := 0x00016000 + i * 0x4
def F.selStickySticky (i : Nat) : Fld := ⟨R.selSticky i, 0, 32⟩
def R.selEvt (i : Nat) : Nat := 0x00018000 + i * 0x4
def F.selEvt (i : Nat) : Fld := ⟨R.selEvt i, 0, 32⟩

/-! Block BOB, spec/16_bobbin_scheduler.md -/

def R.bobCtl : Nat := 0x00020000
def F.bobCtlMoveRows : Fld := ⟨R.bobCtl, 0, 4⟩
def F.bobCtlMoveEn : Fld := ⟨R.bobCtl, 4, 1⟩
def R.bobPrio : Nat := 0x00020004
def F.bobPrioIng : Fld := ⟨R.bobPrio, 0, 4⟩
def F.bobPrioCmp : Fld := ⟨R.bobPrio, 4, 4⟩
def F.bobPrioEncD : Fld := ⟨R.bobPrio, 8, 4⟩
def F.bobPrioEncS : Fld := ⟨R.bobPrio, 12, 4⟩
def F.bobPrioEncB : Fld := ⟨R.bobPrio, 16, 4⟩
def F.bobPrioPack : Fld := ⟨R.bobPrio, 20, 4⟩
def F.bobPrioHk : Fld := ⟨R.bobPrio, 24, 4⟩
def R.bobAud : Nat := 0x00020008
def F.bobAudTaskErr : Fld := ⟨R.bobAud, 0, 1⟩
def F.bobAudCredErr : Fld := ⟨R.bobAud, 1, 1⟩
def R.bobCreatedLo : Nat := 0x00020010
def F.bobCreatedLo : Fld := ⟨R.bobCreatedLo, 0, 32⟩
def R.bobCreatedHi : Nat := 0x00020014
def F.bobCreatedHi : Fld := ⟨R.bobCreatedHi, 0, 32⟩
def R.bobDispatchedLo : Nat := 0x00020018
def F.bobDispatchedLo : Fld := ⟨R.bobDispatchedLo, 0, 32⟩
def R.bobDispatchedHi : Nat := 0x0002001C
def F.bobDispatchedHi : Fld := ⟨R.bobDispatchedHi, 0, 32⟩
def R.bobCancelledLo : Nat := 0x00020020
def F.bobCancelledLo : Fld := ⟨R.bobCancelledLo, 0, 32⟩
def R.bobCancelledHi : Nat := 0x00020024
def F.bobCancelledHi : Fld := ⟨R.bobCancelledHi, 0, 32⟩
def R.bobPending : Nat := 0x00020028
def F.bobPendingReady : Fld := ⟨R.bobPending, 0, 16⟩
def F.bobPendingDelay : Fld := ⟨R.bobPending, 16, 16⟩
def R.bobCred (i : Nat) : Nat := 0x00020040 + i * 0x4
def F.bobCredPool (i : Nat) : Fld := ⟨R.bobCred i, 0, 16⟩
def F.bobCredFree (i : Nat) : Fld := ⟨R.bobCred i, 16, 16⟩
def R.bobCancel (i : Nat) : Nat := 0x00020080 + i * 0x4
def F.bobCancel (i : Nat) : Fld := ⟨R.bobCancel i, 0, 32⟩
def R.bobCreateFail : Nat := 0x000200A0
def F.bobCreateFail : Fld := ⟨R.bobCreateFail, 0, 32⟩
def R.bobMoves : Nat := 0x000200A4
def F.bobMoves : Fld := ⟨R.bobMoves, 0, 32⟩
def R.bobExQ (i : Nat) : Nat := 0x00021000 + i * 0x80
def F.bobExQDepth (i : Nat) : Fld := ⟨R.bobExQ i, 0, 16⟩
def F.bobExQMax (i : Nat) : Fld := ⟨R.bobExQ i, 16, 16⟩
def R.bobExLate (i : Nat) : Nat := 0x00021004 + i * 0x80
def F.bobExLate (i : Nat) : Fld := ⟨R.bobExLate i, 0, 32⟩
def R.bobExHclr (i : Nat) : Nat := 0x00021008 + i * 0x80
def F.bobExHclrClr (i : Nat) : Fld := ⟨R.bobExHclr i, 0, 1⟩
def R.bobExHist (i j : Nat) : Nat := 0x00021040 + i * 0x80 + j * 0x4
def F.bobExHist (i j : Nat) : Fld := ⟨R.bobExHist i j, 0, 32⟩

/-! Block CLK, spec/19_clocks.md -/

def R.clkCtl : Nat := 0x00030000
def F.clkCtlRetryMs : Fld := ⟨R.clkCtl, 0, 8⟩
def F.clkCtlFailMax : Fld := ⟨R.clkCtl, 8, 4⟩
def F.clkCtlRefRestore : Fld := ⟨R.clkCtl, 12, 1⟩
def R.clkStat : Nat := 0x00030004
def F.clkStatCleanerOk : Fld := ⟨R.clkStat, 0, 1⟩
def F.clkStatAnyBypass : Fld := ⟨R.clkStat, 1, 1⟩
def F.clkStatAltRef : Fld := ⟨R.clkStat, 2, 1⟩
def F.clkStatNbyp : Fld := ⟨R.clkStat, 16, 7⟩
def R.clkByp (i : Nat) : Nat := 0x00030010 + i * 0x4
def F.clkBypByp (i : Nat) : Fld := ⟨R.clkByp i, 0, 32⟩
def R.clkPllCfg (i : Nat) : Nat := 0x00031000 + i * 0x40
def F.clkPllCfgBandsrc (i : Nat) : Fld := ⟨R.clkPllCfg i, 0, 1⟩
def F.clkPllCfgLockN (i : Nat) : Fld := ⟨R.clkPllCfg i, 4, 12⟩
def F.clkPllCfgWin (i : Nat) : Fld := ⟨R.clkPllCfg i, 16, 8⟩
def F.clkPllCfgRampPpm (i : Nat) : Fld := ⟨R.clkPllCfg i, 24, 8⟩
def R.clkPllTgt (i : Nat) : Nat := 0x00031004 + i * 0x40
def F.clkPllTgtTgt (i : Nat) : Fld := ⟨R.clkPllTgt i, 0, 32⟩
def R.clkPllStat (i : Nat) : Nat := 0x00031008 + i * 0x40
def F.clkPllStatPstate (i : Nat) : Fld := ⟨R.clkPllStat i, 0, 3⟩
def F.clkPllStatOnByp (i : Nat) : Fld := ⟨R.clkPllStat i, 3, 1⟩
def F.clkPllStatAltRef (i : Nat) : Fld := ⟨R.clkPllStat i, 4, 1⟩
def F.clkPllStatTblMiss (i : Nat) : Fld := ⟨R.clkPllStat i, 5, 1⟩
def F.clkPllStatRefused (i : Nat) : Fld := ⟨R.clkPllStat i, 6, 1⟩
def F.clkPllStatRefuse (i : Nat) : Fld := ⟨R.clkPllStat i, 8, 3⟩
def F.clkPllStatBand (i : Nat) : Fld := ⟨R.clkPllStat i, 12, 4⟩
def F.clkPllStatFails (i : Nat) : Fld := ⟨R.clkPllStat i, 16, 8⟩
def R.clkPllFreq (i : Nat) : Nat := 0x0003100C + i * 0x40
def F.clkPllFreqMeas (i : Nat) : Fld := ⟨R.clkPllFreq i, 0, 16⟩
def F.clkPllFreqStep (i : Nat) : Fld := ⟨R.clkPllFreq i, 16, 16⟩
def R.clkPllCntLol (i : Nat) : Nat := 0x00031010 + i * 0x40
def F.clkPllCntLol (i : Nat) : Fld := ⟨R.clkPllCntLol i, 0, 32⟩
def R.clkPllCntOver (i : Nat) : Nat := 0x00031014 + i * 0x40
def F.clkPllCntOver (i : Nat) : Fld := ⟨R.clkPllCntOver i, 0, 32⟩
def R.clkPllCntAcq (i : Nat) : Nat := 0x00031018 + i * 0x40
def F.clkPllCntAcq (i : Nat) : Fld := ⟨R.clkPllCntAcq i, 0, 32⟩
def R.clkPllCntBypMs (i : Nat) : Nat := 0x0003101C + i * 0x40
def F.clkPllCntBypMs (i : Nat) : Fld := ⟨R.clkPllCntBypMs i, 0, 32⟩
def R.clkXqCred (i : Nat) : Nat := 0x00034000 + i * 0x10
def F.clkXqCredIn (i : Nat) : Fld := ⟨R.clkXqCred i, 0, 16⟩
def F.clkXqCredOut (i : Nat) : Fld := ⟨R.clkXqCred i, 16, 16⟩
def R.clkXqStat (i : Nat) : Nat := 0x00034004 + i * 0x10
def F.clkXqStatMinfreeIn (i : Nat) : Fld := ⟨R.clkXqStat i, 0, 15⟩
def F.clkXqStatErrIn (i : Nat) : Fld := ⟨R.clkXqStat i, 15, 1⟩
def F.clkXqStatMinfreeOut (i : Nat) : Fld := ⟨R.clkXqStat i, 16, 15⟩
def F.clkXqStatErrOut (i : Nat) : Fld := ⟨R.clkXqStat i, 31, 1⟩

/-! Block TIM, spec/04_network_time.md -/

def R.timCtl : Nat := 0x00040000
def F.timCtlPrimary : Fld := ⟨R.timCtl, 0, 1⟩
def F.timCtlRevert : Fld := ⟨R.timCtl, 1, 1⟩
def F.timCtlForce : Fld := ⟨R.timCtl, 2, 1⟩
def F.timCtlFsrc : Fld := ⟨R.timCtl, 3, 2⟩
def F.timCtlPpsQual : Fld := ⟨R.timCtl, 5, 1⟩
def F.timCtlSlewMax : Fld := ⟨R.timCtl, 8, 8⟩
def F.timCtlArmWait : Fld := ⟨R.timCtl, 16, 8⟩
def R.timStat : Nat := 0x00040004
def F.timStatTstate : Fld := ⟨R.timStat, 0, 2⟩
def F.timStatSelected : Fld := ⟨R.timStat, 2, 1⟩
def F.timStatArmReady : Fld := ⟨R.timStat, 3, 1⟩
def F.timStatFar : Fld := ⟨R.timStat, 4, 1⟩
def F.timStatFhold : Fld := ⟨R.timStat, 5, 1⟩
def F.timStatForceNq : Fld := ⟨R.timStat, 8, 8⟩
def F.timStatHoSec : Fld := ⟨R.timStat, 16, 16⟩
def R.timLtcNs : Nat := 0x00040010
def F.timLtcNsNs : Fld := ⟨R.timLtcNs, 0, 30⟩
def R.timLtcSecLo : Nat := 0x00040014
def F.timLtcSecLoSec : Fld := ⟨R.timLtcSecLo, 0, 32⟩
def R.timLtcSecHi : Nat := 0x00040018
def F.timLtcSecHiSec : Fld := ⟨R.timLtcSecHi, 0, 16⟩
def R.timSysLo : Nat := 0x00040020
def F.timSysLo : Fld := ⟨R.timSysLo, 0, 32⟩
def R.timSysHi : Nat := 0x00040024
def F.timSysHi : Fld := ⟨R.timSysHi, 0, 32⟩
def R.timOffLo : Nat := 0x00040028
def F.timOffLoOff : Fld := ⟨R.timOffLo, 0, 32⟩
def R.timOffHi : Nat := 0x0004002C
def F.timOffHiOff : Fld := ⟨R.timOffHi, 0, 32⟩
def R.timSlewrem : Nat := 0x00040030
def F.timSlewremRem : Fld := ⟨R.timSlewrem, 0, 32⟩
def R.timRef : Nat := 0x00040040
def F.timRefRstate : Fld := ⟨R.timRef, 0, 2⟩
def F.timRefGlitch : Fld := ⟨R.timRef, 8, 8⟩
def F.timRefFmonPpm : Fld := ⟨R.timRef, 16, 8⟩
def F.timRefQualSec : Fld := ⟨R.timRef, 24, 8⟩
def R.timPps : Nat := 0x00040048
def F.timPpsOutEn : Fld := ⟨R.timPps, 0, 1⟩
def F.timPpsWidth : Fld := ⟨R.timPps, 8, 8⟩
def R.timPpsinLo : Nat := 0x00040050
def F.timPpsinLoT : Fld := ⟨R.timPpsinLo, 0, 32⟩
def R.timPpsinHi : Nat := 0x00040054
def F.timPpsinHiT : Fld := ⟨R.timPpsinHi, 0, 32⟩
def R.timPpsinErr : Nat := 0x00040058
def F.timPpsinErrErr : Fld := ⟨R.timPpsinErr, 0, 32⟩
def R.timDomCfg (i : Nat) : Nat := 0x00040100 + i * 0x100
def F.timDomCfgDomain (i : Nat) : Fld := ⟨R.timDomCfg i, 0, 8⟩
def F.timDomCfgLane (i : Nat) : Fld := ⟨R.timDomCfg i, 8, 8⟩
def F.timDomCfgVlan (i : Nat) : Fld := ⟨R.timDomCfg i, 16, 12⟩
def F.timDomCfgDreqUc (i : Nat) : Fld := ⟨R.timDomCfg i, 28, 1⟩
def F.timDomCfgEn (i : Nat) : Fld := ⟨R.timDomCfg i, 29, 1⟩
def R.timDomLat (i : Nat) : Nat := 0x00040104 + i * 0x100
def F.timDomLatIngLat (i : Nat) : Fld := ⟨R.timDomLat i, 0, 16⟩
def F.timDomLatEgrLat (i : Nat) : Fld := ⟨R.timDomLat i, 16, 16⟩
def R.timDomAsym (i : Nat) : Nat := 0x00040108 + i * 0x100
def F.timDomAsymAsym (i : Nat) : Fld := ⟨R.timDomAsym i, 0, 32⟩
def R.timDomStat (i : Nat) : Nat := 0x0004010C + i * 0x100
def F.timDomStatDstate (i : Nat) : Fld := ⟨R.timDomStat i, 0, 2⟩
def F.timDomStatClass (i : Nat) : Fld := ⟨R.timDomStat i, 8, 8⟩
def F.timDomStatUtcOff (i : Nat) : Fld := ⟨R.timDomStat i, 16, 16⟩
def R.timDomGmLo (i : Nat) : Nat := 0x00040110 + i * 0x100
def F.timDomGmLoId (i : Nat) : Fld := ⟨R.timDomGmLo i, 0, 32⟩
def R.timDomGmHi (i : Nat) : Nat := 0x00040114 + i * 0x100
def F.timDomGmHiId (i : Nat) : Fld := ⟨R.timDomGmHi i, 0, 32⟩
def R.timDomOfs (i : Nat) : Nat := 0x00040118 + i * 0x100
def F.timDomOfsOfs (i : Nat) : Fld := ⟨R.timDomOfs i, 0, 32⟩
def R.timDomMpd (i : Nat) : Nat := 0x0004011C + i * 0x100
def F.timDomMpdMpd (i : Nat) : Fld := ⟨R.timDomMpd i, 0, 32⟩
def R.timDomCnt (i : Nat) : Nat := 0x00040120 + i * 0x100
def F.timDomCntSync (i : Nat) : Fld := ⟨R.timDomCnt i, 0, 16⟩
def F.timDomCntOutlier (i : Nat) : Fld := ⟨R.timDomCnt i, 16, 8⟩
def F.timDomCntTimeout (i : Nat) : Fld := ⟨R.timDomCnt i, 24, 8⟩
def R.timDomQual (i : Nat) : Nat := 0x00040124 + i * 0x100
def F.timDomQualClassMax (i : Nat) : Fld := ⟨R.timDomQual i, 0, 8⟩
def F.timDomQualQualSec (i : Nat) : Fld := ⟨R.timDomQual i, 8, 8⟩
def F.timDomQualOutl (i : Nat) : Fld := ⟨R.timDomQual i, 16, 16⟩

/-! Block NVM, spec/22_startup_and_image.md -/

def R.nvmId : Nat := 0x00050000
def F.nvmIdRomVer : Fld := ⟨R.nvmId, 0, 16⟩
def F.nvmIdNvmMib : Fld := ⟨R.nvmId, 16, 8⟩
def R.nvmStat : Nat := 0x00050004
def F.nvmStatLstate : Fld := ⟨R.nvmStat, 0, 3⟩
def F.nvmStatLoaded : Fld := ⟨R.nvmStat, 3, 1⟩
def F.nvmStatSeltypeBad : Fld := ⟨R.nvmStat, 4, 1⟩
def F.nvmStatNosafe : Fld := ⟨R.nvmStat, 5, 1⟩
def F.nvmStatLoadMs : Fld := ⟨R.nvmStat, 16, 16⟩
/-- NVM_IMG_STAT of slot B shares the spec's address 0x0005_0020 with NVM_CFG: it is held outside BAR0 (notes/assumptions/86). -/
def R.nvmImgStat (i : Nat) : Nat := if Nat.beq i 1 then 0x04050020 else 0x00050010 + i * 0x10
def F.nvmImgStatValid (i : Nat) : Fld := ⟨R.nvmImgStat i, 0, 1⟩
def F.nvmImgStatDamage (i : Nat) : Fld := ⟨R.nvmImgStat i, 1, 1⟩
def F.nvmImgStatFail (i : Nat) : Fld := ⟨R.nvmImgStat i, 2, 4⟩
def F.nvmImgStatSection (i : Nat) : Fld := ⟨R.nvmImgStat i, 8, 8⟩
def R.nvmImgGen (i : Nat) : Nat := 0x00050014 + i * 0x10
def F.nvmImgGenGen (i : Nat) : Fld := ⟨R.nvmImgGen i, 0, 32⟩
def R.nvmImgLen (i : Nat) : Nat := 0x00050018 + i * 0x10
def F.nvmImgLenLen (i : Nat) : Fld := ⟨R.nvmImgLen i, 0, 25⟩
def R.nvmCfg : Nat := 0x00050020
def F.nvmCfgCalMs : Fld := ⟨R.nvmCfg, 0, 12⟩
def F.nvmCfgSrcWaitS : Fld := ⟨R.nvmCfg, 16, 8⟩
def R.nvmUpdSrcLo : Nat := 0x00050040
def F.nvmUpdSrcLoAddr : Fld := ⟨R.nvmUpdSrcLo, 0, 32⟩
def R.nvmUpdSrcHi : Nat := 0x00050044
def F.nvmUpdSrcHiAddr : Fld := ⟨R.nvmUpdSrcHi, 0, 32⟩
def R.nvmUpdLen : Nat := 0x00050048
def F.nvmUpdLenLen : Fld := ⟨R.nvmUpdLen, 0, 25⟩
def R.nvmUpdCtl : Nat := 0x0005004C
def F.nvmUpdCtlGo : Fld := ⟨R.nvmUpdCtl, 0, 1⟩
def F.nvmUpdCtlAbort : Fld := ⟨R.nvmUpdCtl, 1, 1⟩
def F.nvmUpdCtlSlot : Fld := ⟨R.nvmUpdCtl, 2, 1⟩
def F.nvmUpdCtlHost : Fld := ⟨R.nvmUpdCtl, 3, 2⟩
def R.nvmUpdStat : Nat := 0x00050050
def F.nvmUpdStatUstate : Fld := ⟨R.nvmUpdStat, 0, 2⟩
def F.nvmUpdStatResult : Fld := ⟨R.nvmUpdStat, 2, 4⟩
def F.nvmUpdStatDone64k : Fld := ⟨R.nvmUpdStat, 8, 9⟩
def R.nvmRdSrc : Nat := 0x00050060
def F.nvmRdSrcOffset : Fld := ⟨R.nvmRdSrc, 0, 26⟩
def R.nvmRdDstLo : Nat := 0x00050064
def F.nvmRdDstLoAddr : Fld := ⟨R.nvmRdDstLo, 0, 32⟩
def R.nvmRdDstHi : Nat := 0x00050068
def F.nvmRdDstHiAddr : Fld := ⟨R.nvmRdDstHi, 0, 32⟩
def R.nvmRdLen : Nat := 0x0005006C
def F.nvmRdLenLen : Fld := ⟨R.nvmRdLen, 0, 26⟩
def R.nvmRdCtl : Nat := 0x00050070
def F.nvmRdCtlGo : Fld := ⟨R.nvmRdCtl, 0, 1⟩
def F.nvmRdCtlAbort : Fld := ⟨R.nvmRdCtl, 1, 1⟩
def F.nvmRdCtlHost : Fld := ⟨R.nvmRdCtl, 2, 2⟩
def R.nvmRdStat : Nat := 0x00050074
def F.nvmRdStatRstate : Fld := ⟨R.nvmRdStat, 0, 2⟩
def F.nvmRdStatResult : Fld := ⟨R.nvmRdStat, 2, 3⟩
def R.nvmJrnHead : Nat := 0x00050080
def F.nvmJrnHeadIdx : Fld := ⟨R.nvmJrnHead, 0, 20⟩
def R.nvmCntLost : Nat := 0x00050090
def F.nvmCntLost : Fld := ⟨R.nvmCntLost, 0, 32⟩
def R.nvmCntVerify : Nat := 0x00050094
def F.nvmCntVerify : Fld := ⟨R.nvmCntVerify, 0, 32⟩
def R.nvmCntWrap : Nat := 0x00050098
def F.nvmCntWrap : Fld := ⟨R.nvmCntWrap, 0, 32⟩
def R.nvmCntEccCe : Nat := 0x0005009C
def F.nvmCntEccCe : Fld := ⟨R.nvmCntEccCe, 0, 32⟩

/-! Block HST, spec/24_hosts.md -/

def R.hstWhoami : Nat := 0x00060000
def F.hstWhoamiPort : Fld := ⟨R.hstWhoami, 0, 2⟩
def R.hstLink (i : Nat) : Nat := 0x00061000 + i * 0x1000
def F.hstLinkLstate (i : Nat) : Fld := ⟨R.hstLink i, 0, 2⟩
def F.hstLinkSpeed (i : Nat) : Fld := ⟨R.hstLink i, 2, 3⟩
def F.hstLinkWidth (i : Nat) : Fld := ⟨R.hstLink i, 5, 3⟩
def F.hstLinkBme (i : Nat) : Fld := ⟨R.hstLink i, 8, 1⟩
def R.hstEqBaseLo (i : Nat) : Nat := 0x00061010 + i * 0x1000
def F.hstEqBaseLoAddr (i : Nat) : Fld := ⟨R.hstEqBaseLo i, 0, 32⟩
def R.hstEqBaseHi (i : Nat) : Nat := 0x00061014 + i * 0x1000
def F.hstEqBaseHiAddr (i : Nat) : Fld := ⟨R.hstEqBaseHi i, 0, 32⟩
def R.hstEqCfg (i : Nat) : Nat := 0x00061018 + i * 0x1000
def F.hstEqCfgSize (i : Nat) : Fld := ⟨R.hstEqCfg i, 0, 5⟩
def F.hstEqCfgEn (i : Nat) : Fld := ⟨R.hstEqCfg i, 5, 1⟩
def F.hstEqCfgKinds (i : Nat) : Fld := ⟨R.hstEqCfg i, 8, 5⟩
def R.hstEqHead (i : Nat) : Nat := 0x0006101C + i * 0x1000
def F.hstEqHeadIdx (i : Nat) : Fld := ⟨R.hstEqHead i, 0, 19⟩
def R.hstEqTail (i : Nat) : Nat := 0x00061020 + i * 0x1000
def F.hstEqTailIdx (i : Nat) : Fld := ⟨R.hstEqTail i, 0, 19⟩
def R.hstIrqEn (i : Nat) : Nat := 0x00061030 + i * 0x1000
def F.hstIrqEnEn (i : Nat) : Fld := ⟨R.hstIrqEn i, 0, 8⟩
def R.hstIrqStat (i : Nat) : Nat := 0x00061034 + i * 0x1000
def F.hstIrqStatStat (i : Nat) : Fld := ⟨R.hstIrqStat i, 0, 8⟩
def R.hstIrqMod (i : Nat) : Nat := 0x00061038 + i * 0x1000
def F.hstIrqModModUs (i : Nat) : Fld := ⟨R.hstIrqMod i, 0, 16⟩
def R.hstRdBaseLo (i : Nat) : Nat := 0x00061040 + i * 0x1000
def F.hstRdBaseLoAddr (i : Nat) : Fld := ⟨R.hstRdBaseLo i, 0, 32⟩
def R.hstRdBaseHi (i : Nat) : Nat := 0x00061044 + i * 0x1000
def F.hstRdBaseHiAddr (i : Nat) : Fld := ⟨R.hstRdBaseHi i, 0, 32⟩
def R.hstRdCfg (i : Nat) : Nat := 0x00061048 + i * 0x1000
def F.hstRdCfgSize (i : Nat) : Fld := ⟨R.hstRdCfg i, 0, 5⟩
def F.hstRdCfgEn (i : Nat) : Fld := ⟨R.hstRdCfg i, 5, 1⟩
def R.hstRdHead (i : Nat) : Nat := 0x0006104C + i * 0x1000
def F.hstRdHeadOfs (i : Nat) : Fld := ⟨R.hstRdHead i, 0, 30⟩
def R.hstRdTail (i : Nat) : Nat := 0x00061050 + i * 0x1000
def F.hstRdTailOfs (i : Nat) : Fld := ⟨R.hstRdTail i, 0, 30⟩
def R.hstTapCfg (i j : Nat) : Nat := 0x00061100 + i * 0x1000 + j * 0x20
def F.hstTapCfgChan (i j : Nat) : Fld := ⟨R.hstTapCfg i j, 0, 8⟩
def F.hstTapCfgEn (i j : Nat) : Fld := ⟨R.hstTapCfg i j, 8, 1⟩
def F.hstTapCfgSize (i j : Nat) : Fld := ⟨R.hstTapCfg i j, 9, 5⟩
def R.hstTapBaseLo (i j : Nat) : Nat := 0x00061104 + i * 0x1000 + j * 0x20
def F.hstTapBaseLoAddr (i j : Nat) : Fld := ⟨R.hstTapBaseLo i j, 0, 32⟩
def R.hstTapBaseHi (i j : Nat) : Nat := 0x00061108 + i * 0x1000 + j * 0x20
def F.hstTapBaseHiAddr (i j : Nat) : Fld := ⟨R.hstTapBaseHi i j, 0, 32⟩
def R.hstTapHead (i j : Nat) : Nat := 0x0006110C + i * 0x1000 + j * 0x20
def F.hstTapHeadOfs (i j : Nat) : Fld := ⟨R.hstTapHead i j, 0, 30⟩
def R.hstTapTail (i j : Nat) : Nat := 0x00061110 + i * 0x1000 + j * 0x20
def F.hstTapTailOfs (i j : Nat) : Fld := ⟨R.hstTapTail i j, 0, 30⟩
def R.hstCntWrites (i : Nat) : Nat := 0x00061060 + i * 0x1000
def F.hstCntWrites (i : Nat) : Fld := ⟨R.hstCntWrites i, 0, 32⟩
def R.hstCntWlost (i : Nat) : Nat := 0x00061064 + i * 0x1000
def F.hstCntWlost (i : Nat) : Fld := ⟨R.hstCntWlost i, 0, 32⟩
def R.hstCntAccerr (i : Nat) : Nat := 0x00061068 + i * 0x1000
def F.hstCntAccerr (i : Nat) : Fld := ⟨R.hstCntAccerr i, 0, 32⟩
def R.hstCntEqDrop (i : Nat) : Nat := 0x0006106C + i * 0x1000
def F.hstCntEqDrop (i : Nat) : Fld := ⟨R.hstCntEqDrop i, 0, 32⟩
def R.hstTapCntRec (i j : Nat) : Nat := 0x00061114 + i * 0x1000 + j * 0x20
def F.hstTapCntRec (i j : Nat) : Fld := ⟨R.hstTapCntRec i j, 0, 32⟩
def R.hstTapCntDrop (i j : Nat) : Nat := 0x00061118 + i * 0x1000 + j * 0x20
def F.hstTapCntDrop (i j : Nat) : Fld := ⟨R.hstTapCntDrop i j, 0, 32⟩

/-! Block CKV, spec/21_check_values.md -/

def R.ckvCfg (i : Nat) : Nat := 0x00070000 + i * 0x100
def F.ckvCfgPoly (i : Nat) : Fld := ⟨R.ckvCfg i, 0, 2⟩
def F.ckvCfgStopMis (i : Nat) : Fld := ⟨R.ckvCfg i, 2, 1⟩
def R.ckvCtl (i : Nat) : Nat := 0x00070004 + i * 0x100
def F.ckvCtlGo (i : Nat) : Fld := ⟨R.ckvCtl i, 0, 1⟩
def F.ckvCtlAbort (i : Nat) : Fld := ⟨R.ckvCtl i, 1, 1⟩
def R.ckvHeadLo (i : Nat) : Nat := 0x00070008 + i * 0x100
def F.ckvHeadLoAddr (i : Nat) : Fld := ⟨R.ckvHeadLo i, 0, 32⟩
def R.ckvHeadHi (i : Nat) : Nat := 0x0007000C + i * 0x100
def F.ckvHeadHiAddr (i : Nat) : Fld := ⟨R.ckvHeadHi i, 0, 32⟩
def R.ckvHeadSp (i : Nat) : Nat := 0x00070010 + i * 0x100
def F.ckvHeadSpSpace (i : Nat) : Fld := ⟨R.ckvHeadSp i, 0, 3⟩
def R.ckvStat (i : Nat) : Nat := 0x00070014 + i * 0x100
def F.ckvStatUstate (i : Nat) : Fld := ⟨R.ckvStat i, 0, 2⟩
def F.ckvStatMismatch (i : Nat) : Fld := ⟨R.ckvStat i, 2, 1⟩
def F.ckvStatDiff (i : Nat) : Fld := ⟨R.ckvStat i, 3, 1⟩
def F.ckvStatCause (i : Nat) : Fld := ⟨R.ckvStat i, 4, 3⟩
def R.ckvValLo (i : Nat) : Nat := 0x00070018 + i * 0x100
def F.ckvValLoVal (i : Nat) : Fld := ⟨R.ckvValLo i, 0, 32⟩
def R.ckvValHi (i : Nat) : Nat := 0x0007001C + i * 0x100
def F.ckvValHiVal (i : Nat) : Fld := ⟨R.ckvValHi i, 0, 32⟩
def R.ckvResLo (i : Nat) : Nat := 0x00070020 + i * 0x100
def F.ckvResLoRes (i : Nat) : Fld := ⟨R.ckvResLo i, 0, 32⟩
def R.ckvResHi (i : Nat) : Nat := 0x00070024 + i * 0x100
def F.ckvResHiRes (i : Nat) : Fld := ⟨R.ckvResHi i, 0, 32⟩
def R.ckvMisExpLo (i : Nat) : Nat := 0x00070028 + i * 0x100
def F.ckvMisExpLoV (i : Nat) : Fld := ⟨R.ckvMisExpLo i, 0, 32⟩
def R.ckvMisExpHi (i : Nat) : Nat := 0x0007002C + i * 0x100
def F.ckvMisExpHiV (i : Nat) : Fld := ⟨R.ckvMisExpHi i, 0, 32⟩
def R.ckvMisDescLo (i : Nat) : Nat := 0x00070030 + i * 0x100
def F.ckvMisDescLoAddr (i : Nat) : Fld := ⟨R.ckvMisDescLo i, 0, 32⟩
def R.ckvMisDescHi (i : Nat) : Nat := 0x00070034 + i * 0x100
def F.ckvMisDescHiAddr (i : Nat) : Fld := ⟨R.ckvMisDescHi i, 0, 32⟩
def R.ckvDiff (i : Nat) : Nat := 0x00070038 + i * 0x100
def F.ckvDiffOffset (i : Nat) : Fld := ⟨R.ckvDiff i, 0, 32⟩
def R.ckvCntBytesLo (i : Nat) : Nat := 0x00070040 + i * 0x100
def F.ckvCntBytesLo (i : Nat) : Fld := ⟨R.ckvCntBytesLo i, 0, 32⟩
def R.ckvCntBytesHi (i : Nat) : Nat := 0x00070044 + i * 0x100
def F.ckvCntBytesHi (i : Nat) : Fld := ⟨R.ckvCntBytesHi i, 0, 32⟩
def R.ckvCntDesc (i : Nat) : Nat := 0x00070048 + i * 0x100
def F.ckvCntDesc (i : Nat) : Fld := ⟨R.ckvCntDesc i, 0, 32⟩
def R.ckvCntMis (i : Nat) : Nat := 0x0007004C + i * 0x100
def F.ckvCntMis (i : Nat) : Fld := ⟨R.ckvCntMis i, 0, 32⟩

/-! Block AUD, spec/14_audio.md -/

def R.audPortCfg (i : Nat) : Nat := 0x00081000 + i * 0x100
def F.audPortCfgMode (i : Nat) : Fld := ⟨R.audPortCfg i, 0, 2⟩
def F.audPortCfgMaster (i : Nat) : Fld := ⟨R.audPortCfg i, 2, 1⟩
def F.audPortCfgSlots (i : Nat) : Fld := ⟨R.audPortCfg i, 3, 2⟩
def F.audPortCfgEn (i : Nat) : Fld := ⟨R.audPortCfg i, 5, 1⟩
def R.audPortStat (i : Nat) : Nat := 0x00081004 + i * 0x100
def F.audPortStatPstate (i : Nat) : Fld := ⟨R.audPortStat i, 0, 3⟩
def F.audPortStatLock (i : Nat) : Fld := ⟨R.audPortStat i, 3, 1⟩
def F.audPortStatRateErr (i : Nat) : Fld := ⟨R.audPortStat i, 4, 1⟩
def F.audPortStatPpm (i : Nat) : Fld := ⟨R.audPortStat i, 16, 16⟩
def R.audPortCsA (i j : Nat) : Nat := 0x00081010 + i * 0x100 + j * 0x4
def F.audPortCsABytes (i j : Nat) : Fld := ⟨R.audPortCsA i j, 0, 32⟩
def R.audPortCsB (i j : Nat) : Nat := 0x00081028 + i * 0x100 + j * 0x4
def F.audPortCsBBytes (i j : Nat) : Fld := ⟨R.audPortCsB i j, 0, 32⟩
def R.audPortBlkLo (i : Nat) : Nat := 0x00081040 + i * 0x100
def F.audPortBlkLoT (i : Nat) : Fld := ⟨R.audPortBlkLo i, 0, 32⟩
def R.audPortBlkHi (i : Nat) : Nat := 0x00081044 + i * 0x100
def F.audPortBlkHiT (i : Nat) : Fld := ⟨R.audPortBlkHi i, 0, 32⟩
def R.audInCfg (i : Nat) : Nat := 0x00084000 + i * 0x40
def F.audInCfgMask (i : Nat) : Fld := ⟨R.audInCfg i, 0, 16⟩
def F.audInCfgEn (i : Nat) : Fld := ⟨R.audInCfg i, 16, 1⟩
def F.audInCfgFirstCh (i : Nat) : Fld := ⟨R.audInCfg i, 17, 3⟩
def F.audInCfgChan (i : Nat) : Fld := ⟨R.audInCfg i, 20, 8⟩
def R.audInStat (i : Nat) : Nat := 0x00084004 + i * 0x40
def F.audInStatErr (i : Nat) : Fld := ⟨R.audInStat i, 0, 4⟩
def F.audInStatRefused (i : Nat) : Fld := ⟨R.audInStat i, 4, 1⟩
def R.audInCntRecv (i : Nat) : Nat := 0x00084010 + i * 0x40
def F.audInCntRecv (i : Nat) : Fld := ⟨R.audInCntRecv i, 0, 32⟩
def R.audInCntStored (i : Nat) : Nat := 0x00084014 + i * 0x40
def F.audInCntStored (i : Nat) : Fld := ⟨R.audInCntStored i, 0, 32⟩
def R.audInCntOverrun (i : Nat) : Nat := 0x00084018 + i * 0x40
def F.audInCntOverrun (i : Nat) : Fld := ⟨R.audInCntOverrun i, 0, 32⟩
def R.audInCntParity (i : Nat) : Nat := 0x0008401C + i * 0x40
def F.audInCntParity (i : Nat) : Fld := ⟨R.audInCntParity i, 0, 32⟩
def R.audInCntPartial (i : Nat) : Nat := 0x00084020 + i * 0x40
def F.audInCntPartial (i : Nat) : Fld := ⟨R.audInCntPartial i, 0, 32⟩
def R.audInCntNodest (i : Nat) : Nat := 0x00084024 + i * 0x40
def F.audInCntNodest (i : Nat) : Fld := ⟨R.audInCntNodest i, 0, 32⟩
def R.audInCntValidity (i : Nat) : Nat := 0x00084028 + i * 0x40
def F.audInCntValidity (i : Nat) : Fld := ⟨R.audInCntValidity i, 0, 32⟩
def R.audInCntCsCrc (i : Nat) : Nat := 0x0008402C + i * 0x40
def F.audInCntCsCrc (i : Nat) : Fld := ⟨R.audInCntCsCrc i, 0, 32⟩
def R.audInCntRep (i : Nat) : Nat := 0x00084030 + i * 0x40
def F.audInCntRep (i : Nat) : Fld := ⟨R.audInCntRep i, 0, 32⟩
def R.audInCntSkip (i : Nat) : Nat := 0x00084034 + i * 0x40
def F.audInCntSkip (i : Nat) : Fld := ⟨R.audInCntSkip i, 0, 32⟩
def R.audInCntLate (i : Nat) : Nat := 0x00084038 + i * 0x40
def F.audInCntLate (i : Nat) : Fld := ⟨R.audInCntLate i, 0, 32⟩
def R.audChCfg (i : Nat) : Nat := 0x00088000 + i * 0x10
def F.audChCfgALag (i : Nat) : Fld := ⟨R.audChCfg i, 0, 16⟩

/-! Block DRC, spec/18_dram.md -/

def R.drcCtl (i : Nat) : Nat := 0x00100000 + i * 0x8000
def F.drcCtlRetrain (i : Nat) : Fld := ⟨R.drcCtl i, 0, 1⟩
def F.drcCtlScrubEn (i : Nat) : Fld := ⟨R.drcCtl i, 1, 1⟩
def R.drcStat (i : Nat) : Nat := 0x00100004 + i * 0x8000
def F.drcStatCstate (i : Nat) : Fld := ⟨R.drcStat i, 0, 3⟩
def F.drcStatRef2x (i : Nat) : Fld := ⟨R.drcStat i, 3, 1⟩
def F.drcStatTemp (i : Nat) : Fld := ⟨R.drcStat i, 8, 8⟩
def F.drcStatPostponed (i : Nat) : Fld := ⟨R.drcStat i, 16, 3⟩
def R.drcSched (i : Nat) : Nat := 0x00100008 + i * 0x8000
def F.drcSchedAgeCode (i : Nat) : Fld := ⟨R.drcSched i, 0, 8⟩
def F.drcSchedAgeRing (i : Nat) : Fld := ⟨R.drcSched i, 8, 8⟩
def F.drcSchedAgeBulk (i : Nat) : Fld := ⟨R.drcSched i, 16, 8⟩
def R.drcRef (i : Nat) : Nat := 0x0010000C + i * 0x8000
def F.drcRefPostMax (i : Nat) : Fld := ⟨R.drcRef i, 0, 3⟩
def R.drcRh (i : Nat) : Nat := 0x00100010 + i * 0x8000
def F.drcRhK (i : Nat) : Fld := ⟨R.drcRh i, 0, 4⟩
def F.drcRhBlast2 (i : Nat) : Fld := ⟨R.drcRh i, 4, 1⟩
def R.drcScrub (i : Nat) : Nat := 0x00100014 + i * 0x8000
def F.drcScrubPeriodH (i : Nat) : Fld := ⟨R.drcScrub i, 0, 8⟩
def R.drcErrLo (i : Nat) : Nat := 0x00100020 + i * 0x8000
def F.drcErrLoDa (i : Nat) : Fld := ⟨R.drcErrLo i, 0, 32⟩
def R.drcErrHi (i : Nat) : Nat := 0x00100024 + i * 0x8000
def F.drcErrHiDa (i : Nat) : Fld := ⟨R.drcErrHi i, 0, 32⟩
def R.drcErrInfo (i : Nat) : Nat := 0x00100028 + i * 0x8000
def F.drcErrInfoUe (i : Nat) : Fld := ⟨R.drcErrInfo i, 0, 1⟩
def F.drcErrInfoSub (i : Nat) : Fld := ⟨R.drcErrInfo i, 1, 1⟩
def F.drcErrInfoLanegrp (i : Nat) : Fld := ⟨R.drcErrInfo i, 2, 4⟩
def F.drcErrInfoOrigin (i : Nat) : Fld := ⟨R.drcErrInfo i, 6, 2⟩
def F.drcErrInfoBank (i : Nat) : Fld := ⟨R.drcErrInfo i, 8, 5⟩
def F.drcErrInfoRow (i : Nat) : Fld := ⟨R.drcErrInfo i, 13, 19⟩
def R.drcInj (i : Nat) : Nat := 0x00100030 + i * 0x8000
def F.drcInjSingle (i : Nat) : Fld := ⟨R.drcInj i, 0, 1⟩
def F.drcInjDouble (i : Nat) : Fld := ⟨R.drcInj i, 1, 1⟩
def R.drcTrnCtl (i : Nat) : Nat := 0x00100100 + i * 0x8000
def F.drcTrnCtlGo (i : Nat) : Fld := ⟨R.drcTrnCtl i, 0, 1⟩
def F.drcTrnCtlPattern (i : Nat) : Fld := ⟨R.drcTrnCtl i, 1, 2⟩
def F.drcTrnCtlSub (i : Nat) : Fld := ⟨R.drcTrnCtl i, 3, 1⟩
def F.drcTrnCtlDone (i : Nat) : Fld := ⟨R.drcTrnCtl i, 4, 1⟩
def F.drcTrnCtlBursts (i : Nat) : Fld := ⟨R.drcTrnCtl i, 8, 24⟩
def R.drcTrnResLo (i : Nat) : Nat := 0x00100104 + i * 0x8000
def F.drcTrnResLoFail (i : Nat) : Fld := ⟨R.drcTrnResLo i, 0, 32⟩
def R.drcTrnResHi (i : Nat) : Nat := 0x00100108 + i * 0x8000
def F.drcTrnResHiFail (i : Nat) : Fld := ⟨R.drcTrnResHi i, 0, 8⟩
def R.drcTrnSet (i : Nat) : Nat := 0x00100110 + i * 0x8000
def F.drcTrnSetRdEye (i : Nat) : Fld := ⟨R.drcTrnSet i, 0, 8⟩
def F.drcTrnSetWrEye (i : Nat) : Fld := ⟨R.drcTrnSet i, 8, 8⟩
def F.drcTrnSetVrefRd (i : Nat) : Fld := ⟨R.drcTrnSet i, 16, 8⟩
def F.drcTrnSetVrefWr (i : Nat) : Fld := ⟨R.drcTrnSet i, 24, 8⟩
def R.drcBw (i : Nat) : Nat := 0x00100200 + i * 0x8000
def F.drcBwRd (i : Nat) : Fld := ⟨R.drcBw i, 0, 16⟩
def F.drcBwWr (i : Nat) : Fld := ⟨R.drcBw i, 16, 16⟩
def R.drcWait (i j : Nat) : Nat := 0x00100204 + i * 0x8000 + j * 0x4
def F.drcWaitMax (i j : Nat) : Fld := ⟨R.drcWait i j, 0, 16⟩
def R.drcCntCe (i : Nat) : Nat := 0x00100300 + i * 0x8000
def F.drcCntCe (i : Nat) : Fld := ⟨R.drcCntCe i, 0, 32⟩
def R.drcCntUe (i : Nat) : Nat := 0x00100304 + i * 0x8000
def F.drcCntUe (i : Nat) : Fld := ⟨R.drcCntUe i, 0, 32⟩
def R.drcCntScrubCe (i : Nat) : Nat := 0x00100308 + i * 0x8000
def F.drcCntScrubCe (i : Nat) : Fld := ⟨R.drcCntScrubCe i, 0, 32⟩
def R.drcCntNref (i : Nat) : Nat := 0x0010030C + i * 0x8000
def F.drcCntNref (i : Nat) : Fld := ⟨R.drcCntNref i, 0, 32⟩
def R.drcCntRefBurst (i : Nat) : Nat := 0x00100310 + i * 0x8000
def F.drcCntRefBurst (i : Nat) : Fld := ⟨R.drcCntRefBurst i, 0, 32⟩
def R.drcCntPromote (i : Nat) : Nat := 0x00100314 + i * 0x8000
def F.drcCntPromote (i : Nat) : Fld := ⟨R.drcCntPromote i, 0, 32⟩
def R.drcCntLinkRetry (i : Nat) : Nat := 0x00100318 + i * 0x8000
def F.drcCntLinkRetry (i : Nat) : Fld := ⟨R.drcCntLinkRetry i, 0, 32⟩
def R.drcCntRetrain (i : Nat) : Nat := 0x0010031C + i * 0x8000
def F.drcCntRetrain (i : Nat) : Fld := ⟨R.drcCntRetrain i, 0, 32⟩
def R.drcCntPoisonRd (i : Nat) : Nat := 0x00100320 + i * 0x8000
def F.drcCntPoisonRd (i : Nat) : Fld := ⟨R.drcCntPoisonRd i, 0, 32⟩
def R.drcCntScrubPass (i : Nat) : Nat := 0x00100324 + i * 0x8000
def F.drcCntScrubPass (i : Nat) : Fld := ⟨R.drcCntScrubPass i, 0, 32⟩
def R.drcGrpStat (i : Nat) : Nat := 0x00107000 + i * 0x20000
def F.drcGrpStatInMap (i : Nat) : Fld := ⟨R.drcGrpStat i, 0, 1⟩
def F.drcGrpStatReason (i : Nat) : Fld := ⟨R.drcGrpStat i, 4, 3⟩
def F.drcGrpStatChan (i : Nat) : Fld := ⟨R.drcGrpStat i, 8, 2⟩

/-! Block LNK, spec/17_serial_lanes.md -/

def R.lnkCfg (i : Nat) : Nat := 0x00200000 + i * 0x2000
def F.lnkCfgMode (i : Nat) : Fld := ⟨R.lnkCfg i, 0, 3⟩
def F.lnkCfgEn (i : Nat) : Fld := ⟨R.lnkCfg i, 3, 1⟩
def F.lnkCfgTrain (i : Nat) : Fld := ⟨R.lnkCfg i, 4, 1⟩
def F.lnkCfgFec (i : Nat) : Fld := ⟨R.lnkCfg i, 5, 1⟩
def F.lnkCfgRxInv (i : Nat) : Fld := ⟨R.lnkCfg i, 6, 1⟩
def F.lnkCfgTxInv (i : Nat) : Fld := ⟨R.lnkCfg i, 7, 1⟩
def R.lnkStat (i : Nat) : Nat := 0x00200004 + i * 0x2000
def F.lnkStatLstate (i : Nat) : Fld := ⟨R.lnkStat i, 0, 3⟩
def F.lnkStatUp (i : Nat) : Fld := ⟨R.lnkStat i, 3, 1⟩
def F.lnkStatRxlock (i : Nat) : Fld := ⟨R.lnkStat i, 4, 1⟩
def F.lnkStatRf (i : Nat) : Fld := ⟨R.lnkStat i, 5, 1⟩
def F.lnkStatRxInvAct (i : Nat) : Fld := ⟨R.lnkStat i, 6, 1⟩
def F.lnkStatDcause (i : Nat) : Fld := ⟨R.lnkStat i, 8, 3⟩
def F.lnkStatErr (i : Nat) : Fld := ⟨R.lnkStat i, 12, 2⟩
def F.lnkStatRefused (i : Nat) : Fld := ⟨R.lnkStat i, 14, 1⟩
def R.lnkTrn (i : Nat) : Nat := 0x00200008 + i * 0x2000
def F.lnkTrnLockMs (i : Nat) : Fld := ⟨R.lnkTrn i, 0, 8⟩
def F.lnkTrnBackoffMin (i : Nat) : Fld := ⟨R.lnkTrn i, 8, 8⟩
def F.lnkTrnFailMax (i : Nat) : Fld := ⟨R.lnkTrn i, 16, 4⟩
def R.lnkTrnStat (i : Nat) : Nat := 0x0020000C + i * 0x2000
def F.lnkTrnStatAttempt (i : Nat) : Fld := ⟨R.lnkTrnStat i, 0, 8⟩
def F.lnkTrnStatCPre (i : Nat) : Fld := ⟨R.lnkTrnStat i, 8, 6⟩
def F.lnkTrnStatCMain (i : Nat) : Fld := ⟨R.lnkTrnStat i, 14, 6⟩
def F.lnkTrnStatCPost (i : Nat) : Fld := ⟨R.lnkTrnStat i, 20, 6⟩
def R.lnkTest (i : Nat) : Nat := 0x00200010 + i * 0x2000
def F.lnkTestEn (i : Nat) : Fld := ⟨R.lnkTest i, 0, 1⟩
def F.lnkTestPattern (i : Nat) : Fld := ⟨R.lnkTest i, 1, 2⟩
def F.lnkTestGen (i : Nat) : Fld := ⟨R.lnkTest i, 3, 1⟩
def F.lnkTestChk (i : Nat) : Fld := ⟨R.lnkTest i, 4, 1⟩
def F.lnkTestLoop (i : Nat) : Fld := ⟨R.lnkTest i, 5, 2⟩
def F.lnkTestInv (i : Nat) : Fld := ⟨R.lnkTest i, 7, 1⟩
def R.lnkInj (i : Nat) : Nat := 0x00200014 + i * 0x2000
def F.lnkInjSingle (i : Nat) : Fld := ⟨R.lnkInj i, 0, 1⟩
def F.lnkInjBurst (i : Nat) : Fld := ⟨R.lnkInj i, 1, 1⟩
def F.lnkInjBlen (i : Nat) : Fld := ⟨R.lnkInj i, 8, 8⟩
def R.lnkPrbs (i : Nat) : Nat := 0x00200018 + i * 0x2000
def F.lnkPrbsChkLock (i : Nat) : Fld := ⟨R.lnkPrbs i, 0, 1⟩
def F.lnkPrbsLoss (i : Nat) : Fld := ⟨R.lnkPrbs i, 1, 1⟩
def R.lnkPrbsErr (i : Nat) : Nat := 0x0020001C + i * 0x2000
def F.lnkPrbsErr (i : Nat) : Fld := ⟨R.lnkPrbsErr i, 0, 32⟩
def R.lnkPrbsBitsLo (i : Nat) : Nat := 0x00200020 + i * 0x2000
def F.lnkPrbsBitsLo (i : Nat) : Fld := ⟨R.lnkPrbsBitsLo i, 0, 32⟩
def R.lnkPrbsBitsHi (i : Nat) : Nat := 0x00200024 + i * 0x2000
def F.lnkPrbsBitsHi (i : Nat) : Fld := ⟨R.lnkPrbsBitsHi i, 0, 32⟩
def R.lnkCntRxFrames (i : Nat) : Nat := 0x00200040 + i * 0x2000
def F.lnkCntRxFrames (i : Nat) : Fld := ⟨R.lnkCntRxFrames i, 0, 32⟩
def R.lnkCntRxFcs (i : Nat) : Nat := 0x00200044 + i * 0x2000
def F.lnkCntRxFcs (i : Nat) : Fld := ⟨R.lnkCntRxFcs i, 0, 32⟩
def R.lnkCntRxLen (i : Nat) : Nat := 0x00200048 + i * 0x2000
def F.lnkCntRxLen (i : Nat) : Fld := ⟨R.lnkCntRxLen i, 0, 32⟩
def R.lnkCntRxMac (i : Nat) : Nat := 0x0020004C + i * 0x2000
def F.lnkCntRxMac (i : Nat) : Fld := ⟨R.lnkCntRxMac i, 0, 32⟩
def R.lnkCntRxType (i : Nat) : Nat := 0x00200050 + i * 0x2000
def F.lnkCntRxType (i : Nat) : Fld := ⟨R.lnkCntRxType i, 0, 32⟩
def R.lnkCntRxIphdr (i : Nat) : Nat := 0x00200054 + i * 0x2000
def F.lnkCntRxIphdr (i : Nat) : Fld := ⟨R.lnkCntRxIphdr i, 0, 32⟩
def R.lnkCntRxFrag (i : Nat) : Nat := 0x00200058 + i * 0x2000
def F.lnkCntRxFrag (i : Nat) : Fld := ⟨R.lnkCntRxFrag i, 0, 32⟩
def R.lnkCntRxNoflow (i : Nat) : Nat := 0x0020005C + i * 0x2000
def F.lnkCntRxNoflow (i : Nat) : Fld := ⟨R.lnkCntRxNoflow i, 0, 32⟩
def R.lnkCntRxOther (i : Nat) : Nat := 0x00200060 + i * 0x2000
def F.lnkCntRxOther (i : Nat) : Fld := ⟨R.lnkCntRxOther i, 0, 32⟩
def R.lnkCntRxPause (i : Nat) : Nat := 0x00200064 + i * 0x2000
def F.lnkCntRxPause (i : Nat) : Fld := ⟨R.lnkCntRxPause i, 0, 32⟩
def R.lnkCntTxFrames (i : Nat) : Nat := 0x00200068 + i * 0x2000
def F.lnkCntTxFrames (i : Nat) : Fld := ⟨R.lnkCntTxFrames i, 0, 32⟩
def R.lnkCntTxDisc (i : Nat) : Nat := 0x0020006C + i * 0x2000
def F.lnkCntTxDisc (i : Nat) : Fld := ⟨R.lnkCntTxDisc i, 0, 32⟩
def R.lnkCntBlkErr (i : Nat) : Nat := 0x00200070 + i * 0x2000
def F.lnkCntBlkErr (i : Nat) : Fld := ⟨R.lnkCntBlkErr i, 0, 32⟩
def R.lnkCntFecCorr (i : Nat) : Nat := 0x00200074 + i * 0x2000
def F.lnkCntFecCorr (i : Nat) : Fld := ⟨R.lnkCntFecCorr i, 0, 32⟩
def R.lnkCntFecUncorr (i : Nat) : Nat := 0x00200078 + i * 0x2000
def F.lnkCntFecUncorr (i : Nat) : Fld := ⟨R.lnkCntFecUncorr i, 0, 32⟩
def R.lnkCntLockLoss (i : Nat) : Nat := 0x0020007C + i * 0x2000
def F.lnkCntLockLoss (i : Nat) : Fld := ⟨R.lnkCntLockLoss i, 0, 32⟩
def R.lnkCntTrainFail (i : Nat) : Nat := 0x00200080 + i * 0x2000
def F.lnkCntTrainFail (i : Nat) : Fld := ⟨R.lnkCntTrainFail i, 0, 32⟩
def R.lnkCntPolFlip (i : Nat) : Nat := 0x00200084 + i * 0x2000
def F.lnkCntPolFlip (i : Nat) : Fld := ⟨R.lnkCntPolFlip i, 0, 32⟩
def R.lnkQCfg (i : Nat) : Nat := 0x00201000 + i * 0x8000
def F.lnkQCfgFamily (i : Nat) : Fld := ⟨R.lnkQCfg i, 0, 1⟩
def F.lnkQCfgBond (i : Nat) : Fld := ⟨R.lnkQCfg i, 1, 1⟩
def F.lnkQCfgFec100 (i : Nat) : Fld := ⟨R.lnkQCfg i, 2, 1⟩
def R.lnkQStat (i : Nat) : Nat := 0x00201004 + i * 0x8000
def F.lnkQStatPllLock (i : Nat) : Fld := ⟨R.lnkQStat i, 0, 1⟩
def F.lnkQStatAlign (i : Nat) : Fld := ⟨R.lnkQStat i, 1, 1⟩
def F.lnkQStatMap (i : Nat) : Fld := ⟨R.lnkQStat i, 2, 8⟩
def F.lnkQStatSkew (i : Nat) : Fld := ⟨R.lnkQStat i, 16, 8⟩

/-! Block ING, spec/05_ingest.md -/

def R.ingCtl : Nat := 0x00400000
def F.ingCtlMvInitCred : Fld := ⟨R.ingCtl, 0, 8⟩
def R.ingSrcCfg (i : Nat) : Nat := 0x00401000 + i * 0x400
def F.ingSrcCfgKind (i : Nat) : Fld := ⟨R.ingSrcCfg i, 0, 2⟩
def F.ingSrcCfgEn (i : Nat) : Fld := ⟨R.ingSrcCfg i, 2, 1⟩
def F.ingSrcCfgCbase (i : Nat) : Fld := ⟨R.ingSrcCfg i, 3, 1⟩
def F.ingSrcCfgMerge (i : Nat) : Fld := ⟨R.ingSrcCfg i, 4, 1⟩
def F.ingSrcCfgNbuf (i : Nat) : Fld := ⟨R.ingSrcCfg i, 5, 2⟩
def F.ingSrcCfgScrlEn (i : Nat) : Fld := ⟨R.ingSrcCfg i, 7, 1⟩
def F.ingSrcCfgCmIgn (i : Nat) : Fld := ⟨R.ingSrcCfg i, 8, 2⟩
def F.ingSrcCfgLossMs (i : Nat) : Fld := ⟨R.ingSrcCfg i, 16, 8⟩
def R.ingSrcFmt (i : Nat) : Nat := 0x00401004 + i * 0x400
def F.ingSrcFmtSamp (i : Nat) : Fld := ⟨R.ingSrcFmt i, 0, 1⟩
def F.ingSrcFmtPack (i : Nat) : Fld := ⟨R.ingSrcFmt i, 1, 1⟩
def F.ingSrcFmtCspace (i : Nat) : Fld := ⟨R.ingSrcFmt i, 2, 2⟩
def F.ingSrcFmtFrate (i : Nat) : Fld := ⟨R.ingSrcFmt i, 4, 4⟩
def F.ingSrcFmtPt (i : Nat) : Fld := ⟨R.ingSrcFmt i, 8, 7⟩
def R.ingSrcSize (i : Nat) : Nat := 0x00401008 + i * 0x400
def F.ingSrcSizeW (i : Nat) : Fld := ⟨R.ingSrcSize i, 0, 16⟩
def F.ingSrcSizeH (i : Nat) : Fld := ⟨R.ingSrcSize i, 16, 16⟩
def R.ingSrcStat (i : Nat) : Nat := 0x0040100C + i * 0x400
def F.ingSrcStatState (i : Nat) : Fld := ⟨R.ingSrcStat i, 0, 2⟩
def F.ingSrcStatPathAUp (i : Nat) : Fld := ⟨R.ingSrcStat i, 2, 1⟩
def F.ingSrcStatPathBUp (i : Nat) : Fld := ⟨R.ingSrcStat i, 3, 1⟩
def F.ingSrcStatErr (i : Nat) : Fld := ⟨R.ingSrcStat i, 4, 4⟩
def F.ingSrcStatRefused (i : Nat) : Fld := ⟨R.ingSrcStat i, 8, 1⟩
def F.ingSrcStatFrame (i : Nat) : Fld := ⟨R.ingSrcStat i, 16, 16⟩
def R.ingSrcPath (i j : Nat) : Nat := 0x00401010 + i * 0x400 + j * 0x10
def F.ingSrcPathLane (i j : Nat) : Fld := ⟨R.ingSrcPath i j, 0, 8⟩
def F.ingSrcPathEn (i j : Nat) : Fld := ⟨R.ingSrcPath i j, 8, 1⟩
def F.ingSrcPathVlan (i j : Nat) : Fld := ⟨R.ingSrcPath i j, 16, 12⟩
def R.ingSrcGrp (i j : Nat) : Nat := 0x00401014 + i * 0x400 + j * 0x10
def F.ingSrcGrpAddr (i j : Nat) : Fld := ⟨R.ingSrcGrp i j, 0, 32⟩
def R.ingSrcFlt (i j : Nat) : Nat := 0x00401018 + i * 0x400 + j * 0x10
def F.ingSrcFltAddr (i j : Nat) : Fld := ⟨R.ingSrcFlt i j, 0, 32⟩
def R.ingSrcUdp (i j : Nat) : Nat := 0x0040101C + i * 0x400 + j * 0x10
def F.ingSrcUdpPort (i j : Nat) : Fld := ⟨R.ingSrcUdp i j, 0, 16⟩
def R.ingSrcMerge (i : Nat) : Nat := 0x00401030 + i * 0x400
def F.ingSrcMergeSkewUs (i : Nat) : Fld := ⟨R.ingSrcMerge i, 0, 14⟩
def R.ingSrcCapt (i : Nat) : Nat := 0x00401034 + i * 0x400
def F.ingSrcCaptStamp (i : Nat) : Fld := ⟨R.ingSrcCapt i, 0, 32⟩
def R.ingSrcScrlPos (i j : Nat) : Nat := 0x00401040 + i * 0x400 + j * 0x8
def F.ingSrcScrlPosX0 (i j : Nat) : Fld := ⟨R.ingSrcScrlPos i j, 0, 16⟩
def F.ingSrcScrlPosY0 (i j : Nat) : Fld := ⟨R.ingSrcScrlPos i j, 16, 16⟩
def R.ingSrcScrlDim (i j : Nat) : Nat := 0x00401044 + i * 0x400 + j * 0x8
def F.ingSrcScrlDimW (i j : Nat) : Fld := ⟨R.ingSrcScrlDim i j, 0, 16⟩
def F.ingSrcScrlDimH (i j : Nat) : Fld := ⟨R.ingSrcScrlDim i j, 16, 16⟩
def R.ingSrcScrlPar (i : Nat) : Nat := 0x00401060 + i * 0x400
def F.ingSrcScrlParDxMax (i : Nat) : Fld := ⟨R.ingSrcScrlPar i, 0, 8⟩
def F.ingSrcScrlParDyMax (i : Nat) : Fld := ⟨R.ingSrcScrlPar i, 8, 8⟩
def F.ingSrcScrlParMin (i : Nat) : Fld := ⟨R.ingSrcScrlPar i, 16, 8⟩
def R.ingSrcScrlRes (i j : Nat) : Nat := 0x00401070 + i * 0x400 + j * 0x4
def F.ingSrcScrlResConf (i j : Nat) : Fld := ⟨R.ingSrcScrlRes i j, 0, 8⟩
def F.ingSrcScrlResDx (i j : Nat) : Fld := ⟨R.ingSrcScrlRes i j, 8, 9⟩
def F.ingSrcScrlResDy (i j : Nat) : Fld := ⟨R.ingSrcScrlRes i j, 17, 9⟩
def F.ingSrcScrlResValid (i j : Nat) : Fld := ⟨R.ingSrcScrlRes i j, 26, 1⟩
def R.ingSrcChg (i : Nat) : Nat := 0x00401080 + i * 0x400
def F.ingSrcChgTiles (i : Nat) : Fld := ⟨R.ingSrcChg i, 0, 16⟩
def R.ingSrcCntFrames (i : Nat) : Nat := 0x00401100 + i * 0x400
def F.ingSrcCntFrames (i : Nat) : Fld := ⟨R.ingSrcCntFrames i, 0, 32⟩
def R.ingSrcCntIncomplete (i : Nat) : Nat := 0x00401104 + i * 0x400
def F.ingSrcCntIncomplete (i : Nat) : Fld := ⟨R.ingSrcCntIncomplete i, 0, 32⟩
def R.ingSrcCntPktLost (i : Nat) : Nat := 0x00401108 + i * 0x400
def F.ingSrcCntPktLost (i : Nat) : Fld := ⟨R.ingSrcCntPktLost i, 0, 32⟩
def R.ingSrcCntPktDup (i : Nat) : Nat := 0x0040110C + i * 0x400
def F.ingSrcCntPktDup (i : Nat) : Fld := ⟨R.ingSrcCntPktDup i, 0, 32⟩
def R.ingSrcCntPktLate (i : Nat) : Nat := 0x00401110 + i * 0x400
def F.ingSrcCntPktLate (i : Nat) : Fld := ⟨R.ingSrcCntPktLate i, 0, 32⟩
def R.ingSrcCntBadHdr (i : Nat) : Nat := 0x00401114 + i * 0x400
def F.ingSrcCntBadHdr (i : Nat) : Fld := ⟨R.ingSrcCntBadHdr i, 0, 32⟩
def R.ingSrcCntNobuf (i : Nat) : Nat := 0x00401118 + i * 0x400
def F.ingSrcCntNobuf (i : Nat) : Fld := ⟨R.ingSrcCntNobuf i, 0, 32⟩
def R.ingSrcCntCaptBad (i : Nat) : Nat := 0x0040111C + i * 0x400
def F.ingSrcCntCaptBad (i : Nat) : Fld := ⟨R.ingSrcCntCaptBad i, 0, 32⟩
def R.ingSrcCntRowMiss (i : Nat) : Nat := 0x00401120 + i * 0x400
def F.ingSrcCntRowMiss (i : Nat) : Fld := ⟨R.ingSrcCntRowMiss i, 0, 32⟩
def R.ingSrcCntPathFirstA (i : Nat) : Nat := 0x00401124 + i * 0x400
def F.ingSrcCntPathFirstA (i : Nat) : Fld := ⟨R.ingSrcCntPathFirstA i, 0, 32⟩
def R.ingSrcCntPathFirstB (i : Nat) : Nat := 0x00401128 + i * 0x400
def F.ingSrcCntPathFirstB (i : Nat) : Fld := ⟨R.ingSrcCntPathFirstB i, 0, 32⟩
def R.ingSrcCntCreditOvf (i : Nat) : Nat := 0x0040112C + i * 0x400
def F.ingSrcCntCreditOvf (i : Nat) : Fld := ⟨R.ingSrcCntCreditOvf i, 0, 32⟩
def R.ingSrcCntCrcErr (i : Nat) : Nat := 0x00401130 + i * 0x400
def F.ingSrcCntCrcErr (i : Nat) : Fld := ⟨R.ingSrcCntCrcErr i, 0, 32⟩
def R.ingAflCfg (i : Nat) : Nat := 0x00490000 + i * 0x20
def F.ingAflCfgLaneA (i : Nat) : Fld := ⟨R.ingAflCfg i, 0, 8⟩
def F.ingAflCfgLaneB (i : Nat) : Fld := ⟨R.ingAflCfg i, 8, 8⟩
def F.ingAflCfgCh (i : Nat) : Fld := ⟨R.ingAflCfg i, 16, 4⟩
def F.ingAflCfgPtime (i : Nat) : Fld := ⟨R.ingAflCfg i, 20, 1⟩
def F.ingAflCfgL24 (i : Nat) : Fld := ⟨R.ingAflCfg i, 21, 1⟩
def F.ingAflCfgMerge (i : Nat) : Fld := ⟨R.ingAflCfg i, 22, 1⟩
def F.ingAflCfgEn (i : Nat) : Fld := ⟨R.ingAflCfg i, 23, 1⟩
def R.ingAflGrpA (i : Nat) : Nat := 0x00490004 + i * 0x20
def F.ingAflGrpAAddr (i : Nat) : Fld := ⟨R.ingAflGrpA i, 0, 32⟩
def R.ingAflGrpB (i : Nat) : Nat := 0x00490008 + i * 0x20
def F.ingAflGrpBAddr (i : Nat) : Fld := ⟨R.ingAflGrpB i, 0, 32⟩
def R.ingAflUdp (i : Nat) : Nat := 0x0049000C + i * 0x20
def F.ingAflUdpPort (i : Nat) : Fld := ⟨R.ingAflUdp i, 0, 16⟩
def F.ingAflUdpPt (i : Nat) : Fld := ⟨R.ingAflUdp i, 16, 7⟩

/-! Block DEC, spec/06_camera_decode.md -/

def R.decCtl : Nat := 0x00500000
def F.decCtlPrio : Fld := ⟨R.decCtl, 0, 4⟩
def R.decLoad : Nat := 0x00500004
def F.decLoadLoad : Fld := ⟨R.decLoad, 0, 16⟩
def F.decLoadActive : Fld := ⟨R.decLoad, 16, 10⟩
def R.decSrcCfg (i : Nat) : Nat := 0x00501000 + i * 0x100
def F.decSrcCfgCodec (i : Nat) : Fld := ⟨R.decSrcCfg i, 0, 1⟩
def F.decSrcCfgNpic (i : Nat) : Fld := ⟨R.decSrcCfg i, 4, 5⟩
def F.decSrcCfgQdepth (i : Nat) : Fld := ⟨R.decSrcCfg i, 12, 4⟩
def F.decSrcCfgBsbuf (i : Nat) : Fld := ⟨R.decSrcCfg i, 16, 5⟩
def R.decSrcStat (i : Nat) : Nat := 0x00501004 + i * 0x100
def F.decSrcStatDstate (i : Nat) : Fld := ⟨R.decSrcStat i, 0, 3⟩
def F.decSrcStatProfile (i : Nat) : Fld := ⟨R.decSrcStat i, 4, 2⟩
def F.decSrcStatLevel (i : Nat) : Fld := ⟨R.decSrcStat i, 8, 8⟩
def F.decSrcStatQueued (i : Nat) : Fld := ⟨R.decSrcStat i, 16, 4⟩
def R.decSrcSps (i : Nat) : Nat := 0x00501008 + i * 0x100
def F.decSrcSpsW (i : Nat) : Fld := ⟨R.decSrcSps i, 0, 16⟩
def F.decSrcSpsH (i : Nat) : Fld := ⟨R.decSrcSps i, 16, 16⟩
def R.decSrcConc (i : Nat) : Nat := 0x0050100C + i * 0x100
def F.decSrcConcCause (i : Nat) : Fld := ⟨R.decSrcConc i, 0, 3⟩
def F.decSrcConcPics (i : Nat) : Fld := ⟨R.decSrcConc i, 16, 16⟩
def R.decSrcCntAuRx (i : Nat) : Nat := 0x00501040 + i * 0x100
def F.decSrcCntAuRx (i : Nat) : Fld := ⟨R.decSrcCntAuRx i, 0, 32⟩
def R.decSrcCntAuDec (i : Nat) : Nat := 0x00501044 + i * 0x100
def F.decSrcCntAuDec (i : Nat) : Fld := ⟨R.decSrcCntAuDec i, 0, 32⟩
def R.decSrcCntAuDrop (i : Nat) : Nat := 0x00501048 + i * 0x100
def F.decSrcCntAuDrop (i : Nat) : Fld := ⟨R.decSrcCntAuDrop i, 0, 32⟩
def R.decSrcCntOversize (i : Nat) : Nat := 0x0050104C + i * 0x100
def F.decSrcCntOversize (i : Nat) : Fld := ⟨R.decSrcCntOversize i, 0, 32⟩
def R.decSrcCntSliceLost (i : Nat) : Nat := 0x00501050 + i * 0x100
def F.decSrcCntSliceLost (i : Nat) : Fld := ⟨R.decSrcCntSliceLost i, 0, 32⟩
def R.decSrcCntRefMissing (i : Nat) : Nat := 0x00501054 + i * 0x100
def F.decSrcCntRefMissing (i : Nat) : Fld := ⟨R.decSrcCntRefMissing i, 0, 32⟩
def R.decSrcCntSyntax (i : Nat) : Nat := 0x00501058 + i * 0x100
def F.decSrcCntSyntax (i : Nat) : Fld := ⟨R.decSrcCntSyntax i, 0, 32⟩
def R.decSrcCntUnsup (i : Nat) : Nat := 0x0050105C + i * 0x100
def F.decSrcCntUnsup (i : Nat) : Fld := ⟨R.decSrcCntUnsup i, 0, 32⟩
def R.decSrcCntConcEnter (i : Nat) : Nat := 0x00501060 + i * 0x100
def F.decSrcCntConcEnter (i : Nat) : Fld := ⟨R.decSrcCntConcEnter i, 0, 32⟩
def R.decSrcCntConcPic (i : Nat) : Nat := 0x00501064 + i * 0x100
def F.decSrcCntConcPic (i : Nat) : Fld := ⟨R.decSrcCntConcPic i, 0, 32⟩
def R.decSrcCntRaslSkip (i : Nat) : Nat := 0x00501068 + i * 0x100
def F.decSrcCntRaslSkip (i : Nat) : Fld := ⟨R.decSrcCntRaslSkip i, 0, 32⟩
def R.decSrcCntParkedAu (i : Nat) : Nat := 0x0050106C + i * 0x100
def F.decSrcCntParkedAu (i : Nat) : Fld := ⟨R.decSrcCntParkedAu i, 0, 32⟩
def R.decSrcCntWaitAu (i : Nat) : Nat := 0x00501070 + i * 0x100
def F.decSrcCntWaitAu (i : Nat) : Fld := ⟨R.decSrcCntWaitAu i, 0, 32⟩

/-! Block CMP, spec/07_layers_and_commit.md -/

def R.cmpChlCommit (i j : Nat) : Nat := 0x00600100 + i * 0x10000 + j * 0x10
def F.cmpChlCommitSet (i j : Nat) : Fld := ⟨R.cmpChlCommit i j, 0, 1⟩
def F.cmpChlCommitRefused (i j : Nat) : Fld := ⟨R.cmpChlCommit i j, 1, 1⟩
def F.cmpChlCommitRefuse (i j : Nat) : Fld := ⟨R.cmpChlCommit i j, 4, 4⟩
def F.cmpChlCommitFirst (i j : Nat) : Fld := ⟨R.cmpChlCommit i j, 8, 6⟩
def R.cmpLyrCtl (i j : Nat) : Nat := 0x00601000 + i * 0x10000 + j * 0x100
def F.cmpLyrCtlEn (i j : Nat) : Fld := ⟨R.cmpLyrCtl i j, 0, 1⟩
def F.cmpLyrCtlPolicy (i j : Nat) : Fld := ⟨R.cmpLyrCtl i j, 1, 2⟩
def F.cmpLyrCtlZ (i j : Nat) : Fld := ⟨R.cmpLyrCtl i j, 4, 4⟩
def F.cmpLyrCtlChan (i j : Nat) : Fld := ⟨R.cmpLyrCtl i j, 8, 8⟩
def F.cmpLyrCtlSrc (i j : Nat) : Fld := ⟨R.cmpLyrCtl i j, 16, 9⟩
def R.cmpLyrDpos (i j : Nat) : Nat := 0x00601004 + i * 0x10000 + j * 0x100
def F.cmpLyrDposX (i j : Nat) : Fld := ⟨R.cmpLyrDpos i j, 0, 16⟩
def F.cmpLyrDposY (i j : Nat) : Fld := ⟨R.cmpLyrDpos i j, 16, 16⟩
def R.cmpLyrDdim (i j : Nat) : Nat := 0x00601008 + i * 0x10000 + j * 0x100
def F.cmpLyrDdimW (i j : Nat) : Fld := ⟨R.cmpLyrDdim i j, 0, 16⟩
def F.cmpLyrDdimH (i j : Nat) : Fld := ⟨R.cmpLyrDdim i j, 16, 16⟩
def R.cmpLyrCpos (i j : Nat) : Nat := 0x0060100C + i * 0x10000 + j * 0x100
def F.cmpLyrCposX (i j : Nat) : Fld := ⟨R.cmpLyrCpos i j, 0, 16⟩
def F.cmpLyrCposY (i j : Nat) : Fld := ⟨R.cmpLyrCpos i j, 16, 16⟩
def R.cmpLyrCdim (i j : Nat) : Nat := 0x00601010 + i * 0x10000 + j * 0x100
def F.cmpLyrCdimW (i j : Nat) : Fld := ⟨R.cmpLyrCdim i j, 0, 16⟩
def F.cmpLyrCdimH (i j : Nat) : Fld := ⟨R.cmpLyrCdim i j, 16, 16⟩
def R.cmpLyrAlpha (i j : Nat) : Nat := 0x00601014 + i * 0x10000 + j * 0x100
def F.cmpLyrAlphaAlpha (i j : Nat) : Fld := ⟨R.cmpLyrAlpha i j, 0, 10⟩
def R.cmpLyrFill (i j : Nat) : Nat := 0x00601018 + i * 0x10000 + j * 0x100
def F.cmpLyrFillC0 (i j : Nat) : Fld := ⟨R.cmpLyrFill i j, 0, 10⟩
def F.cmpLyrFillC1 (i j : Nat) : Fld := ⟨R.cmpLyrFill i j, 10, 10⟩
def F.cmpLyrFillC2 (i j : Nat) : Fld := ⟨R.cmpLyrFill i j, 20, 10⟩
def R.cmpLyrCommit (i j : Nat) : Nat := 0x00601040 + i * 0x10000 + j * 0x100
def F.cmpLyrCommitCommit (i j : Nat) : Fld := ⟨R.cmpLyrCommit i j, 0, 1⟩
def R.cmpLyrStat (i j : Nat) : Nat := 0x00601044 + i * 0x10000 + j * 0x100
def F.cmpLyrStatLstate (i j : Nat) : Fld := ⟨R.cmpLyrStat i j, 0, 2⟩
def F.cmpLyrStatRefuse (i j : Nat) : Fld := ⟨R.cmpLyrStat i j, 4, 4⟩
def F.cmpLyrStatRefused (i j : Nat) : Fld := ⟨R.cmpLyrStat i j, 8, 1⟩
def R.cmpLyrAge (i j : Nat) : Nat := 0x00601048 + i * 0x10000 + j * 0x100
def F.cmpLyrAgeMax (i j : Nat) : Fld := ⟨R.cmpLyrAge i j, 0, 16⟩
def F.cmpLyrAgeNotfresh (i j : Nat) : Fld := ⟨R.cmpLyrAge i j, 16, 16⟩
def R.cmpLyrMissfr (i j : Nat) : Nat := 0x0060104C + i * 0x10000 + j * 0x100
def F.cmpLyrMissfr (i j : Nat) : Fld := ⟨R.cmpLyrMissfr i j, 0, 32⟩
def R.cmpLyrStalefr (i j : Nat) : Nat := 0x00601050 + i * 0x10000 + j * 0x100
def F.cmpLyrStalefr (i j : Nat) : Fld := ⟨R.cmpLyrStalefr i j, 0, 32⟩

/-! Block CMP, spec/08_pixel_pipeline.md -/

def R.cmpLyrScl (i j : Nat) : Nat := 0x00601020 + i * 0x10000 + j * 0x100
def F.cmpLyrSclHset (i j : Nat) : Fld := ⟨R.cmpLyrScl i j, 0, 4⟩
def F.cmpLyrSclVset (i j : Nat) : Fld := ⟨R.cmpLyrScl i j, 4, 4⟩
def R.cmpLyrPre (i j : Nat) : Nat := 0x00601024 + i * 0x10000 + j * 0x100
def F.cmpLyrPreSlot (i j : Nat) : Fld := ⟨R.cmpLyrPre i j, 0, 5⟩
def F.cmpLyrPreEn (i j : Nat) : Fld := ⟨R.cmpLyrPre i j, 5, 1⟩
def R.cmpLyrCsc (i j : Nat) : Nat := 0x00601028 + i * 0x10000 + j * 0x100
def F.cmpLyrCscMat (i j : Nat) : Fld := ⟨R.cmpLyrCsc i j, 0, 2⟩
def R.cmpChlBg (i j : Nat) : Nat := 0x00600104 + i * 0x10000 + j * 0x10
def F.cmpChlBgC0 (i j : Nat) : Fld := ⟨R.cmpChlBg i j, 0, 10⟩
def F.cmpChlBgC1 (i j : Nat) : Fld := ⟨R.cmpChlBg i j, 10, 10⟩
def F.cmpChlBgC2 (i j : Nat) : Fld := ⟨R.cmpChlBg i j, 20, 10⟩
def R.cmpChlOut (i j : Nat) : Nat := 0x00600108 + i * 0x10000 + j * 0x10
def F.cmpChlOutRep (i j : Nat) : Fld := ⟨R.cmpChlOut i j, 0, 1⟩
def F.cmpChlOutKmat (i j : Nat) : Fld := ⟨R.cmpChlOut i j, 1, 1⟩
def F.cmpChlOutPostEn (i j : Nat) : Fld := ⟨R.cmpChlOut i j, 2, 1⟩
def F.cmpChlOutPost (i j : Nat) : Fld := ⟨R.cmpChlOut i j, 3, 5⟩
def F.cmpChlOutRepIgn (i j : Nat) : Fld := ⟨R.cmpChlOut i j, 8, 1⟩
def R.cmpLoad (i : Nat) : Nat := 0x00600004 + i * 0x10000
def F.cmpLoadAdm (i : Nat) : Fld := ⟨R.cmpLoad i, 0, 16⟩
def F.cmpLoadBusy (i : Nat) : Fld := ⟨R.cmpLoad i, 16, 8⟩
def R.cmpLatecmp (i : Nat) : Nat := 0x00600008 + i * 0x10000
def F.cmpLatecmp (i : Nat) : Fld := ⟨R.cmpLatecmp i, 0, 32⟩
def R.cmpCoefSel (i : Nat) : Nat := 0x00600200 + i * 0x10000
def F.cmpCoefSelSet (i : Nat) : Fld := ⟨R.cmpCoefSel i, 0, 4⟩
def F.cmpCoefSelTaps (i : Nat) : Fld := ⟨R.cmpCoefSel i, 4, 2⟩
def R.cmpCoefData (i : Nat) : Nat := 0x00600204 + i * 0x10000
def F.cmpCoefDataTapE (i : Nat) : Fld := ⟨R.cmpCoefData i, 0, 12⟩
def F.cmpCoefDataTapO (i : Nat) : Fld := ⟨R.cmpCoefData i, 16, 12⟩
def R.cmpCoefLoad (i : Nat) : Nat := 0x00600208 + i * 0x10000
def F.cmpCoefLoadLoad (i : Nat) : Fld := ⟨R.cmpCoefLoad i, 0, 1⟩
def F.cmpCoefLoadResult (i : Nat) : Fld := ⟨R.cmpCoefLoad i, 4, 3⟩
def F.cmpCoefLoadPhase (i : Nat) : Fld := ⟨R.cmpCoefLoad i, 8, 6⟩
def R.cmpCoefValid (i : Nat) : Nat := 0x0060020C + i * 0x10000
def F.cmpCoefValidValid (i : Nat) : Fld := ⟨R.cmpCoefValid i, 0, 16⟩
def R.cmpCoefTaps (i : Nat) : Nat := 0x00600210 + i * 0x10000
def F.cmpCoefTapsTaps (i : Nat) : Fld := ⟨R.cmpCoefTaps i, 0, 32⟩
def R.cmpLutSel (i : Nat) : Nat := 0x00600220 + i * 0x10000
def F.cmpLutSelSlot (i : Nat) : Fld := ⟨R.cmpLutSel i, 0, 5⟩
def F.cmpLutSelPost (i : Nat) : Fld := ⟨R.cmpLutSel i, 5, 1⟩
def R.cmpLutData (i : Nat) : Nat := 0x00600224 + i * 0x10000
def F.cmpLutDataPoint (i : Nat) : Fld := ⟨R.cmpLutData i, 0, 14⟩
def R.cmpLutLoad (i : Nat) : Nat := 0x00600228 + i * 0x10000
def F.cmpLutLoadLoad (i : Nat) : Fld := ⟨R.cmpLutLoad i, 0, 1⟩
def F.cmpLutLoadResult (i : Nat) : Fld := ⟨R.cmpLutLoad i, 4, 3⟩
def R.cmpLutValid (i : Nat) : Nat := 0x0060022C + i * 0x10000
def F.cmpLutValidValid (i : Nat) : Fld := ⟨R.cmpLutValid i, 0, 32⟩
def R.cmpLutType (i : Nat) : Nat := 0x00600230 + i * 0x10000
def F.cmpLutTypePost (i : Nat) : Fld := ⟨R.cmpLutType i, 0, 32⟩

/-! Block ENC, spec/09_encoder_pipeline.md -/

def R.encId (i : Nat) : Nat := 0x00800000 + i * 0x8000
def F.encIdEngine (i : Nat) : Fld := ⟨R.encId i, 0, 7⟩
def F.encIdCluster (i : Nat) : Fld := ⟨R.encId i, 8, 4⟩
def F.encIdPll (i : Nat) : Fld := ⟨R.encId i, 12, 2⟩
def F.encIdUcodeVer (i : Nat) : Fld := ⟨R.encId i, 16, 16⟩
def R.encLoad (i : Nat) : Nat := 0x00800004 + i * 0x8000
def F.encLoadBusy (i : Nat) : Fld := ⟨R.encLoad i, 0, 8⟩
def F.encLoadRes (i : Nat) : Fld := ⟨R.encLoad i, 8, 4⟩
def F.encLoadCtx (i : Nat) : Fld := ⟨R.encLoad i, 16, 9⟩
def R.encRes (i j : Nat) : Nat := 0x00800008 + i * 0x8000 + j * 0x4
def F.encResCtxA (i j : Nat) : Fld := ⟨R.encRes i j, 0, 9⟩
def F.encResValidA (i j : Nat) : Fld := ⟨R.encRes i j, 9, 1⟩
def F.encResCtxB (i j : Nat) : Fld := ⟨R.encRes i j, 16, 9⟩
def F.encResValidB (i j : Nat) : Fld := ⟨R.encRes i j, 25, 1⟩
def R.encRowsLo (i : Nat) : Nat := 0x00800018 + i * 0x8000
def F.encRowsLo (i : Nat) : Fld := ⟨R.encRowsLo i, 0, 32⟩
def R.encRowsHi (i : Nat) : Nat := 0x0080001C + i * 0x8000
def F.encRowsHi (i : Nat) : Fld := ⟨R.encRowsHi i, 0, 32⟩
def R.encSpec (i : Nat) : Nat := 0x00800020 + i * 0x8000
def F.encSpecUnpick (i : Nat) : Fld := ⟨R.encSpec i, 0, 16⟩
def F.encSpecSpecoff (i : Nat) : Fld := ⟨R.encSpec i, 16, 16⟩
def R.encSig (i : Nat) : Nat := 0x00800024 + i * 0x8000
def F.encSigSig (i : Nat) : Fld := ⟨R.encSig i, 0, 32⟩
def R.encSigtag (i : Nat) : Nat := 0x00800028 + i * 0x8000
def F.encSigtagCtx (i : Nat) : Fld := ⟨R.encSigtag i, 0, 9⟩
def F.encSigtagRow (i : Nat) : Fld := ⟨R.encSigtag i, 9, 7⟩
def F.encSigtagFrame (i : Nat) : Fld := ⟨R.encSigtag i, 16, 16⟩
def R.encUcode (i : Nat) : Nat := 0x00800030 + i * 0x8000
def F.encUcodeCrc (i : Nat) : Fld := ⟨R.encUcode i, 0, 32⟩

/-! Block ENC, spec/10_motion_and_references.md -/

def R.encMeCntHint (i : Nat) : Nat := 0x00800040 + i * 0x8000
def F.encMeCntHint (i : Nat) : Fld := ⟨R.encMeCntHint i, 0, 32⟩
def R.encMeCntHash (i : Nat) : Nat := 0x00800044 + i * 0x8000
def F.encMeCntHash (i : Nat) : Fld := ⟨R.encMeCntHash i, 0, 32⟩
def R.encMeCntHfalse (i : Nat) : Nat := 0x00800048 + i * 0x8000
def F.encMeCntHfalse (i : Nat) : Fld := ⟨R.encMeCntHfalse i, 0, 32⟩
def R.encMeCntDrop (i : Nat) : Nat := 0x0080004C + i * 0x8000
def F.encMeCntDrop (i : Nat) : Fld := ⟨R.encMeCntDrop i, 0, 32⟩

/-! Block ENC, spec/15_engine_redundancy.md -/

def R.encHealth (i : Nat) : Nat := 0x00800100 + i * 0x8000
def F.encHealthEstate (i : Nat) : Fld := ⟨R.encHealth i, 0, 3⟩
def F.encHealthRepairs (i : Nat) : Fld := ⟨R.encHealth i, 4, 4⟩
def F.encHealthPassAge (i : Nat) : Fld := ⟨R.encHealth i, 8, 8⟩
def F.encHealthCause (i : Nat) : Fld := ⟨R.encHealth i, 16, 3⟩
def R.encRedCmd (i : Nat) : Nat := 0x00800104 + i * 0x8000
def F.encRedCmdCondemn (i : Nat) : Fld := ⟨R.encRedCmd i, 0, 1⟩
def F.encRedCmdRetest (i : Nat) : Fld := ⟨R.encRedCmd i, 1, 1⟩
def R.encInj (i : Nat) : Nat := 0x00800108 + i * 0x8000
def F.encInjResidue (i : Nat) : Fld := ⟨R.encInj i, 0, 1⟩
def F.encInjParity (i : Nat) : Fld := ⟨R.encInj i, 1, 1⟩
def F.encInjSig (i : Nat) : Fld := ⟨R.encInj i, 2, 1⟩
def R.encRedCntPass (i : Nat) : Nat := 0x00800110 + i * 0x8000
def F.encRedCntPass (i : Nat) : Fld := ⟨R.encRedCntPass i, 0, 32⟩
def R.encRedCntFail (i : Nat) : Nat := 0x00800114 + i * 0x8000
def F.encRedCntFail (i : Nat) : Fld := ⟨R.encRedCntFail i, 0, 32⟩
def R.encRedCntFlag (i : Nat) : Nat := 0x00800118 + i * 0x8000
def F.encRedCntFlag (i : Nat) : Fld := ⟨R.encRedCntFlag i, 0, 32⟩
def R.encRedCntSigmis (i : Nat) : Nat := 0x0080011C + i * 0x8000
def F.encRedCntSigmis (i : Nat) : Fld := ⟨R.encRedCntSigmis i, 0, 32⟩

/-! Block CHN, spec/01_guarantees.md -/

def R.chnSlotLo (i : Nat) : Nat := 0x00C00100 + i * 0x4000
def F.chnSlotLo (i : Nat) : Fld := ⟨R.chnSlotLo i, 0, 32⟩
def R.chnSlotHi (i : Nat) : Nat := 0x00C00104 + i * 0x4000
def F.chnSlotHi (i : Nat) : Fld := ⟨R.chnSlotHi i, 0, 32⟩
def R.chnAuLo (i : Nat) : Nat := 0x00C00108 + i * 0x4000
def F.chnAuLo (i : Nat) : Fld := ⟨R.chnAuLo i, 0, 32⟩
def R.chnAuHi (i : Nat) : Nat := 0x00C0010C + i * 0x4000
def F.chnAuHi (i : Nat) : Fld := ⟨R.chnAuHi i, 0, 32⟩
def R.chnSkipauLo (i : Nat) : Nat := 0x00C00110 + i * 0x4000
def F.chnSkipauLo (i : Nat) : Fld := ⟨R.chnSkipauLo i, 0, 32⟩
def R.chnSkipauHi (i : Nat) : Nat := 0x00C00114 + i * 0x4000
def F.chnSkipauHi (i : Nat) : Fld := ⟨R.chnSkipauHi i, 0, 32⟩
def R.chnSaferowauLo (i : Nat) : Nat := 0x00C00118 + i * 0x4000
def F.chnSaferowauLo (i : Nat) : Fld := ⟨R.chnSaferowauLo i, 0, 32⟩
def R.chnSaferowauHi (i : Nat) : Nat := 0x00C0011C + i * 0x4000
def F.chnSaferowauHi (i : Nat) : Fld := ⟨R.chnSaferowauHi i, 0, 32⟩
def R.chnSafeauLo (i : Nat) : Nat := 0x00C00120 + i * 0x4000
def F.chnSafeauLo (i : Nat) : Fld := ⟨R.chnSafeauLo i, 0, 32⟩
def R.chnSafeauHi (i : Nat) : Nat := 0x00C00124 + i * 0x4000
def F.chnSafeauHi (i : Nat) : Fld := ⟨R.chnSafeauHi i, 0, 32⟩
def R.chnLaterowLo (i : Nat) : Nat := 0x00C00128 + i * 0x4000
def F.chnLaterowLo (i : Nat) : Fld := ⟨R.chnLaterowLo i, 0, 32⟩
def R.chnLaterowHi (i : Nat) : Nat := 0x00C0012C + i * 0x4000
def F.chnLaterowHi (i : Nat) : Fld := ⟨R.chnLaterowHi i, 0, 32⟩
def R.chnTulleLo (i : Nat) : Nat := 0x00C00130 + i * 0x4000
def F.chnTulleLo (i : Nat) : Fld := ⟨R.chnTulleLo i, 0, 32⟩
def R.chnTulleHi (i : Nat) : Nat := 0x00C00134 + i * 0x4000
def F.chnTulleHi (i : Nat) : Fld := ⟨R.chnTulleHi i, 0, 32⟩
def R.chnDly (i : Nat) : Nat := 0x00C00138 + i * 0x4000
def F.chnDlyDevMax (i : Nat) : Fld := ⟨R.chnDly i, 0, 16⟩
def F.chnDlyDevOver (i : Nat) : Fld := ⟨R.chnDly i, 16, 16⟩
def R.chnPromise (i : Nat) : Nat := 0x00C0013C + i * 0x4000
def F.chnPromiseFrameErr (i : Nat) : Fld := ⟨R.chnPromise i, 0, 1⟩
def F.chnPromiseDelayErr (i : Nat) : Fld := ⟨R.chnPromise i, 1, 1⟩
def F.chnPromiseMarkErr (i : Nat) : Fld := ⟨R.chnPromise i, 2, 1⟩

/-! Block CHN, spec/02_channels_and_capacity.md -/

def R.chnCtl (i : Nat) : Nat := 0x00C00000 + i * 0x4000
def F.chnCtlStart (i : Nat) : Fld := ⟨R.chnCtl i, 0, 1⟩
def F.chnCtlRelease (i : Nat) : Fld := ⟨R.chnCtl i, 1, 1⟩
def R.chnFmt (i : Nat) : Nat := 0x00C00004 + i * 0x4000
def F.chnFmtW32 (i : Nat) : Fld := ⟨R.chnFmt i, 0, 8⟩
def F.chnFmtH8 (i : Nat) : Fld := ⟨R.chnFmt i, 8, 10⟩
def F.chnFmtChroma (i : Nat) : Fld := ⟨R.chnFmt i, 18, 2⟩
def F.chnFmtSpan4 (i : Nat) : Fld := ⟨R.chnFmt i, 20, 1⟩
def F.chnFmtFrate (i : Nat) : Fld := ⟨R.chnFmt i, 24, 4⟩
def R.chnCodec (i : Nat) : Nat := 0x00C00008 + i * 0x4000
def F.chnCodecCodec (i : Nat) : Fld := ⟨R.chnCodec i, 0, 1⟩
def F.chnCodecScc (i : Nat) : Fld := ⟨R.chnCodec i, 1, 1⟩
def F.chnCodecNref (i : Nat) : Fld := ⟨R.chnCodec i, 2, 2⟩
def R.chnClass (i : Nat) : Nat := 0x00C0000C + i * 0x4000
def F.chnClassClass (i : Nat) : Fld := ⟨R.chnClass i, 0, 2⟩
def F.chnClassPrio (i : Nat) : Fld := ⟨R.chnClass i, 8, 4⟩
def F.chnClassAgrp (i : Nat) : Fld := ⟨R.chnClass i, 16, 6⟩
def R.chnCommit (i : Nat) : Nat := 0x00C00010 + i * 0x4000
def F.chnCommitCommit (i : Nat) : Fld := ⟨R.chnCommit i, 0, 1⟩
def F.chnCommitGroup (i : Nat) : Fld := ⟨R.chnCommit i, 1, 1⟩
def R.chnStat (i : Nat) : Nat := 0x00C00014 + i * 0x4000
def F.chnStatState (i : Nat) : Fld := ⟨R.chnStat i, 0, 3⟩
def F.chnStatDuplexLost (i : Nat) : Fld := ⟨R.chnStat i, 3, 1⟩
def F.chnStatRefuse (i : Nat) : Fld := ⟨R.chnStat i, 8, 4⟩
def F.chnStatRefused (i : Nat) : Fld := ⟨R.chnStat i, 12, 1⟩
def R.chnLoad (i : Nat) : Nat := 0x00C00018 + i * 0x4000
def F.chnLoadEnc (i : Nat) : Fld := ⟨R.chnLoad i, 0, 16⟩
def F.chnLoadDram (i : Nat) : Fld := ⟨R.chnLoad i, 16, 16⟩
def R.chnDfix (i : Nat) : Nat := 0x00C00040 + i * 0x4000
def F.chnDfixDfix (i : Nat) : Fld := ⟨R.chnDfix i, 0, 16⟩

/-! Block CHN, spec/03_stitch_timebase.md -/

def R.chnPhase (i : Nat) : Nat := 0x00C00044 + i * 0x4000
def F.chnPhasePhase (i : Nat) : Fld := ⟨R.chnPhase i, 0, 26⟩
def R.chnStitch (i : Nat) : Nat := 0x00C00048 + i * 0x4000
def F.chnStitchStitch (i : Nat) : Fld := ⟨R.chnStitch i, 0, 14⟩
def F.chnStitchFrame (i : Nat) : Fld := ⟨R.chnStitch i, 16, 16⟩
def R.chnFlen (i : Nat) : Nat := 0x00C0004C + i * 0x4000
def F.chnFlenLen (i : Nat) : Fld := ⟨R.chnFlen i, 0, 26⟩
def F.chnFlenTrans (i : Nat) : Fld := ⟨R.chnFlen i, 26, 1⟩
def F.chnFlenFreerun (i : Nat) : Fld := ⟨R.chnFlen i, 27, 1⟩
def R.chnFstartLo (i : Nat) : Nat := 0x00C00050 + i * 0x4000
def F.chnFstartLo (i : Nat) : Fld := ⟨R.chnFstartLo i, 0, 32⟩
def R.chnFstartHi (i : Nat) : Nat := 0x00C00054 + i * 0x4000
def F.chnFstartHi (i : Nat) : Fld := ⟨R.chnFstartHi i, 0, 32⟩
def R.chnFnumLo (i : Nat) : Nat := 0x00C00058 + i * 0x4000
def F.chnFnumLo (i : Nat) : Fld := ⟨R.chnFnumLo i, 0, 32⟩
def R.chnFnumHi (i : Nat) : Nat := 0x00C0005C + i * 0x4000
def F.chnFnumHi (i : Nat) : Fld := ⟨R.chnFnumHi i, 0, 32⟩
def R.chnRowtime (i : Nat) : Nat := 0x00C00060 + i * 0x4000
def F.chnRowtimeT (i : Nat) : Fld := ⟨R.chnRowtime i, 0, 16⟩
def F.chnRowtimeLp (i : Nat) : Fld := ⟨R.chnRowtime i, 16, 16⟩
def R.chnRowdl (i : Nat) : Nat := 0x00C00064 + i * 0x4000
def F.chnRowdlOffs (i : Nat) : Fld := ⟨R.chnRowdl i, 0, 16⟩

/-! Block CHN, spec/07_layers_and_commit.md -/

def R.chnFresh (i : Nat) : Nat := 0x00C00070 + i * 0x4000
def F.chnFreshLimit (i : Nat) : Fld := ⟨R.chnFresh i, 0, 8⟩
def F.chnFreshMap (i : Nat) : Fld := ⟨R.chnFresh i, 8, 1⟩
def R.chnMarkcol (i : Nat) : Nat := 0x00C00074 + i * 0x4000
def F.chnMarkcolC0 (i : Nat) : Fld := ⟨R.chnMarkcol i, 0, 10⟩
def F.chnMarkcolC1 (i : Nat) : Fld := ⟨R.chnMarkcol i, 10, 10⟩
def F.chnMarkcolC2 (i : Nat) : Fld := ⟨R.chnMarkcol i, 20, 10⟩
def R.chnFsum (i : Nat) : Nat := 0x00C00078 + i * 0x4000
def F.chnFsumStale (i : Nat) : Fld := ⟨R.chnFsum i, 0, 16⟩
def F.chnFsumNotfresh (i : Nat) : Fld := ⟨R.chnFsum i, 16, 16⟩

/-! Block CHN, spec/09_encoder_pipeline.md -/

def R.chnEncCfg (i : Nat) : Nat := 0x00C00200 + i * 0x4000
def F.chnEncCfgMirror (i : Nat) : Fld := ⟨R.chnEncCfg i, 0, 1⟩
def F.chnEncCfgHscl (i : Nat) : Fld := ⟨R.chnEncCfg i, 1, 2⟩
def F.chnEncCfgAlf (i : Nat) : Fld := ⟨R.chnEncCfg i, 3, 1⟩
def F.chnEncCfgPsEvery (i : Nat) : Fld := ⟨R.chnEncCfg i, 4, 1⟩
def R.chnEncVui (i : Nat) : Nat := 0x00C00204 + i * 0x4000
def F.chnEncVuiPrim (i : Nat) : Fld := ⟨R.chnEncVui i, 0, 8⟩
def F.chnEncVuiTrans (i : Nat) : Fld := ⟨R.chnEncVui i, 8, 8⟩
def F.chnEncVuiMatrix (i : Nat) : Fld := ⟨R.chnEncVui i, 16, 8⟩
def R.chnEncSpec (i : Nat) : Nat := 0x00C00208 + i * 0x4000
def F.chnEncSpecEn (i : Nat) : Fld := ⟨R.chnEncSpec i, 0, 1⟩
def F.chnEncSpecTol (i : Nat) : Fld := ⟨R.chnEncSpec i, 4, 4⟩
def R.chnEncGdr (i : Nat) : Nat := 0x00C0020C + i * 0x4000
def F.chnEncGdrPeriod (i : Nat) : Fld := ⟨R.chnEncGdr i, 0, 8⟩
def F.chnEncGdrMargin (i : Nat) : Fld := ⟨R.chnEncGdr i, 8, 3⟩
def F.chnEncGdrClose (i : Nat) : Fld := ⟨R.chnEncGdr i, 12, 4⟩
def F.chnEncGdrIdr (i : Nat) : Fld := ⟨R.chnEncGdr i, 16, 16⟩
def R.chnEncStat (i : Nat) : Nat := 0x00C00220 + i * 0x4000
def F.chnEncStatLevel (i : Nat) : Fld := ⟨R.chnEncStat i, 0, 8⟩
def F.chnEncStatProfile (i : Nat) : Fld := ⟨R.chnEncStat i, 8, 2⟩
def F.chnEncStatGdrP (i : Nat) : Fld := ⟨R.chnEncStat i, 16, 8⟩
def F.chnEncStatSpecOn (i : Nat) : Fld := ⟨R.chnEncStat i, 24, 1⟩
def R.chnEncCntUnpick (i : Nat) : Nat := 0x00C00228 + i * 0x4000
def F.chnEncCntUnpick (i : Nat) : Fld := ⟨R.chnEncCntUnpick i, 0, 32⟩
def R.chnEncCntSpecoff (i : Nat) : Nat := 0x00C0022C + i * 0x4000
def F.chnEncCntSpecoff (i : Nat) : Fld := ⟨R.chnEncCntSpecoff i, 0, 32⟩
def R.chnEncCntGdrmiss (i : Nat) : Nat := 0x00C00230 + i * 0x4000
def F.chnEncCntGdrmiss (i : Nat) : Fld := ⟨R.chnEncCntGdrmiss i, 0, 32⟩
def R.chnEncCntRepair (i : Nat) : Nat := 0x00C00234 + i * 0x4000
def F.chnEncCntRepair (i : Nat) : Fld := ⟨R.chnEncCntRepair i, 0, 32⟩

/-! Block CHN, spec/10_motion_and_references.md -/

def R.chnMeCfg (i : Nat) : Nat := 0x00C00240 + i * 0x4000
def F.chnMeCfgHrange (i : Nat) : Fld := ⟨R.chnMeCfg i, 0, 2⟩
def F.chnMeCfgScrl (i : Nat) : Fld := ⟨R.chnMeCfg i, 2, 1⟩
def F.chnMeCfgHash (i : Nat) : Fld := ⟨R.chnMeCfg i, 3, 1⟩
def R.chnRefStat (i : Nat) : Nat := 0x00C00244 + i * 0x4000
def F.chnRefStatNrefAct (i : Nat) : Fld := ⟨R.chnRefStat i, 0, 3⟩
def F.chnRefStatRestarting (i : Nat) : Fld := ⟨R.chnRefStat i, 3, 1⟩
def F.chnRefStatPoisonRows (i : Nat) : Fld := ⟨R.chnRefStat i, 8, 8⟩
def R.chnRefRatio (i : Nat) : Nat := 0x00C00248 + i * 0x4000
def F.chnRefRatioRatio (i : Nat) : Fld := ⟨R.chnRefRatio i, 0, 11⟩
def R.chnRefCntRestart (i : Nat) : Nat := 0x00C00250 + i * 0x4000
def F.chnRefCntRestart (i : Nat) : Fld := ⟨R.chnRefCntRestart i, 0, 32⟩
def R.chnRefCntPoison (i : Nat) : Nat := 0x00C00254 + i * 0x4000
def F.chnRefCntPoison (i : Nat) : Fld := ⟨R.chnRefCntPoison i, 0, 32⟩

/-! Block CHN, spec/11_rate_control.md -/

def R.chnRcCfg (i : Nat) : Nat := 0x00C00280 + i * 0x4000
def F.chnRcCfgMode (i : Nat) : Fld := ⟨R.chnRcCfg i, 0, 1⟩
def F.chnRcCfgIdrMult (i : Nat) : Fld := ⟨R.chnRcCfg i, 4, 4⟩
def F.chnRcCfgFloorCtu (i : Nat) : Fld := ⟨R.chnRcCfg i, 8, 8⟩
def F.chnRcCfgBufMs (i : Nat) : Fld := ⟨R.chnRcCfg i, 16, 16⟩
def R.chnRcRate (i : Nat) : Nat := 0x00C00284 + i * 0x4000
def F.chnRcRateRate (i : Nat) : Fld := ⟨R.chnRcRate i, 0, 32⟩
def R.chnRcQp (i : Nat) : Nat := 0x00C00288 + i * 0x4000
def F.chnRcQpQpMin (i : Nat) : Fld := ⟨R.chnRcQp i, 0, 6⟩
def F.chnRcQpQpMax (i : Nat) : Fld := ⟨R.chnRcQp i, 8, 6⟩
def F.chnRcQpDqUp (i : Nat) : Fld := ⟨R.chnRcQp i, 16, 4⟩
def F.chnRcQpDqDn (i : Nat) : Fld := ⟨R.chnRcQp i, 20, 4⟩
def F.chnRcQpQpVbr (i : Nat) : Fld := ⟨R.chnRcQp i, 24, 6⟩
def R.chnRcCap (i : Nat) : Nat := 0x00C0028C + i * 0x4000
def F.chnRcCapCap (i : Nat) : Fld := ⟨R.chnRcCap i, 0, 24⟩
def R.chnRcHard (i : Nat) : Nat := 0x00C00290 + i * 0x4000
def F.chnRcHardHard (i : Nat) : Fld := ⟨R.chnRcHard i, 0, 24⟩
def F.chnRcHardRaised (i : Nat) : Fld := ⟨R.chnRcHard i, 24, 1⟩
def R.chnRcSrow (i : Nat) : Nat := 0x00C00294 + i * 0x4000
def F.chnRcSrowSrow (i : Nat) : Fld := ⟨R.chnRcSrow i, 0, 24⟩
def R.chnRcFill (i : Nat) : Nat := 0x00C00298 + i * 0x4000
def F.chnRcFillFill (i : Nat) : Fld := ⟨R.chnRcFill i, 0, 32⟩
def R.chnRcFrame (i : Nat) : Nat := 0x00C0029C + i * 0x4000
def F.chnRcFrameQ0 (i : Nat) : Fld := ⟨R.chnRcFrame i, 0, 6⟩
def F.chnRcFrameFloor (i : Nat) : Fld := ⟨R.chnRcFrame i, 6, 1⟩
def F.chnRcFrameCapskip (i : Nat) : Fld := ⟨R.chnRcFrame i, 7, 1⟩
def F.chnRcFrameFirstFloor (i : Nat) : Fld := ⟨R.chnRcFrame i, 8, 7⟩
def R.chnRcBudget (i : Nat) : Nat := 0x00C002A0 + i * 0x4000
def F.chnRcBudgetB (i : Nat) : Fld := ⟨R.chnRcBudget i, 0, 24⟩
def R.chnRcCntFloorFr (i : Nat) : Nat := 0x00C002A8 + i * 0x4000
def F.chnRcCntFloorFr (i : Nat) : Fld := ⟨R.chnRcCntFloorFr i, 0, 32⟩
def R.chnRcCntFloorRow (i : Nat) : Nat := 0x00C002AC + i * 0x4000
def F.chnRcCntFloorRow (i : Nat) : Fld := ⟨R.chnRcCntFloorRow i, 0, 32⟩
def R.chnRcCntCapRow (i : Nat) : Nat := 0x00C002B0 + i * 0x4000
def F.chnRcCntCapRow (i : Nat) : Fld := ⟨R.chnRcCntCapRow i, 0, 32⟩
def R.chnRcCntCeilRow (i : Nat) : Nat := 0x00C002B4 + i * 0x4000
def F.chnRcCntCeilRow (i : Nat) : Fld := ⟨R.chnRcCntCeilRow i, 0, 32⟩
def R.chnRcCntBytesLo (i : Nat) : Nat := 0x00C002B8 + i * 0x4000
def F.chnRcCntBytesLo (i : Nat) : Fld := ⟨R.chnRcCntBytesLo i, 0, 32⟩
def R.chnRcCntBytesHi (i : Nat) : Nat := 0x00C002BC + i * 0x4000
def F.chnRcCntBytesHi (i : Nat) : Fld := ⟨R.chnRcCntBytesHi i, 0, 32⟩

/-! Block CHN, spec/15_engine_redundancy.md -/

def R.chnDupStat (i : Nat) : Nat := 0x00C00300 + i * 0x4000
def F.chnDupStatDstate (i : Nat) : Fld := ⟨R.chnDupStat i, 0, 3⟩
def F.chnDupStatLead (i : Nat) : Fld := ⟨R.chnDupStat i, 8, 7⟩
def F.chnDupStatStbyValid (i : Nat) : Fld := ⟨R.chnDupStat i, 15, 1⟩
def F.chnDupStatStby (i : Nat) : Fld := ⟨R.chnDupStat i, 16, 7⟩
def F.chnDupStatCatchup (i : Nat) : Fld := ⟨R.chnDupStat i, 24, 7⟩
def R.chnDupCmd (i : Nat) : Nat := 0x00C00304 + i * 0x4000
def F.chnDupCmdSwap (i : Nat) : Fld := ⟨R.chnDupCmd i, 0, 1⟩
def R.chnDupCntSigmis (i : Nat) : Nat := 0x00C00308 + i * 0x4000
def F.chnDupCntSigmis (i : Nat) : Fld := ⟨R.chnDupCntSigmis i, 0, 32⟩
def R.chnDupCntSkip (i : Nat) : Nat := 0x00C0030C + i * 0x4000
def F.chnDupCntSkip (i : Nat) : Fld := ⟨R.chnDupCntSkip i, 0, 32⟩
def R.chnDupCntSiglate (i : Nat) : Nat := 0x00C00310 + i * 0x4000
def F.chnDupCntSiglate (i : Nat) : Fld := ⟨R.chnDupCntSiglate i, 0, 32⟩
def R.chnDupCntTakeover (i : Nat) : Nat := 0x00C00314 + i * 0x4000
def F.chnDupCntTakeover (i : Nat) : Fld := ⟨R.chnDupCntTakeover i, 0, 32⟩

/-! Block EGR, spec/12_egress_and_cadence.md -/

def R.egrCtl : Nat := 0x01000000
def F.egrCtlTtl : Fld := ⟨R.egrCtl, 0, 8⟩
def F.egrCtlRobust : Fld := ⟨R.egrCtl, 8, 3⟩
def R.egrMem : Nat := 0x01000004
def F.egrMemPbufUsed : Fld := ⟨R.egrMem, 0, 11⟩
def F.egrMemSafeUsed : Fld := ⟨R.egrMem, 16, 9⟩
def R.egrLnIp (i : Nat) : Nat := 0x01010000 + i * 0x20
def F.egrLnIpAddr (i : Nat) : Fld := ⟨R.egrLnIp i, 0, 32⟩
def R.egrLnMacLo (i : Nat) : Nat := 0x01010004 + i * 0x20
def F.egrLnMacLoMac (i : Nat) : Fld := ⟨R.egrLnMacLo i, 0, 32⟩
def R.egrLnMacHi (i : Nat) : Nat := 0x01010008 + i * 0x20
def F.egrLnMacHiMac (i : Nat) : Fld := ⟨R.egrLnMacHi i, 0, 16⟩
def R.egrLnLoad (i : Nat) : Nat := 0x0101000C + i * 0x20
def F.egrLnLoadPaceSum (i : Nat) : Fld := ⟨R.egrLnLoad i, 0, 17⟩
def F.egrLnLoadCoinc (i : Nat) : Fld := ⟨R.egrLnLoad i, 24, 6⟩
def R.egrLnCnt (i : Nat) : Nat := 0x01010010 + i * 0x20
def F.egrLnCntArpTx (i : Nat) : Fld := ⟨R.egrLnCnt i, 0, 16⟩
def F.egrLnCntArpDrop (i : Nat) : Fld := ⟨R.egrLnCnt i, 16, 8⟩
def F.egrLnCntIgmpTx (i : Nat) : Fld := ⟨R.egrLnCnt i, 24, 8⟩
def R.egrChCfg (i : Nat) : Nat := 0x01040000 + i * 0x200
def F.egrChCfgPkg (i : Nat) : Fld := ⟨R.egrChCfg i, 0, 1⟩
def F.egrChCfgAudEn (i : Nat) : Fld := ⟨R.egrChCfg i, 1, 1⟩
def F.egrChCfgPairs (i : Nat) : Fld := ⟨R.egrChCfg i, 2, 2⟩
def F.egrChCfgBits (i : Nat) : Fld := ⟨R.egrChCfg i, 4, 2⟩
def F.egrChCfgPbuf (i : Nat) : Fld := ⟨R.egrChCfg i, 8, 6⟩
def F.egrChCfgLen (i : Nat) : Fld := ⟨R.egrChCfg i, 16, 14⟩
def R.egrChPace (i : Nat) : Nat := 0x01040004 + i * 0x200
def F.egrChPacePace (i : Nat) : Fld := ⟨R.egrChPace i, 0, 27⟩
def R.egrChRtp (i : Nat) : Nat := 0x01040008 + i * 0x200
def F.egrChRtpPt (i : Nat) : Fld := ⟨R.egrChRtp i, 0, 7⟩
def R.egrChSsrc (i : Nat) : Nat := 0x0104000C + i * 0x200
def F.egrChSsrcSsrc (i : Nat) : Fld := ⟨R.egrChSsrc i, 0, 32⟩
def R.egrChTs (i : Nat) : Nat := 0x01040010 + i * 0x200
def F.egrChTsVpid (i : Nat) : Fld := ⟨R.egrChTs i, 0, 13⟩
def F.egrChTsApid (i : Nat) : Fld := ⟨R.egrChTs i, 16, 13⟩
def R.egrChProg (i : Nat) : Nat := 0x01040014 + i * 0x200
def F.egrChProgPmtPid (i : Nat) : Fld := ⟨R.egrChProg i, 0, 13⟩
def F.egrChProgProg (i : Nat) : Fld := ⟨R.egrChProg i, 16, 16⟩
def R.egrChCommit (i : Nat) : Nat := 0x01040018 + i * 0x200
def F.egrChCommitCommit (i : Nat) : Fld := ⟨R.egrChCommit i, 0, 1⟩
def R.egrChStat (i : Nat) : Nat := 0x0104001C + i * 0x200
def F.egrChStatAdm (i : Nat) : Fld := ⟨R.egrChStat i, 0, 1⟩
def F.egrChStatRefused (i : Nat) : Fld := ⟨R.egrChStat i, 1, 1⟩
def F.egrChStatStartRef (i : Nat) : Fld := ⟨R.egrChStat i, 2, 1⟩
def F.egrChStatRefuse (i : Nat) : Fld := ⟨R.egrChStat i, 4, 4⟩
def F.egrChStatNpkt (i : Nat) : Fld := ⟨R.egrChStat i, 16, 16⟩
def R.egrChCntPktA (i : Nat) : Nat := 0x01040020 + i * 0x200
def F.egrChCntPktA (i : Nat) : Fld := ⟨R.egrChCntPktA i, 0, 32⟩
def R.egrChCntPktB (i : Nat) : Nat := 0x01040024 + i * 0x200
def F.egrChCntPktB (i : Nat) : Fld := ⟨R.egrChCntPktB i, 0, 32⟩
def R.egrChCntTemplate (i : Nat) : Nat := 0x01040028 + i * 0x200
def F.egrChCntTemplate (i : Nat) : Fld := ⟨R.egrChCntTemplate i, 0, 32⟩
def R.egrChCntStoreErr (i : Nat) : Nat := 0x0104002C + i * 0x200
def F.egrChCntStoreErr (i : Nat) : Fld := ⟨R.egrChCntStoreErr i, 0, 32⟩
def R.egrPathCfg (i j : Nat) : Nat := 0x01040040 + i * 0x200 + j * 0x20
def F.egrPathCfgLane (i j : Nat) : Fld := ⟨R.egrPathCfg i j, 0, 8⟩
def F.egrPathCfgEn (i j : Nat) : Fld := ⟨R.egrPathCfg i j, 8, 1⟩
def F.egrPathCfgMacAuto (i j : Nat) : Fld := ⟨R.egrPathCfg i j, 9, 1⟩
def F.egrPathCfgPcp (i j : Nat) : Fld := ⟨R.egrPathCfg i j, 10, 3⟩
def F.egrPathCfgDscp (i j : Nat) : Fld := ⟨R.egrPathCfg i j, 13, 6⟩
def F.egrPathCfgVlan (i j : Nat) : Fld := ⟨R.egrPathCfg i j, 20, 12⟩
def R.egrPathDst (i j : Nat) : Nat := 0x01040044 + i * 0x200 + j * 0x20
def F.egrPathDstAddr (i j : Nat) : Fld := ⟨R.egrPathDst i j, 0, 32⟩
def R.egrPathUdp (i j : Nat) : Nat := 0x01040048 + i * 0x200 + j * 0x20
def F.egrPathUdpDport (i j : Nat) : Fld := ⟨R.egrPathUdp i j, 0, 16⟩
def F.egrPathUdpSport (i j : Nat) : Fld := ⟨R.egrPathUdp i j, 16, 16⟩
def R.egrPathMacLo (i j : Nat) : Nat := 0x0104004C + i * 0x200 + j * 0x20
def F.egrPathMacLoMac (i j : Nat) : Fld := ⟨R.egrPathMacLo i j, 0, 32⟩
def R.egrPathMacHi (i j : Nat) : Nat := 0x01040050 + i * 0x200 + j * 0x20
def F.egrPathMacHiMac (i j : Nat) : Fld := ⟨R.egrPathMacHi i j, 0, 16⟩

/-! Block RPL, spec/13_replay_ring.md -/

def R.rplCtl : Nat := 0x01200000
def F.rplCtlResPct : Fld := ⟨R.rplCtl, 0, 6⟩
def R.rplPages : Nat := 0x01200004
def F.rplPagesN : Fld := ⟨R.rplPages, 0, 20⟩
def R.rplFree : Nat := 0x01200008
def F.rplFreeN : Fld := ⟨R.rplFree, 0, 20⟩
def R.rplHeld : Nat := 0x0120000C
def F.rplHeldN : Fld := ⟨R.rplHeld, 0, 20⟩
def R.rplRqCfg (i : Nat) : Nat := 0x01200100 + i * 0x40
def F.rplRqCfgChan (i : Nat) : Fld := ⟨R.rplRqCfg i, 0, 8⟩
def F.rplRqCfgByframe (i : Nat) : Fld := ⟨R.rplRqCfg i, 8, 1⟩
def F.rplRqCfgRap (i : Nat) : Fld := ⟨R.rplRqCfg i, 9, 1⟩
def F.rplRqCfgStart (i : Nat) : Fld := ⟨R.rplRqCfg i, 10, 1⟩
def F.rplRqCfgAbort (i : Nat) : Fld := ⟨R.rplRqCfg i, 11, 1⟩
def F.rplRqCfgEpoch (i : Nat) : Fld := ⟨R.rplRqCfg i, 16, 16⟩
def R.rplRqT0Lo (i : Nat) : Nat := 0x01200104 + i * 0x40
def F.rplRqT0LoT (i : Nat) : Fld := ⟨R.rplRqT0Lo i, 0, 32⟩
def R.rplRqT0Hi (i : Nat) : Nat := 0x01200108 + i * 0x40
def F.rplRqT0HiT (i : Nat) : Fld := ⟨R.rplRqT0Hi i, 0, 32⟩
def R.rplRqT1Lo (i : Nat) : Nat := 0x0120010C + i * 0x40
def F.rplRqT1LoT (i : Nat) : Fld := ⟨R.rplRqT1Lo i, 0, 32⟩
def R.rplRqT1Hi (i : Nat) : Nat := 0x01200110 + i * 0x40
def F.rplRqT1HiT (i : Nat) : Fld := ⟨R.rplRqT1Hi i, 0, 32⟩
def R.rplRqStat (i : Nat) : Nat := 0x01200114 + i * 0x40
def F.rplRqStatRstate (i : Nat) : Fld := ⟨R.rplRqStat i, 0, 3⟩
def F.rplRqStatBroken (i : Nat) : Fld := ⟨R.rplRqStat i, 3, 1⟩
def R.rplRqCntRec (i : Nat) : Nat := 0x01200118 + i * 0x40
def F.rplRqCntRec (i : Nat) : Fld := ⟨R.rplRqCntRec i, 0, 32⟩
def R.rplRqCntGap (i : Nat) : Nat := 0x0120011C + i * 0x40
def F.rplRqCntGap (i : Nat) : Fld := ⟨R.rplRqCntGap i, 0, 32⟩
def R.rplRqCntCrc (i : Nat) : Nat := 0x01200120 + i * 0x40
def F.rplRqCntCrc (i : Nat) : Fld := ⟨R.rplRqCntCrc i, 0, 32⟩
def R.rplRqCntKbytes (i : Nat) : Nat := 0x01200124 + i * 0x40
def F.rplRqCntKbytes (i : Nat) : Fld := ⟨R.rplRqCntKbytes i, 0, 32⟩
def R.rplChCfg (i : Nat) : Nat := 0x01201000 + i * 0x40
def F.rplChCfgEn (i : Nat) : Fld := ⟨R.rplChCfg i, 0, 1⟩
def F.rplChCfgWeight (i : Nat) : Fld := ⟨R.rplChCfg i, 8, 24⟩
def R.rplChQuota (i : Nat) : Nat := 0x01201004 + i * 0x40
def F.rplChQuotaQ (i : Nat) : Fld := ⟨R.rplChQuota i, 0, 20⟩
def R.rplChSegs (i : Nat) : Nat := 0x01201008 + i * 0x40
def F.rplChSegsN (i : Nat) : Fld := ⟨R.rplChSegs i, 0, 20⟩
def R.rplChStat (i : Nat) : Nat := 0x0120100C + i * 0x40
def F.rplChStatEpoch (i : Nat) : Fld := ⟨R.rplChStat i, 0, 16⟩
def F.rplChStatFiling (i : Nat) : Fld := ⟨R.rplChStat i, 16, 1⟩
def R.rplChOldLo (i : Nat) : Nat := 0x01201010 + i * 0x40
def F.rplChOldLoT (i : Nat) : Fld := ⟨R.rplChOldLo i, 0, 32⟩
def R.rplChOldHi (i : Nat) : Nat := 0x01201014 + i * 0x40
def F.rplChOldHiT (i : Nat) : Fld := ⟨R.rplChOldHi i, 0, 32⟩
def R.rplChNewLo (i : Nat) : Nat := 0x01201018 + i * 0x40
def F.rplChNewLoT (i : Nat) : Fld := ⟨R.rplChNewLo i, 0, 32⟩
def R.rplChNewHi (i : Nat) : Nat := 0x0120101C + i * 0x40
def F.rplChNewHiT (i : Nat) : Fld := ⟨R.rplChNewHi i, 0, 32⟩
def R.rplChCntDrop (i : Nat) : Nat := 0x01201020 + i * 0x40
def F.rplChCntDrop (i : Nat) : Fld := ⟨R.rplChCntDrop i, 0, 32⟩
def R.rplChCntLostSeg (i : Nat) : Nat := 0x01201024 + i * 0x40
def F.rplChCntLostSeg (i : Nat) : Fld := ⟨R.rplChCntLostSeg i, 0, 32⟩

end Sys2Proof.Machine
end

