-- ==== Sys2Proof/Machine/RegTable.lean ====
section
/-!
DEFINITION. Sys2Proof/Machine/RegTable.lean: how a host write acts on each register (R8, R11, R13, R607), one row per
register of the register index, with its instances and its fields' access codes and permitted values, taken from
the field tables. A value outside `Rng` leaves the field unchanged (R13 for enumerated fields, R607 for ranges);
fields whose out-of-range value has an outcome at a commit, an enable or a load are stored as written (R607).
-/

namespace Sys2Proof.Machine

/-- The access codes of R8. -/
inductive Acc where
  | ro | rw | wo | w1c | w1s | rsc
deriving DecidableEq, Repr

/-- The values a written field takes: any, a range or list of codes (R13, R607), or a range that names another
field of the same write: at least that field, or below that field less `k` (R607). -/
inductive Rng where
  | any
  | between (lo hi : Nat)
  | atLeast (lo width : Nat)
  | below (lo width k : Nat)
deriving DecidableEq, Repr

/-- One field's place, access code, permitted values and whether its Reset column says img (R7). -/
structure FSpec where
  lo    : Nat
  width : Nat
  acc   : Acc
  rng   : Rng
  img   : Bool
deriving DecidableEq, Repr

/-- One register of the index: base address, up to two instance dimensions (stride, count), fields. -/
structure RegRow where
  base   : Nat
  dim1   : Nat × Nat
  dim2   : Nat × Nat
  fields : List FSpec
deriving DecidableEq, Repr

/-- The registers of block SYS. -/
def rowsSys : List RegRow := ([
  ⟨0x00000400, (0x20, 3), (0x4, 1), [⟨0, 20, .ro, .any, true⟩]⟩,
  ⟨0x00000404, (0x20, 3), (0x4, 1), [⟨0, 20, .ro, .any, false⟩]⟩,
  ⟨0x00000408, (0x20, 3), (0x4, 1), [⟨0, 20, .ro, .any, false⟩]⟩,
  ⟨0x0000040C, (0x20, 3), (0x4, 1), [⟨0, 20, .ro, .any, false⟩]⟩,
  ⟨0x00000410, (0x20, 3), (0x4, 1), [⟨0, 20, .ro, .any, false⟩]⟩,
  ⟨0x00000414, (0x20, 3), (0x4, 1), [⟨0, 20, .ro, .any, false⟩]⟩,
  ⟨0x00000418, (0x20, 3), (0x4, 1), [⟨0, 1, .w1c, .any, false⟩, ⟨1, 1, .w1c, .any, false⟩]⟩,
  ⟨0x0000041C, (0x20, 3), (0x4, 1), [⟨0, 20, .rsc, .any, false⟩]⟩,
  ⟨0x00000500, (0x4, 1), (0x4, 1), [⟨0, 4, .rw, .any, true⟩, ⟨4, 4, .rw, .any, true⟩, ⟨8, 4, .rw, .any, true⟩, ⟨16, 16, .rw, .between 200 60000, true⟩]⟩,
  ⟨0x00000504, (0x4, 1), (0x4, 1), [⟨0, 8, .rw, .between 4 255, true⟩, ⟨16, 16, .rw, .between 100 65535, true⟩]⟩,
  ⟨0x00000508, (0x4, 1), (0x4, 1), [⟨0, 8, .ro, .any, false⟩, ⟨8, 8, .ro, .any, false⟩, ⟨16, 8, .ro, .any, false⟩, ⟨24, 1, .ro, .any, false⟩]⟩,
  ⟨0x00000510, (0x4, 4), (0x4, 1), [⟨0, 32, .ro, .any, false⟩]⟩,
  ⟨0x00000000, (0x4, 1), (0x4, 1), [⟨0, 16, .ro, .any, false⟩, ⟨16, 2, .ro, .any, false⟩, ⟨24, 8, .ro, .any, false⟩]⟩,
  ⟨0x00000004, (0x4, 1), (0x4, 1), [⟨0, 4, .ro, .any, false⟩, ⟨4, 4, .ro, .any, false⟩, ⟨8, 3, .ro, .any, false⟩]⟩,
  ⟨0x00000008, (0x4, 1), (0x4, 1), [⟨0, 32, .ro, .any, false⟩]⟩,
  ⟨0x0000000C, (0x4, 1), (0x4, 1), [⟨0, 16, .ro, .any, false⟩]⟩,
  ⟨0x00000010, (0x4, 1), (0x4, 1), [⟨0, 1, .ro, .any, false⟩, ⟨1, 1, .ro, .any, false⟩, ⟨2, 1, .ro, .any, false⟩, ⟨3, 1, .ro, .any, false⟩, ⟨4, 1, .ro, .any, false⟩, ⟨8, 8, .ro, .any, false⟩]⟩,
  ⟨0x00000014, (0x4, 1), (0x4, 1), [⟨0, 4, .wo, .any, false⟩, ⟨24, 8, .wo, .any, false⟩]⟩,
  ⟨0x00000018, (0x4, 1), (0x4, 1), [⟨0, 4, .ro, .any, false⟩, ⟨4, 3, .ro, .any, false⟩, ⟨7, 1, .ro, .any, false⟩, ⟨8, 1, .w1c, .any, false⟩]⟩,
  ⟨0x0000001C, (0x4, 1), (0x4, 1), [⟨0, 8, .rw, .between 1 255, true⟩]⟩] ++ [
  ⟨0x00000020, (0x4, 1), (0x4, 1), [⟨0, 8, .ro, .any, false⟩, ⟨8, 16, .ro, .any, false⟩, ⟨24, 1, .ro, .any, false⟩]⟩,
  ⟨0x00000024, (0x4, 1), (0x4, 1), [⟨0, 16, .ro, .any, false⟩, ⟨16, 16, .ro, .any, false⟩]⟩,
  ⟨0x00000040, (0x4, 1), (0x4, 1), [⟨0, 32, .ro, .any, false⟩]⟩,
  ⟨0x00000044, (0x4, 1), (0x4, 1), [⟨0, 32, .ro, .any, false⟩]⟩,
  ⟨0x00000048, (0x4, 1), (0x4, 1), [⟨0, 32, .ro, .any, false⟩]⟩,
  ⟨0x0000004C, (0x4, 1), (0x4, 1), [⟨0, 32, .ro, .any, false⟩]⟩,
  ⟨0x00000600, (0x4, 1), (0x4, 1), [⟨0, 6, .ro, .any, false⟩, ⟨6, 1, .ro, .any, false⟩, ⟨7, 1, .ro, .any, false⟩]⟩,
  ⟨0x00000604, (0x4, 1), (0x4, 1), [⟨0, 12, .ro, .any, false⟩, ⟨16, 10, .ro, .any, false⟩]⟩,
  ⟨0x00000608, (0x4, 1), (0x4, 1), [⟨0, 8, .ro, .any, false⟩, ⟨8, 8, .ro, .any, false⟩, ⟨16, 8, .ro, .any, false⟩, ⟨24, 1, .ro, .any, false⟩]⟩,
  ⟨0x0000060C, (0x4, 1), (0x4, 1), [⟨0, 1, .w1c, .any, false⟩, ⟨1, 1, .w1c, .any, false⟩, ⟨2, 1, .w1c, .any, false⟩, ⟨3, 1, .w1c, .any, false⟩, ⟨8, 8, .rsc, .any, false⟩]⟩])

/-- The registers of block SEL. -/
def rowsSel : List RegRow := ([
  ⟨0x00010000, (0x4, 1), (0x4, 1), [⟨0, 10, .rw, .between 10 1000, true⟩]⟩,
  ⟨0x00010004, (0x4, 1), (0x4, 1), [⟨0, 1, .ro, .any, false⟩, ⟨1, 1, .ro, .any, false⟩, ⟨2, 1, .ro, .any, false⟩, ⟨3, 1, .w1c, .any, false⟩, ⟨4, 1, .ro, .any, false⟩, ⟨8, 8, .rsc, .any, false⟩, ⟨16, 8, .ro, .any, false⟩]⟩,
  ⟨0x00010008, (0x4, 1), (0x4, 1), [⟨0, 8, .rw, .between 1 255, true⟩, ⟨8, 8, .rw, .any, true⟩]⟩,
  ⟨0x0001000C, (0x4, 1), (0x4, 1), [⟨0, 16, .ro, .any, false⟩, ⟨16, 8, .ro, .any, false⟩]⟩,
  ⟨0x00010010, (0x4, 1), (0x4, 1), [⟨0, 1, .wo, .any, false⟩, ⟨1, 1, .wo, .any, false⟩, ⟨2, 1, .wo, .any, false⟩]⟩,
  ⟨0x00010020, (0x20, 2), (0x4, 1), [⟨0, 16, .ro, .any, false⟩, ⟨16, 3, .ro, .any, false⟩, ⟨19, 1, .ro, .any, false⟩, ⟨20, 1, .ro, .any, false⟩]⟩,
  ⟨0x00010024, (0x20, 2), (0x4, 1), [⟨0, 32, .ro, .any, false⟩]⟩,
  ⟨0x00010028, (0x20, 2), (0x4, 1), [⟨0, 16, .ro, .any, false⟩]⟩,
  ⟨0x0001002C, (0x20, 2), (0x4, 1), [⟨0, 32, .ro, .any, false⟩]⟩,
  ⟨0x00010030, (0x20, 2), (0x4, 1), [⟨0, 32, .ro, .any, false⟩]⟩,
  ⟨0x00010060, (0x4, 1), (0x4, 1), [⟨0, 32, .ro, .any, false⟩]⟩,
  ⟨0x00010064, (0x4, 1), (0x4, 1), [⟨0, 16, .ro, .any, false⟩]⟩,
  ⟨0x00010068, (0x4, 1), (0x4, 1), [⟨0, 32, .ro, .any, true⟩]⟩,
  ⟨0x0001006C, (0x4, 1), (0x4, 1), [⟨0, 10, .ro, .any, false⟩]⟩,
  ⟨0x00010070, (0x4, 1), (0x4, 1), [⟨0, 32, .rsc, .any, false⟩]⟩,
  ⟨0x00010080, (0x4, 1), (0x4, 1), [⟨0, 16, .rw, .any, false⟩]⟩,
  ⟨0x00010084, (0x4, 1), (0x4, 1), [⟨0, 4, .ro, .any, false⟩, ⟨4, 1, .ro, .any, false⟩, ⟨5, 1, .ro, .any, false⟩, ⟨6, 1, .ro, .any, false⟩, ⟨16, 16, .ro, .any, false⟩]⟩,
  ⟨0x00010100, (0x4, 256), (0x4, 1), [⟨0, 4, .rw, .between 1 15, true⟩, ⟨4, 16, .rw, .between 1 65535, true⟩, ⟨20, 3, .rw, .between 0 4, true⟩, ⟨23, 1, .ro, .any, true⟩]⟩,
  ⟨0x00012000, (0x4, 2048), (0x4, 1), [⟨0, 32, .w1s, .any, false⟩]⟩,
  ⟨0x00014000, (0x4, 2048), (0x4, 1), [⟨0, 32, .ro, .any, false⟩]⟩] ++ [
  ⟨0x00016000, (0x4, 2048), (0x4, 1), [⟨0, 32, .w1c, .any, false⟩]⟩,
  ⟨0x00018000, (0x4, 8192), (0x4, 1), [⟨0, 32, .ro, .any, false⟩]⟩])

/-- The registers of block BOB. -/
def rowsBob : List RegRow := ([
  ⟨0x00020000, (0x4, 1), (0x4, 1), [⟨0, 4, .rw, .between 1 15, true⟩, ⟨4, 1, .rw, .any, true⟩]⟩,
  ⟨0x00020004, (0x4, 1), (0x4, 1), [⟨0, 4, .rw, .any, true⟩, ⟨4, 4, .rw, .any, true⟩, ⟨8, 4, .rw, .any, true⟩, ⟨12, 4, .rw, .any, true⟩, ⟨16, 4, .rw, .any, true⟩, ⟨20, 4, .rw, .any, true⟩, ⟨24, 4, .rw, .any, true⟩]⟩,
  ⟨0x00020008, (0x4, 1), (0x4, 1), [⟨0, 1, .w1c, .any, false⟩, ⟨1, 1, .w1c, .any, false⟩]⟩,
  ⟨0x00020010, (0x4, 1), (0x4, 1), [⟨0, 32, .ro, .any, false⟩]⟩,
  ⟨0x00020014, (0x4, 1), (0x4, 1), [⟨0, 32, .ro, .any, false⟩]⟩,
  ⟨0x00020018, (0x4, 1), (0x4, 1), [⟨0, 32, .ro, .any, false⟩]⟩,
  ⟨0x0002001C, (0x4, 1), (0x4, 1), [⟨0, 32, .ro, .any, false⟩]⟩,
  ⟨0x00020020, (0x4, 1), (0x4, 1), [⟨0, 32, .ro, .any, false⟩]⟩,
  ⟨0x00020024, (0x4, 1), (0x4, 1), [⟨0, 32, .ro, .any, false⟩]⟩,
  ⟨0x00020028, (0x4, 1), (0x4, 1), [⟨0, 16, .ro, .any, false⟩, ⟨16, 16, .ro, .any, false⟩]⟩,
  ⟨0x00020040, (0x4, 7), (0x4, 1), [⟨0, 16, .ro, .any, true⟩, ⟨16, 16, .ro, .any, true⟩]⟩,
  ⟨0x00020080, (0x4, 6), (0x4, 1), [⟨0, 32, .ro, .any, false⟩]⟩,
  ⟨0x000200A0, (0x4, 1), (0x4, 1), [⟨0, 32, .ro, .any, false⟩]⟩,
  ⟨0x000200A4, (0x4, 1), (0x4, 1), [⟨0, 32, .ro, .any, false⟩]⟩,
  ⟨0x00021000, (0x80, 148), (0x4, 1), [⟨0, 16, .ro, .any, false⟩, ⟨16, 16, .rsc, .any, false⟩]⟩,
  ⟨0x00021004, (0x80, 148), (0x4, 1), [⟨0, 32, .rsc, .any, false⟩]⟩,
  ⟨0x00021008, (0x80, 148), (0x4, 1), [⟨0, 1, .wo, .any, false⟩]⟩,
  ⟨0x00021040, (0x80, 148), (0x4, 16), [⟨0, 32, .ro, .any, false⟩]⟩])

/-- The registers of block CLK. -/
def rowsClk : List RegRow := ([
  ⟨0x00030000, (0x4, 1), (0x4, 1), [⟨0, 8, .rw, .between 10 255, true⟩, ⟨8, 4, .rw, .between 1 15, true⟩, ⟨12, 1, .wo, .any, false⟩]⟩,
  ⟨0x00030004, (0x4, 1), (0x4, 1), [⟨0, 1, .ro, .any, false⟩, ⟨1, 1, .ro, .any, false⟩, ⟨2, 1, .ro, .any, false⟩, ⟨16, 7, .ro, .any, false⟩]⟩,
  ⟨0x00030010, (0x4, 3), (0x4, 1), [⟨0, 32, .ro, .any, false⟩]⟩,
  ⟨0x00031000, (0x40, 76), (0x4, 1), [⟨0, 1, .rw, .any, true⟩, ⟨4, 12, .rw, .between 64 4095, true⟩, ⟨16, 8, .rw, .between 1 64, true⟩, ⟨24, 8, .rw, .between 1 255, true⟩]⟩,
  ⟨0x00031004, (0x40, 76), (0x4, 1), [⟨0, 32, .rw, .between 1200000 1700000, true⟩]⟩,
  ⟨0x00031008, (0x40, 76), (0x4, 1), [⟨0, 3, .ro, .any, false⟩, ⟨3, 1, .ro, .any, false⟩, ⟨4, 1, .ro, .any, false⟩, ⟨5, 1, .w1c, .any, false⟩, ⟨6, 1, .w1c, .any, false⟩, ⟨8, 3, .ro, .any, false⟩, ⟨12, 4, .ro, .any, false⟩, ⟨16, 8, .ro, .any, false⟩]⟩,
  ⟨0x0003100C, (0x40, 76), (0x4, 1), [⟨0, 16, .ro, .any, false⟩, ⟨16, 16, .ro, .any, false⟩]⟩,
  ⟨0x00031010, (0x40, 76), (0x4, 1), [⟨0, 32, .ro, .any, false⟩]⟩,
  ⟨0x00031014, (0x40, 76), (0x4, 1), [⟨0, 32, .ro, .any, false⟩]⟩,
  ⟨0x00031018, (0x40, 76), (0x4, 1), [⟨0, 32, .ro, .any, false⟩]⟩,
  ⟨0x0003101C, (0x40, 76), (0x4, 1), [⟨0, 32, .ro, .any, false⟩]⟩,
  ⟨0x00034000, (0x10, 582), (0x4, 1), [⟨0, 16, .ro, .any, true⟩, ⟨16, 16, .ro, .any, true⟩]⟩,
  ⟨0x00034004, (0x10, 582), (0x4, 1), [⟨0, 15, .rsc, .any, false⟩, ⟨15, 1, .w1c, .any, false⟩, ⟨16, 15, .rsc, .any, false⟩, ⟨31, 1, .w1c, .any, false⟩]⟩])

/-- The registers of block TIM. -/
def rowsTim : List RegRow := ([
  ⟨0x00040000, (0x4, 1), (0x4, 1), [⟨0, 1, .rw, .any, true⟩, ⟨1, 1, .rw, .any, true⟩, ⟨2, 1, .wo, .any, false⟩, ⟨3, 2, .rw, .between 0 2, true⟩, ⟨5, 1, .rw, .any, true⟩, ⟨8, 8, .rw, .between 1 200, true⟩, ⟨16, 8, .rw, .any, true⟩]⟩,
  ⟨0x00040004, (0x4, 1), (0x4, 1), [⟨0, 2, .ro, .any, false⟩, ⟨2, 1, .ro, .any, false⟩, ⟨3, 1, .ro, .any, false⟩, ⟨4, 1, .ro, .any, false⟩, ⟨5, 1, .ro, .any, false⟩, ⟨8, 8, .rsc, .any, false⟩, ⟨16, 16, .ro, .any, false⟩]⟩,
  ⟨0x00040010, (0x4, 1), (0x4, 1), [⟨0, 30, .ro, .any, false⟩]⟩,
  ⟨0x00040014, (0x4, 1), (0x4, 1), [⟨0, 32, .ro, .any, false⟩]⟩,
  ⟨0x00040018, (0x4, 1), (0x4, 1), [⟨0, 16, .ro, .any, false⟩]⟩,
  ⟨0x00040020, (0x4, 1), (0x4, 1), [⟨0, 32, .ro, .any, false⟩]⟩,
  ⟨0x00040024, (0x4, 1), (0x4, 1), [⟨0, 32, .ro, .any, false⟩]⟩,
  ⟨0x00040028, (0x4, 1), (0x4, 1), [⟨0, 32, .ro, .any, false⟩]⟩,
  ⟨0x0004002C, (0x4, 1), (0x4, 1), [⟨0, 32, .ro, .any, false⟩]⟩,
  ⟨0x00040030, (0x4, 1), (0x4, 1), [⟨0, 32, .ro, .any, false⟩]⟩,
  ⟨0x00040040, (0x4, 1), (0x4, 1), [⟨0, 2, .ro, .any, false⟩, ⟨8, 8, .rsc, .any, false⟩, ⟨16, 8, .rw, .between 1 50, true⟩, ⟨24, 8, .ro, .any, false⟩]⟩,
  ⟨0x00040048, (0x4, 1), (0x4, 1), [⟨0, 1, .rw, .any, true⟩, ⟨8, 8, .rw, .between 1 200, true⟩]⟩,
  ⟨0x00040050, (0x4, 1), (0x4, 1), [⟨0, 32, .ro, .any, false⟩]⟩,
  ⟨0x00040054, (0x4, 1), (0x4, 1), [⟨0, 32, .ro, .any, false⟩]⟩,
  ⟨0x00040058, (0x4, 1), (0x4, 1), [⟨0, 32, .ro, .any, false⟩]⟩,
  ⟨0x00040100, (0x100, 2), (0x4, 1), [⟨0, 8, .rw, .any, true⟩, ⟨8, 8, .rw, .any, true⟩, ⟨16, 12, .rw, .any, true⟩, ⟨28, 1, .rw, .any, true⟩, ⟨29, 1, .rw, .any, true⟩]⟩,
  ⟨0x00040104, (0x100, 2), (0x4, 1), [⟨0, 16, .rw, .any, true⟩, ⟨16, 16, .rw, .any, true⟩]⟩,
  ⟨0x00040108, (0x100, 2), (0x4, 1), [⟨0, 32, .rw, .any, true⟩]⟩,
  ⟨0x0004010C, (0x100, 2), (0x4, 1), [⟨0, 2, .ro, .any, false⟩, ⟨8, 8, .ro, .any, false⟩, ⟨16, 16, .ro, .any, false⟩]⟩,
  ⟨0x00040110, (0x100, 2), (0x4, 1), [⟨0, 32, .ro, .any, false⟩]⟩] ++ [
  ⟨0x00040114, (0x100, 2), (0x4, 1), [⟨0, 32, .ro, .any, false⟩]⟩,
  ⟨0x00040118, (0x100, 2), (0x4, 1), [⟨0, 32, .ro, .any, false⟩]⟩,
  ⟨0x0004011C, (0x100, 2), (0x4, 1), [⟨0, 32, .ro, .any, false⟩]⟩,
  ⟨0x00040120, (0x100, 2), (0x4, 1), [⟨0, 16, .rsc, .any, false⟩, ⟨16, 8, .rsc, .any, false⟩, ⟨24, 8, .rsc, .any, false⟩]⟩,
  ⟨0x00040124, (0x100, 2), (0x4, 1), [⟨0, 8, .rw, .any, true⟩, ⟨8, 8, .ro, .any, false⟩, ⟨16, 16, .rw, .between 1 65535, true⟩]⟩])

/-- The registers of block NVM. -/
def rowsNvm : List RegRow := ([
  ⟨0x00050000, (0x4, 1), (0x4, 1), [⟨0, 16, .ro, .any, false⟩, ⟨16, 8, .ro, .any, false⟩]⟩,
  ⟨0x00050004, (0x4, 1), (0x4, 1), [⟨0, 3, .ro, .any, false⟩, ⟨3, 1, .ro, .any, false⟩, ⟨4, 1, .w1c, .any, false⟩, ⟨5, 1, .ro, .any, false⟩, ⟨16, 16, .ro, .any, false⟩]⟩,
  ⟨0x00050010, (0x10, 1), (0x4, 1), [⟨0, 1, .ro, .any, false⟩, ⟨1, 1, .ro, .any, false⟩, ⟨2, 4, .ro, .any, false⟩, ⟨8, 8, .ro, .any, false⟩]⟩,
  ⟨0x00050014, (0x10, 2), (0x4, 1), [⟨0, 32, .ro, .any, false⟩]⟩,
  ⟨0x00050018, (0x10, 2), (0x4, 1), [⟨0, 25, .ro, .any, false⟩]⟩,
  ⟨0x00050020, (0x4, 1), (0x4, 1), [⟨0, 12, .rw, .between 200 4000, true⟩, ⟨16, 8, .rw, .any, true⟩]⟩,
  ⟨0x00050040, (0x4, 1), (0x4, 1), [⟨0, 32, .rw, .any, false⟩]⟩,
  ⟨0x00050044, (0x4, 1), (0x4, 1), [⟨0, 32, .rw, .any, false⟩]⟩,
  ⟨0x00050048, (0x4, 1), (0x4, 1), [⟨0, 25, .rw, .any, false⟩]⟩,
  ⟨0x0005004C, (0x4, 1), (0x4, 1), [⟨0, 1, .w1s, .any, false⟩, ⟨1, 1, .wo, .any, false⟩, ⟨2, 1, .rw, .any, false⟩, ⟨3, 2, .rw, .any, false⟩]⟩,
  ⟨0x00050050, (0x4, 1), (0x4, 1), [⟨0, 2, .ro, .any, false⟩, ⟨2, 4, .ro, .any, false⟩, ⟨8, 9, .ro, .any, false⟩]⟩,
  ⟨0x00050060, (0x4, 1), (0x4, 1), [⟨0, 26, .rw, .any, false⟩]⟩,
  ⟨0x00050064, (0x4, 1), (0x4, 1), [⟨0, 32, .rw, .any, false⟩]⟩,
  ⟨0x00050068, (0x4, 1), (0x4, 1), [⟨0, 32, .rw, .any, false⟩]⟩,
  ⟨0x0005006C, (0x4, 1), (0x4, 1), [⟨0, 26, .rw, .any, false⟩]⟩,
  ⟨0x00050070, (0x4, 1), (0x4, 1), [⟨0, 1, .w1s, .any, false⟩, ⟨1, 1, .wo, .any, false⟩, ⟨2, 2, .rw, .any, false⟩]⟩,
  ⟨0x00050074, (0x4, 1), (0x4, 1), [⟨0, 2, .ro, .any, false⟩, ⟨2, 3, .ro, .any, false⟩]⟩,
  ⟨0x00050080, (0x4, 1), (0x4, 1), [⟨0, 20, .ro, .any, false⟩]⟩,
  ⟨0x00050090, (0x4, 1), (0x4, 1), [⟨0, 32, .ro, .any, false⟩]⟩,
  ⟨0x00050094, (0x4, 1), (0x4, 1), [⟨0, 32, .ro, .any, false⟩]⟩] ++ [
  ⟨0x00050098, (0x4, 1), (0x4, 1), [⟨0, 32, .ro, .any, false⟩]⟩,
  ⟨0x0005009C, (0x4, 1), (0x4, 1), [⟨0, 32, .ro, .any, false⟩]⟩])

/-- The registers of block HST. -/
def rowsHst : List RegRow := ([
  ⟨0x00060000, (0x4, 1), (0x4, 1), [⟨0, 2, .ro, .any, false⟩]⟩,
  ⟨0x00061000, (0x1000, 4), (0x4, 1), [⟨0, 2, .ro, .any, false⟩, ⟨2, 3, .ro, .any, false⟩, ⟨5, 3, .ro, .any, false⟩, ⟨8, 1, .ro, .any, false⟩]⟩,
  ⟨0x00061010, (0x1000, 4), (0x4, 1), [⟨0, 32, .rw, .any, false⟩]⟩,
  ⟨0x00061014, (0x1000, 4), (0x4, 1), [⟨0, 32, .rw, .any, false⟩]⟩,
  ⟨0x00061018, (0x1000, 4), (0x4, 1), [⟨0, 5, .rw, .between 7 19, false⟩, ⟨5, 1, .rw, .any, false⟩, ⟨8, 5, .rw, .any, false⟩]⟩,
  ⟨0x0006101C, (0x1000, 4), (0x4, 1), [⟨0, 19, .ro, .any, false⟩]⟩,
  ⟨0x00061020, (0x1000, 4), (0x4, 1), [⟨0, 19, .rw, .any, false⟩]⟩,
  ⟨0x00061030, (0x1000, 4), (0x4, 1), [⟨0, 8, .rw, .any, false⟩]⟩,
  ⟨0x00061034, (0x1000, 4), (0x4, 1), [⟨0, 8, .w1c, .any, false⟩]⟩,
  ⟨0x00061038, (0x1000, 4), (0x4, 1), [⟨0, 16, .rw, .any, false⟩]⟩,
  ⟨0x00061040, (0x1000, 4), (0x4, 1), [⟨0, 32, .rw, .any, false⟩]⟩,
  ⟨0x00061044, (0x1000, 4), (0x4, 1), [⟨0, 32, .rw, .any, false⟩]⟩,
  ⟨0x00061048, (0x1000, 4), (0x4, 1), [⟨0, 5, .rw, .between 20 30, false⟩, ⟨5, 1, .rw, .any, false⟩]⟩,
  ⟨0x0006104C, (0x1000, 4), (0x4, 1), [⟨0, 30, .ro, .any, false⟩]⟩,
  ⟨0x00061050, (0x1000, 4), (0x4, 1), [⟨0, 30, .rw, .any, false⟩]⟩,
  ⟨0x00061100, (0x1000, 4), (0x20, 16), [⟨0, 8, .rw, .any, false⟩, ⟨8, 1, .rw, .any, false⟩, ⟨9, 5, .rw, .between 20 30, false⟩]⟩,
  ⟨0x00061104, (0x1000, 4), (0x20, 16), [⟨0, 32, .rw, .any, false⟩]⟩,
  ⟨0x00061108, (0x1000, 4), (0x20, 16), [⟨0, 32, .rw, .any, false⟩]⟩,
  ⟨0x0006110C, (0x1000, 4), (0x20, 16), [⟨0, 30, .ro, .any, false⟩]⟩,
  ⟨0x00061110, (0x1000, 4), (0x20, 16), [⟨0, 30, .rw, .any, false⟩]⟩] ++ [
  ⟨0x00061060, (0x1000, 4), (0x4, 1), [⟨0, 32, .ro, .any, false⟩]⟩,
  ⟨0x00061064, (0x1000, 4), (0x4, 1), [⟨0, 32, .ro, .any, false⟩]⟩,
  ⟨0x00061068, (0x1000, 4), (0x4, 1), [⟨0, 32, .ro, .any, false⟩]⟩,
  ⟨0x0006106C, (0x1000, 4), (0x4, 1), [⟨0, 32, .ro, .any, false⟩]⟩,
  ⟨0x00061114, (0x1000, 4), (0x20, 16), [⟨0, 32, .ro, .any, false⟩]⟩,
  ⟨0x00061118, (0x1000, 4), (0x20, 16), [⟨0, 32, .ro, .any, false⟩]⟩])

/-- The registers of block CKV. -/
def rowsCkv : List RegRow := ([
  ⟨0x00070000, (0x100, 8), (0x4, 1), [⟨0, 2, .rw, .any, false⟩, ⟨2, 1, .rw, .any, false⟩]⟩,
  ⟨0x00070004, (0x100, 8), (0x4, 1), [⟨0, 1, .w1s, .any, false⟩, ⟨1, 1, .wo, .any, false⟩]⟩,
  ⟨0x00070008, (0x100, 8), (0x4, 1), [⟨0, 32, .rw, .any, false⟩]⟩,
  ⟨0x0007000C, (0x100, 8), (0x4, 1), [⟨0, 32, .rw, .any, false⟩]⟩,
  ⟨0x00070010, (0x100, 8), (0x4, 1), [⟨0, 3, .rw, .between 0 5, false⟩]⟩,
  ⟨0x00070014, (0x100, 8), (0x4, 1), [⟨0, 2, .ro, .any, false⟩, ⟨2, 1, .w1c, .any, false⟩, ⟨3, 1, .w1c, .any, false⟩, ⟨4, 3, .ro, .any, false⟩]⟩,
  ⟨0x00070018, (0x100, 8), (0x4, 1), [⟨0, 32, .rw, .any, false⟩]⟩,
  ⟨0x0007001C, (0x100, 8), (0x4, 1), [⟨0, 32, .rw, .any, false⟩]⟩,
  ⟨0x00070020, (0x100, 8), (0x4, 1), [⟨0, 32, .ro, .any, false⟩]⟩,
  ⟨0x00070024, (0x100, 8), (0x4, 1), [⟨0, 32, .ro, .any, false⟩]⟩,
  ⟨0x00070028, (0x100, 8), (0x4, 1), [⟨0, 32, .ro, .any, false⟩]⟩,
  ⟨0x0007002C, (0x100, 8), (0x4, 1), [⟨0, 32, .ro, .any, false⟩]⟩,
  ⟨0x00070030, (0x100, 8), (0x4, 1), [⟨0, 32, .ro, .any, false⟩]⟩,
  ⟨0x00070034, (0x100, 8), (0x4, 1), [⟨0, 32, .ro, .any, false⟩]⟩,
  ⟨0x00070038, (0x100, 8), (0x4, 1), [⟨0, 32, .ro, .any, false⟩]⟩,
  ⟨0x00070040, (0x100, 8), (0x4, 1), [⟨0, 32, .ro, .any, false⟩]⟩,
  ⟨0x00070044, (0x100, 8), (0x4, 1), [⟨0, 32, .ro, .any, false⟩]⟩,
  ⟨0x00070048, (0x100, 8), (0x4, 1), [⟨0, 32, .ro, .any, false⟩]⟩,
  ⟨0x0007004C, (0x100, 8), (0x4, 1), [⟨0, 32, .ro, .any, false⟩]⟩])

/-- The registers of block AUD. -/
def rowsAud : List RegRow := ([
  ⟨0x00081000, (0x100, 16), (0x4, 1), [⟨0, 2, .rw, .between 0 2, true⟩, ⟨2, 1, .rw, .any, true⟩, ⟨3, 2, .rw, .any, true⟩, ⟨5, 1, .rw, .any, true⟩]⟩,
  ⟨0x00081004, (0x100, 16), (0x4, 1), [⟨0, 3, .ro, .any, false⟩, ⟨3, 1, .ro, .any, false⟩, ⟨4, 1, .w1c, .any, false⟩, ⟨16, 16, .ro, .any, false⟩]⟩,
  ⟨0x00081010, (0x100, 16), (0x4, 6), [⟨0, 32, .ro, .any, false⟩]⟩,
  ⟨0x00081028, (0x100, 16), (0x4, 6), [⟨0, 32, .ro, .any, false⟩]⟩,
  ⟨0x00081040, (0x100, 16), (0x4, 1), [⟨0, 32, .ro, .any, false⟩]⟩,
  ⟨0x00081044, (0x100, 16), (0x4, 1), [⟨0, 32, .ro, .any, false⟩]⟩,
  ⟨0x00084000, (0x40, 48), (0x4, 1), [⟨0, 16, .rw, .any, true⟩, ⟨16, 1, .rw, .any, true⟩, ⟨17, 3, .rw, .any, true⟩, ⟨20, 8, .rw, .any, true⟩]⟩,
  ⟨0x00084004, (0x40, 48), (0x4, 1), [⟨0, 4, .ro, .any, false⟩, ⟨4, 1, .w1c, .any, false⟩]⟩,
  ⟨0x00084010, (0x40, 48), (0x4, 1), [⟨0, 32, .ro, .any, false⟩]⟩,
  ⟨0x00084014, (0x40, 48), (0x4, 1), [⟨0, 32, .ro, .any, false⟩]⟩,
  ⟨0x00084018, (0x40, 48), (0x4, 1), [⟨0, 32, .ro, .any, false⟩]⟩,
  ⟨0x0008401C, (0x40, 48), (0x4, 1), [⟨0, 32, .ro, .any, false⟩]⟩,
  ⟨0x00084020, (0x40, 48), (0x4, 1), [⟨0, 32, .ro, .any, false⟩]⟩,
  ⟨0x00084024, (0x40, 48), (0x4, 1), [⟨0, 32, .ro, .any, false⟩]⟩,
  ⟨0x00084028, (0x40, 48), (0x4, 1), [⟨0, 32, .ro, .any, false⟩]⟩,
  ⟨0x0008402C, (0x40, 48), (0x4, 1), [⟨0, 32, .ro, .any, false⟩]⟩,
  ⟨0x00084030, (0x40, 48), (0x4, 1), [⟨0, 32, .ro, .any, false⟩]⟩,
  ⟨0x00084034, (0x40, 48), (0x4, 1), [⟨0, 32, .ro, .any, false⟩]⟩,
  ⟨0x00084038, (0x40, 48), (0x4, 1), [⟨0, 32, .ro, .any, false⟩]⟩,
  ⟨0x00088000, (0x10, 256), (0x4, 1), [⟨0, 16, .rw, .any, true⟩]⟩])

/-- The registers of block DRC. -/
def rowsDrc : List RegRow := ([
  ⟨0x00100000, (0x8000, 32), (0x4, 1), [⟨0, 1, .wo, .any, false⟩, ⟨1, 1, .rw, .any, true⟩]⟩,
  ⟨0x00100004, (0x8000, 32), (0x4, 1), [⟨0, 3, .ro, .any, false⟩, ⟨3, 1, .ro, .any, false⟩, ⟨8, 8, .ro, .any, false⟩, ⟨16, 3, .ro, .any, false⟩]⟩,
  ⟨0x00100008, (0x8000, 32), (0x4, 1), [⟨0, 8, .rw, .between 1 255, true⟩, ⟨8, 8, .rw, .any, true⟩, ⟨16, 8, .rw, .any, true⟩]⟩,
  ⟨0x0010000C, (0x8000, 32), (0x4, 1), [⟨0, 3, .rw, .between 0 4, true⟩]⟩,
  ⟨0x00100010, (0x8000, 32), (0x4, 1), [⟨0, 4, .rw, .between 6 12, true⟩, ⟨4, 1, .rw, .any, true⟩]⟩,
  ⟨0x00100014, (0x8000, 32), (0x4, 1), [⟨0, 8, .rw, .between 1 255, true⟩]⟩,
  ⟨0x00100020, (0x8000, 32), (0x4, 1), [⟨0, 32, .ro, .any, false⟩]⟩,
  ⟨0x00100024, (0x8000, 32), (0x4, 1), [⟨0, 32, .ro, .any, false⟩]⟩,
  ⟨0x00100028, (0x8000, 32), (0x4, 1), [⟨0, 1, .ro, .any, false⟩, ⟨1, 1, .ro, .any, false⟩, ⟨2, 4, .ro, .any, false⟩, ⟨6, 2, .ro, .any, false⟩, ⟨8, 5, .ro, .any, false⟩, ⟨13, 19, .ro, .any, false⟩]⟩,
  ⟨0x00100030, (0x8000, 32), (0x4, 1), [⟨0, 1, .wo, .any, false⟩, ⟨1, 1, .wo, .any, false⟩]⟩,
  ⟨0x00100100, (0x8000, 32), (0x4, 1), [⟨0, 1, .w1s, .any, false⟩, ⟨1, 2, .rw, .any, false⟩, ⟨3, 1, .rw, .any, false⟩, ⟨4, 1, .ro, .any, false⟩, ⟨8, 24, .rw, .any, false⟩]⟩,
  ⟨0x00100104, (0x8000, 32), (0x4, 1), [⟨0, 32, .ro, .any, false⟩]⟩,
  ⟨0x00100108, (0x8000, 32), (0x4, 1), [⟨0, 8, .ro, .any, false⟩]⟩,
  ⟨0x00100110, (0x8000, 32), (0x4, 1), [⟨0, 8, .ro, .any, false⟩, ⟨8, 8, .ro, .any, false⟩, ⟨16, 8, .ro, .any, false⟩, ⟨24, 8, .ro, .any, false⟩]⟩,
  ⟨0x00100200, (0x8000, 32), (0x4, 1), [⟨0, 16, .ro, .any, false⟩, ⟨16, 16, .ro, .any, false⟩]⟩,
  ⟨0x00100204, (0x8000, 32), (0x4, 4), [⟨0, 16, .rsc, .any, false⟩]⟩,
  ⟨0x00100300, (0x8000, 32), (0x4, 1), [⟨0, 32, .ro, .any, false⟩]⟩,
  ⟨0x00100304, (0x8000, 32), (0x4, 1), [⟨0, 32, .ro, .any, false⟩]⟩,
  ⟨0x00100308, (0x8000, 32), (0x4, 1), [⟨0, 32, .ro, .any, false⟩]⟩,
  ⟨0x0010030C, (0x8000, 32), (0x4, 1), [⟨0, 32, .ro, .any, false⟩]⟩] ++ [
  ⟨0x00100310, (0x8000, 32), (0x4, 1), [⟨0, 32, .ro, .any, false⟩]⟩,
  ⟨0x00100314, (0x8000, 32), (0x4, 1), [⟨0, 32, .ro, .any, false⟩]⟩,
  ⟨0x00100318, (0x8000, 32), (0x4, 1), [⟨0, 32, .ro, .any, false⟩]⟩,
  ⟨0x0010031C, (0x8000, 32), (0x4, 1), [⟨0, 32, .ro, .any, false⟩]⟩,
  ⟨0x00100320, (0x8000, 32), (0x4, 1), [⟨0, 32, .ro, .any, false⟩]⟩,
  ⟨0x00100324, (0x8000, 32), (0x4, 1), [⟨0, 32, .ro, .any, false⟩]⟩,
  ⟨0x00107000, (0x20000, 8), (0x4, 1), [⟨0, 1, .ro, .any, false⟩, ⟨4, 3, .ro, .any, false⟩, ⟨8, 2, .ro, .any, false⟩]⟩])

/-- The registers of block LNK. -/
def rowsLnk : List RegRow := ([
  ⟨0x00200000, (0x2000, 256), (0x4, 1), [⟨0, 3, .rw, .between 0 4, true⟩, ⟨3, 1, .rw, .any, true⟩, ⟨4, 1, .rw, .any, true⟩, ⟨5, 1, .rw, .any, true⟩, ⟨6, 1, .rw, .any, true⟩, ⟨7, 1, .rw, .any, true⟩]⟩,
  ⟨0x00200004, (0x2000, 256), (0x4, 1), [⟨0, 3, .ro, .any, false⟩, ⟨3, 1, .ro, .any, false⟩, ⟨4, 1, .ro, .any, false⟩, ⟨5, 1, .ro, .any, false⟩, ⟨6, 1, .ro, .any, false⟩, ⟨8, 3, .ro, .any, false⟩, ⟨12, 2, .ro, .any, false⟩, ⟨14, 1, .w1c, .any, false⟩]⟩,
  ⟨0x00200008, (0x2000, 256), (0x4, 1), [⟨0, 8, .rw, .between 10 255, true⟩, ⟨8, 8, .rw, .between 1 255, true⟩, ⟨16, 4, .rw, .between 1 15, true⟩]⟩,
  ⟨0x0020000C, (0x2000, 256), (0x4, 1), [⟨0, 8, .ro, .any, false⟩, ⟨8, 6, .ro, .any, false⟩, ⟨14, 6, .ro, .any, false⟩, ⟨20, 6, .ro, .any, false⟩]⟩,
  ⟨0x00200010, (0x2000, 256), (0x4, 1), [⟨0, 1, .rw, .any, false⟩, ⟨1, 2, .rw, .any, false⟩, ⟨3, 1, .rw, .any, false⟩, ⟨4, 1, .rw, .any, false⟩, ⟨5, 2, .rw, .between 0 2, false⟩, ⟨7, 1, .rw, .any, false⟩]⟩,
  ⟨0x00200014, (0x2000, 256), (0x4, 1), [⟨0, 1, .wo, .any, false⟩, ⟨1, 1, .wo, .any, false⟩, ⟨8, 8, .rw, .between 1 255, false⟩]⟩,
  ⟨0x00200018, (0x2000, 256), (0x4, 1), [⟨0, 1, .ro, .any, false⟩, ⟨1, 1, .w1c, .any, false⟩]⟩,
  ⟨0x0020001C, (0x2000, 256), (0x4, 1), [⟨0, 32, .rsc, .any, false⟩]⟩,
  ⟨0x00200020, (0x2000, 256), (0x4, 1), [⟨0, 32, .ro, .any, false⟩]⟩,
  ⟨0x00200024, (0x2000, 256), (0x4, 1), [⟨0, 32, .ro, .any, false⟩]⟩,
  ⟨0x00200040, (0x2000, 256), (0x4, 1), [⟨0, 32, .ro, .any, false⟩]⟩,
  ⟨0x00200044, (0x2000, 256), (0x4, 1), [⟨0, 32, .ro, .any, false⟩]⟩,
  ⟨0x00200048, (0x2000, 256), (0x4, 1), [⟨0, 32, .ro, .any, false⟩]⟩,
  ⟨0x0020004C, (0x2000, 256), (0x4, 1), [⟨0, 32, .ro, .any, false⟩]⟩,
  ⟨0x00200050, (0x2000, 256), (0x4, 1), [⟨0, 32, .ro, .any, false⟩]⟩,
  ⟨0x00200054, (0x2000, 256), (0x4, 1), [⟨0, 32, .ro, .any, false⟩]⟩,
  ⟨0x00200058, (0x2000, 256), (0x4, 1), [⟨0, 32, .ro, .any, false⟩]⟩,
  ⟨0x0020005C, (0x2000, 256), (0x4, 1), [⟨0, 32, .ro, .any, false⟩]⟩,
  ⟨0x00200060, (0x2000, 256), (0x4, 1), [⟨0, 32, .ro, .any, false⟩]⟩,
  ⟨0x00200064, (0x2000, 256), (0x4, 1), [⟨0, 32, .ro, .any, false⟩]⟩] ++ [
  ⟨0x00200068, (0x2000, 256), (0x4, 1), [⟨0, 32, .ro, .any, false⟩]⟩,
  ⟨0x0020006C, (0x2000, 256), (0x4, 1), [⟨0, 32, .ro, .any, false⟩]⟩,
  ⟨0x00200070, (0x2000, 256), (0x4, 1), [⟨0, 32, .ro, .any, false⟩]⟩,
  ⟨0x00200074, (0x2000, 256), (0x4, 1), [⟨0, 32, .ro, .any, false⟩]⟩,
  ⟨0x00200078, (0x2000, 256), (0x4, 1), [⟨0, 32, .ro, .any, false⟩]⟩,
  ⟨0x0020007C, (0x2000, 256), (0x4, 1), [⟨0, 32, .ro, .any, false⟩]⟩,
  ⟨0x00200080, (0x2000, 256), (0x4, 1), [⟨0, 32, .ro, .any, false⟩]⟩,
  ⟨0x00200084, (0x2000, 256), (0x4, 1), [⟨0, 32, .ro, .any, false⟩]⟩,
  ⟨0x00201000, (0x8000, 64), (0x4, 1), [⟨0, 1, .rw, .any, true⟩, ⟨1, 1, .rw, .any, true⟩, ⟨2, 1, .rw, .any, true⟩]⟩,
  ⟨0x00201004, (0x8000, 64), (0x4, 1), [⟨0, 1, .ro, .any, false⟩, ⟨1, 1, .ro, .any, false⟩, ⟨2, 8, .ro, .any, false⟩, ⟨16, 8, .ro, .any, false⟩]⟩])

/-- The registers of block ING. -/
def rowsIng : List RegRow := ([
  ⟨0x00400000, (0x4, 1), (0x4, 1), [⟨0, 8, .rw, .between 1 255, true⟩]⟩,
  ⟨0x00401000, (0x400, 512), (0x4, 1), [⟨0, 2, .rw, .any, true⟩, ⟨2, 1, .rw, .any, true⟩, ⟨3, 1, .rw, .any, true⟩, ⟨4, 1, .rw, .any, true⟩, ⟨5, 2, .rw, .between 1 2, true⟩, ⟨7, 1, .rw, .any, true⟩, ⟨8, 2, .rw, .any, true⟩, ⟨16, 8, .rw, .between 1 255, true⟩]⟩,
  ⟨0x00401004, (0x400, 512), (0x4, 1), [⟨0, 1, .rw, .any, true⟩, ⟨1, 1, .rw, .any, true⟩, ⟨2, 2, .rw, .any, true⟩, ⟨4, 4, .rw, .between 0 12, true⟩, ⟨8, 7, .rw, .between 96 127, true⟩]⟩,
  ⟨0x00401008, (0x400, 512), (0x4, 1), [⟨0, 16, .rw, .any, true⟩, ⟨16, 16, .rw, .any, true⟩]⟩,
  ⟨0x0040100C, (0x400, 512), (0x4, 1), [⟨0, 2, .ro, .any, false⟩, ⟨2, 1, .ro, .any, false⟩, ⟨3, 1, .ro, .any, false⟩, ⟨4, 4, .ro, .any, false⟩, ⟨8, 1, .w1c, .any, false⟩, ⟨16, 16, .ro, .any, false⟩]⟩,
  ⟨0x00401010, (0x400, 512), (0x10, 2), [⟨0, 8, .rw, .any, true⟩, ⟨8, 1, .rw, .any, true⟩, ⟨16, 12, .rw, .any, true⟩]⟩,
  ⟨0x00401014, (0x400, 512), (0x10, 2), [⟨0, 32, .rw, .any, true⟩]⟩,
  ⟨0x00401018, (0x400, 512), (0x10, 2), [⟨0, 32, .rw, .any, true⟩]⟩,
  ⟨0x0040101C, (0x400, 512), (0x10, 2), [⟨0, 16, .rw, .any, true⟩]⟩,
  ⟨0x00401030, (0x400, 512), (0x4, 1), [⟨0, 14, .rw, .between 10 10000, true⟩]⟩,
  ⟨0x00401034, (0x400, 512), (0x4, 1), [⟨0, 32, .ro, .any, false⟩]⟩,
  ⟨0x00401040, (0x400, 512), (0x8, 4), [⟨0, 16, .rw, .any, true⟩, ⟨16, 16, .rw, .any, true⟩]⟩,
  ⟨0x00401044, (0x400, 512), (0x8, 4), [⟨0, 16, .rw, .any, true⟩, ⟨16, 16, .rw, .any, true⟩]⟩,
  ⟨0x00401060, (0x400, 512), (0x4, 1), [⟨0, 8, .rw, .between 1 255, true⟩, ⟨8, 8, .rw, .between 1 255, true⟩, ⟨16, 8, .rw, .between 1 255, true⟩]⟩,
  ⟨0x00401070, (0x400, 512), (0x4, 4), [⟨0, 8, .ro, .any, false⟩, ⟨8, 9, .ro, .any, false⟩, ⟨17, 9, .ro, .any, false⟩, ⟨26, 1, .ro, .any, false⟩]⟩,
  ⟨0x00401080, (0x400, 512), (0x4, 1), [⟨0, 16, .ro, .any, false⟩]⟩,
  ⟨0x00401100, (0x400, 512), (0x4, 1), [⟨0, 32, .ro, .any, false⟩]⟩,
  ⟨0x00401104, (0x400, 512), (0x4, 1), [⟨0, 32, .ro, .any, false⟩]⟩,
  ⟨0x00401108, (0x400, 512), (0x4, 1), [⟨0, 32, .ro, .any, false⟩]⟩,
  ⟨0x0040110C, (0x400, 512), (0x4, 1), [⟨0, 32, .ro, .any, false⟩]⟩] ++ [
  ⟨0x00401110, (0x400, 512), (0x4, 1), [⟨0, 32, .ro, .any, false⟩]⟩,
  ⟨0x00401114, (0x400, 512), (0x4, 1), [⟨0, 32, .ro, .any, false⟩]⟩,
  ⟨0x00401118, (0x400, 512), (0x4, 1), [⟨0, 32, .ro, .any, false⟩]⟩,
  ⟨0x0040111C, (0x400, 512), (0x4, 1), [⟨0, 32, .ro, .any, false⟩]⟩,
  ⟨0x00401120, (0x400, 512), (0x4, 1), [⟨0, 32, .ro, .any, false⟩]⟩,
  ⟨0x00401124, (0x400, 512), (0x4, 1), [⟨0, 32, .ro, .any, false⟩]⟩,
  ⟨0x00401128, (0x400, 512), (0x4, 1), [⟨0, 32, .ro, .any, false⟩]⟩,
  ⟨0x0040112C, (0x400, 512), (0x4, 1), [⟨0, 32, .ro, .any, false⟩]⟩,
  ⟨0x00401130, (0x400, 512), (0x4, 1), [⟨0, 32, .ro, .any, false⟩]⟩,
  ⟨0x00490000, (0x20, 32), (0x4, 1), [⟨0, 8, .rw, .any, true⟩, ⟨8, 8, .rw, .any, true⟩, ⟨16, 4, .rw, .between 1 8, true⟩, ⟨20, 1, .rw, .any, true⟩, ⟨21, 1, .rw, .any, true⟩, ⟨22, 1, .rw, .any, true⟩, ⟨23, 1, .rw, .any, true⟩]⟩,
  ⟨0x00490004, (0x20, 32), (0x4, 1), [⟨0, 32, .rw, .any, true⟩]⟩,
  ⟨0x00490008, (0x20, 32), (0x4, 1), [⟨0, 32, .rw, .any, true⟩]⟩,
  ⟨0x0049000C, (0x20, 32), (0x4, 1), [⟨0, 16, .rw, .any, true⟩, ⟨16, 7, .rw, .between 96 127, true⟩]⟩])

/-- The registers of block DEC. -/
def rowsDec : List RegRow := ([
  ⟨0x00500000, (0x4, 1), (0x4, 1), [⟨0, 4, .rw, .any, true⟩]⟩,
  ⟨0x00500004, (0x4, 1), (0x4, 1), [⟨0, 16, .ro, .any, false⟩, ⟨16, 10, .ro, .any, false⟩]⟩,
  ⟨0x00501000, (0x100, 512), (0x4, 1), [⟨0, 1, .rw, .any, true⟩, ⟨4, 5, .rw, .between 4 18, true⟩, ⟨12, 4, .rw, .between 1 8, true⟩, ⟨16, 5, .rw, .between 1 16, true⟩]⟩,
  ⟨0x00501004, (0x100, 512), (0x4, 1), [⟨0, 3, .ro, .any, false⟩, ⟨4, 2, .ro, .any, false⟩, ⟨8, 8, .ro, .any, false⟩, ⟨16, 4, .ro, .any, false⟩]⟩,
  ⟨0x00501008, (0x100, 512), (0x4, 1), [⟨0, 16, .ro, .any, false⟩, ⟨16, 16, .ro, .any, false⟩]⟩,
  ⟨0x0050100C, (0x100, 512), (0x4, 1), [⟨0, 3, .ro, .any, false⟩, ⟨16, 16, .ro, .any, false⟩]⟩,
  ⟨0x00501040, (0x100, 512), (0x4, 1), [⟨0, 32, .ro, .any, false⟩]⟩,
  ⟨0x00501044, (0x100, 512), (0x4, 1), [⟨0, 32, .ro, .any, false⟩]⟩,
  ⟨0x00501048, (0x100, 512), (0x4, 1), [⟨0, 32, .ro, .any, false⟩]⟩,
  ⟨0x0050104C, (0x100, 512), (0x4, 1), [⟨0, 32, .ro, .any, false⟩]⟩,
  ⟨0x00501050, (0x100, 512), (0x4, 1), [⟨0, 32, .ro, .any, false⟩]⟩,
  ⟨0x00501054, (0x100, 512), (0x4, 1), [⟨0, 32, .ro, .any, false⟩]⟩,
  ⟨0x00501058, (0x100, 512), (0x4, 1), [⟨0, 32, .ro, .any, false⟩]⟩,
  ⟨0x0050105C, (0x100, 512), (0x4, 1), [⟨0, 32, .ro, .any, false⟩]⟩,
  ⟨0x00501060, (0x100, 512), (0x4, 1), [⟨0, 32, .ro, .any, false⟩]⟩,
  ⟨0x00501064, (0x100, 512), (0x4, 1), [⟨0, 32, .ro, .any, false⟩]⟩,
  ⟨0x00501068, (0x100, 512), (0x4, 1), [⟨0, 32, .ro, .any, false⟩]⟩,
  ⟨0x0050106C, (0x100, 512), (0x4, 1), [⟨0, 32, .ro, .any, false⟩]⟩,
  ⟨0x00501070, (0x100, 512), (0x4, 1), [⟨0, 32, .ro, .any, false⟩]⟩])

/-- The registers of block CMP. -/
def rowsCmp : List RegRow := ([
  ⟨0x00600100, (0x10000, 16), (0x10, 16), [⟨0, 1, .w1s, .any, false⟩, ⟨1, 1, .w1c, .any, false⟩, ⟨4, 4, .ro, .any, false⟩, ⟨8, 6, .ro, .any, false⟩]⟩,
  ⟨0x00601000, (0x10000, 16), (0x100, 64), [⟨0, 1, .rw, .any, true⟩, ⟨1, 2, .rw, .between 0 2, true⟩, ⟨4, 4, .rw, .any, true⟩, ⟨8, 8, .rw, .any, true⟩, ⟨16, 9, .rw, .any, true⟩]⟩,
  ⟨0x00601004, (0x10000, 16), (0x100, 64), [⟨0, 16, .rw, .any, true⟩, ⟨16, 16, .rw, .any, true⟩]⟩,
  ⟨0x00601008, (0x10000, 16), (0x100, 64), [⟨0, 16, .rw, .any, true⟩, ⟨16, 16, .rw, .any, true⟩]⟩,
  ⟨0x0060100C, (0x10000, 16), (0x100, 64), [⟨0, 16, .rw, .any, true⟩, ⟨16, 16, .rw, .any, true⟩]⟩,
  ⟨0x00601010, (0x10000, 16), (0x100, 64), [⟨0, 16, .rw, .any, true⟩, ⟨16, 16, .rw, .any, true⟩]⟩,
  ⟨0x00601014, (0x10000, 16), (0x100, 64), [⟨0, 10, .rw, .any, true⟩]⟩,
  ⟨0x00601018, (0x10000, 16), (0x100, 64), [⟨0, 10, .rw, .any, true⟩, ⟨10, 10, .rw, .any, true⟩, ⟨20, 10, .rw, .any, true⟩]⟩,
  ⟨0x00601040, (0x10000, 16), (0x100, 64), [⟨0, 1, .w1s, .any, false⟩]⟩,
  ⟨0x00601044, (0x10000, 16), (0x100, 64), [⟨0, 2, .ro, .any, false⟩, ⟨4, 4, .ro, .any, false⟩, ⟨8, 1, .w1c, .any, false⟩]⟩,
  ⟨0x00601048, (0x10000, 16), (0x100, 64), [⟨0, 16, .ro, .any, false⟩, ⟨16, 16, .ro, .any, false⟩]⟩,
  ⟨0x0060104C, (0x10000, 16), (0x100, 64), [⟨0, 32, .ro, .any, false⟩]⟩,
  ⟨0x00601050, (0x10000, 16), (0x100, 64), [⟨0, 32, .ro, .any, false⟩]⟩,
  ⟨0x00601020, (0x10000, 16), (0x100, 64), [⟨0, 4, .rw, .any, true⟩, ⟨4, 4, .rw, .any, true⟩]⟩,
  ⟨0x00601024, (0x10000, 16), (0x100, 64), [⟨0, 5, .rw, .any, true⟩, ⟨5, 1, .rw, .any, true⟩]⟩,
  ⟨0x00601028, (0x10000, 16), (0x100, 64), [⟨0, 2, .rw, .between 0 2, true⟩]⟩,
  ⟨0x00600104, (0x10000, 16), (0x10, 16), [⟨0, 10, .rw, .any, true⟩, ⟨10, 10, .rw, .any, true⟩, ⟨20, 10, .rw, .any, true⟩]⟩,
  ⟨0x00600108, (0x10000, 16), (0x10, 16), [⟨0, 1, .rw, .any, true⟩, ⟨1, 1, .rw, .any, true⟩, ⟨2, 1, .rw, .any, true⟩, ⟨3, 5, .rw, .any, true⟩, ⟨8, 1, .ro, .any, false⟩]⟩,
  ⟨0x00600004, (0x10000, 16), (0x4, 1), [⟨0, 16, .ro, .any, false⟩, ⟨16, 8, .ro, .any, false⟩]⟩,
  ⟨0x00600008, (0x10000, 16), (0x4, 1), [⟨0, 32, .rsc, .any, false⟩]⟩] ++ [
  ⟨0x00600200, (0x10000, 16), (0x4, 1), [⟨0, 4, .rw, .any, false⟩, ⟨4, 2, .rw, .any, false⟩]⟩,
  ⟨0x00600204, (0x10000, 16), (0x4, 1), [⟨0, 12, .wo, .any, false⟩, ⟨16, 12, .wo, .any, false⟩]⟩,
  ⟨0x00600208, (0x10000, 16), (0x4, 1), [⟨0, 1, .w1s, .any, false⟩, ⟨4, 3, .ro, .any, false⟩, ⟨8, 6, .ro, .any, false⟩]⟩,
  ⟨0x0060020C, (0x10000, 16), (0x4, 1), [⟨0, 16, .ro, .any, true⟩]⟩,
  ⟨0x00600210, (0x10000, 16), (0x4, 1), [⟨0, 32, .ro, .any, true⟩]⟩,
  ⟨0x00600220, (0x10000, 16), (0x4, 1), [⟨0, 5, .rw, .any, false⟩, ⟨5, 1, .rw, .any, false⟩]⟩,
  ⟨0x00600224, (0x10000, 16), (0x4, 1), [⟨0, 14, .wo, .any, false⟩]⟩,
  ⟨0x00600228, (0x10000, 16), (0x4, 1), [⟨0, 1, .w1s, .any, false⟩, ⟨4, 3, .ro, .any, false⟩]⟩,
  ⟨0x0060022C, (0x10000, 16), (0x4, 1), [⟨0, 32, .ro, .any, true⟩]⟩,
  ⟨0x00600230, (0x10000, 16), (0x4, 1), [⟨0, 32, .ro, .any, true⟩]⟩])

/-- The registers of block ENC. -/
def rowsEnc : List RegRow := ([
  ⟨0x00800000, (0x8000, 128), (0x4, 1), [⟨0, 7, .ro, .any, false⟩, ⟨8, 4, .ro, .any, false⟩, ⟨12, 2, .ro, .any, false⟩, ⟨16, 16, .ro, .any, true⟩]⟩,
  ⟨0x00800004, (0x8000, 128), (0x4, 1), [⟨0, 8, .ro, .any, false⟩, ⟨8, 4, .ro, .any, false⟩, ⟨16, 9, .ro, .any, false⟩]⟩,
  ⟨0x00800008, (0x8000, 128), (0x4, 4), [⟨0, 9, .ro, .any, false⟩, ⟨9, 1, .ro, .any, false⟩, ⟨16, 9, .ro, .any, false⟩, ⟨25, 1, .ro, .any, false⟩]⟩,
  ⟨0x00800018, (0x8000, 128), (0x4, 1), [⟨0, 32, .ro, .any, false⟩]⟩,
  ⟨0x0080001C, (0x8000, 128), (0x4, 1), [⟨0, 32, .ro, .any, false⟩]⟩,
  ⟨0x00800020, (0x8000, 128), (0x4, 1), [⟨0, 16, .rsc, .any, false⟩, ⟨16, 16, .rsc, .any, false⟩]⟩,
  ⟨0x00800024, (0x8000, 128), (0x4, 1), [⟨0, 32, .ro, .any, false⟩]⟩,
  ⟨0x00800028, (0x8000, 128), (0x4, 1), [⟨0, 9, .ro, .any, false⟩, ⟨9, 7, .ro, .any, false⟩, ⟨16, 16, .ro, .any, false⟩]⟩,
  ⟨0x00800030, (0x8000, 128), (0x4, 1), [⟨0, 32, .ro, .any, true⟩]⟩,
  ⟨0x00800040, (0x8000, 128), (0x4, 1), [⟨0, 32, .ro, .any, false⟩]⟩,
  ⟨0x00800044, (0x8000, 128), (0x4, 1), [⟨0, 32, .ro, .any, false⟩]⟩,
  ⟨0x00800048, (0x8000, 128), (0x4, 1), [⟨0, 32, .ro, .any, false⟩]⟩,
  ⟨0x0080004C, (0x8000, 128), (0x4, 1), [⟨0, 32, .ro, .any, false⟩]⟩,
  ⟨0x00800100, (0x8000, 128), (0x4, 1), [⟨0, 3, .ro, .any, false⟩, ⟨4, 4, .ro, .any, false⟩, ⟨8, 8, .ro, .any, false⟩, ⟨16, 3, .ro, .any, false⟩]⟩,
  ⟨0x00800104, (0x8000, 128), (0x4, 1), [⟨0, 1, .wo, .any, false⟩, ⟨1, 1, .wo, .any, false⟩]⟩,
  ⟨0x00800108, (0x8000, 128), (0x4, 1), [⟨0, 1, .wo, .any, false⟩, ⟨1, 1, .wo, .any, false⟩, ⟨2, 1, .wo, .any, false⟩]⟩,
  ⟨0x00800110, (0x8000, 128), (0x4, 1), [⟨0, 32, .ro, .any, false⟩]⟩,
  ⟨0x00800114, (0x8000, 128), (0x4, 1), [⟨0, 32, .ro, .any, false⟩]⟩,
  ⟨0x00800118, (0x8000, 128), (0x4, 1), [⟨0, 32, .ro, .any, false⟩]⟩,
  ⟨0x0080011C, (0x8000, 128), (0x4, 1), [⟨0, 32, .ro, .any, false⟩]⟩])

/-- The registers of block CHN. -/
def rowsChn : List RegRow := ([
  ⟨0x00C00100, (0x4000, 256), (0x4, 1), [⟨0, 32, .ro, .any, false⟩]⟩,
  ⟨0x00C00104, (0x4000, 256), (0x4, 1), [⟨0, 32, .ro, .any, false⟩]⟩,
  ⟨0x00C00108, (0x4000, 256), (0x4, 1), [⟨0, 32, .ro, .any, false⟩]⟩,
  ⟨0x00C0010C, (0x4000, 256), (0x4, 1), [⟨0, 32, .ro, .any, false⟩]⟩,
  ⟨0x00C00110, (0x4000, 256), (0x4, 1), [⟨0, 32, .ro, .any, false⟩]⟩,
  ⟨0x00C00114, (0x4000, 256), (0x4, 1), [⟨0, 32, .ro, .any, false⟩]⟩,
  ⟨0x00C00118, (0x4000, 256), (0x4, 1), [⟨0, 32, .ro, .any, false⟩]⟩,
  ⟨0x00C0011C, (0x4000, 256), (0x4, 1), [⟨0, 32, .ro, .any, false⟩]⟩,
  ⟨0x00C00120, (0x4000, 256), (0x4, 1), [⟨0, 32, .ro, .any, false⟩]⟩,
  ⟨0x00C00124, (0x4000, 256), (0x4, 1), [⟨0, 32, .ro, .any, false⟩]⟩,
  ⟨0x00C00128, (0x4000, 256), (0x4, 1), [⟨0, 32, .ro, .any, false⟩]⟩,
  ⟨0x00C0012C, (0x4000, 256), (0x4, 1), [⟨0, 32, .ro, .any, false⟩]⟩,
  ⟨0x00C00130, (0x4000, 256), (0x4, 1), [⟨0, 32, .ro, .any, false⟩]⟩,
  ⟨0x00C00134, (0x4000, 256), (0x4, 1), [⟨0, 32, .ro, .any, false⟩]⟩,
  ⟨0x00C00138, (0x4000, 256), (0x4, 1), [⟨0, 16, .rsc, .any, false⟩, ⟨16, 16, .rsc, .any, false⟩]⟩,
  ⟨0x00C0013C, (0x4000, 256), (0x4, 1), [⟨0, 1, .w1c, .any, false⟩, ⟨1, 1, .w1c, .any, false⟩, ⟨2, 1, .w1c, .any, false⟩]⟩,
  ⟨0x00C00000, (0x4000, 256), (0x4, 1), [⟨0, 1, .wo, .any, false⟩, ⟨1, 1, .wo, .any, false⟩]⟩,
  ⟨0x00C00004, (0x4000, 256), (0x4, 1), [⟨0, 8, .rw, .any, true⟩, ⟨8, 10, .rw, .any, true⟩, ⟨18, 2, .rw, .between 0 2, true⟩, ⟨20, 1, .rw, .any, true⟩, ⟨24, 4, .rw, .between 0 12, true⟩]⟩,
  ⟨0x00C00008, (0x4000, 256), (0x4, 1), [⟨0, 1, .rw, .any, true⟩, ⟨1, 1, .rw, .any, true⟩, ⟨2, 2, .rw, .any, true⟩]⟩,
  ⟨0x00C0000C, (0x4000, 256), (0x4, 1), [⟨0, 2, .rw, .between 0 2, true⟩, ⟨8, 4, .rw, .any, true⟩, ⟨16, 6, .rw, .any, true⟩]⟩] ++ [
  ⟨0x00C00010, (0x4000, 256), (0x4, 1), [⟨0, 1, .w1s, .any, false⟩, ⟨1, 1, .w1s, .any, false⟩]⟩,
  ⟨0x00C00014, (0x4000, 256), (0x4, 1), [⟨0, 3, .ro, .any, false⟩, ⟨3, 1, .ro, .any, false⟩, ⟨8, 4, .ro, .any, false⟩, ⟨12, 1, .w1c, .any, false⟩]⟩,
  ⟨0x00C00018, (0x4000, 256), (0x4, 1), [⟨0, 16, .ro, .any, false⟩, ⟨16, 16, .ro, .any, false⟩]⟩,
  ⟨0x00C00040, (0x4000, 256), (0x4, 1), [⟨0, 16, .rw, .any, true⟩]⟩,
  ⟨0x00C00044, (0x4000, 256), (0x4, 1), [⟨0, 26, .rw, .any, true⟩]⟩,
  ⟨0x00C00048, (0x4000, 256), (0x4, 1), [⟨0, 14, .ro, .any, false⟩, ⟨16, 16, .ro, .any, false⟩]⟩,
  ⟨0x00C0004C, (0x4000, 256), (0x4, 1), [⟨0, 26, .ro, .any, false⟩, ⟨26, 1, .ro, .any, false⟩, ⟨27, 1, .ro, .any, false⟩]⟩,
  ⟨0x00C00050, (0x4000, 256), (0x4, 1), [⟨0, 32, .ro, .any, false⟩]⟩,
  ⟨0x00C00054, (0x4000, 256), (0x4, 1), [⟨0, 32, .ro, .any, false⟩]⟩,
  ⟨0x00C00058, (0x4000, 256), (0x4, 1), [⟨0, 32, .ro, .any, false⟩]⟩,
  ⟨0x00C0005C, (0x4000, 256), (0x4, 1), [⟨0, 32, .ro, .any, false⟩]⟩,
  ⟨0x00C00060, (0x4000, 256), (0x4, 1), [⟨0, 16, .ro, .any, false⟩, ⟨16, 16, .ro, .any, false⟩]⟩,
  ⟨0x00C00064, (0x4000, 256), (0x4, 1), [⟨0, 16, .ro, .any, false⟩]⟩,
  ⟨0x00C00070, (0x4000, 256), (0x4, 1), [⟨0, 8, .rw, .any, true⟩, ⟨8, 1, .rw, .any, true⟩]⟩,
  ⟨0x00C00074, (0x4000, 256), (0x4, 1), [⟨0, 10, .rw, .any, true⟩, ⟨10, 10, .rw, .any, true⟩, ⟨20, 10, .rw, .any, true⟩]⟩,
  ⟨0x00C00078, (0x4000, 256), (0x4, 1), [⟨0, 16, .ro, .any, false⟩, ⟨16, 16, .ro, .any, false⟩]⟩,
  ⟨0x00C00200, (0x4000, 256), (0x4, 1), [⟨0, 1, .rw, .any, true⟩, ⟨1, 2, .rw, .between 0 2, true⟩, ⟨3, 1, .rw, .any, true⟩, ⟨4, 1, .rw, .any, true⟩]⟩,
  ⟨0x00C00204, (0x4000, 256), (0x4, 1), [⟨0, 8, .rw, .any, true⟩, ⟨8, 8, .rw, .any, true⟩, ⟨16, 8, .rw, .any, true⟩]⟩,
  ⟨0x00C00208, (0x4000, 256), (0x4, 1), [⟨0, 1, .rw, .any, true⟩, ⟨4, 4, .rw, .any, true⟩]⟩,
  ⟨0x00C0020C, (0x4000, 256), (0x4, 1), [⟨0, 8, .rw, .between 8 255, true⟩, ⟨8, 3, .rw, .below 0 8 4, true⟩, ⟨12, 4, .rw, .between 1 15, true⟩, ⟨16, 16, .rw, .any, true⟩]⟩] ++ [
  ⟨0x00C00220, (0x4000, 256), (0x4, 1), [⟨0, 8, .ro, .any, false⟩, ⟨8, 2, .ro, .any, false⟩, ⟨16, 8, .ro, .any, false⟩, ⟨24, 1, .ro, .any, false⟩]⟩,
  ⟨0x00C00228, (0x4000, 256), (0x4, 1), [⟨0, 32, .ro, .any, false⟩]⟩,
  ⟨0x00C0022C, (0x4000, 256), (0x4, 1), [⟨0, 32, .ro, .any, false⟩]⟩,
  ⟨0x00C00230, (0x4000, 256), (0x4, 1), [⟨0, 32, .ro, .any, false⟩]⟩,
  ⟨0x00C00234, (0x4000, 256), (0x4, 1), [⟨0, 32, .ro, .any, false⟩]⟩,
  ⟨0x00C00240, (0x4000, 256), (0x4, 1), [⟨0, 2, .rw, .between 0 2, true⟩, ⟨2, 1, .rw, .any, true⟩, ⟨3, 1, .rw, .any, true⟩]⟩,
  ⟨0x00C00244, (0x4000, 256), (0x4, 1), [⟨0, 3, .ro, .any, false⟩, ⟨3, 1, .ro, .any, false⟩, ⟨8, 8, .ro, .any, false⟩]⟩,
  ⟨0x00C00248, (0x4000, 256), (0x4, 1), [⟨0, 11, .ro, .any, false⟩]⟩,
  ⟨0x00C00250, (0x4000, 256), (0x4, 1), [⟨0, 32, .ro, .any, false⟩]⟩,
  ⟨0x00C00254, (0x4000, 256), (0x4, 1), [⟨0, 32, .ro, .any, false⟩]⟩,
  ⟨0x00C00280, (0x4000, 256), (0x4, 1), [⟨0, 1, .rw, .any, true⟩, ⟨4, 4, .rw, .between 2 15, true⟩, ⟨8, 8, .rw, .between 1 255, true⟩, ⟨16, 16, .rw, .between 10 2000, true⟩]⟩,
  ⟨0x00C00284, (0x4000, 256), (0x4, 1), [⟨0, 32, .rw, .between 500 2000000, true⟩]⟩,
  ⟨0x00C00288, (0x4000, 256), (0x4, 1), [⟨0, 6, .rw, .any, true⟩, ⟨8, 6, .rw, .atLeast 0 6, true⟩, ⟨16, 4, .rw, .between 1 15, true⟩, ⟨20, 4, .rw, .any, true⟩, ⟨24, 6, .rw, .any, true⟩]⟩,
  ⟨0x00C0028C, (0x4000, 256), (0x4, 1), [⟨0, 24, .rw, .any, true⟩]⟩,
  ⟨0x00C00290, (0x4000, 256), (0x4, 1), [⟨0, 24, .ro, .any, false⟩, ⟨24, 1, .ro, .any, false⟩]⟩,
  ⟨0x00C00294, (0x4000, 256), (0x4, 1), [⟨0, 24, .ro, .any, false⟩]⟩,
  ⟨0x00C00298, (0x4000, 256), (0x4, 1), [⟨0, 32, .ro, .any, false⟩]⟩,
  ⟨0x00C0029C, (0x4000, 256), (0x4, 1), [⟨0, 6, .ro, .any, false⟩, ⟨6, 1, .ro, .any, false⟩, ⟨7, 1, .ro, .any, false⟩, ⟨8, 7, .ro, .any, false⟩]⟩,
  ⟨0x00C002A0, (0x4000, 256), (0x4, 1), [⟨0, 24, .ro, .any, false⟩]⟩,
  ⟨0x00C002A8, (0x4000, 256), (0x4, 1), [⟨0, 32, .ro, .any, false⟩]⟩] ++ [
  ⟨0x00C002AC, (0x4000, 256), (0x4, 1), [⟨0, 32, .ro, .any, false⟩]⟩,
  ⟨0x00C002B0, (0x4000, 256), (0x4, 1), [⟨0, 32, .ro, .any, false⟩]⟩,
  ⟨0x00C002B4, (0x4000, 256), (0x4, 1), [⟨0, 32, .ro, .any, false⟩]⟩,
  ⟨0x00C002B8, (0x4000, 256), (0x4, 1), [⟨0, 32, .ro, .any, false⟩]⟩,
  ⟨0x00C002BC, (0x4000, 256), (0x4, 1), [⟨0, 32, .ro, .any, false⟩]⟩,
  ⟨0x00C00300, (0x4000, 256), (0x4, 1), [⟨0, 3, .ro, .any, false⟩, ⟨8, 7, .ro, .any, false⟩, ⟨15, 1, .ro, .any, false⟩, ⟨16, 7, .ro, .any, false⟩, ⟨24, 7, .ro, .any, false⟩]⟩,
  ⟨0x00C00304, (0x4000, 256), (0x4, 1), [⟨0, 1, .wo, .any, false⟩]⟩,
  ⟨0x00C00308, (0x4000, 256), (0x4, 1), [⟨0, 32, .ro, .any, false⟩]⟩,
  ⟨0x00C0030C, (0x4000, 256), (0x4, 1), [⟨0, 32, .ro, .any, false⟩]⟩,
  ⟨0x00C00310, (0x4000, 256), (0x4, 1), [⟨0, 32, .ro, .any, false⟩]⟩,
  ⟨0x00C00314, (0x4000, 256), (0x4, 1), [⟨0, 32, .ro, .any, false⟩]⟩])

/-- The registers of block EGR. -/
def rowsEgr : List RegRow := ([
  ⟨0x01000000, (0x4, 1), (0x4, 1), [⟨0, 8, .rw, .between 1 255, true⟩, ⟨8, 3, .rw, .between 1 7, true⟩]⟩,
  ⟨0x01000004, (0x4, 1), (0x4, 1), [⟨0, 11, .ro, .any, false⟩, ⟨16, 9, .ro, .any, true⟩]⟩,
  ⟨0x01010000, (0x20, 256), (0x4, 1), [⟨0, 32, .rw, .any, true⟩]⟩,
  ⟨0x01010004, (0x20, 256), (0x4, 1), [⟨0, 32, .rw, .any, true⟩]⟩,
  ⟨0x01010008, (0x20, 256), (0x4, 1), [⟨0, 16, .rw, .any, true⟩]⟩,
  ⟨0x0101000C, (0x20, 256), (0x4, 1), [⟨0, 17, .ro, .any, false⟩, ⟨24, 6, .ro, .any, false⟩]⟩,
  ⟨0x01010010, (0x20, 256), (0x4, 1), [⟨0, 16, .rsc, .any, false⟩, ⟨16, 8, .rsc, .any, false⟩, ⟨24, 8, .rsc, .any, false⟩]⟩,
  ⟨0x01040000, (0x200, 256), (0x4, 1), [⟨0, 1, .rw, .any, true⟩, ⟨1, 1, .rw, .any, true⟩, ⟨2, 2, .rw, .any, true⟩, ⟨4, 2, .rw, .between 0 2, true⟩, ⟨8, 6, .rw, .any, true⟩, ⟨16, 14, .rw, .any, true⟩]⟩,
  ⟨0x01040004, (0x200, 256), (0x4, 1), [⟨0, 27, .rw, .any, true⟩]⟩,
  ⟨0x01040008, (0x200, 256), (0x4, 1), [⟨0, 7, .rw, .between 96 127, true⟩]⟩,
  ⟨0x0104000C, (0x200, 256), (0x4, 1), [⟨0, 32, .rw, .any, true⟩]⟩,
  ⟨0x01040010, (0x200, 256), (0x4, 1), [⟨0, 13, .rw, .any, true⟩, ⟨16, 13, .rw, .any, true⟩]⟩,
  ⟨0x01040014, (0x200, 256), (0x4, 1), [⟨0, 13, .rw, .any, true⟩, ⟨16, 16, .rw, .between 1 65535, true⟩]⟩,
  ⟨0x01040018, (0x200, 256), (0x4, 1), [⟨0, 1, .w1s, .any, false⟩]⟩,
  ⟨0x0104001C, (0x200, 256), (0x4, 1), [⟨0, 1, .ro, .any, false⟩, ⟨1, 1, .w1c, .any, false⟩, ⟨2, 1, .w1c, .any, false⟩, ⟨4, 4, .ro, .any, false⟩, ⟨16, 16, .ro, .any, false⟩]⟩,
  ⟨0x01040020, (0x200, 256), (0x4, 1), [⟨0, 32, .ro, .any, false⟩]⟩,
  ⟨0x01040024, (0x200, 256), (0x4, 1), [⟨0, 32, .ro, .any, false⟩]⟩,
  ⟨0x01040028, (0x200, 256), (0x4, 1), [⟨0, 32, .ro, .any, false⟩]⟩,
  ⟨0x0104002C, (0x200, 256), (0x4, 1), [⟨0, 32, .ro, .any, false⟩]⟩,
  ⟨0x01040040, (0x200, 256), (0x20, 2), [⟨0, 8, .rw, .any, true⟩, ⟨8, 1, .rw, .any, true⟩, ⟨9, 1, .rw, .any, true⟩, ⟨10, 3, .rw, .any, true⟩, ⟨13, 6, .rw, .any, true⟩, ⟨20, 12, .rw, .any, true⟩]⟩] ++ [
  ⟨0x01040044, (0x200, 256), (0x20, 2), [⟨0, 32, .rw, .any, true⟩]⟩,
  ⟨0x01040048, (0x200, 256), (0x20, 2), [⟨0, 16, .rw, .any, true⟩, ⟨16, 16, .rw, .any, true⟩]⟩,
  ⟨0x0104004C, (0x200, 256), (0x20, 2), [⟨0, 32, .rw, .any, true⟩]⟩,
  ⟨0x01040050, (0x200, 256), (0x20, 2), [⟨0, 16, .rw, .any, true⟩]⟩])

/-- The registers of block RPL. -/
def rowsRpl : List RegRow := ([
  ⟨0x01200000, (0x4, 1), (0x4, 1), [⟨0, 6, .rw, .between 1 50, true⟩]⟩,
  ⟨0x01200004, (0x4, 1), (0x4, 1), [⟨0, 20, .ro, .any, false⟩]⟩,
  ⟨0x01200008, (0x4, 1), (0x4, 1), [⟨0, 20, .ro, .any, false⟩]⟩,
  ⟨0x0120000C, (0x4, 1), (0x4, 1), [⟨0, 20, .ro, .any, false⟩]⟩,
  ⟨0x01200100, (0x40, 4), (0x4, 1), [⟨0, 8, .rw, .any, false⟩, ⟨8, 1, .rw, .any, false⟩, ⟨9, 1, .rw, .any, false⟩, ⟨10, 1, .w1s, .any, false⟩, ⟨11, 1, .wo, .any, false⟩, ⟨16, 16, .rw, .any, false⟩]⟩,
  ⟨0x01200104, (0x40, 4), (0x4, 1), [⟨0, 32, .rw, .any, false⟩]⟩,
  ⟨0x01200108, (0x40, 4), (0x4, 1), [⟨0, 32, .rw, .any, false⟩]⟩,
  ⟨0x0120010C, (0x40, 4), (0x4, 1), [⟨0, 32, .rw, .any, false⟩]⟩,
  ⟨0x01200110, (0x40, 4), (0x4, 1), [⟨0, 32, .rw, .any, false⟩]⟩,
  ⟨0x01200114, (0x40, 4), (0x4, 1), [⟨0, 3, .ro, .any, false⟩, ⟨3, 1, .w1c, .any, false⟩]⟩,
  ⟨0x01200118, (0x40, 4), (0x4, 1), [⟨0, 32, .ro, .any, false⟩]⟩,
  ⟨0x0120011C, (0x40, 4), (0x4, 1), [⟨0, 32, .ro, .any, false⟩]⟩,
  ⟨0x01200120, (0x40, 4), (0x4, 1), [⟨0, 32, .ro, .any, false⟩]⟩,
  ⟨0x01200124, (0x40, 4), (0x4, 1), [⟨0, 32, .ro, .any, false⟩]⟩,
  ⟨0x01201000, (0x40, 256), (0x4, 1), [⟨0, 1, .rw, .any, true⟩, ⟨8, 24, .rw, .any, true⟩]⟩,
  ⟨0x01201004, (0x40, 256), (0x4, 1), [⟨0, 20, .ro, .any, false⟩]⟩,
  ⟨0x01201008, (0x40, 256), (0x4, 1), [⟨0, 20, .ro, .any, false⟩]⟩,
  ⟨0x0120100C, (0x40, 256), (0x4, 1), [⟨0, 16, .ro, .any, false⟩, ⟨16, 1, .ro, .any, false⟩]⟩,
  ⟨0x01201010, (0x40, 256), (0x4, 1), [⟨0, 32, .ro, .any, false⟩]⟩,
  ⟨0x01201014, (0x40, 256), (0x4, 1), [⟨0, 32, .ro, .any, false⟩]⟩] ++ [
  ⟨0x01201018, (0x40, 256), (0x4, 1), [⟨0, 32, .ro, .any, false⟩]⟩,
  ⟨0x0120101C, (0x40, 256), (0x4, 1), [⟨0, 32, .ro, .any, false⟩]⟩,
  ⟨0x01201020, (0x40, 256), (0x4, 1), [⟨0, 32, .ro, .any, false⟩]⟩,
  ⟨0x01201024, (0x40, 256), (0x4, 1), [⟨0, 32, .ro, .any, false⟩]⟩])

/-- The rows of the block an address lies in (the BAR0 map of R603); none in an unassigned range (R604). -/
def blockRows (a : Nat) : List RegRow :=
  if a < 0x00010000 then rowsSys
  else if a < 0x00020000 then rowsSel
  else if a < 0x00030000 then rowsBob
  else if a < 0x00040000 then rowsClk
  else if a < 0x00050000 then rowsTim
  else if a < 0x00060000 then rowsNvm
  else if a < 0x00070000 then rowsHst
  else if a < 0x00080000 then rowsCkv
  else if a < 0x00100000 then rowsAud
  else if a < 0x00200000 then rowsDrc
  else if a < 0x00400000 then rowsLnk
  else if a < 0x00500000 then rowsIng
  else if a < 0x00600000 then rowsDec
  else if a < 0x00700000 then rowsCmp
  else if a < 0x00800000 then []
  else if a < 0x00C00000 then rowsEnc
  else if a < 0x01000000 then rowsChn
  else if a < 0x01200000 then rowsEgr
  else if a < 0x01300000 then rowsRpl
  else []

/-- Does address `a` name an instance of the row (R603)? -/
def RegRow.hit (r : RegRow) (a : Nat) : Bool :=
  Nat.ble r.base a &&
    (let o := a - r.base
     let q1 := o / r.dim1.1
     let o1 := o % r.dim1.1
     Nat.blt q1 r.dim1.2 && Nat.blt (o1 / r.dim2.1) r.dim2.2 && Nat.beq (o1 % r.dim2.1) 0)

/-- The register an address names; none for a reserved or unassigned address (R604). -/
def findReg (a : Nat) : Option RegRow := (blockRows a).find? (fun r => r.hit a)

end Sys2Proof.Machine
end

