-- ==== Sys2Proof/Machine/State.lean ====
section
/-!
DEFINITION. Sys2Proof/Machine/State.lean: everything the manual gives the module to remember, as plain data, and the
state right after power-on. Registers stand in one table keyed by BAR0 address; what stands behind them (engines'
work, tasks, packets in merge, grids, buffers) stands in typed tables keyed by instance number.
-/

namespace Sys2Proof.Machine

/-- Why the module stops: no command of this model stops the module, so no fault is ever answered. -/
inductive Fault where
  /-- Kept so that the type is inhabited: no meaning answers it. Safe. -/
  | none
deriving DecidableEq, Repr

/-- Why a command has no meaning here. -/
inductive Refusal where
  /-- A command whose meaning is not written yet, raised by its own arm of exec only. Safe. -/
  | notModelled (mnemonic : String)
deriving DecidableEq, Repr

/-- One event on its way to the event record of R507: arbiter input, kind (0 FAULT, 1 WRITE, 2 MODE, 3 STATE,
4 REFUSAL), code, FAULT flags, data, timestamp in the source's domain, for WRITE the old value (R571) and for FAULT the reaction in force, and the
shadow that opens when the event reaches the arbiter (R500): 0 none, else opener + 1 (State.openShadow). -/
structure Ev where
  input : Nat
  kind  : Nat
  code  : Nat
  flags : Nat
  data  : Nat
  ts    : Nat
  old   : Nat
  opens : Nat
deriving DecidableEq, Repr

/-- The event arbiter (R505, R506) with the journal writer's buffer (R543) and each port's queue writer (R573). -/
structure ArbSt where
  /-- Events generated and not yet at the arbiter's input (R608). -/
  wait    : List Ev := []
  /-- Events at the arbiter, each with the always-on cycle in which it arrived (R52). -/
  queue   : List (Nat × Ev) := []
  /-- Per event source, the events not numbered since its last numbered one (R56). -/
  ovf     : List (Nat × Nat) := []
  /-- The next sequence number, 48 bits (R51, R54). -/
  next    : Nat := 0
  /-- The always-on cycle of the last numbering, plus one (R506). -/
  last    : Nat := 0
  /-- The journal records waiting in the buffer on die, eight words each (R543). -/
  jbuf    : List (List Word) := []
  /-- Journal records discarded since the last GAP record (R543). -/
  jgap    : Nat := 0
  /-- The journal's records in non-volatile memory by index; a cell not listed holds no valid record (R541). -/
  journal : List (Nat × List Word) := []
  /-- The index of the next record and the serial of the last PAGE record (R541, R542). -/
  jidx    : Nat := 0
  jpage   : Nat := 0
  /-- Per host port, the records of numbered events not yet written to its event queue (R573). -/
  eq      : List (Nat × List (List Word)) := []
deriving DecidableEq, Repr

/-- A lasting fault under way or waiting (R495, R497): its code and reaction. -/
structure React where
  code  : Nat
  react : Nat
deriving DecidableEq, Repr

/-- An open reaction shadow (R499): what opened it and the instance; `ended` once its end has come and the
SHADOW_US count runs. -/
structure Shadow where
  opener : Nat
  inst   : Nat
  ended  : Bool
deriving DecidableEq, Repr

/-- Selvedge behind its registers (R489 to R504). -/
structure SelSt where
  /-- Occurrences raised by blocks or forced and not yet taken by SEL: code and FORCED (R489, R510). -/
  occ      : List (Nat × Bool) := []
  /-- Per source code, the instants of the counted occurrences in its window (R491). -/
  win      : List (Nat × List Nat) := []
  /-- Per source code, the occurrences since module reset (R489). -/
  total    : List (Nat × Nat) := []
  /-- Lasting faults being handled (R495). -/
  handling : List React := []
  /-- Pending reactions, in order (R497). -/
  pend     : List React := []
  /-- Open shadows (R499). -/
  shadows  : List Shadow := []
  /-- The quiet period is being counted (R503). -/
  quiet    : Bool := false
  /-- A standing request for RECOVER (R503). -/
  standing : Bool := false
  /-- The re-read of the type configuration after SEL_SELF is under way (R502). -/
  reread   : Bool := false
  /-- The capture slot (1 first, 2 second) whose event was not numbered, and its source (R496). -/
  unnum    : List (Nat × Nat) := []
deriving DecidableEq, Repr

/-- A write taken from a host port: BAR0 address and value. -/
structure PWrite where
  addr : Nat
  val  : Word
deriving DecidableEq, Repr

/-- One record of the replay ring (R363): frame number, start in linear LTC ns, kind, the ENTRY, FREERUN and TRANS flags
and payload bytes. -/
structure Rec where
  k     : Nat
  start : Nat
  kind  : Nat
  entry : Bool
  free  : Bool
  trans : Bool
  len   : Nat
deriving DecidableEq, Repr

/-- One host port behind its registers (R564 to R580). -/
structure Port where
  /-- Posted writes that the register arbiter has not taken, oldest first, at most 64 (R568). -/
  posted : List PWrite := []
  /-- MSI-X vectors whose message waits for the moderation interval (R576). -/
  msiWait : List Nat := []
  /-- Vectors sent, and when last, plus one (R576). -/
  msiSent : List (Nat × Nat) := []
  /-- The vectors masked in the MSI-X table (R564, R576). -/
  msiMask : Nat := 0
  /-- The last word a read returned to this port (R8). -/
  reply  : Word := 0
  /-- The records that the taps are copying, by tap (R577). -/
  taps   : List (Nat × Rec) := []
deriving DecidableEq, Repr

/-- The register arbiter's rounds (R568). -/
structure RoundSt where
  /-- Ports still to be served in this round, ascending. -/
  left  : List Nat := []
  /-- When the round started and how many writes it took. -/
  start : Nat := 0
  count : Nat := 0
deriving DecidableEq, Repr

/-- A mode request before the mode controller (R549, R553): the mode asked for, who asks (0 to 3 host port,
4 SEL, 5 connector pins, 6 automatic), the cause code of R551 and, for a reaction, its source code. -/
structure ModeReq where
  mode  : Nat
  who   : Nat
  cause : Nat
  src   : Nat
deriving DecidableEq, Repr

/-- The mode controller, pins and hardware behind the SYS registers (R549 to R563, R584 to R602). -/
structure SysSt where
  reqs      : List ModeReq := []
  /-- A SERVICE request written in LOAD waits, with its port (R533, R553). -/
  svcWait   : Option Nat := none
  /-- The contacts MOD_ENABLE, REMOVE_REQ_N and SLOT_ID as the chassis drives them (R584). -/
  enable    : Bool := false
  removeN   : Bool := true
  slotId    : Nat := 0
  /-- Supply good (R591), and a thermal trip in force (R599). -/
  supply    : Bool := false
  trip      : Bool := false
  /-- A junction sensor has read 110 °C or above since this instant (R599). -/
  hotSince  : Option Nat := none
  /-- Engines recorded through HOLD and in CALIBRATE (R614): e CONDEMNED or TESTING after a condemnation, e + 256 TESTING
  without one, e + 512 TESTING from R408. -/
  engRec    : List Nat := []
  /-- Interleave groups configured at LOAD (R555). -/
  cfgGroups : List Nat := []
  /-- The first LOAD since power-on has run (R542). -/
  booted    : Bool := false
  /-- No LOAD has ended since power-on: the next BOOT record carries POWER_ON (R542). -/
  powerOn   : Bool := true
  /-- The order in which DEGRADED shed (channel) or reduced (channel + 256) channels, last first (R92, R95). -/
  shedLog   : List Nat := []
  /-- Ports with nothing more to wait for in ARM: the source wait of R538 is over. -/
  srcWaitOver : Bool := false
  /-- Entry of the mode in force, on the system counter. -/
  since     : Nat := 0
  /-- The full condition of R555 has held since this instant. -/
  fullSince : Option Nat := none
  /-- The ring's summary has entered the journal's buffer (R370, R544). -/
  summary : Bool := false
  /-- The tick of the last shared audit, plus one (R42). -/
  auditAt : Nat := 0
deriving DecidableEq, Repr

/-- A foreign master a domain hears (R121): its port identity, the data set that its Announce carries, how many
Announce messages have come at most four intervals apart, and when the last one came. -/
structure Foreign where
  ann   : Announce
  count : Nat
  last  : Nat
deriving DecidableEq, Repr

/-- The tracker of one PTP domain (R121 to R125). -/
structure Dom where
  foreign  : List Foreign := []
  /-- The port identity of the selected master. -/
  master   : Option Nat := none
  /-- Consecutive outliers (R123). -/
  outliers : Nat := 0
  /-- The last accepted x plus off at that instant, and the instant of its Sync; none before the first one. -/
  lastX    : Option (Int × Nat) := none
  /-- Frequency estimate in ppb, and its values while QUALIFIED over the last 64 s with their instants (R129). -/
  fEst     : Int := 0
  fHist    : List (Nat × Int) := []
  /-- Filtered mean path delay. -/
  mpd      : Int := 0
  /-- t1 and t2 of the latest Sync pair; t3 of the last Delay_Req sent. -/
  sync     : Option (Int × Int) := none
  t3       : Option Int := none
  /-- The master's logSyncInterval, its logAnnounceInterval, and the interval of the last Delay_Resp. -/
  logSync  : Int := 0
  logAnn   : Int := 0
  logDreq  : Option Int := none
  /-- Start of the qualification count, and the first Sync interval of it without an accepted Sync yet (R124). -/
  qStart   : Nat := 0
  qNext    : Nat := 0
deriving DecidableEq, Repr

/-- The time block (R115 to R139) and the cleaner's steering. -/
structure TimSt where
  /-- off, the signed offset of the LTC from the system counter (R115). -/
  off      : Int := 0
  /-- The remaining slew, and the part of a nanosecond slewed, in 10^-9 ns (R117). -/
  rem      : Int := 0
  slewAcc  : Nat := 0
  /-- When a step of at most 10 ns was last applied, plus one (R117). -/
  lastStep : Nat := 0
  /-- The tick in which a domain was last selected from FREERUN or HOLDOVER, plus one (R126). -/
  selTick  : Nat := 0
  /-- The acquisition step waits for its tick (R118). -/
  acq      : Bool := false
  /-- A domain has qualified since LOAD. -/
  everQual : Bool := false
  dom      : List (Nat × Dom) := []
  /-- REF_IN: consecutive gates outside FMON_PPM, and when the present count of stable time began (R128). -/
  refBad   : Nat := 0
  refSince : Nat := 0
  /-- The cleaner's steer in ppb: a domain's f_est, the mean held in frequency holdover, or the last REF_IN steer
  (R129). -/
  steer    : Int := 0
  /-- The level of PPS_OUT (R132). -/
  ppsOut   : Bool := false
  /-- When HOLDOVER was last entered, and the seconds of the last HOLDOVER (TIM_STAT.HO_SEC). -/
  hoSince  : Nat := 0
  hoLast   : Nat := 0
deriving DecidableEq, Repr

/-- One PLL behind its registers (R475 to R481). -/
structure Pll where
  /-- Steps of a band search still to come; a search has run in this acquisition (R476). -/
  steps    : Nat := 0
  searched : Bool := false
  /-- The acquisition follows an accepted target change, is its first attempt, and began then (R478, R480). -/
  byWrite  : Bool := false
  acqAt    : Nat := 0
  /-- A ramp's start: its target in kHz then and its instant (R480). -/
  rampFrom : Nat := 0
  rampAt   : Nat := 0
  /-- The output has been on bypass since, plus one, after CALIBRATE (BYP_MS). -/
  bypAt    : Nat := 0
  /-- A target write that waits for its check (R480). -/
  pend     : Option Nat := none
deriving DecidableEq, Repr

/-- Clocks behind their registers (chapter 19). -/
structure ClkSt where
  pll      : List (Nat × Pll) := []
  /-- The cleaner's output is present, and since when (R474). -/
  cleaner  : Bool := true
  since    : Nat := 0
  /-- PLLs that REF_RESTORE still has to return, the first of them under way (R474). -/
  restore  : List Nat := []
deriving DecidableEq, Repr

/-- One DRAM channel behind its registers (chapter 18). -/
structure Dram where
  /-- Refreshes outstanding on subchannels A and B (R457). -/
  outA   : Nat := 0
  outB   : Nat := 0
  /-- The temperature has fallen below 83 °C: the normal rate returns at the next grid instant (R459). -/
  cooled : Bool := false
  /-- An injection that waits for the next write: 1 single, 2 double (R509). -/
  inj    : Nat := 0
  /-- Blocks that the next read finds corrected (1) or uncorrectable (2), by DA / 64 (R464, R509). -/
  bad    : List (Nat × Nat) := []
  /-- The next block of the patrol scrub (R465). -/
  scrub  : Nat := 0
  /-- Bytes read and written in the present second, and its start (DRC_BW). -/
  rd     : Nat := 0
  wr     : Nat := 0
  sec    : Nat := 0
deriving DecidableEq, Repr

/-- One lane behind its registers (chapter 17, R142, R165, R337). -/
structure Lane where
  /-- A write of EN that waits for its check: true enable, false disable (R433, R609). -/
  enWait  : Option Bool := none
  /-- A write of LNK_TEST that waits for its check, with the word before it (R447). -/
  testWait : Option Word := none
  /-- An enable set by the image has been checked (R610). -/
  checked : Bool := false
  /-- FEC lock (R435); consecutive NO_SETTING attempts (R441). -/
  fec     : Bool := false
  noset   : Nat := 0
  /-- Bits that an injection waiting for the generator inverts (R448). -/
  inj     : Nat := 0
  /-- The instant at which the pattern checker locked (R448). -/
  chkAt   : Nat := 0
  /-- Credits that the Morvolos bridge holds (R165). -/
  cred    : Nat := 0
  /-- ARP replies of the second that began at `arpSec` (R337). -/
  arpSec  : Nat := 0
  arpN    : Nat := 0
deriving DecidableEq, Repr

/-- An IGMP report that is scheduled on a lane (R338, R444): its VLAN, the group it reports (none: every group of the
lane and VLAN), how many sendings are left, 1 s apart, whether it joins, leaves or answers a query, and its instant. -/
structure Igmp where
  lane  : Nat
  vlan  : Nat
  group : Option Nat
  left  : Nat
  kind  : Nat
  due   : Nat
deriving DecidableEq, Repr

/-- A buffer of a pool that is not on the free list (R295 to R301): the pool, its owner (a source in INGEST, a context in
COMPOSED and REFERENCE), the source frame or picture it holds, whether it is a safe reconstruction, its interleave group
and pages, its state (1 ISSUED, 2 HELD, 3 RETURN), whether its owner holds it without a mark, and the marks W, R, S, D. -/
structure Buf where
  pool  : Nat
  own   : Nat
  tag   : Nat
  safe  : Bool
  grp   : Nat
  pages : Nat
  st    : Nat
  held  : Bool
  w     : Bool
  r     : Bool
  s     : Bool
  d     : Bool
deriving DecidableEq, Repr

/-- A BOB task (R418): type; channel context, source context or engine; capture frame, picture or source frame; row or
slice; a second number (1 the standby's task of a Class D row, the kind of a helper copy, a pass of the self-test); the
list it stands on; level; the instant it is or becomes ready; due time; expiry, 0 none; 0 timed on the delay list,
1 waiting on a condition there, 2 ready; creation order. -/
structure Task where
  typ    : Nat
  own    : Nat
  frame  : Nat
  row    : Nat
  which  : Nat
  list   : Nat
  level  : Nat
  ready  : Nat
  due    : Nat
  expiry : Nat
  stage  : Nat
  seq    : Nat
deriving DecidableEq, Repr

/-- BOB behind its registers (chapter 16). -/
structure BobSt where
  tasks      : List Task := []
  next       : Nat := 0
  created    : Nat := 0
  dispatched : Nat := 0
  cancelled  : Nat := 0
  /-- The tasks that executors run: engines 0 to 127, compositors 128 to 143, ingest row units 144 to 159, packers 160 to
  167, DRAM helpers 168 to 171; each with the instant of its dispatch. -/
  run        : List (Nat × Task × Nat) := []
deriving DecidableEq, Repr

/-- One frame of a channel's grid (R97, R98): frame number, start and length on the system counter, transition frame. -/
structure Frm where
  k     : Nat
  start : Nat
  len   : Nat
  trans : Bool
deriving DecidableEq, Repr

/-- An engine's work on one row (R250, R254, R278, R400): 0 not begun, 1 front end, 2 front end done, 3 back end, 4 coded,
5 not coded; the engine, the decision and final QP, floor mode, the coded size, its signature, the check flags that
residue and parity checkers set, and whether the engine handed a replacement marker. -/
structure Side where
  st     : Nat  := 0
  eng    : Nat  := 0
  qp     : Nat  := 0
  spec   : Bool := false
  floor  : Bool := false
  size   : Nat  := 0
  sig    : Nat  := 0
  res    : Bool := false
  par    : Bool := false
  marker : Bool := false
deriving DecidableEq, Repr

/-- A row of a context between its deadline and the end of its repair (R105, R252): frame and row number; candidate
entries of its tiles; tiles that R268 does not offer with a skip bias and tiles of its refresh column (R319); whether it
is composed; the work of the lead and of the standby; comparison outcome (R403: 0 not made, 1 lead's row, 2 standby's
row, 3 skip row); a marker is at egress; the row is in the pacing buffer since this instant; the release decision (0
none, 1 coded, 2 skip, 3 safe); late; released; its reference is final. -/
structure Row where
  k      : Nat
  j      : Nat
  cands  : List (BitVec 64) := []
  fresh  : Bool := true
  x      : Nat  := 0
  g      : Nat  := 0
  comp   : Bool := false
  lead   : Side := {}
  stby   : Side := {}
  cmp    : Nat  := 0
  mark   : Bool := false
  ready  : Option Nat := none
  dec    : Nat  := 0
  rel    : Bool := false
  fin    : Bool := false
  /-- Rate control has charged the row (R323). -/
  done   : Bool := false
deriving DecidableEq, Repr

/-- Rate control of a channel (R311 to R334): sizes in bytes, row memories h and u in 1/256 byte. -/
structure Rc where
  fill    : Int := 0
  mem     : List (Nat × (Nat × Nat)) := []
  pic     : Nat := 0
  epre    : Nat := 0
  avg     : Nat := 0
  budget  : Int := 0
  rowsB   : Int := 0
  q0      : Nat := 0
  targets : List Int := []
  /-- QP_final by row, where rate control has set it (R321). -/
  qps     : List (Nat × Nat) := []
  a       : Int := 0
  charge  : Nat := 0
  floor   : Bool := false
  cap     : Bool := false
  first   : Nat := 0x7F
  idr     : Bool := false
  /-- spent of the picture so far; pictures not yet settled with egress: k, counted spent (R318). -/
  spent   : Int := 0
  open_   : List (Nat × Int) := []
  /-- The picture before was coded, not a safe picture sent whole (R613). -/
  coded   : Bool := false
  seiEst  : Nat := 0
  /-- Slack left and speculation allowed in this frame (R256). -/
  slack   : Nat := 0
  specOn  : Bool := true
  /-- Rows replaced or coded in floor mode, as picture × 128 + row, of the last pictures (R319). -/
  dirty   : List Nat := []
  /-- A change of MODE, RATE or BUF_MS waits for the next frame start (R332). -/
  renew   : Bool := false
  /-- What the audits add to the fill at the next frame start (R318). -/
  pend    : Int := 0
  /-- E_pre and H of the picture before, while its last row is not in (R317, R323), and the rows of this one that are. -/
  oldPre  : Nat := 0
  oldH    : Nat := 0
  inRows  : Nat := 0
  /-- The target of its last row, and this picture is settled with egress already (R318). -/
  oldT    : Int := 0
  settled : Bool := false
  /-- The rate control parameters of the frame in force (R332): MODE, RATE, BUF_MS. -/
  mode    : Nat := 0
  rate    : Nat := 0
  bufMs   : Nat := 0
deriving DecidableEq, Repr

/-- A layer's active configuration as the rows of one capture frame read it (R195 to R199): instance, stacking position,
policy, source, destination, crop, alpha and vertical coefficient set. -/
structure LCfg where
  i      : Nat
  z      : Nat
  policy : Nat
  src    : Nat
  dx     : Nat
  dy     : Nat
  dw     : Nat
  dh     : Nat
  cx     : Nat
  cy     : Nat
  cw     : Nat
  ch     : Nat
  alpha  : Nat
  vset   : Nat
deriving DecidableEq, Repr

/-- What a layer keeps of one source row (R205): its age, last_ok, the version shown, the kind of the last read (0 none,
1 fresh, 2 held, 3 concealed, 4 missing), the channel frame of its judgement plus one (R206), the capture or intact
time of the version read, and age and last_ok before the judgement. -/
structure Read where
  row    : Nat
  age    : Nat
  lastOk : Option Nat
  shown  : Option Nat
  kind   : Nat
  frame  : Nat
  capt   : Nat
  was    : Nat × Option Nat
deriving DecidableEq, Repr

/-- A layer behind its registers: its reads, and in the channel frame in progress the rows judged other than fresh, the
largest age, a read judged held, missing or concealed, a stale tile owned (R225). -/
structure Lyr where
  reads : List Read := []
  maxAge : Nat := 0
  nf    : Nat := 0
  miss  : Bool := false
  stale : Bool := false
deriving DecidableEq, Repr

/-- A compositor behind its registers (R236 to R239): the staging buffers, the coefficient sets by number (64 phases of
taps) and the tables by slot (771 points). -/
structure Cmp where
  stage  : List Word := []
  coef   : List (Nat × List (List Int)) := []
  lstage : List Nat := []
  lut    : List (Nat × List Nat) := []
deriving DecidableEq, Repr

/-- One channel context behind its registers: chapters 02, 03, 09 to 12 and 15. -/
structure Chan where
  /-- A START that awaits admission, a RELEASE that awaits its audit point (R96), a swap (CHN_DUP_CMD). -/
  startReq : Bool := false
  relReq   : Bool := false
  swapReq  : Bool := false
  /-- The grid runs: the frame in force, the frames before it that instants still need, newest first, the start and grid
  index of the next frame, the rate code and phase in force and whether it follows PTP time (R97 to R102). -/
  on       : Bool := false
  cur      : Frm := ⟨0, 0, 0, false⟩
  past     : List Frm := []
  next     : Nat := 0
  nextG    : Nat := 0
  rate     : Nat := 0
  phase    : Nat := 0
  ptp      : Bool := false
  /-- The capture frame of the first access unit. -/
  k0       : Nat := 0
  /-- Shedding or restoring at the next audit point (R94, R95): 1 shed, 2 restore. -/
  want     : Nat := 0
  placed   : Bool := false
  /-- Egress: the slot in progress, none before the first; how row 0's decision settled a slot (1 with the units of its own
  picture, 2 the safe picture whole, 3 under the header template); slots whose live path was lost; a closing channel
  needs a safe picture; rows released as skip and as safe rows so far; the bytes emitted. -/
  slot     : Option Nat := none
  slotK    : List (Nat × Nat) := []
  lostK    : List Nat := []
  wantSafe : Bool := false
  nSkip    : Nat := 0
  nSafe    : Nat := 0
  nRel     : Nat := 0
  bytes    : Nat := 0
  /-- The live counters behind the snapshot of R58. -/
  slots    : Nat := 0
  aus      : Nat := 0
  skipAu   : Nat := 0
  safeRowAu : Nat := 0
  safeAu   : Nat := 0
  late     : Nat := 0
  tulle    : Nat := 0
  /-- Size of the freshness SEI of the last access unit (R613). -/
  seiSize  : Nat := 0
  /-- Reference restart (R307): 0 none, 1 waits for the audit, 2 the next slot is the safe picture, 3 the next coded
  picture starts. -/
  restart  : Nat := 0
  /-- The safe reconstruction is decoded. -/
  recon    : Bool := false
  /-- Refresh (R269 to R275): position p of the latest picture, the number of its period, the boundary x_p with period
  and whether it is the last of its period by picture, the boundaries b(j) by period × 128 + row, a period starts with
  the next picture; the last closing picture (0 not closing). -/
  gdrP     : Nat := 0
  gdrN     : Nat := 0
  gdrX     : List (Nat × (Nat × Nat × Bool)) := []
  gdrB     : List (Nat × Nat) := []
  gdrNew   : Bool := false
  closeK   : Nat := 0
  /-- The refresh period whose start ends the time that SUSPECT engines of the pair have (R407), 0 none; a lasting ENG_SIGMIS
  waits for the frame start (R408); a takeover waits (R410). -/
  suspect  : Nat := 0
  sigLast  : Bool := false
  takeover : Bool := false
  rc       : Rc := {}
  rows     : List Row := []
  /-- Poisoned reference rows: picture and row (R305); row 256 + j is row j of the safe reconstruction. -/
  poison   : List (Nat × Nat) := []
  /-- The audit instant of the channel's last audit point (R42). -/
  audited  : Nat := 0
  /-- The row in transmission (R348): its release instant, the packets that have left on paths A and B; the next RTP
  sequence number (R339). -/
  txAt     : Nat := 0
  pktA     : Nat := 0
  pktB     : Nat := 0
  rtpSeq   : Nat := 0
  /-- When the channel was admitted; an egress commit waits (R355). -/
  startAt  : Nat := 0
  egrWait  : Bool := false
  /-- The sampler slice: entries by block row, tile rows in raster order, and tiles across (R209, R213, R223). -/
  smp      : List (Nat × List (BitVec 64)) := []
  smpX     : Nat := 0
  /-- The first picture that the engine codes, 2^40 while none is (R276, R307), the refresh period in force (R273), the
  first picture of a closing sweep, its length and the CTU column it began at (R275); sectors read from references, uncompressed, since when (R294). -/
  codeFrom : Nat := 0
  period   : Nat := 0
  closeF   : Nat := 0
  closeN   : Nat := 0
  closeX   : Nat := 0
  refSec   : Nat := 0
  refFull  : Nat := 0
  refAt    : Nat := 0
  /-- The layers of the capture frames whose rows still read them, newest first (R199). -/
  shots    : List (Nat × List LCfg) := []
  /-- Of these frames: the stale limit (R215), the start in linear LTC ns and whether TSTATE was FREERUN then (R365). -/
  lims     : List (Nat × (Nat × Nat × Bool)) := []
  /-- Of these frames: A_LAG (R391). -/
  lags     : List (Nat × Nat) := []
deriving DecidableEq, Repr

/-- A segment of the replay ring (R363): channel, epoch, sequence number, the interleave group of its page, whether it is
SEALED, and its records, oldest first. -/
structure Seg where
  chan  : Nat
  epoch : Nat
  seq   : Nat
  grp   : Nat
  full  : Bool
  recs  : List Rec
deriving DecidableEq, Repr

/-- A retrieval request (R371, R372): channel, epoch and selection as they were at START, the frame at which delivery
begins and the first selected frame; the segments still to read, the segment being read, its records that are not
delivered yet, and the bytes delivered. -/
structure Req where
  chan  : Nat := 0
  epoch : Nat := 0
  byFrame : Bool := false
  rap   : Bool := false
  t0    : Nat := 0
  t1    : Nat := 0
  lo    : Nat := 0
  hi    : Nat := 0
  todo  : List Nat := []
  open_ : Option Nat := none
  recs  : List Rec := []
  bytes : Nat := 0
deriving DecidableEq, Repr

/-- The replay ring behind its registers (chapter 13): segments in the order they were taken, FREE segments by group, the
next sequence number by channel, records being copied (channel, sequence number of their segment), the port requests, and
whether the quotas are recomputed at the next tick (R367). -/
structure RingSt where
  segs  : List Seg := []
  free  : List (Nat × Nat) := []
  next  : List (Nat × Nat) := []
  pend  : List (Nat × Nat × Rec) := []
  reqs  : List (Nat × Req) := []
  quota : Bool := false
deriving DecidableEq, Repr

/-- A version of a source row (R151 to R156, R188): the source frame that delivered it, its completion instant, its capture
time, its intact time where it is concealed, and whether it is carried, concealed or absent. -/
structure Ver where
  frame  : Nat
  at_    : Nat
  capt   : Nat
  intact : Nat
  carried   : Bool
  concealed : Bool
  absent    : Bool
deriving DecidableEq, Repr

/-- A camera access unit that waits for decode or is in decode, with the instant of its first packet and its capture
time; `left` its slices that are not decoded, `done` how many are. -/
structure Queued where
  no    : Nat
  au    : CamAu
  first : Nat
  capt  : Nat
  left  : Nat
  begun : Bool
  lost  : Bool
  started : Bool := false
deriving DecidableEq, Repr

/-- A source behind its registers (chapters 05 and 06). -/
structure Src where
  /-- A write of EN = 1 that waits for its check (R609). -/
  enWait : Bool := false
  /-- WAIT has seen a packet with the marker bit (R146). -/
  marked : Bool := false
  /-- The number of the filling frame F; F is open; its RTP timestamp or frame number; its capture time. -/
  fno    : Nat := 0
  isOpen : Bool := false
  fts    : Nat := 0
  fcapt  : Nat := 0
  /-- Sample runs written per line of F: line, first sample, count (R148, R151). -/
  got    : List (Nat × Nat × Nat) := []
  /-- Versions of the rows of F and of L by row; L is there; its number. -/
  fRows  : List (Nat × Ver) := []
  lRows  : List (Nat × Ver) := []
  hasL   : Bool := false
  lno    : Nat := 0
  /-- Change bits (a bit per tile of the row) and scroll hints of rows, by row, of the filling and of the closed frame
  (R169, R171): region, dx, dy, confidence. -/
  chg    : List (Nat × Nat) := []
  /-- The source frame that each row's change bits belong to. -/
  chgF   : List (Nat × Nat) := []
  hints  : List (Nat × List (Nat × Int × Int × Nat)) := []
  /-- Accepted sequence numbers, the highest and its instant; first, last and number accepted in the frame (R158, R161). -/
  seqs   : List Nat := []
  hi     : Option Nat := none
  hiAt   : Nat := 0
  seq0   : Nat := 0
  seq1   : Nat := 0
  nseq   : Nat := 0
  /-- Packets of the new frame are discarded for want of a buffer (R154). -/
  nobuf  : Bool := false
  /-- Camera: access units that wait, oldest first, the first one in decode once begun; the number of the next one; the
  engine that decodes the picture plus one; a CRA or BLA picture was the last random-access point; pictures until an
  H.264 recovery point; the first damaged row of the picture in decode; intact times by row; the concealed pictures. -/
  queue  : List Queued := []
  auNo   : Nat := 0
  auAt   : Nat := 0
  auOpen : Bool := false
  eng    : Nat := 0
  rasl   : Bool := false
  recov  : Option Nat := none
  damage : Option Nat := none
  intact : List (Nat × Nat) := []
deriving DecidableEq, Repr

/-- An engine behind its registers (chapter 15): clean slices of the pass in progress and clean passes since it entered
TESTING; reruns of a failed slice still to come and whether one of them failed (R414); TESTING followed a condemnation;
it came from R408; it must complete a pass (R407); the instant of its last clean pass; injections that wait (R509): residue
bits, parity, signature; the engine has completed a pass in its present interval. -/
structure Eng where
  slices  : Nat := 0
  passes  : Nat := 0
  rerun   : Nat := 0
  cond    : Bool := false
  sig     : Bool := false
  owed    : Bool := false
  lastPass : Option Nat := none
  injRes  : Bool := false
  injPar  : Bool := false
  injSig  : Bool := false
  passed  : Bool := false
  /-- Resident contexts and when each was last used (R248); busy time of the present second and its start (ENC_LOAD). -/
  res     : List (Nat × Nat) := []
  busy    : Nat := 0
  since   : Nat := 0
deriving DecidableEq, Repr

/-- A stored audio frame (R385): its number among the stored frames of its input, capture time on the system counter, and
words. -/
structure AFrm where
  no    : Nat
  at_   : Int
  words : List Word
deriving DecidableEq, Repr

/-- An audio input behind its registers (R380 to R393): its buffer, oldest frame first; the number of the next stored frame;
the frame of the last take; the last stored word by slot; the data enable (0 off, 1 after the frame in progress, 2 from the
next frame boundary or block start, 3 on, 4 off after the frame in progress); and for a flow the merge (R158). -/
structure AIn where
  frames : List AFrm := []
  next   : Nat := 0
  prev   : Option Nat := none
  last   : List (Nat × Word) := []
  data   : Nat := 0
  seqs   : List Nat := []
  hi     : Option Nat := none
  hiAt   : Nat := 0
deriving DecidableEq, Repr

/-- An audio port behind its registers: the frame within its block, the stamp of the block and the time since the one before
(R389), consecutive gates out of range (R379), the channel-status bits of the block so far by subframe, bit i of the block at
weight 2^i, and how many there are (R384). -/
structure APort where
  n    : Nat := 0
  blk  : Nat := 0
  per  : Nat := 4000000
  bad  : Nat := 0
  csA  : Nat := 0
  csB  : Nat := 0
  csN  : Nat := 0
deriving DecidableEq, Repr

/-- The non-volatile memory behind its registers (R523 to R547): the images in slots A (0) and B (1), a slot without a valid
magic not listed; slots that failed while LOAD applied them (R532); the channels whose SAFE section carries START (R537). -/
structure NvmSt where
  slots  : List (Nat × Img) := []
  bad    : List Nat := []
  starts : List Nat := []
deriving DecidableEq, Repr

/-- The whole state of the module. -/
structure State where
  /-- Commands waiting, first in, first out. -/
  pending : List Instr := []
  /-- The system counter in ns (R5). -/
  now     : Nat := 0
  /-- How many free values the steps have taken: the model's own field (Config.freeNat). -/
  free    : Nat := 0
  /-- Every register of BAR0 by address; an unlisted one holds its reset word (R7). -/
  regs    : List (Nat × Word) := []
  /-- The active values behind shadow registers, by the shadow's address (R85, R199, R355). -/
  act     : List (Nat × Word) := []
  /-- The words latched by a read of their low or first word, by the latched word's address (R12). -/
  latch   : List (Nat × Word) := []
  arb     : ArbSt := {}
  sel     : SelSt := {}
  ports   : List (Nat × Port) := []
  round   : RoundSt := {}
  sys     : SysSt := {}
  tim     : TimSt := {}
  clk     : ClkSt := {}
  dram    : List (Nat × Dram) := []
  lanes   : List (Nat × Lane) := []
  /-- Scheduled IGMP reports (R338). -/
  igmp    : List Igmp := []
  /-- Pool buffers in use, and free pages by pool × 8 + group (R295, R303). -/
  bufs    : List Buf := []
  poolFree : List (Nat × Nat) := []
  bob     : BobSt := {}
  chans   : List (Nat × Chan) := []
  srcs    : List (Nat × Src) := []
  engs    : List (Nat × Eng) := []
  /-- Compositors, and layers by compositor × 64 + instance. -/
  cmps    : List (Nat × Cmp) := []
  lyrs    : List (Nat × Lyr) := []
  est     : List (Nat × Store) := []
  ring    : RingSt := {}
  /-- Audio inputs and ports (chapter 14). -/
  ains    : List (Nat × AIn) := []
  aports  : List (Nat × APort) := []
  nvm     : NvmSt := {}
  /-- The address of the descriptor that a BUSY check-value unit works on, by unit (R514). -/
  ckv     : List (Nat × Nat) := []
  /-- Running timers: key and due instant plus one (State.arm). -/
  timers  : List (Nat × Nat) := []
deriving DecidableEq, Repr

/-- The module right after power-on: every register at its Reset column, HOLD, nothing waiting (R7, R551). -/
def State.reset : State := {}

end Sys2Proof.Machine
end

