-- ==== Sys2Proof/Machine/Catalogue.lean ====
section
/-!
DEFINITION. Sys2Proof/Machine/Catalogue.lean: the fault source catalogue of R487: the source codes of R486, their
instances and the default T, W and reaction of each type.
-/

namespace Sys2Proof.Machine

/-- One row of the catalogue (R487): the type t, the code of instance 0, the step between instances, how many
instances, the defaults T, W in ms and reaction code, and whether T and REACT are fixed (R511). -/
structure FaultRow where
  t      : Nat
  base   : Nat
  step   : Nat
  count  : Nat
  thresh : Nat
  window : Nat
  react  : Nat
  fixed  : Bool
deriving DecidableEq, Repr

/-- POOL_LEDGER: Pool p, raised under R303. -/
def Src.poolLedger (i : Nat) : Nat := 0x0000 + i * 0x10
/-- POOL_STUCK: Pool p, raised under R304. -/
def Src.poolStuck (i : Nat) : Nat := 0x0001 + i * 0x10
/-- CREDIT: —, raised under R45 (SYS fabric paths). -/
def Src.creditSys : Nat := 0x000F
/-- SEL_SELF: Part k (R502), raised under R502. -/
def Src.selSelf (i : Nat) : Nat := 0x1000 + i * 0x10
/-- CREDIT: —, raised under R45, R484 (always-on crossing). -/
def Src.creditSel : Nat := 0x100F
/-- BOB_TASKCNT: —, raised under R429. -/
def Src.bobTaskcnt : Nat := 0x2000
/-- BOB_CREDIT: Task type y, raised under R427. -/
def Src.bobCredit (i : Nat) : Nat := 0x2001 + i * 0x10
/-- BOB_NOCRED: Task type y, raised under R428. -/
def Src.bobNocred (i : Nat) : Nat := 0x2002 + i * 0x10
/-- CLK_LOL: PLL p, raised under R479. -/
def Src.clkLol (i : Nat) : Nat := 0x3000 + i * 0x10
/-- CLK_NOLOCK: PLL p, raised under R476. -/
def Src.clkNolock (i : Nat) : Nat := 0x3001 + i * 0x10
/-- CLK_OVER: PLL p, raised under R481. -/
def Src.clkOver (i : Nat) : Nat := 0x3002 + i * 0x10
/-- CLK_CLEANER: —, raised under R474. -/
def Src.clkCleaner : Nat := 0x3FF3
/-- HOLDOVER_LONG: —, raised under R139. -/
def Src.holdoverLong : Nat := 0x4000
/-- SLEW_FAR: —, raised under R139. -/
def Src.slewFar : Nat := 0x4001
/-- CREDIT: —, raised under R45, R484 (system crossing). -/
def Src.creditTim : Nat := 0x400F
/-- NVM_WRITE: —, raised under A journal write fails its read-back verification. -/
def Src.nvmWrite : Nat := 0x5000
/-- CREDIT: —, raised under R45 (NVM fabric paths). -/
def Src.creditNvm : Nat := 0x500F
/-- HST_LINK: Host port h, raised under The port's PCIe link leaves L0 other than by a host-initiated state change. -/
def Src.hstLink (i : Nat) : Nat := 0x6000 + i * 0x10
/-- CREDIT: Host port h, raised under R45, R484 (host link crossing). -/
def Src.creditHst (i : Nat) : Nat := 0x600F + i * 0x10
/-- CKV_DMA: Unit u, raised under A unit's descriptor or data fetch completes with an error. -/
def Src.ckvDma (i : Nat) : Nat := 0x7000 + i * 0x10
/-- AUD_CLK: Port a, raised under The port returns to CLK_WAIT from RUN (R379). -/
def Src.audClk (i : Nat) : Nat := 0x8000 + i * 0x10
/-- CREDIT: Port a, raised under R45, R484 (audio crossing). -/
def Src.creditAud (i : Nat) : Nat := 0x800F + i * 0x10
/-- DRC_CE: Channel d, raised under R466. -/
def Src.drcCe (i : Nat) : Nat := 0x9000 + i * 0x10
/-- DRC_UE: Channel d, raised under R466. -/
def Src.drcUe (i : Nat) : Nat := 0x9001 + i * 0x10
/-- DRC_LINK: Channel d, raised under R464. -/
def Src.drcLink (i : Nat) : Nat := 0x9002 + i * 0x10
/-- DRC_HOT: Channel d, raised under R460. -/
def Src.drcHot (i : Nat) : Nat := 0x9003 + i * 0x10
/-- DRC_TRAIN: Channel d, raised under R467, R469. -/
def Src.drcTrain (i : Nat) : Nat := 0x9004 + i * 0x10
/-- DRC_GROUP: Group g, raised under R471. -/
def Src.drcGroup (i : Nat) : Nat := 0x9005 + i * 0x10
/-- CREDIT: Channel d, raised under R45, R453, R484 (memory crossing). -/
def Src.creditDrc (i : Nat) : Nat := 0x900F + i * 0x10
/-- LNK_DOWN: Lane l, raised under R436. -/
def Src.lnkDown (i : Nat) : Nat := 0xA000 + i * 0x10
/-- LNK_NOSET: Lane l, raised under R441. -/
def Src.lnkNoset (i : Nat) : Nat := 0xA001 + i * 0x10
/-- LNK_FEC: Lane l, raised under R438. -/
def Src.lnkFec (i : Nat) : Nat := 0xA002 + i * 0x10
/-- CREDIT: Lane l, raised under R45, R484 (lane receive crossing). -/
def Src.creditLnkRx (i : Nat) : Nat := 0xA00F + i * 0x10
/-- SRC_LOST: Source s, raised under R160. -/
def Src.srcLost (i : Nat) : Nat := 0xB000 + i * 0x8
/-- CREDIT: Source s, raised under R45 (ING fabric paths). -/
def Src.creditIng (i : Nat) : Nat := 0xB007 + i * 0x8
/-- CREDIT: Compositor c, raised under R45. -/
def Src.creditCmp (i : Nat) : Nat := 0xC00F + i * 0x10
/-- ENG_RESIDUE: Engine e, raised under R400. -/
def Src.engResidue (i : Nat) : Nat := 0xD000 + i * 0x10
/-- ENG_PARITY: Engine e, raised under R400. -/
def Src.engParity (i : Nat) : Nat := 0xD001 + i * 0x10
/-- ENG_SELFTEST: Engine e, raised under R414. -/
def Src.engSelftest (i : Nat) : Nat := 0xD002 + i * 0x10
/-- ENG_HANG: Engine e, raised under R412. -/
def Src.engHang (i : Nat) : Nat := 0xD003 + i * 0x10
/-- ENG_NOSPARE: Engine e, raised under A takeover or join finds no suitable SPARE engine. -/
def Src.engNospare (i : Nat) : Nat := 0xD004 + i * 0x10
/-- CREDIT: Cluster c, raised under R45, R484 (cluster crossing). -/
def Src.creditEnc (i : Nat) : Nat := 0xD00F + i * 0x10
/-- FRAME: Context n, raised under R28. -/
def Src.frame (i : Nat) : Nat := 0xE000 + i * 0x10
/-- DELAY: Context n, raised under R34. -/
def Src.delay (i : Nat) : Nat := 0xE001 + i * 0x10
/-- MARK: Context n, raised under R39. -/
def Src.mark (i : Nat) : Nat := 0xE002 + i * 0x10
/-- ENG_SIGMIS: Context n, raised under R403, R408. -/
def Src.engSigmis (i : Nat) : Nat := 0xE003 + i * 0x10
/-- EGR_STORE: Context n, raised under R356. -/
def Src.egrStore (i : Nat) : Nat := 0xF000 + i * 0x10
/-- CREDIT: Lane l, raised under R45, R484 (lane transmit crossing). -/
def Src.creditLnkTx (i : Nat) : Nat := 0xF00F + i * 0x10

/-- The catalogue of R487, in its order. -/
def catalogue : List FaultRow := [
  ⟨0x00, 0x0000, 0x10, 3, 1, 1000, 4, true⟩,
  ⟨0x01, 0x0001, 0x10, 3, 1, 1000, 4, true⟩,
  ⟨0x0F, 0x000F, 0x10, 1, 1, 1000, 4, true⟩,
  ⟨0x10, 0x1000, 0x10, 5, 1, 1000, 4, true⟩,
  ⟨0x1F, 0x100F, 0x10, 1, 1, 1000, 4, true⟩,
  ⟨0x20, 0x2000, 0x10, 1, 1, 1000, 4, true⟩,
  ⟨0x21, 0x2001, 0x10, 7, 1, 1000, 4, true⟩,
  ⟨0x22, 0x2002, 0x10, 7, 4, 1000, 1, false⟩,
  ⟨0x30, 0x3000, 0x10, 76, 4, 1000, 1, false⟩,
  ⟨0x31, 0x3001, 0x10, 76, 1, 1000, 1, false⟩,
  ⟨0x32, 0x3002, 0x10, 76, 4, 1000, 1, false⟩,
  ⟨0x33, 0x3FF3, 0x10, 1, 1, 1000, 1, false⟩,
  ⟨0x40, 0x4000, 0x10, 1, 1, 1000, 1, false⟩,
  ⟨0x41, 0x4001, 0x10, 1, 1, 1000, 1, false⟩,
  ⟨0x4F, 0x400F, 0x10, 1, 1, 1000, 4, true⟩,
  ⟨0x50, 0x5000, 0x10, 1, 4, 1000, 1, false⟩,
  ⟨0x5F, 0x500F, 0x10, 1, 1, 1000, 4, true⟩,
  ⟨0x60, 0x6000, 0x10, 4, 4, 1000, 1, false⟩,
  ⟨0x6F, 0x600F, 0x10, 4, 1, 1000, 4, true⟩,
  ⟨0x70, 0x7000, 0x10, 8, 4, 1000, 1, false⟩,
  ⟨0x80, 0x8000, 0x10, 16, 4, 1000, 0, false⟩,
  ⟨0x8F, 0x800F, 0x10, 16, 1, 1000, 4, true⟩,
  ⟨0x90, 0x9000, 0x10, 32, 15, 10000, 1, false⟩,
  ⟨0x91, 0x9001, 0x10, 32, 4, 1000, 1, false⟩] ++ [
  ⟨0x92, 0x9002, 0x10, 32, 4, 1000, 1, false⟩,
  ⟨0x93, 0x9003, 0x10, 32, 1, 1000, 1, false⟩,
  ⟨0x94, 0x9004, 0x10, 32, 1, 1000, 1, false⟩,
  ⟨0x95, 0x9005, 0x10, 8, 1, 1000, 1, false⟩,
  ⟨0x9F, 0x900F, 0x10, 32, 1, 1000, 4, true⟩,
  ⟨0xA0, 0xA000, 0x10, 256, 4, 1000, 1, false⟩,
  ⟨0xA1, 0xA001, 0x10, 256, 1, 1000, 1, false⟩,
  ⟨0xA2, 0xA002, 0x10, 256, 15, 1000, 1, false⟩,
  ⟨0xAF, 0xA00F, 0x10, 256, 1, 1000, 4, true⟩,
  ⟨0xB0, 0xB000, 0x8, 512, 1, 1000, 1, false⟩,
  ⟨0xB7, 0xB007, 0x8, 512, 1, 1000, 4, true⟩,
  ⟨0xCF, 0xC00F, 0x10, 16, 1, 1000, 4, true⟩,
  ⟨0xD0, 0xD000, 0x10, 128, 4, 1000, 1, false⟩,
  ⟨0xD1, 0xD001, 0x10, 128, 4, 1000, 1, false⟩,
  ⟨0xD2, 0xD002, 0x10, 128, 4, 1000, 1, false⟩,
  ⟨0xD3, 0xD003, 0x10, 128, 1, 1000, 1, false⟩,
  ⟨0xD4, 0xD004, 0x10, 128, 1, 1000, 1, false⟩,
  ⟨0xDF, 0xD00F, 0x10, 16, 1, 1000, 4, true⟩,
  ⟨0xE0, 0xE000, 0x10, 256, 1, 1000, 4, true⟩,
  ⟨0xE1, 0xE001, 0x10, 256, 4, 1000, 1, false⟩,
  ⟨0xE2, 0xE002, 0x10, 256, 1, 1000, 4, true⟩,
  ⟨0xE3, 0xE003, 0x10, 256, 4, 1000, 1, false⟩,
  ⟨0xF0, 0xF000, 0x10, 256, 4, 1000, 1, false⟩,
  ⟨0xFF, 0xF00F, 0x10, 256, 1, 1000, 4, true⟩]

/-- The source type of a code: class × 16 + cause; the cause of class ING (0xB) is bits [2:0] (R486). -/
def srcType (code : Nat) : Nat :=
  code / 4096 % 16 * 16 + (if code / 4096 % 16 = 11 then code % 8 else code % 16)

/-- The instance of a code: bits [11:4], or [11:3] in class ING (R486). -/
def srcInst (code : Nat) : Nat :=
  if code / 4096 % 16 = 11 then code / 8 % 512 else code / 16 % 256

/-- Does the row list the code? -/
def FaultRow.lists (r : FaultRow) (code : Nat) : Bool :=
  Nat.ble r.base code && Nat.beq ((code - r.base) % r.step) 0 && Nat.blt ((code - r.base) / r.step) r.count

/-- The catalogue row that lists a code; none for a code that R487 does not list. -/
def faultRow (code : Nat) : Option FaultRow := catalogue.find? (fun r => r.lists code)

/-- Is the code one of the sources of R487? -/
def listedSource (code : Nat) : Bool := (faultRow code).isSome

/-- SEL_TYPE_CFG of type t on its reset source: the defaults of R487; 0 for a type R487 does not list (R7). -/
def typeReset (t : Nat) : Nat :=
  match catalogue.find? (fun r => Nat.beq r.t t) with
  | some r => r.thresh + r.window * 0x10 + r.react * 0x100000 + (if r.fixed then 0x800000 else 0)
  | none => 0

/-- The arbiter input (R505) that the events of a fault class come by: CLK 6, TIM 7, NVM 8, HST 2 + h, DRC 9, LNK 10,
ING 11, CMP 13, ENC 14, CHN 15, BOB 16, EGR 17, AUD 19, CKV 20, SEL 0, SYS 1. -/
def srcInput (code : Nat) : Nat :=
  match code / 4096 % 16 with
  | 0 => 1
  | 1 => 0
  | 2 => 16
  | 3 => 6
  | 4 => 7
  | 5 => 8
  | 6 => 2 + srcInst code
  | 7 => 20
  | 8 => 19
  | 9 => 9
  | 10 => 10
  | 11 => 11
  | 12 => 13
  | 13 => 14
  | 14 => 15
  | _ => 17

end Sys2Proof.Machine
end

