-- ==== Sys2Proof/Machine/Tab.lean ====
section
/-!
DEFINITION. Sys2Proof/Machine/Tab.lean: sparse tables in one canonical form (indices strictly rising, no entry equal to
what an unlisted index reads as), the bit-field operations of a register word, and the reset word of every register.
-/

namespace Sys2Proof.Machine

/-- What a sparse table holds at index `k`; `d` is what an unlisted index reads as. -/
def Tab.get {α : Type} (d : α) : List (Nat × α) → Nat → α
  | [], _ => d
  | (i, v) :: t, k => if Nat.beq i k then v else Tab.get d t k

/-- The table without index `k`. -/
def Tab.del {α : Type} : List (Nat × α) → Nat → List (Nat × α)
  | [], _ => []
  | (i, v) :: t, k => if Nat.beq i k then Tab.del t k else (i, v) :: Tab.del t k

/-- The table with value `v` listed at index `k`, in rising order. -/
def Tab.ins {α : Type} : List (Nat × α) → Nat → α → List (Nat × α)
  | [], k, v => [(k, v)]
  | (i, w) :: t, k, v =>
    if Nat.blt k i then (k, v) :: (i, w) :: t
    else if Nat.beq i k then (k, v) :: t
    else (i, w) :: Tab.ins t k v

/-- Write `v` at index `k`: the value an unlisted index reads as is not listed. -/
def Tab.put {α : Type} [DecidableEq α] (d : α) (t : List (Nat × α)) (k : Nat) (v : α) : List (Nat × α) :=
  if v = d then Tab.del t k else Tab.ins t k v

/-- Change the value at index `k`. -/
def Tab.upd {α : Type} [DecidableEq α] (d : α) (t : List (Nat × α)) (k : Nat) (f : α → α) : List (Nat × α) :=
  Tab.put d t k (f (Tab.get d t k))

/-- Are the indices strictly rising from above `lo`? -/
def Tab.risingFrom {α : Type} : Nat → List (Nat × α) → Bool
  | _, [] => true
  | lo, (i, _) :: t => Nat.ble lo i && Tab.risingFrom (i + 1) t

/-- The canonical form: rising indices, no entry equal to what its index reads as when unlisted. -/
def Tab.canon {α : Type} [DecidableEq α] (d : Nat → α) (t : List (Nat × α)) : Bool :=
  Tab.risingFrom 0 t && t.all (fun e => decide (e.2 ≠ d e.1))

/-- Bits [lo + width − 1 : lo] of a word. -/
def bitsAt (w : Word) (lo width : Nat) : Nat := w.toNat / 2 ^ lo % 2 ^ width

/-- The word with bits [lo + width − 1 : lo] set to `v` modulo 2^width, its other bits kept. -/
def setBitsAt (w : Word) (lo width v : Nat) : Word :=
  BitVec.ofNat 32 ((w.toNat &&& (0xFFFFFFFF ^^^ ((2 ^ width - 1) <<< lo))) ||| ((v % 2 ^ width) <<< lo))

/-- A signed number in `width` bits, two's complement. -/
def signedOf (width n : Nat) : Int := if n % 2 ^ width < 2 ^ (width - 1) then ((n % 2 ^ width : Nat) : Int) else ((n % 2 ^ width : Nat) : Int) - 2 ^ width

/-- Two's complement of an integer in `width` bits. -/
def unsignedOf (width : Nat) (z : Int) : Nat := (z % (2 ^ width : Int)).toNat

/-- The signed value closest to `z` that `width` bits hold. -/
def clampSigned (width : Nat) (z : Int) : Int := max (-(2 ^ (width - 1) : Int)) (min ((2 ^ (width - 1) : Int) - 1) z)

/-- Is `a` one of `n` addresses `base + i × stride`? -/
def isInst (a base stride n : Nat) : Bool :=
  Nat.ble base a && Nat.beq ((a - base) % stride) 0 && Nat.blt ((a - base) / stride) n

/-- The word a register holds on its reset source (R7): the Reset column of its field table; 0 for img fields and for
every address that no field table gives another value. SYS_ID and NVM_ID take the straps and the ROM version. -/
def resetWord (a : Nat) : Word :=
  if isInst a R.sysId 4 1 then
    BitVec.ofNat 32 (0x9256 + Config.orderingStrap % 4 * 2 ^ 16 + Config.stepStrap % 2 ^ 8 * 2 ^ 24)
  else if isInst a (R.sysPoolMinfree 0) 0x20 3 then 0x000FFFFF
  else if isInst a (R.selTypeCfg 0) 4 256 then BitVec.ofNat 32 (typeReset ((a - R.selTypeCfg 0) / 4))
  else if isInst a (R.clkByp 0) 4 2 then 0xFFFFFFFF
  else if isInst a (R.clkByp 2) 4 1 then 0x00000FFF
  else if isInst a (R.clkPllStat 0) 0x40 76 then 0x00000008
  else if isInst a (R.clkXqStat 0) 0x10 582 then 0x7FFF7FFF
  else if isInst a (R.timDomStat 0) 0x100 2 then 0x0000FF00
  else if isInst a R.nvmId 4 1 then BitVec.ofNat 32 (Config.romVersion % 2 ^ 16 + 0x40 * 2 ^ 16)
  else if Nat.beq a (R.nvmImgStat 0) || Nat.beq a (R.nvmImgStat 1) then 0x0000FF00
  else if isInst a (R.ckvCfg 0) 0x100 8 then 0x00000001
  else if isInst a (R.hstEqCfg 0) 0x1000 4 then 0x00001F07
  else if isInst a (R.hstRdCfg 0) 0x1000 4 then 0x00000014
  else if isInst a (R.hstTapCfg 0 0) 0x20 16 then 0x00002800
  else if isInst a (R.hstTapCfg 1 0) 0x20 16 then 0x00002800
  else if isInst a (R.hstTapCfg 2 0) 0x20 16 then 0x00002800
  else if isInst a (R.hstTapCfg 3 0) 0x20 16 then 0x00002800
  else if isInst a (R.lnkInj 0) 0x2000 256 then 0x00000800
  else if isInst a (R.chnRcFrame 0) 0x4000 256 then 0x00007F00
  else if isInst a (R.encId 0) 0x8000 128 then
    BitVec.ofNat 32 ((a - R.encId 0) / 0x8000 + (a - R.encId 0) / 0x8000 / 8 * 2 ^ 8 + (a - R.encId 0) / 0x8000 / 32 * 2 ^ 12)
  else if isInst a (R.encLoad 0) 0x8000 128 then 0x01FF0000
  else if isInst a (R.encHealth 0) 0x8000 128 then 0x0000FF00
  else if isInst a (R.cmpCoefValid 0) 0x10000 16 then 0x00000003
  else 0

/-- Is the register's reset source power-on (its heading line)? Every other register's is module reset (R7). -/
def powerOnReg (a : Nat) : Bool :=
  isInst a R.sysId 4 4 || isInst a R.sysSlot 4 4 || isInst a R.selStat 4 1 || isInst a R.selRecov 4 1
    || isInst a (R.selCapCode 0) 4 5 || isInst a (R.selCapCode 1) 4 5 || isInst a R.selSeqLo 4 5
    || isInst a (R.selSticky 0) 4 2048 || isInst a (R.selEvt 0) 4 8192 || isInst a R.nvmId 4 1
    || isInst a R.timSysLo 4 2 || isInst a R.hstWhoami 4 1 || isInst a (R.hstLink 0) 0x1000 4
    || isInst a (R.encId 0) 0x8000 128 || isInst a (R.encUcode 0) 0x8000 128 || isInst a (R.encHealth 0) 0x8000 128
    || isInst a (R.encRedCntPass 0) 0x8000 128 || isInst a (R.encRedCntFail 0) 0x8000 128
    || isInst a (R.encRedCntFlag 0) 0x8000 128 || isInst a (R.encRedCntSigmis 0) 0x8000 128

end Sys2Proof.Machine
end

