-- ==== Sys2Proof/Machine/Ops.lean ====
section
/-!
DEFINITION. Sys2Proof/Machine/Ops.lean: the named operations over registers, active copies, events, faults, mode requests
and interrupts that the commands' meanings are written with.
-/

namespace Sys2Proof.Machine

/-! Registers -/

/-- The word a register holds. -/
def State.word (s : State) (a : Nat) : Word := Tab.get (resetWord a) s.regs a

/-- Set a register's word. -/
def State.setWord (s : State) (a : Nat) (w : Word) : State := { s with regs := Tab.put (resetWord a) s.regs a w }

/-- A field's value. -/
def State.get (s : State) (f : Fld) : Nat := bitsAt (s.word f.addr) f.lo f.width

/-- Set a field, modulo its width. -/
def State.put (s : State) (f : Fld) (v : Nat) : State := s.setWord f.addr (setBitsAt (s.word f.addr) f.lo f.width v)

/-- A one-bit field as a truth value. -/
def State.is (s : State) (f : Fld) : Bool := Nat.beq (s.get f) 1

/-- Set a one-bit field. -/
def State.flag (s : State) (f : Fld) (b : Bool) : State := s.put f (if b then 1 else 0)

/-- Add to a counter that wraps at its width. -/
def State.bump (s : State) (f : Fld) (n : Nat) : State := s.put f (s.get f + n)

/-- Add to a counter that saturates at its width. -/
def State.sat (s : State) (f : Fld) (n : Nat) : State := s.put f (min (s.get f + n) (2 ^ f.width - 1))

/-- Raise a field to at least `n`, saturating at its width. -/
def State.peak (s : State) (f : Fld) (n : Nat) : State := s.put f (min (max (s.get f) n) (2 ^ f.width - 1))

/-- A signed field. -/
def State.getInt (s : State) (f : Fld) : Int := signedOf f.width (s.get f)

/-- A value that spans a low and a high register (R12). -/
def State.get64 (s : State) (lo hi : Nat) : Nat := (s.word lo).toNat + (s.word hi).toNat * 2 ^ 32

/-- Set a value that spans a low and a high register, modulo 2^64. -/
def State.put64 (s : State) (lo hi v : Nat) : State :=
  (s.setWord lo (BitVec.ofNat 32 v)).setWord hi (BitVec.ofNat 32 (v / 2 ^ 32))

/-- The active value behind a shadow register. -/
def State.actWord (s : State) (a : Nat) : Word := Tab.get 0 s.act a

/-- A field of the active configuration. -/
def State.aget (s : State) (f : Fld) : Nat := bitsAt (s.actWord f.addr) f.lo f.width

/-- A one-bit field of the active configuration. -/
def State.ais (s : State) (f : Fld) : Bool := Nat.beq (s.aget f) 1

/-- Copy the shadows at these addresses to their active values (a commit applied). -/
def State.activate (s : State) (l : List Nat) : State :=
  { s with act := l.foldl (fun t a => Tab.put 0 t a (s.word a)) s.act }

/-- Reload the shadows at these addresses from their active values (a commit refused, R85). -/
def State.reload (s : State) (l : List Nat) : State := l.foldl (fun s a => s.setWord a (s.actWord a)) s

/-- The next free value (Config.freeNat); the counter moves on. -/
def State.fresh (s : State) : Nat × State := (Config.freeNat s.free, { s with free := s.free + 1 })

/-! Time -/

/-- Time passes to instant `t` of the system counter: the counter counts ns and, while the time state is LOCKED or SLEWING,
off moves towards its target by at most SLEW_MAX ns per second (R115, R117, R119). -/
def State.advance (s : State) (t : Nat) : State :=
  if Nat.ble t s.now then s
  else if Nat.beq (s.get F.timStatTstate) 1 || Nat.beq (s.get F.timStatTstate) 2 then
    let acc := s.tim.slewAcc + (t - s.now) * s.get F.timCtlSlewMax
    let n := min (acc / 1000000000) s.tim.rem.natAbs
    let d : Int := if s.tim.rem < 0 then -(n : Int) else (n : Int)
    { s with now := t, tim := { s.tim with off := s.tim.off + d, rem := s.tim.rem - d,
                                           slewAcc := if s.tim.rem - d = 0 then 0 else acc % 1000000000 } }
  else { s with now := t }

/-- Start a timer: it falls due `dt` ns from now. -/
def State.arm (s : State) (key dt : Nat) : State := { s with timers := Tab.put 0 s.timers key (s.now + dt + 1) }

/-- Stop a timer. -/
def State.disarm (s : State) (key : Nat) : State := { s with timers := Tab.del s.timers key }

/-- Is a timer running? -/
def State.armed (s : State) (key : Nat) : Bool := !Nat.beq (Tab.get 0 s.timers key) 0

/-- The instant a running timer falls due. -/
def State.dueAt (s : State) (key : Nat) : Nat := Tab.get 0 s.timers key - 1

/-- A timer's expiry is reported: with the timer running, time passes to its due instant and the timer stops;
otherwise nothing expires. -/
def State.fire (s : State) (key : Nat) : Option State :=
  if s.armed key then some ((s.advance (s.dueAt key)).disarm key) else none

/-- Keys of timers: kind and instance. -/
def timerKey (kind inst : Nat) : Nat := kind * 0x100000 + inst

/-- The instant of the next 1 µs tick of the system counter. -/
def State.nextTick (s : State) : Nat := (s.now / 1000 + 1) * 1000

/-- Time passes to the next 1 µs tick. -/
def State.tick (s : State) : State := s.advance s.nextTick

/-- The linear LTC (R115): the system counter plus off. -/
def State.ltc (s : State) : Int := (s.now : Int) + s.tim.off

/-! Reaction shadows -/

/-- A shadow opens (R499): openers are numbered 0 engine reset, 1 lane reset, 2 BOB reset, 3 lane PLL bypass,
4 core or fabric PLL bypass, 5 audio PLL bypass, 6 system PLL bypass, 7 memory PLL loss, 8 retraining. -/
def State.openShadow (s : State) (opener inst : Nat) (ended : Bool) : State :=
  { s with sel := { s.sel with shadows := s.sel.shadows ++ [⟨opener, inst, ended⟩] } }

/-- The event that ends a shadow has come; it closes SHADOW_US later (R499, SHADOW_CLOSE). -/
def State.endShadow (s : State) (opener inst : Nat) : State :=
  let t : State := { s with sel := { s.sel with shadows := s.sel.shadows.map (fun h =>
      if Nat.beq h.opener opener && Nat.beq h.inst inst then { h with ended := true } else h) } }
  t.arm (timerKey 1 (opener * 0x1000 + inst)) (s.get F.selCtlShadowUs * 1000)

/-! Events -/

/-- The event source whose buffer an event waits in (R56): a fault's source code; a MODE event's input; otherwise the
input, kind and code of R508. -/
def Ev.source (e : Ev) : Nat :=
  if e.kind = 0 then e.code
  else if e.kind = 2 then 0x10000 + e.input
  else 0x100000 + (e.input * 8 + e.kind) * 0x10000 + e.code

/-- The shadow that the event opens is open (R500); the loss of a memory PLL is its own end (R499). -/
def State.opened (s : State) (e : Ev) : State :=
  if Nat.beq e.opens 0 then s
  else
    let t := s.openShadow (e.opens - 1) (e.code / 16) false
    if Nat.beq e.opens 8 then t.endShadow 7 (e.code / 16) else t

/-- Does the event's source still have one of its four places (R56)? -/
def State.roomFor (s : State) (e : Ev) : Bool :=
  Nat.blt ((s.arb.wait.filter (fun x => Nat.beq x.source e.source)).length
    + (s.arb.queue.filter (fun x => Nat.beq x.2.source e.source)).length) 4

/-- A source gives an event to the arbiter: with four waiting it is not numbered, and counts in the overflow count
that its source's next numbered event carries and in SEL_EVT_OVF (R56). -/
def State.emit (s : State) (e : Ev) : State :=
  if s.roomFor e then { s with arb := { s.arb with wait := s.arb.wait ++ [e] } }
  else (({ s with arb := { s.arb with ovf := Tab.upd 0 s.arb.ovf e.source (· + 1) } } : State).sat F.selEvtOvf 1).opened e

/-- The event reaches the arbiter's input in the present always-on cycle (R608): it waits to be numbered, and the shadow
that it opens is open (R500). -/
def State.arrive (s : State) (e : Ev) : State :=
  if s.roomFor e then
    ({ s with arb := { s.arb with queue := s.arb.queue ++ [(s.now / 10, e)] } } : State).opened e
  else (({ s with arb := { s.arb with ovf := Tab.upd 0 s.arb.ovf e.source (· + 1) } } : State).sat F.selEvtOvf 1).opened e

/-- An event of kind STATE (R508): event number in [3:0] of the code, instance in [15:4]. -/
def State.stateEv (s : State) (input ev inst data : Nat) : State :=
  s.emit ⟨input, 3, ev + inst * 16, 0, data, s.now, 0, 0⟩

/-- The same, and the event opens a shadow of this opener over its instance (R499). -/
def State.stateEvOpen (s : State) (input ev inst data opener : Nat) : State :=
  s.emit ⟨input, 3, ev + inst * 16, 0, data, s.now, 0, opener + 1⟩

/-- An event of kind REFUSAL (R508). -/
def State.refusalEv (s : State) (input ev inst data : Nat) : State :=
  s.emit ⟨input, 4, ev + inst * 16, 0, data, s.now, 0, 0⟩

/-! Fault sources -/

/-- One bit of a bitmap of SEL: bit `code mod 32` of word `code / 32`. -/
def selBit (base : Nat → Fld) (code : Nat) : Fld := ⟨(base (code / 32)).addr, code % 32, 1⟩

/-- A block reports one occurrence of a source; SEL takes it at FAULT_OCCURRENCE (R489). -/
def State.raise (s : State) (code : Nat) : State :=
  { s with sel := { s.sel with occ := s.sel.occ ++ [(code, false)] } }

/-- A level condition arises: the live bit holds while it lasts (R489, R490). -/
def State.raiseLevel (s : State) (code : Nat) : State := (s.flag (selBit F.selLiveLive code) true).raise code

/-- A level condition ends (R490). -/
def State.unraise (s : State) (code : Nat) : State := s.flag (selBit F.selLiveLive code) false

/-! Modes -/

/-- The codes of SYS_MODE.MODE (spec/23, Modes). -/
def Mode.hold : Nat := 0
def Mode.load : Nat := 1
def Mode.calibrate : Nat := 2
def Mode.arm : Nat := 3
def Mode.run : Nat := 4
def Mode.degraded : Nat := 5
def Mode.safe : Nat := 6
def Mode.recover : Nat := 7
def Mode.drain : Nat := 8
def Mode.loopback : Nat := 9
def Mode.selftest : Nat := 10
def Mode.service : Nat := 11

/-- The mode in force. -/
def State.mode (s : State) : Nat := s.get F.sysModeMode

/-- Is the mode in force one of these? -/
def State.modeIn (s : State) (l : List Nat) : Bool := l.any (fun m => Nat.beq m s.mode)

/-- Put a request before the mode controller, which decides it at its next evaluation (R549). -/
def State.request (s : State) (mode who cause src : Nat) : State :=
  { s with sys := { s.sys with reqs := s.sys.reqs ++ [⟨mode, who, cause, src⟩] } }

/-- A loss of capacity that a chapter ties to an entry to DEGRADED (R552). -/
def State.capacityLoss (s : State) : State := s.request Mode.degraded 6 6 0

/-! Host ports -/

/-- A host port. -/
def State.port (s : State) (h : Nat) : Port := Tab.get {} s.ports h

/-- Change a host port. -/
def State.setPort (s : State) (h : Nat) (p : Port) : State := { s with ports := Tab.put {} s.ports h p }

/-- The port sends vector v, or it waits until MOD_US have passed since the last message of that vector (R576). -/
def State.sendMsi (s : State) (h v : Nat) : State :=
  let p := s.port h
  if Nat.testBit p.msiMask v || p.msiWait.contains v then s
  else if Nat.beq (Tab.get 0 p.msiSent v) 0
      || Nat.blt (Tab.get 0 p.msiSent v + s.get (F.hstIrqModModUs h) * 1000) (s.now + 2) then
    s.setPort h { p with msiSent := Tab.put 0 p.msiSent v (s.now + 1) }
  else s.setPort h { p with msiWait := p.msiWait ++ [v] }

/-- Interrupt cause v arises in port h: its status bit is set where its enable bit is 1 (R576). -/
def State.irqPort (s : State) (h v : Nat) : State :=
  if Nat.testBit (s.get (F.hstIrqEnEn h)) v then
    (s.put (F.hstIrqStatStat h) (s.get (F.hstIrqStatStat h) ||| 2 ^ v)).sendMsi h v
  else s

/-- Interrupt cause v arises in every port (R576). -/
def State.irqAll (s : State) (v : Nat) : State := (List.range 4).foldl (fun s h => s.irqPort h v) s

/-- Port h's link is in L0 with bus mastering enabled (R574, R578). -/
def State.linkUp (s : State) (h : Nat) : Bool := Nat.beq (s.get (F.hstLinkLstate h)) 2 && s.is (F.hstLinkBme h)

/-! Change of a state field with its event -/

/-- Set a state field and, where it changes, send the STATE event of R508 with the new state in the low field and the
previous one `shift` bits above. -/
def State.moveTo (s : State) (f : Fld) (v input ev inst shift extra : Nat) : State :=
  if Nat.beq (s.get f) v then s
  else (s.put f v).stateEv input ev inst (v + s.get f * 2 ^ shift + extra)

/-- Apply an effect for each member of a list. -/
def State.each {α : Type} (s : State) (l : List α) (f : State → α → State) : State := l.foldl f s

/-- Apply an effect when a condition holds. -/
def State.cond (s : State) (b : Bool) (f : State → State) : State := if b then f s else s

end Sys2Proof.Machine
end

