-- ==== Sys2Proof/Machine/Flags.lean ====
section
/-!
DEFINITION. Sys2Proof/Machine/Flags.lean: the status that the module computes rather than stores: registers that follow
time, SEL_PEEK, the full condition of R555, the indicator pins, and the view of BAR0 that a read returns.
-/

namespace Sys2Proof.Machine

/-! Time (chapter 04) -/

/-- The tracker of domain d. -/
def State.dom (s : State) (d : Nat) : Dom := Tab.get {} s.tim.dom d

/-- Change the tracker of domain d. -/
def State.setDom (s : State) (d : Nat) (x : Dom) : State :=
  { s with tim := { s.tim with dom := Tab.put {} s.tim.dom d x } }

/-- The timers of TIM: qualification, Announce, Sync and Delay_Req of domain d, REF_IN qualification, PPS_OUT high time,
the ARM wait, HOLDOVER_LONG and SLEW_FAR. -/
def Timer.domQual (d : Nat) : Nat := timerKey 3 d
def Timer.domAnnounce (d : Nat) : Nat := timerKey 4 d
def Timer.domSync (d : Nat) : Nat := timerKey 5 d
def Timer.domDreq (d : Nat) : Nat := timerKey 6 d
def Timer.refQual : Nat := timerKey 7 0
def Timer.ppsFall : Nat := timerKey 8 0
def Timer.armWait : Nat := timerKey 9 0
def Timer.holdoverLong : Nat := timerKey 10 0
def Timer.slewFar : Nat := timerKey 11 0

/-- LTC seconds and nanoseconds (R115): the nanoseconds field stays in 0 to 999,999,999. -/
def State.ltcSec (s : State) : Nat := (s.ltc / 1000000000 % 2 ^ 48).toNat
def State.ltcNs (s : State) : Nat := (s.ltc % 1000000000).toNat

/-- HO_SEC: the seconds of the present HOLDOVER, else of the last one, saturating. -/
def State.hoSec (s : State) : Nat :=
  min 0xFFFF (if Nat.beq (s.get F.timStatTstate) 3 then (s.now - s.tim.hoSince) / 1000000000 else s.tim.hoLast)

/-- QUAL_SEC of domain d (R125): whole seconds of the count that runs in UNCALIBRATED, 10 in QUALIFIED. -/
def State.domQualSec (s : State) (d : Nat) : Nat :=
  if Nat.beq (s.get (F.timDomStatDstate d)) 3 then 10
  else if s.armed (Timer.domQual d) then min 255 ((s.now - (s.dom d).qStart) / 1000000000) else 0

/-- QUAL_SEC of REF_IN: whole seconds of stable reference counted, saturating at 255. -/
def State.refQualSec (s : State) : Nat :=
  if Nat.beq (s.get F.timRefRstate) 1 || Nat.beq (s.get F.timRefRstate) 2 then
    min 255 ((s.now - s.tim.refSince) / 1000000000)
  else 0

/-- The registers of TIM that follow time. -/
def State.timView (s : State) (a : Nat) : Word :=
  if Nat.beq a R.timSysLo then BitVec.ofNat 32 s.now
  else if Nat.beq a R.timSysHi then BitVec.ofNat 32 (s.now / 2 ^ 32)
  else if Nat.beq a R.timLtcNs then BitVec.ofNat 32 s.ltcNs
  else if Nat.beq a R.timLtcSecLo then BitVec.ofNat 32 s.ltcSec
  else if Nat.beq a R.timLtcSecHi then BitVec.ofNat 32 (s.ltcSec / 2 ^ 32)
  else if Nat.beq a R.timOffLo then BitVec.ofNat 32 (unsignedOf 64 s.tim.off)
  else if Nat.beq a R.timOffHi then BitVec.ofNat 32 (unsignedOf 64 s.tim.off / 2 ^ 32)
  else if Nat.beq a R.timSlewrem then
    BitVec.ofNat 32 (unsignedOf 32 (max (-(2 ^ 31 - 1)) (min (2 ^ 31 - 1) s.tim.rem)))
  else if Nat.beq a R.timStat then setBitsAt (s.word a) 16 16 s.hoSec
  else if Nat.beq a R.timRef then setBitsAt (s.word a) 24 8 s.refQualSec
  else if Nat.beq a (R.timDomQual 0) then setBitsAt (s.word a) 8 8 (s.domQualSec 0)
  else if Nat.beq a (R.timDomQual 1) then setBitsAt (s.word a) 8 8 (s.domQualSec 1)
  else s.word a

/-! Clocks (chapter 19) -/

/-- PLL p behind its registers. -/
def State.pll (s : State) (p : Nat) : Pll := Tab.get {} s.clk.pll p

/-- Change it. -/
def State.setPll (s : State) (p : Nat) (x : Pll) : State := { s with clk := { s.clk with pll := Tab.put {} s.clk.pll p x } }

/-- A ramp's step in kHz over dt ns: RAMP_PPM × 1.7 kHz per µs (R480). -/
def rampKhz (ppm dt : Nat) : Nat := ppm * 17 * dt / 10000

/-- The instantaneous target of PLL p in kHz (R480). -/
def State.instTarget (s : State) (p : Nat) : Nat :=
  let t := s.get (F.clkPllTgtTgt p)
  if Nat.beq (s.get (F.clkPllStatPstate p)) 3 then
    let x := s.pll p
    let d := rampKhz (s.get (F.clkPllCfgRampPpm p)) (s.now - x.rampAt)
    if Nat.ble t x.rampFrom then max t (x.rampFrom - d) else min t (x.rampFrom + d)
  else t

/-- BYP_MS of PLL p: the stored time and that of the present bypass. -/
def State.bypMs (s : State) (p : Nat) : Nat :=
  min 0xFFFFFFFF (s.get (F.clkPllCntBypMs p)
    + (if Nat.beq (s.pll p).bypAt 0 then 0 else (s.now + 1 - (s.pll p).bypAt) / 1000000))

/-- Word m of CLK_BYP. -/
def State.bypWord (s : State) (m : Nat) : Nat :=
  (List.range 32).foldl (fun w b =>
    if Nat.blt (32 * m + b) 76 && s.is (F.clkPllStatOnByp (32 * m + b)) then w + 2 ^ b else w) 0

/-- The registers of CLK that are computed. -/
def State.clkView (s : State) (a : Nat) : Word :=
  if Nat.beq a R.clkStat then
    let n := ((List.range 76).filter (fun p => s.is (F.clkPllStatOnByp p))).length
    let alt := (List.range 76).any (fun p => s.is (F.clkPllStatAltRef p))
    setBitsAt (setBitsAt (setBitsAt (s.word a) 1 1 (if Nat.beq n 0 then 0 else 1)) 2 1 (if alt then 1 else 0)) 16 7 n
  else if isInst a (R.clkByp 0) 4 3 then BitVec.ofNat 32 (s.bypWord ((a - R.clkByp 0) / 4))
  else if isInst a (R.clkPllFreq 0) 0x40 76 then
    setBitsAt (s.word a) 16 16 (s.instTarget ((a - R.clkPllFreq 0) / 0x40) / 1000)
  else if isInst a (R.clkPllCntBypMs 0) 0x40 76 then BitVec.ofNat 32 (s.bypMs ((a - R.clkPllCntBypMs 0) / 0x40))
  else s.word a

/-! Selvedge (chapter 20) -/

/-- The timers of SEL: the closing of a shadow (State.endShadow) and the quiet period. -/
def Timer.shadow (opener inst : Nat) : Nat := timerKey 1 (opener * 0x1000 + inst)
def Timer.quiet : Nat := timerKey 2 0

/-- QUIET_LEFT: seconds left in the quiet period, rounded up; 0 outside SAFE. -/
def State.quietLeft (s : State) : Nat :=
  if Nat.beq s.mode Mode.safe && s.armed Timer.quiet then
    min 255 ((s.dueAt Timer.quiet - s.now + 999999999) / 1000000000)
  else 0

/-- The counted occurrences of a source within its window W, counting back from `now` (R491): one that lies W or more
before is outside. -/
def State.winCount (s : State) (code : Nat) : List Nat :=
  (Tab.get [] s.sel.win code).filter
    (fun t => Nat.blt (s.now - t) (s.get (F.selTypeCfgW (srcType code)) * 1000000))

/-- SEL_PEEK_DATA of the source that SEL_PEEK_CODE names; 0 for a code that R487 does not list. -/
def State.peekData (s : State) : Nat :=
  let c := s.get F.selPeekCodeCode
  if listedSource c then
    min 15 (s.winCount c).length + s.get (selBit F.selLiveLive c) * 2 ^ 4 + s.get (selBit F.selStickySticky c) * 2 ^ 5
      + (if s.sel.pend.any (fun r => Nat.beq r.code c) then 2 ^ 6 else 0)
      + min 0xFFFF (Tab.get 0 s.sel.total c) * 2 ^ 16
  else 0

/-! Modes (chapter 23) -/

/-- A PLL whose output its domain runs on: LOCKED or RAMP (R473). -/
def State.pllUp (s : State) (p : Nat) : Bool :=
  Nat.beq (s.get (F.clkPllStatPstate p)) 2 || Nat.beq (s.get (F.clkPllStatPstate p)) 3

/-- The channels that are SHED or have DUPLEX_LOST set. -/
def State.reduced (s : State) : Bool :=
  (List.range 256).any (fun n => Nat.beq (s.get (F.chnStatState n)) 3 || s.is (F.chnStatDuplexLost n))

/-- The full condition of R555. -/
def State.fullCond (s : State) : Bool :=
  s.sys.cfgGroups.all (fun g => s.is (F.drcGrpStatInMap g))
    && [0, 1, 2, 3, 4, 11].all (fun p => s.pllUp p)
    && Nat.ble (s.get F.sysRedCfgNspare)
        ((List.range 128).filter (fun e => Nat.beq (s.get (F.encHealthEstate e)) 2)).length
    && !s.reduced

/-- SAFE_SET (R536): the safe set is present: a lane quad's PLL is locked. -/
def State.safeSet (s : State) : Bool := (List.range 64).any (fun q => s.pllUp (12 + q))

/-- LIVE_SET (R536): the safe set, a group in the map, a compositor in service and an engine; before ARM an engine that R614
does not record counts. -/
def State.liveSet (s : State) : Bool :=
  s.safeSet && (List.range 8).any (fun g => s.is (F.drcGrpStatInMap g))
    && (List.range 16).any (fun c => !Nat.testBit (s.get F.sysSelftestCmpFail) c)
    && (List.range 128).any (fun e =>
      if Nat.ble s.mode Mode.calibrate then !s.sys.engRec.any (fun x => Nat.beq (x % 256) e)
      else Nat.ble 1 (s.get (F.encHealthEstate e)) && Nat.ble (s.get (F.encHealthEstate e)) 3)

/-- REMOVE OK lights (R596). -/
def State.removeOk (s : State) : Bool := s.is F.sysStatDrained || (Nat.beq s.mode Mode.hold && !s.sys.enable)

/-- DEG_LEFT: in DEGRADED, seconds until the full condition has held for DEG_HOLD_S; DEG_HOLD_S while nothing counts. -/
def State.degLeft (s : State) : Nat :=
  if Nat.beq s.mode Mode.degraded then
    match s.sys.fullSince with
    | some t => s.get F.sysCfgDegHoldS - (s.now - t) / 1000000000
    | none => s.get F.sysCfgDegHoldS
  else 0

/-- MOD_FAULT_N is driven low (R498): the first-cause slot holds a fault whose reaction is NOTIFY or stronger. -/
def State.modFaultLow (s : State) : Bool := s.is F.selStatFirstValid && !Nat.beq (s.get (F.selCapCodeReact 0)) 0

/-- MOD_SAFE_N is driven low (R498): SYS_MODE is SAFE. -/
def State.modSafeLow (s : State) : Bool := Nat.beq s.mode Mode.safe

/-! Channels and engines -/

/-- CHN_STITCH (R110): the stitch of the frame in force at the read; 0 in HOLD and LOAD, where no grid runs. The contexts of
a 4320p channel read the first one's (R102). -/
def State.stitchWord (s : State) (m : Nat) : Word :=
  let n := if !Nat.beq (s.get (F.chnStatState (m / 4 * 4))) 0 && s.ais (F.chnFmtSpan4 (m / 4 * 4)) then m / 4 * 4 else m
  let c : Chan := Tab.get {} s.chans n
  if !c.on || Nat.beq c.cur.len 0 then 0
  else BitVec.ofNat 32 (min 16383 ((s.now - c.cur.start) * 16384 / c.cur.len) + c.cur.k % 2 ^ 16 * 2 ^ 16)

/-- PASS_AGE of an engine: units of 100 ms since its last completed pass, 0xFF before the first (ENC_HEALTH). -/
def State.passAge (s : State) (e : Nat) : Nat :=
  match (Tab.get ({} : Eng) s.engs e).lastPass with
  | some t => min 0xFF ((s.now - t) / 100000000)
  | none => 0xFF

/-- The sampler entry in slot q of context n, 0 beyond its tiles and in HOLD and LOAD (R223). -/
def State.samplerEntry (s : State) (n q : Nat) : BitVec 64 :=
  let c : Chan := Tab.get {} s.chans n
  if Nat.ble s.mode Mode.load || Nat.beq c.smpX 0 then 0
  else (Tab.get [] c.smp (q / c.smpX / 2)).getD (q / c.smpX % 2 * c.smpX + q % c.smpX) 0

/-- The sampler window (R223): CAPT in the low word, the other fields in the high word. -/
def State.samplerWord (s : State) (a : Nat) : Word :=
  let x := a - 0x02000000
  let e := (s.samplerEntry (x / 0x10000) (x % 0x10000 / 8)).toNat
  BitVec.ofNat 32 (if Nat.beq (x % 8) 0 then e else e / 2 ^ 32)

/-- DRC_BW of channel d: the data of the last whole second in units of 10 MB/s. -/
def State.bwWord (s : State) (d : Nat) : Word :=
  let x : Dram := Tab.get {} s.dram d
  if Nat.ble (x.sec + 2000000000) s.now then 0
  else if Nat.ble (x.sec + 1000000000) s.now then
    BitVec.ofNat 32 (min 0xFFFF (x.rd / 10000000) + min 0xFFFF (x.wr / 10000000) * 2 ^ 16)
  else s.word (R.drcBw d)

/-! Lanes -/

/-- The line rate of a lane mode in bits per 1,000,000 ns (the table of lane modes). -/
def lineRate (mode : Nat) : Nat :=
  match mode with
  | 1 => 10312500
  | 2 => 25781250
  | 3 => 3125000
  | 4 => 6250000
  | _ => 0

/-- LNK_PRBS_BITS (R448): the bits compared before, and those of the present lock at the lane's line rate (assumption 92). -/
def State.prbsBits (s : State) (l : Nat) : Nat :=
  s.get64 (R.lnkPrbsBitsLo l) (R.lnkPrbsBitsHi l)
    + (if s.is (F.lnkPrbsChkLock l) then
        (s.now - (Tab.get ({} : Lane) s.lanes l).chkAt) * lineRate (s.get (F.lnkCfgMode l)) / 1000000 else 0)

/-! The view of BAR0 -/

/-- What a read of address `a` by port h returns at this instant (R8, R566), latches apart: the stored word, or what
the module computes; 0 for a reserved or unassigned address (R11, R604). -/
def State.view (s : State) (h a : Nat) : Word :=
  if Nat.blt a 0x00010000 then
    if Nat.beq a R.sysStat then
      setBitsAt (setBitsAt (setBitsAt (setBitsAt (s.word a) 0 1 (if s.safeSet then 1 else 0)) 1 1
        (if s.liveSet then 1 else 0)) 2 1 (if s.fullCond then 1 else 0)) 8 8 s.degLeft
    else s.word a
  else if Nat.blt a 0x00020000 then
    if Nat.beq a R.selStat then setBitsAt (s.word a) 16 8 s.quietLeft
    else if Nat.beq a R.selPeekData then BitVec.ofNat 32 s.peekData
    else s.word a
  else if Nat.blt a 0x00030000 then s.word a
  else if Nat.blt a 0x00040000 then s.clkView a
  else if Nat.blt a 0x00050000 then s.timView a
  else if Nat.beq a R.hstWhoami then BitVec.ofNat 32 (h % 4)
  else if Nat.ble 0x02000000 a && Nat.blt a 0x03000000 then s.samplerWord a
  else if isInst a (R.chnStitch 0) 0x4000 256 then s.stitchWord ((a - R.chnStitch 0) / 0x4000)
  else if isInst a (R.encHealth 0) 0x8000 128 then
    setBitsAt (s.word a) 8 8 (s.passAge ((a - R.encHealth 0) / 0x8000))
  else if isInst a (R.drcBw 0) 0x8000 32 then s.bwWord ((a - R.drcBw 0) / 0x8000)
  else if isInst a (R.lnkPrbsBitsLo 0) 0x2000 256 then BitVec.ofNat 32 (s.prbsBits ((a - R.lnkPrbsBitsLo 0) / 0x2000))
  else if isInst a (R.lnkPrbsBitsHi 0) 0x2000 256 then BitVec.ofNat 32 (s.prbsBits ((a - R.lnkPrbsBitsHi 0) / 0x2000) / 2 ^ 32)
  else s.word a

end Sys2Proof.Machine
end

