-- ==== Sys2Proof/Machine/Operands.lean ====
section
/-!
DEFINITION. Sys2Proof/Machine/Operands.lean: host accesses: how a read returns and latches a register (R8 to R12), how a
write acts on each field (R8, R13, R607) and when it has none (the lock rules of the chapters), and how the register
arbiter takes a write (R568 to R571).
-/

namespace Sys2Proof.Machine

/-! Reads -/

/-- The words that a read of the register at `a` latches (R12 and the chapters' own sets); none for most registers. -/
def latchedBy (a : Nat) : List Nat :=
  if Nat.ble 0x02000000 a && Nat.blt a 0x03000000 then (if Nat.beq (a % 8) 0 then [a + 4] else [])
  else if Nat.beq a R.sysModeSeqLo then [R.sysModeSeqHi]
  else if isInst a (R.sysPoolSize 0) 0x20 3 then [a + 4, a + 8, a + 12, a + 16, a + 20]
  else if isInst a (R.selCapCode 0) 0x20 2 then [a + 4, a + 8, a + 12, a + 16]
  else if Nat.beq a R.selSeqLo then [R.selSeqHi]
  else if isInst a (R.selEvt 0) 0x20 1024 then [a + 4, a + 8, a + 12, a + 16, a + 20, a + 24, a + 28]
  else if Nat.beq a R.bobCreatedLo then
    [R.bobCreatedHi, R.bobDispatchedLo, R.bobDispatchedHi, R.bobCancelledLo, R.bobCancelledHi, R.bobPending]
  else if Nat.beq a R.timSysLo then [R.timSysHi, R.timLtcNs, R.timLtcSecLo, R.timLtcSecHi]
  else if Nat.beq a R.timOffLo then [R.timOffHi]
  else if Nat.beq a R.timPpsinLo then [R.timPpsinHi]
  else if isInst a (R.timDomGmLo 0) 0x100 2 then [a + 4]
  else if isInst a (R.ckvValLo 0) 0x100 8 then [R.ckvValHi ((a - R.ckvValLo 0) / 0x100)]
  else if isInst a (R.ckvResLo 0) 0x100 8 then [R.ckvResHi ((a - R.ckvResLo 0) / 0x100)]
  else if isInst a (R.ckvMisExpLo 0) 0x100 8 then [R.ckvMisExpHi ((a - R.ckvMisExpLo 0) / 0x100)]
  else if isInst a (R.ckvMisDescLo 0) 0x100 8 then [R.ckvMisDescHi ((a - R.ckvMisDescLo 0) / 0x100)]
  else if isInst a (R.ckvCntBytesLo 0) 0x100 8 then [R.ckvCntBytesHi ((a - R.ckvCntBytesLo 0) / 0x100)]
  else if isInst a (R.audPortBlkLo 0) (R.audPortBlkLo 1 - R.audPortBlkLo 0) 16 then
    [R.audPortBlkHi ((a - R.audPortBlkLo 0) / (R.audPortBlkLo 1 - R.audPortBlkLo 0))]
  else if isInst a (R.audInCntRecv 0) (R.audInCntRecv 1 - R.audInCntRecv 0) 48 then
    (List.range 10).map (fun k => a + 4 * (k + 1))
  else if isInst a (R.drcErrLo 0) 0x8000 32 then
    [R.drcErrHi ((a - R.drcErrLo 0) / 0x8000), R.drcErrInfo ((a - R.drcErrLo 0) / 0x8000)]
  else if isInst a (R.lnkPrbsBitsLo 0) 0x2000 256 then [R.lnkPrbsBitsHi ((a - R.lnkPrbsBitsLo 0) / 0x2000)]
  else if isInst a (R.encRowsLo 0) 0x8000 128 then [R.encRowsHi ((a - R.encRowsLo 0) / 0x8000)]
  else if isInst a (R.encSig 0) 0x8000 128 then [R.encSigtag ((a - R.encSig 0) / 0x8000)]
  else if isInst a (R.chnFstartLo 0) 0x4000 256 then
    let n := (a - R.chnFstartLo 0) / 0x4000
    [R.chnFstartHi n, R.chnFnumLo n, R.chnFnumHi n]
  else if isInst a (R.chnSlotLo 0) 0x4000 256 then [a + 4]
  else if isInst a (R.chnAuLo 0) 0x4000 256 then [a + 4]
  else if isInst a (R.chnSkipauLo 0) 0x4000 256 then [a + 4]
  else if isInst a (R.chnSaferowauLo 0) 0x4000 256 then [a + 4]
  else if isInst a (R.chnSafeauLo 0) 0x4000 256 then [a + 4]
  else if isInst a (R.chnLaterowLo 0) 0x4000 256 then [a + 4]
  else if isInst a (R.chnTulleLo 0) 0x4000 256 then [a + 4]
  else if isInst a (R.chnRcCntBytesLo 0) 0x4000 256 then [R.chnRcCntBytesHi ((a - R.chnRcCntBytesLo 0) / 0x4000)]
  else if isInst a (R.rplChOldLo 0) (R.rplChOldLo 1 - R.rplChOldLo 0) 256 then [a + 4]
  else if isInst a (R.rplChNewLo 0) (R.rplChNewLo 1 - R.rplChNewLo 0) 256 then [a + 4]
  else []

/-- The word whose read latches the word at `a`, for the words that only show what a read latched. -/
def latchedWord (a : Nat) : Bool :=
  (List.range 11).any (fun k => Nat.ble (4 * (k + 1)) a && (latchedBy (a - 4 * (k + 1))).contains a)
    || Nat.beq a R.timLtcNs || Nat.beq a R.timLtcSecLo || Nat.beq a R.timLtcSecHi

/-- A field's value after a read: an rsc field is cleared to its Reset value (R8, R10). -/
def readClear (a : Nat) (w : Word) (f : FSpec) : Word :=
  match f.acc with
  | .rsc => setBitsAt w f.lo f.width (bitsAt (resetWord a) f.lo f.width)
  | _ => w

/-- The word a read of `a` by port h returns: a latched word returns what its low word's read latched (R12). -/
def State.readWord (s : State) (h a : Nat) : Word :=
  if latchedWord a then Tab.get 0 s.latch a else s.view h a

/-- A host read of `a` by port h (R8 to R12): the reply, the words latched, the rsc fields cleared. -/
def State.hostRead (s : State) (h a : Nat) : State :=
  let s1 := s.setPort h { s.port h with reply := s.readWord h a }
  let s2 : State := { s1 with latch := (latchedBy a).foldl (fun t b => Tab.put 0 t b (s.view h b)) s1.latch }
  match findReg a with
  | some r =>
    if r.fields.any (fun f => f.acc == .rsc) then s2.setWord a (r.fields.foldl (readClear a) (s2.word a)) else s2
  | none => s2

/-! Writes to fields -/

/-- Is the value one that the field takes (R13, R607)? `w` is the word as the same write leaves it. -/
def Rng.takes (r : Rng) (w : Word) (v : Nat) : Bool :=
  match r with
  | .any => true
  | .between lo hi => Nat.ble lo v && Nat.ble v hi
  | .atLeast lo width => Nat.ble (bitsAt w lo width) v
  | .below lo width k => Nat.blt (v + k) (bitsAt w lo width)

/-- A written word's field before range checks that name another field. -/
def writePlain (v : Word) (w : Word) (f : FSpec) : Word :=
  match f.acc with
  | .rw => if (match f.rng with | .between lo hi => Nat.ble lo (bitsAt v f.lo f.width) && Nat.ble (bitsAt v f.lo f.width) hi | _ => true)
      then setBitsAt w f.lo f.width (bitsAt v f.lo f.width) else w
  | .w1c => setBitsAt w f.lo f.width (bitsAt w f.lo f.width &&& ((2 ^ f.width - 1) ^^^ bitsAt v f.lo f.width))
  | .w1s => setBitsAt w f.lo f.width (bitsAt w f.lo f.width ||| bitsAt v f.lo f.width)
  | _ => w

/-- A field whose range names another field of the write keeps its old value outside that range (R607). -/
def writeRanged (old w : Word) (f : FSpec) : Word :=
  match f.acc with
  | .rw => if f.rng.takes w (bitsAt w f.lo f.width) then w else setBitsAt w f.lo f.width (bitsAt old f.lo f.width)
  | _ => w

/-- The word after a write of `v` to a register that holds `old` (R8, R11, R13, R607). -/
def writeFields (fs : List FSpec) (old v : Word) : Word :=
  fs.foldl (writeRanged old) (fs.foldl (writePlain v) old)

/-- The word with only the bits of `mask` taken from the written word. -/
def maskWrite (mask old new : Word) : Word := (new &&& mask) ||| (old &&& ~~~mask)

/-- Store a write in the register's fields, in the bits of `mask`; a reserved offset ignores writes (R11). -/
def State.store (s : State) (a : Nat) (v mask : Word) : State :=
  match findReg a with
  | some r => s.setWord a (maskWrite mask (s.word a) (writeFields r.fields (s.word a) v))
  | none => s

/-- All bits of a word. -/
def allBits : Word := 0xFFFFFFFF

/-! The register arbiter -/

/-- The data of a WRITE event (R571). -/
def writeData (h a : Nat) (v : Word) : Nat :=
  v.toNat + a / 4 % 2 ^ 16 * 2 ^ 32 + a / 2 ^ 18 % 2 ^ 8 * 2 ^ 48 + h % 4 * 2 ^ 56

/-- The WRITE event of a taken write (R571); its old value is what a read would have returned. -/
def State.writeEv (s : State) (h a : Nat) (v : Word) : Ev :=
  ⟨2 + h % 4, 1, 0, 0, writeData h a v, s.now, (s.readWord h a).toNat, 0⟩

/-- The ports with a write waiting, port h among them, ascending (R568). -/
def State.waitingPorts (s : State) (h : Nat) : List Nat :=
  (List.range 4).filter (fun p => Nat.beq p h || !(s.port p).posted.isEmpty)

/-- The round as it stands when port h's write comes before the arbiter: the round in force while ports of it are still
to be served; otherwise a new round, once the last round's writes have been numbered, 500 ns times their number after
that round's start (R568). -/
def State.openRound (s : State) (h : Nat) : State :=
  if s.round.left.isEmpty && s.arb.queue.all (fun e => !Nat.beq e.2.kind 1) then
    let l := s.waitingPorts h
    let t := s.advance (s.round.start + 500 * s.round.count)
    { t with round := ⟨l, t.now, l.length⟩ }
  else s

/-- Is it port h's turn in the round? -/
def State.turn (s : State) (h : Nat) : Bool :=
  match s.round.left with
  | p :: _ => Nat.beq p h
  | [] => false

/-- Is this write the oldest of its port: nothing waits, or it stands first in the port's queue? -/
def State.oldest (s : State) (h a : Nat) (v : Word) : Bool :=
  match (s.port h).posted with
  | [] => true
  | w :: _ => Nat.beq w.addr a && w.val == v

/-- Post a write: it joins its port's queue, or the host waits because 64 writes wait (R568). -/
def State.post (s : State) (h a : Nat) (v : Word) : State :=
  if Nat.blt (s.port h).posted.length 64 then
    s.setPort h { s.port h with posted := (s.port h).posted ++ [⟨a, v⟩] }
  else s

/-- The write leaves its port's queue and the round moves to its next port. -/
def State.served (s : State) (h : Nat) : State :=
  let t := s.setPort h { s.port h with posted := (s.port h).posted.tail }
  { t with round := { t.round with left := t.round.left.tail } }

/-- Does a taken write have its effect in the mode in force (R533, R570)? -/
def State.writesAct (s : State) : Bool := !(Nat.beq s.mode Mode.hold || Nat.beq s.mode Mode.load)

/-- The register arbiter takes port h's write of `v` to `a` (R568 to R571): counted, its WRITE event at arbiter input
2 + h in the same cycle, and its effect, which it lacks in HOLD and LOAD unless `always`. A write that is not the oldest
of its port, or whose turn in the round has not come, waits in the port's queue. -/
def State.takeWrite (s : State) (h a : Nat) (v : Word) (always : Bool) (eff : State → State) : State :=
  let p := h % 4
  if s.oldest p a v then
    let r := s.openRound p
    if r.turn p then
      let e := r.writeEv p a v
      let t := ((r.served p).bump (F.hstCntWrites p) 1).arrive e
      if always || t.writesAct then eff t else t
    else if (s.port p).posted.isEmpty then r.post p a v else r
  else s.post p a v

end Sys2Proof.Machine
end

