-- ==== Sys2Proof/Machine/Sel.lean ====
section
/-!
DEFINITION. Sys2Proof/Machine/Sel.lean: Selvedge's counting, capture and quiet period and the event arbiter (chapter 20,
R486 to R511, R608), the journal writer (R541 to R543) and the host event queues (R573, R574).
-/

namespace Sys2Proof.Machine

/-! Counting, capture -/

/-- Do all enabled paths of source i lie on these lanes, with at least one enabled (R499)? -/
def State.srcOnLanes (s : State) (i : Nat) (on : Nat → Bool) : Bool :=
  let l := [0, 1].filter (fun p => s.is (F.ingSrcPathEn i p))
  !l.isEmpty && l.all (fun p => on (s.get (F.ingSrcPathLane i p)))

/-- Is the source dependent on what opened the shadow (R499)? -/
def State.dependent (s : State) (code : Nat) (h : Shadow) : Bool :=
  let t := srcType code
  let i := srcInst code
  match h.opener with
  | 0 => Nat.beq t 0x22
      || (Nat.beq t 0xE3 && (Nat.beq (s.get (F.chnDupStatLead i)) h.inst
          || (s.is (F.chnDupStatStbyValid i) && Nat.beq (s.get (F.chnDupStatStby i)) h.inst)))
  | 1 => Nat.beq t 0xB0 && s.srcOnLanes i (fun l => Nat.beq l h.inst)
  | 2 => Nat.beq t 0x22
  | 3 => ((Nat.beq t 0xA0 || Nat.beq t 0xA2) && Nat.beq (i / 4 + 12) h.inst)
      || (Nat.beq t 0xB0 && s.srcOnLanes i (fun l => Nat.beq (l / 4 + 12) h.inst))
  | 4 => Nat.beq t 0x22
  | 5 => Nat.beq t 0x80 && Nat.beq (i / 8 + 9) h.inst && s.is (F.audPortCfgMaster i)
      && Nat.ble (s.get (F.audPortCfgMode i)) 1
  | 6 => Nat.beq t 0x41
  | 7 => (Nat.beq t 0x90 || Nat.beq t 0x91 || Nat.beq t 0x92) && Nat.beq (i / 8 + 5) h.inst
  | _ => Nat.beq t 0x90 && Nat.beq i h.inst

/-- Is an occurrence consequential (R501): dependent on an open shadow, and of a type whose T is not 1? -/
def State.consequential (s : State) (code : Nat) : Bool :=
  !Nat.beq (s.get (F.selTypeCfgT (srcType code))) 1 && s.sel.shadows.any (fun h => s.dependent code h)

/-- Every occurrence counts in its total and sets its sticky bit (R489, R490). -/
def State.occur (s : State) (code : Nat) : State :=
  let s1 : State := { s with sel := { s.sel with total := Tab.upd 0 s.sel.total code (· + 1) } }
  s1.flag (selBit F.selStickySticky code) true

/-- The FAULT event of an occurrence (R507): flags, the instance's occurrence count, the reaction in force. -/
def State.faultEv (s : State) (code flags react : Nat) : Ev :=
  ⟨srcInput code, 0, code, flags, min (Tab.get 0 s.sel.total code) 0xFFFFFFFF, s.now, react, 0⟩

/-- The capture slot that a lasting fault enters (R496): the first-cause slot when it is empty, else the secondary slot
when that is empty and the fault in the first is being handled. -/
def State.captureSlot (s : State) : Option Nat :=
  if !s.is F.selStatFirstValid then some 0
  else if !s.is F.selStatSecondValid
      && s.sel.handling.any (fun r => Nat.beq r.code (s.get (F.selCapCodeCode 0))) then some 1
  else none

/-- Fill a capture slot (R496): SEQ reads 0 until the fault's event is numbered. -/
def State.fillSlot (s : State) (z code react : Nat) (forced : Bool) (room : Bool) : State :=
  let s1 := ((((s.put (F.selCapCodeCode z) code).put (F.selCapCodeReact z) react).flag (F.selCapCodeForced z) forced).flag
    (F.selCapCodeUnnum z) (!room)).flag (if Nat.beq z 0 then F.selStatFirstValid else F.selStatSecondValid) true
  let s2 := (s1.put64 (R.selCapSeqLo z) (R.selCapSeqHi z) 0).put64 (R.selCapTsLo z) (R.selCapTsHi z) s.now
  let s3 : State := { s2 with sel := { s2.sel with unnum := (s2.sel.unnum.filter (fun e => !Nat.beq e.1 z)) ++ [(z, code)] } }
  s3.stateEv 0 1 z (code + react * 2 ^ 16)

/-- The quiet period starts, or starts again, and a standing request is withdrawn (R503); not while HELD (R504). -/
def State.startQuiet (s : State) : State :=
  let s1 : State := { s with sel := { s.sel with standing := false } }
  if s1.is F.selStatHeld then s1.disarm Timer.quiet else s1.arm Timer.quiet (s1.get F.selQuietQuietS * 1000000000)

/-- Entry to SAFE (R503, R504): with SINCE at the recovery cap the module is held, with its event; else the quiet period
starts. -/
def State.enterSafeSel (s : State) : State :=
  let cap := s.get F.selQuietRcap
  if !Nat.beq cap 0 && Nat.beq (s.get F.selRecovSince) cap then
    ((s.flag F.selStatHeld true).stateEv 0 3 0 cap).startQuiet
  else s.startQuiet

/-- Would the mode controller refuse the reaction's request in the mode in force (R494, R551, R552, R554)? -/
def State.reqRefused (s : State) (react : Nat) : Bool :=
  if Nat.beq react 4 then
    !s.modeIn [Mode.arm, Mode.run, Mode.degraded, Mode.recover, Mode.loopback, Mode.selftest, Mode.safe]
  else if Nat.beq react 3 then !s.modeIn [Mode.run, Mode.degraded]
  else false

/-- A lasting fault (R491, R495 to R497): its slot, its event, and whether its reaction starts now: it is stronger than
every reaction being handled, or none is. Otherwise it waits as pending. -/
def State.lasting (s : State) (code react : Nat) (forced : Bool) : State × Bool :=
  let now := s.sel.handling.all (fun r => Nat.blt r.react react)
  let slot := s.captureSlot
  let flags := 1 + (if forced then 4 else 0)
    + (match slot with | some 0 => 8 | some _ => 16 | none => 0)
    + (if now then 0 else 32) + (if s.reqRefused react then 64 else 0)
  let e := s.faultEv code flags react
  let room := s.roomFor e
  let s1 := match slot with
    | some z => s.fillSlot z code react forced room
    | none => s.sat F.selStatMore 1
  let s2 := s1.arrive e
  let s3 := s2.cond (Nat.beq react 4 && Nat.beq s.mode Mode.safe) State.startQuiet
  if now then (s3, true)
  else ({ s3 with sel := { s3.sel with pend := s3.sel.pend ++ [⟨code, react⟩] } }, false)

/-- What SEL's decision on an occurrence asks for: nothing more, or the reaction to start now (none where it waits),
after a lasting decision. -/
structure Verdict where
  lasting : Bool
  start   : Bool
  react   : Nat
deriving DecidableEq, Repr

/-- SEL takes an occurrence (R489 to R491, R501): consequential, transient or lasting. -/
def State.judge (s : State) (code : Nat) (forced : Bool) : State × Verdict :=
  let s1 := s.occur code
  let fl := if forced then 4 else 0
  let react := s1.get (F.selTypeCfgReact (srcType code))
  if s1.consequential code then (s1.arrive (s1.faultEv code (2 + fl) react), ⟨false, false, 0⟩)
  else
    let win := s1.winCount code ++ [s1.now]
    if Nat.ble (s1.get (F.selTypeCfgT (srcType code))) win.length then
      let s2 : State := { s1 with sel := { s1.sel with win := Tab.put [] s1.sel.win code [] } }
      let r := s2.lasting code react forced
      (r.1, ⟨true, r.2, react⟩)
    else
      let s2 : State := { s1 with sel := { s1.sel with win := Tab.put [] s1.sel.win code win } }
      (s2.arrive (s2.faultEv code fl react), ⟨false, false, 0⟩)

/-- The occurrence that a FAULT_OCCURRENCE of this code takes: the oldest raised and waiting one; a forced one clears its
force bit (R510). -/
def State.takeOcc (s : State) (code : Nat) : State × Bool :=
  match s.sel.occ.find? (fun o => Nat.beq o.1 code) with
  | some o =>
    let s1 : State := { s with sel := { s.sel with occ := s.sel.occ.erase o } }
    (if o.2 then s1.flag (selBit F.selForceForce code) false else s1, o.2)
  | none => (s, false)

/-! Clears, force, configuration -/

/-- SEL_CLR (R496, R504): bit 0 empties the first-cause slot, bit 1 the secondary slot, bit 2 sets SINCE to 0, clears
HELD and, in SAFE, starts the quiet period. -/
def State.selClear (s : State) (v : Word) : State :=
  let clear (s : State) (z : Nat) : State :=
    let s1 := (((s.setWord (R.selCapCode z) 0).put64 (R.selCapSeqLo z) (R.selCapSeqHi z) 0).put64 (R.selCapTsLo z)
      (R.selCapTsHi z) 0).flag (if Nat.beq z 0 then F.selStatFirstValid else F.selStatSecondValid) false
    { s1 with sel := { s1.sel with unnum := s1.sel.unnum.filter (fun e => !Nat.beq e.1 z) } }
  let s1 := s.cond (Nat.beq (bitsAt v 0 1) 1) (fun s => clear s 0)
  let s2 := s1.cond (Nat.beq (bitsAt v 1 1) 1) (fun s => clear s 1)
  s2.cond (Nat.beq (bitsAt v 2 1) 1) (fun s =>
    let t := (s.put F.selRecovSince 0).flag F.selStatHeld false
    t.cond (Nat.beq t.mode Mode.safe && !t.sel.standing && !t.armed Timer.quiet) State.startQuiet)

/-- SEL_CLEAR_FIRST: port h writes SEL_CLR with FIRST = 1. -/
def execSelClearFirst (h : Nat) (v : Word) (s : State) : Host.Outcome State Fault Refusal :=
  .next (s.takeWrite h R.selClr (setBitsAt v 0 1 1) false (fun s => s.selClear (setBitsAt v 0 1 1)))

/-- SEL_CLEAR_SECOND: port h writes SEL_CLR with SECOND = 1. -/
def execSelClearSecond (h : Nat) (v : Word) (s : State) : Host.Outcome State Fault Refusal :=
  .next (s.takeWrite h R.selClr (setBitsAt v 1 1 1) false (fun s => s.selClear (setBitsAt v 1 1 1)))

/-- SEL_CLEAR_RECOV: port h writes SEL_CLR with RECOV = 1 (R504). -/
def execSelClearRecov (h : Nat) (v : Word) (s : State) : Host.Outcome State Fault Refusal :=
  .next (s.takeWrite h R.selClr (setBitsAt v 2 1 1) false (fun s => s.selClear (setBitsAt v 2 1 1)))

/-- A write of word w of SEL_FORCE (R510): each bit set for a listed source whose bit is 0 sets it and schedules one
forced occurrence; a bit of an unlisted code has no effect. -/
def State.selForce (s : State) (w : Nat) (v : Word) : State :=
  s.each (List.range 32) (fun s b =>
    let code := 32 * w + b
    if Nat.testBit v.toNat b && listedSource code && !s.is (selBit F.selForceForce code) then
      let s1 := s.flag (selBit F.selForceForce code) true
      { s1 with sel := { s1.sel with occ := s1.sel.occ ++ [(code, true)] } }
    else s)

/-- SEL_FORCE: port h writes word w of SEL_FORCE. -/
def execSelForce (h w : Nat) (v : Word) (s : State) : Host.Outcome State Fault Refusal :=
  .next (s.takeWrite h (R.selForce (w % 2048)) v false (fun s => s.selForce (w % 2048) v))

/-- A write of SEL_TYPE_CFG of type t (R511): T outside 1 to 15 or W = 0 leaves the register unchanged; a fixed type
keeps T and REACT; an unlisted reaction code keeps REACT (R13); an unlisted type ignores writes. -/
def State.writeTypeCfg (s : State) (t : Nat) (v : Word) : State :=
  let tv := bitsAt v 0 4
  let wv := bitsAt v 4 16
  let rv := bitsAt v 20 3
  if Nat.beq (typeReset t) 0 || Nat.beq tv 0 || Nat.beq wv 0 then s
  else if s.is (F.selTypeCfgFixed t) then s.put (F.selTypeCfgW t) wv
  else
    let s1 := (s.put (F.selTypeCfgT t) tv).put (F.selTypeCfgW t) wv
    if Nat.ble rv 4 then s1.put (F.selTypeCfgReact t) rv else s1

/-- SEL_TYPE_CFG_WRITE: port h writes SEL_TYPE_CFG of type t. -/
def execSelTypeCfgWrite (h t : Nat) (v : Word) (s : State) : Host.Outcome State Fault Refusal :=
  .next (s.takeWrite h (R.selTypeCfg (t % 256)) v false (fun s => s.writeTypeCfg (t % 256) v))

/-- SHADOW_CLOSE (R499): SHADOW_US after its end, the shadow closes. -/
def State.shadowClose (s : State) (opener inst : Nat) : State :=
  match s.fire (Timer.shadow opener inst) with
  | some t => { t with sel := { t.sel with shadows := t.sel.shadows.filter (fun h =>
      !(Nat.beq h.opener opener && Nat.beq h.inst inst && h.ended)) } }
  | none => s

def execShadowClose (opener inst : Nat) (s : State) : Host.Outcome State Fault Refusal :=
  .next (s.shadowClose opener inst)

/-- QUIET_PERIOD_EXPIRY (R503): the count completes and SEL makes a standing request for RECOVER, unless held. -/
def State.quietExpiry (s : State) : State :=
  match s.fire Timer.quiet with
  | some t =>
    if Nat.beq t.mode Mode.safe && !t.is F.selStatHeld then { t with sel := { t.sel with standing := true } } else t
  | none => s

def execQuietPeriodExpiry (s : State) : Host.Outcome State Fault Refusal := .next s.quietExpiry

/-- The reset configuration of SEL: T, W and reaction of R487 for every type. -/
def State.typeDefaults (s : State) : State :=
  s.each (List.range 256) (fun s t => s.setWord (R.selTypeCfg t) (resetWord (R.selTypeCfg t)))

/-! The event arbiter and the records of a numbered event -/

/-- EVENT_ARBITER_ARRIVAL (R608): the event at place i of those on their way reaches the arbiter's input. -/
def State.arrival (s : State) (i : Nat) : State :=
  match s.arb.wait[i]? with
  | some e => ({ s with arb := { s.arb with wait := s.arb.wait.eraseIdx i } } : State).arrive e
  | none => s

def execEventArbiterArrival (i : Nat) (s : State) : Host.Outcome State Fault Refusal := .next (s.arrival i)

/-- The place of a waiting event in the numbering (R505, R506, R568): cycle, input, a port's faults before its writes,
instance, cause or event. -/
def numberKey (c : Nat) (e : Ev) : List Nat :=
  if e.kind = 0 then
    [c, e.input, 0, srcInst e.code, if e.code / 4096 % 16 = 11 then e.code % 8 else e.code % 16]
  else [c, e.input, if Nat.ble 2 e.input && Nat.ble e.input 5 then 1 else 0, e.code / 16, e.code % 16]

def keyLt : List Nat → List Nat → Bool
  | x :: xs, y :: ys => Nat.blt x y || (Nat.beq x y && keyLt xs ys)
  | _, _ => false

/-- The event that the arbiter numbers next, with what is left: the first of the lowest place. -/
def pickEvent : List (Nat × Ev) → Option ((Nat × Ev) × List (Nat × Ev))
  | [] => none
  | x :: t =>
    match pickEvent t with
    | none => some (x, [])
    | some (y, r) => if keyLt (numberKey y.1 y.2) (numberKey x.1 x.2) then some (y, x :: r) else some (x, t)

/-- The eight words of a record (R507, R541): w3 holds the old value of a WRITE in the journal and in host queues. -/
def recordWords (seq kind flags code input ovf w3 ts data : Nat) : List Word :=
  [seq, seq / 2 ^ 32 % 2 ^ 16 + kind * 2 ^ 16 + flags * 2 ^ 24, code + input * 2 ^ 16 + min ovf 255 * 2 ^ 24, w3,
   ts, ts / 2 ^ 32, data, data / 2 ^ 32].map (BitVec.ofNat 32)

/-- The record of a numbered event; `old` says whether bytes 12 to 15 hold a WRITE's old value. -/
def Ev.words (e : Ev) (seq ovf : Nat) (old : Bool) : List Word :=
  recordWords seq e.kind e.flags e.code e.input ovf (if old && Nat.beq e.kind 1 then e.old else 0) e.ts e.data

/-- A record enters the journal's buffer of 65,536; one that finds it full is discarded and counted (R543). -/
def State.journalPush (s : State) (r : List Word) : State :=
  if Nat.blt s.arb.jbuf.length 65536 then { s with arb := { s.arb with jbuf := s.arb.jbuf ++ [r] } }
  else ({ s with arb := { s.arb with jgap := s.arb.jgap + 1 } } : State).bump F.nvmCntLost 1

/-- The eight words of ring record i (R507). -/
def State.ringWrite (s : State) (i : Nat) (ws : List Word) : State :=
  (List.range 8).foldl (fun s k => s.setWord (R.selEvt (i * 8 + k)) (ws.getD k 0)) s

/-- The event of a write that switches port h's queue on (R571, R575). -/
def Ev.startsQueue (e : Ev) (h : Nat) : Bool :=
  Nat.beq e.kind 1 && Nat.beq (e.data / 2 ^ 32 % 2 ^ 24) (R.hstEqCfg h / 4 % 2 ^ 16 + R.hstEqCfg h / 2 ^ 18 % 2 ^ 8 * 2 ^ 16)
    && Nat.testBit e.data 5

/-- A numbered event goes to the event queue writer of every port whose queue is on and takes its kind (R573); a queue starts
with the event after the one of the write that switches it on (R575), so none goes to it while that one is among the events
`l` still to be numbered. -/
def State.toQueues (s : State) (l : List (Nat × Ev)) (kind : Nat) (r : List Word) : State :=
  s.each (List.range 4) (fun s h =>
    if s.is (F.hstEqCfgEn h) && Nat.testBit (s.get (F.hstEqCfgKinds h)) kind && !l.any (fun e => e.2.startsQueue h) then
      { s with arb := { s.arb with eq := Tab.upd [] s.arb.eq h (· ++ [r]) } }
    else s)

/-- A captured fault's slot takes the number of its source's next numbered event (R496). -/
def State.slotSeq (s : State) (code seq : Nat) : State :=
  (s.sel.unnum.filter (fun e => Nat.beq e.2 code)).foldl
    (fun s e => ({ s with sel := { s.sel with unnum := s.sel.unnum.erase e } } : State).put64 (R.selCapSeqLo e.1)
      (R.selCapSeqHi e.1) seq) s

/-- EVENT_NUMBERING (R51, R506, R507): the next waiting event takes the next number, at least 25 always-on cycles after
the last; it is written to the ring, the journal buffer and the host queues, and raises the host causes FAULT and MODE. -/
def State.number (s0 : State) : State :=
  match pickEvent s0.arb.queue with
  | none => s0
  | some ((_, e), rest) =>
    let s := if Nat.beq s0.arb.last 0 then s0 else s0.advance ((s0.arb.last - 1 + 25) * 10)
    let seq := s.arb.next
    let ovf := Tab.get 0 s.arb.ovf e.source
    let i := s.get F.selEvtHeadIdx
    let s1 : State := { s with arb := { s.arb with queue := rest, next := (seq + 1) % 2 ^ 48, last := s.now / 10 + 1,
                                                   ovf := Tab.del s.arb.ovf e.source } }
    let s2 := ((s1.put64 R.selSeqLo R.selSeqHi seq).ringWrite i (e.words seq ovf false)).bump F.selEvtHeadIdx 1
    let s3 := (s2.journalPush (e.words seq ovf true)).toQueues s0.arb.queue e.kind (e.words seq ovf true)
    let s4 := s3.cond (Nat.beq e.kind 0) (fun s => s.slotSeq e.code seq)
    let s5 := s4.cond (Nat.beq e.kind 2) (fun s => (s.put64 R.sysModeSeqLo R.sysModeSeqHi seq).irqAll 2)
    s5.cond (Nat.beq e.kind 0 && Nat.testBit e.flags 0 && !Nat.beq e.old 0) (fun s => s.irqAll 1)

def execEventNumbering (s : State) : Host.Outcome State Fault Refusal := .next s.number

/-! The journal writer -/

/-- The journal has been scanned by the first LOAD (R570, R542): records may be written. -/
def State.journalOpen (s : State) : Bool := s.sys.booted && !Nat.beq s.mode Mode.hold

/-- The next record index after i; it wraps at 1,048,576 (R541). -/
def State.journalNext (s : State) : State :=
  let i := (s.arb.jidx + 1) % 2 ^ 20
  let s1 := ({ s with arb := { s.arb with jidx := i } } : State).put F.nvmJrnHeadIdx i
  s1.cond (Nat.beq i 0) (fun s => s.bump F.nvmCntWrap 1)

/-- One record written at the next index; record 0 of a page is its PAGE record (R541). -/
def State.journalPage (s : State) (r : List Word) : State :=
  if Nat.beq (s.arb.jidx % 128) 0 then
    let serial := s.arb.jpage + 1
    let page := [(r.getD 0 0), setBitsAt (BitVec.ofNat 32 (0x8 * 2 ^ 16)) 0 16 (bitsAt (r.getD 1 0) 0 16),
      BitVec.ofNat 32 (s.get F.selBoot), 0, BitVec.ofNat 32 serial, BitVec.ofNat 32 (serial / 2 ^ 32),
      BitVec.ofNat 32 s.now, BitVec.ofNat 32 (s.now / 2 ^ 32)]
    ({ s with arb := { s.arb with journal := Tab.ins s.arb.journal s.arb.jidx page, jpage := serial } } : State).journalNext
  else s

/-- JOURNAL_WRITE (R541, R543): the oldest waiting record is written and read back. A record that reads back wrong is
counted, raises NVM_WRITE and is written again at the next index; its cell stays invalid. When space returns after a
loss, one GAP record gives the number discarded. -/
def State.journalWrite (s : State) (good : Bool) : State :=
  match s.arb.jbuf with
  | [] => s
  | r :: rest =>
    if s.journalOpen then
      let s1 := s.journalPage r
      if good then
        let s2 := ({ s1 with arb := { s1.arb with journal := Tab.ins s1.arb.journal s1.arb.jidx r, jbuf := rest } } :
          State).journalNext
        s2.cond (!Nat.beq s2.arb.jgap 0) (fun s =>
          let f := s.fresh
          ({ f.2 with arb := { f.2.arb with jgap := 0 } } : State).journalPush
            ((recordWords (f.1 % 2 ^ 48) 7 0 0 0 0 0 0 0).set 2 (BitVec.ofNat 32 s.arb.jgap)))
      else
        ((({ s1 with arb := { s1.arb with journal := Tab.del s1.arb.journal s1.arb.jidx } } : State).journalNext).bump
          F.nvmCntVerify 1).raise Src.nvmWrite
    else s

def execJournalWrite (good : Bool) (s : State) : Host.Outcome State Fault Refusal := .next (s.journalWrite good)

/-! Host event queues and interrupts -/

/-- EVENT_QUEUE_WRITE (R573, R574): port h's next record is written at the head, which then moves on; with the queue
full, the link not in L0 or bus mastering disabled it is dropped and counted. -/
def State.queueWrite (s : State) (h : Nat) : State :=
  match Tab.get [] s.arb.eq h with
  | [] => s
  | _ :: rest =>
    let s1 : State := { s with arb := { s.arb with eq := Tab.put [] s.arb.eq h rest } }
    let n := 2 ^ s1.get (F.hstEqCfgSize h)
    let head := (s1.get (F.hstEqHeadIdx h) + 1) % n
    if Nat.beq head (s1.get (F.hstEqTailIdx h) % n) || !s1.linkUp h then (s1.bump (F.hstCntEqDrop h) 1).irqPort h 5
    else (s1.put (F.hstEqHeadIdx h) head).irqPort h 0

def execEventQueueWrite (h : Nat) (s : State) : Host.Outcome State Fault Refusal := .next (s.queueWrite (h % 4))

/-- MSIX_MODERATION_EXPIRY (R576): MOD_US after its last message, a vector that waited is sent if its bit is still set. -/
def State.msixExpiry (s : State) (h v : Nat) : State :=
  let p := s.port h
  if p.msiWait.contains v then
    let t := s.advance (Tab.get 0 p.msiSent v - 1 + s.get (F.hstIrqModModUs h) * 1000)
    let q := { p with msiWait := p.msiWait.erase v }
    if Nat.testBit (t.get (F.hstIrqStatStat h)) v && !Nat.testBit p.msiMask v then
      t.setPort h { q with msiSent := Tab.put 0 q.msiSent v (t.now + 1) }
    else t.setPort h q
  else s

def execMsixModerationExpiry (h v : Nat) (s : State) : Host.Outcome State Fault Refusal :=
  .next (s.msixExpiry (h % 4) (v % 8))

/-! SEL's own state -/

/-- SEL_SELF (R502): part k's error enters the first free capture slot, or sets SELF alone; it requests SAFE at once, in
LOAD and CALIBRATE too; the window counters empty and, unless forced, the type configuration is read again. -/
def State.selSelf (s : State) (k : Nat) (forced : Bool) : State :=
  let code := Src.selSelf k
  let s1 := s.occur code
  let slot := if !s1.is F.selStatFirstValid then some 0 else if !s1.is F.selStatSecondValid then some 1 else none
  let refused := !s1.modeIn [Mode.load, Mode.calibrate, Mode.arm, Mode.run, Mode.degraded, Mode.recover, Mode.loopback,
    Mode.selftest, Mode.safe]
  let flags := 1 + (if forced then 4 else 0) + (match slot with | some 0 => 8 | some _ => 16 | none => 0)
    + (if refused then 64 else 0)
  let e := s1.faultEv code flags 4
  let s2 := match slot with
    | some z => s1.fillSlot z code 4 forced (s1.roomFor e)
    | none => s1
  let s3 := ((s2.flag F.selStatSelf true).arrive e).cond (Nat.beq s.mode Mode.safe) State.startQuiet
  let s4 := s3.cond (!Nat.beq s.mode Mode.safe && !Nat.beq s.mode Mode.hold)
    (fun s => (s.request Mode.safe 4 3 code).cond true (fun s =>
      ({ s with sel := { s.sel with handling := s.sel.handling ++ [⟨code, 4⟩] } } : State).flag F.selStatHandling true))
  let s5 : State := { s4 with sel := { s4.sel with win := [] } }
  if forced then s5 else { s5 with sel := { s5.sel with reread := true } }

/-- SEL_SELF_ERROR (R502): a parity or vote error in part k of SEL. -/
def execSelSelfError (k : Nat) (s : State) : Host.Outcome State Fault Refusal := .next (s.selSelf (k % 5) false)

end Sys2Proof.Machine
end

