-- ==== Sys2Proof/Machine/Clocks.lean ====
section
/-!
DEFINITION. Sys2Proof/Machine/Clocks.lean: PLLs, acquisition, bypass, ramps and the clock monitor (chapter 19, R473 to
R485). What a loss or a return of an output does in the blocks it feeds stands with the commands that bring it about
(PllEvents.lean).
-/

namespace Sys2Proof.Machine

/-- Codes of PSTATE. -/
def PState.off : Nat := 0
def PState.acquire : Nat := 1
def PState.locked : Nat := 2
def PState.ramp : Nat := 3
def PState.retry : Nat := 4

/-- Timers of a PLL: band search step, table band limit, acquisition limit, retry, ramp. -/
def Timer.pllStep (p : Nat) : Nat := timerKey 12 p
def Timer.pllTable (p : Nat) : Nat := timerKey 13 p
def Timer.pllAcquire (p : Nat) : Nat := timerKey 14 p
def Timer.pllRetry (p : Nat) : Nat := timerKey 15 p
def Timer.pllRamp (p : Nat) : Nat := timerKey 16 p

def State.pstate (s : State) (p : Nat) : Nat := s.get (F.clkPllStatPstate p)

/-- Change PSTATE, with its event (R508). -/
def State.setPstate (s : State) (p v : Nat) : State := s.moveTo (F.clkPllStatPstate p) v 6 1 p 4 0

/-- The opener of the shadow that the loss of PLL p opens (R499). -/
def pllOpener (p : Nat) : Nat :=
  if Nat.ble p 4 then 4 else if Nat.ble p 8 then 7 else if Nat.ble p 10 then 5 else if Nat.beq p 11 then 6 else 3

/-- A PLL's timers stop. -/
def State.pllStop (s : State) (p : Nat) : State :=
  ((((s.disarm (Timer.pllStep p)).disarm (Timer.pllTable p)).disarm (Timer.pllAcquire p)).disarm (Timer.pllRetry p)).disarm
    (Timer.pllRamp p)

/-- The output goes to bypass (R477): BYP_MS counts after CALIBRATE. -/
def State.toBypass (s : State) (p : Nat) : State :=
  let s1 := s.flag (F.clkPllStatOnByp p) true
  if s.modeIn [Mode.hold, Mode.load, Mode.calibrate] || !Nat.beq (s.pll p).bypAt 0 then s1
  else s1.setPll p { s1.pll p with bypAt := s1.now + 1 }

/-- The output returns from bypass (R477). -/
def State.fromBypass (s : State) (p : Nat) : State :=
  let ms := s.bypMs p
  ((s.put (F.clkPllCntBypMs p) ms).setPll p { s.pll p with bypAt := 0 }).flag (F.clkPllStatOnByp p) false

/-- A band search begins: four steps of 10 µs (R476). -/
def State.startSearch (s : State) (p : Nat) : State :=
  (s.setPll p { s.pll p with steps := 4, searched := true }).arm (Timer.pllStep p) 10000

/-- Acquisition begins (R476): a search with BANDSRC = 0, else the image's band for 200 µs; 2 ms to lock. The reference is
the cleaner where it is present and `alt` is not asked for. -/
def State.acquire (s : State) (p : Nat) (byWrite alt : Bool) : State :=
  let s1 := ((s.pllStop p).toBypass p).flag (F.clkPllStatAltRef p) alt
  let s2 := s1.setPll p { s1.pll p with steps := 0, searched := false, byWrite := byWrite, acqAt := s1.now }
  let s3 := (s2.setPstate p PState.acquire).arm (Timer.pllAcquire p) 2000000
  if s3.is (F.clkPllCfgBandsrc p) then s3.arm (Timer.pllTable p) 200000 else s3.startSearch p

/-- The event of the loss, which opens the loss's shadow when it reaches the arbiter (R499, R500). -/
def State.lossEvent (s : State) (p old : Nat) : State :=
  s.stateEvOpen 6 1 p (PState.acquire + old * 2 ^ 4) (pllOpener p)

/-- Loss of lock of a PLL whose output its domain runs on, or a forced bypass (R475, R477, R479, R481): LOL counts, the
output goes to bypass, CLK_LOL is raised, acquisition starts at the final target; a core, fabric or system PLL costs
capacity. -/
def State.pllLoss (s : State) (p : Nat) (alt : Bool) : State :=
  let old := s.pstate p
  let s1 := (s.bump (F.clkPllCntLol p) 1).put (F.clkPllStatPstate p) PState.acquire
  let s2 := (s1.lossEvent p old).acquire p false alt
  let s3 := s2.raise (Src.clkLol p)
  s3.cond (Nat.ble p 4 || Nat.beq p 11) State.capacityLoss

/-- The shadow of the loss of PLL p ends: the output returned; for a memory PLL, the loss itself (R499). -/
def State.endPllShadow (s : State) (p : Nat) : State :=
  if s.sel.shadows.any (fun h => Nat.beq h.opener (pllOpener p) && Nat.beq h.inst p && !h.ended)
  then s.endShadow (pllOpener p) p else s

/-- Lock is declared (R475 to R477): outside a search, an acquiring PLL enters LOCKED in the band given and its output
returns. -/
def State.pllLock (s : State) (p band : Nat) : State :=
  if Nat.beq (s.pstate p) PState.acquire && Nat.beq (s.pll p).steps 0 then
    let s1 := (((s.pllStop p).setPstate p PState.locked).fromBypass p).bump (F.clkPllCntAcq p) 1
    let s2 := (s1.put (F.clkPllStatBand p) band).put (F.clkPllStatFails p) 0
    (s2.setPll p { s2.pll p with byWrite := false }).endPllShadow p
  else s

/-- PLL_BAND_SEARCH_STEP (R476): a 10 µs step ends; the fourth ends the search. -/
def State.bandStep (s : State) (p : Nat) : State :=
  match s.fire (Timer.pllStep p) with
  | some t =>
    let n := (t.pll p).steps - 1
    (t.setPll p { t.pll p with steps := n }).cond (!Nat.beq n 0) (fun s => s.arm (Timer.pllStep p) 10000)
  | none => s

def execPllBandSearchStep (p : Nat) (s : State) : Host.Outcome State Fault Refusal := .next (s.bandStep (p % 76))

/-- PLL_TABLE_BAND_TIMEOUT (R476): no lock in the table's band in 200 µs; one search runs and TBL_MISS is set. -/
def State.tableTimeout (s : State) (p : Nat) : State :=
  match s.fire (Timer.pllTable p) with
  | some t => (t.flag (F.clkPllStatTblMiss p) true).startSearch p
  | none => s

def execPllTableBandTimeout (p : Nat) (s : State) : Host.Outcome State Fault Refusal := .next (s.tableTimeout (p % 76))

/-- PLL_ACQUIRE_TIMEOUT (R476, R480): no lock within 2 ms; RETRY follows. The FAIL_MAX-th consecutive failure raises
CLK_NOLOCK; the first attempt after an accepted target change that fails counts as a loss (R480). -/
def State.acquireTimeout (s : State) (p : Nat) : State :=
  match s.fire (Timer.pllAcquire p) with
  | some t =>
    let w := (t.pll p).byWrite
    let s1 := (((t.pllStop p).sat (F.clkPllStatFails p) 1).setPstate p PState.retry).arm (Timer.pllRetry p)
      (t.get F.clkCtlRetryMs * 1000000)
    let s2 := s1.setPll p { s1.pll p with byWrite := false, steps := 0 }
    let s3 := s2.cond (Nat.beq (s2.get (F.clkPllStatFails p)) (s2.get F.clkCtlFailMax)) (fun s => s.raise (Src.clkNolock p))
    s3.cond w (fun s => (s.raise (Src.clkLol p)).capacityLoss)
  | none => s

def execPllAcquireTimeout (p : Nat) (s : State) : Host.Outcome State Fault Refusal := .next (s.acquireTimeout (p % 76))

/-- PLL_RETRY_EXPIRY (R476): RETRY_MS after a failed attempt the PLL acquires again. -/
def State.retryExpiry (s : State) (p : Nat) : State :=
  match s.fire (Timer.pllRetry p) with
  | some t => if Nat.beq (t.pstate p) PState.retry then t.acquire p false (t.is (F.clkPllStatAltRef p)) else t
  | none => s

def execPllRetryExpiry (p : Nat) (s : State) : Host.Outcome State Fault Refusal := .next (s.retryExpiry (p % 76))

/-- PLL_RAMP_COMPLETE (R480): the instantaneous target reaches the new one. -/
def State.rampDone (s : State) (p : Nat) : State :=
  match s.fire (Timer.pllRamp p) with
  | some t => if Nat.beq (t.pstate p) PState.ramp then t.setPstate p PState.locked else t
  | none => s

def execPllRampComplete (p : Nat) (s : State) : Host.Outcome State Fault Refusal := .next (s.rampDone (p % 76))

/-- A target write comes before the checks (R480): p ≥ 4 is refused with FIXED, a value outside 1,200,000 to 1,700,000 kHz
changes nothing, a write outside ARM, RUN and DEGRADED is refused with MODE; otherwise it waits for the next tick. -/
def State.refuseTarget (s : State) (p reason : Nat) : State :=
  ((s.flag (F.clkPllStatRefused p) true).put (F.clkPllStatRefuse p) reason).refusalEv 6 2 p reason

def State.writeTarget (s : State) (p : Nat) (v : Word) : State :=
  if Nat.ble 4 p then s.refuseTarget p 5
  else if Nat.blt v.toNat 1200000 || Nat.blt 1700000 v.toNat then s
  else if !s.modeIn [Mode.arm, Mode.run, Mode.degraded] then s.refuseTarget p 4
  else s.setPll p { s.pll p with pend := some v.toNat }

/-- PLL_TARGET_WRITE: port h writes CLK_PLL_TGT of PLL p. -/
def execPllTargetWrite (h p : Nat) (v : Word) (s : State) : Host.Outcome State Fault Refusal :=
  .next (s.takeWrite h (R.clkPllTgt (p % 76)) v false (fun s => s.writeTarget (p % 76) v))

/-- The accepted target is carried out (R480, R483): in the band of the running lock the PLL ramps from its instantaneous
target, otherwise it relocks; during an acquisition that restarts at the new target. -/
def State.acceptTarget (s : State) (p khz : Nat) (inBand : Bool) : State :=
  let inst := s.instTarget p
  let s1 := s.put (F.clkPllTgtTgt p) khz
  if s.pllUp p && inBand then
    let d := if Nat.ble khz inst then inst - khz else khz - inst
    let ppm := max 1 (s.get (F.clkPllCfgRampPpm p))
    ((s1.setPll p { s1.pll p with rampFrom := inst, rampAt := s1.now }).setPstate p PState.ramp).arm (Timer.pllRamp p)
      ((d * 10000 + ppm * 17 - 1) / (ppm * 17))
  else if Nat.beq (s.pstate p) PState.retry || Nat.beq (s.pstate p) PState.off then s1
  else s1.acquire p true (s1.is (F.clkPllStatAltRef p))

/-- CLEANER_RETURN (R474): the cleaner's output is present again. -/
def State.cleanerReturn (s : State) : State :=
  if s.clk.cleaner then s
  else
    let s1 : State := { s with clk := { s.clk with cleaner := true, since := s.now } }
    (s1.cond s1.writesAct (fun s => s.flag F.clkStatCleanerOk true)).unraise Src.clkCleaner

def execCleanerReturn (s : State) : Host.Outcome State Fault Refusal := .next s.cleanerReturn

/-- R478: what PLL p's domain counts as, in kHz of 1,700,000: for the core PLLs, the target when locked, the lower end of
a ramp, the final target within 2 ms of an accepted change, else 100 MHz. -/
def State.pllKhz (s : State) (p : Nat) : Nat :=
  let t := s.get (F.clkPllTgtTgt p)
  match s.pstate p with
  | 2 => t
  | 3 => min t (s.pll p).rampFrom
  | 1 => if (s.pll p).byWrite && Nat.blt s.now ((s.pll p).acqAt + 2000000) then t else 100000
  | _ => 100000

end Sys2Proof.Machine
end

