-- ==== Sys2Proof/Machine/Ring.lean ====
section
/-!
DEFINITION. Sys2Proof/Machine/Ring.lean: the replay ring: segments, records, quotas, loss and retrieval (chapter 13, R362 to
R376, with R579).
-/

namespace Sys2Proof.Machine

/-! Segments -/

def State.setRing (s : State) (r : RingSt) : State := { s with ring := r }
def State.setSegs (s : State) (l : List Seg) : State := s.setRing { s.ring with segs := l }
def State.ringFree (s : State) (g : Nat) : Nat := Tab.get 0 s.ring.free g
def State.setRingFree (s : State) (g n : Nat) : State := s.setRing { s.ring with free := Tab.put 0 s.ring.free g n }

/-- The channel's current epoch, and whether it files (R363, R369). -/
def State.epoch (s : State) (n : Nat) : Nat := s.get (F.rplChStatEpoch n)
def State.filing (s : State) (n : Nat) : Bool := s.is (F.rplChStatFiling n)

/-- Bytes a record takes: its header and payload up to the next multiple of 64 (R363). -/
def recSize (len : Nat) : Nat := (32 + len + 63) / 64 * 64
/-- Bytes used in a segment, with what is being copied into it. -/
def State.segUsed (s : State) (g : Seg) : Nat :=
  4096 + (g.recs.map (fun r => recSize r.len)).sum
    + ((s.ring.pend.filter (fun p => Nat.beq p.1 g.chan && Nat.beq p.2.1 g.seq)).map (fun p => recSize p.2.2.len)).sum

def Seg.is (g : Seg) (chan epoch seq : Nat) : Bool := Nat.beq g.chan chan && Nat.beq g.epoch epoch && Nat.beq g.seq seq
def Seg.same (a b : Seg) : Bool := a.is b.chan b.epoch b.seq
/-- Start of a segment's oldest and newest record; a segment without one counts as newest. -/
def Seg.oldest (g : Seg) : Nat := match g.recs.head? with
  | some r => r.start
  | none => 2 ^ 64
def Seg.newest (g : Seg) : Nat := match g.recs.getLast? with
  | some r => r.start
  | none => 2 ^ 64

/-- The segments that a request holds: the one being read and the next one (R372). -/
def Req.holds (q : Req) : List Nat := match q.open_ with
  | some x => x :: q.todo.take 1
  | none => q.todo.take 2
def State.req (s : State) (h : Nat) : Req := Tab.get {} s.ring.reqs h
def State.setReq (s : State) (h : Nat) (q : Req) : State := s.setRing { s.ring with reqs := Tab.put {} s.ring.reqs h q }
def State.rstate (s : State) (h : Nat) : Nat := s.get (F.rplRqStatRstate h)
def State.holdsSeg (s : State) (h : Nat) (g : Seg) : Bool :=
  let q := s.req h
  Nat.beq (s.rstate h) 2 && Nat.beq q.chan g.chan && Nat.beq q.epoch g.epoch && q.holds.contains g.seq
def State.held (s : State) (g : Seg) : Bool := (List.range 4).any (fun h => s.holdsSeg h g)

/-- Is the segment of a channel and epoch that files (R368, R369)? -/
def State.segFiles (s : State) (g : Seg) : Bool := s.filing g.chan && Nat.beq g.epoch (s.epoch g.chan)
/-- The segments that channel n holds: those of its current epoch (RPL_CH_SEGS). -/
def State.segsOf (s : State) (n : Nat) : List Seg :=
  s.ring.segs.filter (fun g => Nat.beq g.chan n && Nat.beq g.epoch (s.epoch n))

/-! What the registers show -/

/-- RPL_FREE and RPL_HELD. -/
def State.showRing (s : State) : State :=
  (s.put F.rplFreeN ((List.range 8).map s.ringFree).sum).put F.rplHeldN (s.ring.segs.filter s.held).length

/-- RPL_CH_SEGS, RPL_CH_OLD and RPL_CH_NEW of a channel; OLD and NEW keep their value while the epoch has no record. -/
def State.showRingCh (s : State) (n : Nat) : State :=
  let l := s.segsOf n
  let rs := l.flatMap Seg.recs
  let s1 := s.put (F.rplChSegsN n) l.length
  match rs.head?, rs.getLast? with
  | some a, some b => (s1.put64 (R.rplChOldLo n) (R.rplChOldHi n) a.start).put64 (R.rplChNewLo n) (R.rplChNewHi n) b.start
  | _, _ => s1

/-- RSTATE changes: its event (R508), and interrupt cause 3 at DONE and EMPTY (R576). -/
def State.setRstate (s : State) (h v : Nat) : State :=
  if Nat.beq (s.rstate h) v then s
  else ((s.moveTo (F.rplRqStatRstate h) v 18 1 h 4 0).cond (Nat.ble 3 v) (fun s => s.irqPort h 3)).showRing

/-- The request of port h that has nothing left to read or deliver is DONE. -/
def State.reqEnd (s : State) (h : Nat) : State :=
  let q := s.req h
  if Nat.beq (s.rstate h) 2 && q.todo.isEmpty && q.open_.isNone then s.setRstate h 3 else s

/-! Freeing and taking segments -/

/-- Every hold of a segment that is taken breaks: the request skips it, counts it in GAP and sets BROKEN (R374). -/
def State.breakHolds (s : State) (g : Seg) : State :=
  s.each (List.range 4) (fun s h =>
    if s.holdsSeg h g then
      let q := s.req h
      let q1 : Req := if q.open_ == some g.seq then { q with open_ := none, recs := [] }
        else { q with todo := q.todo.filter (fun x => !Nat.beq x g.seq) }
      (((s.setReq h q1).bump (F.rplRqCntGap h) 1).flag (F.rplRqStatBroken h) true).reqEnd h
    else s)

/-- The segment leaves the ring; its page is not FREE yet. -/
def State.dropSeg (s : State) (g : Seg) : State :=
  let s1 := s.breakHolds g
  (s1.setSegs (s1.ring.segs.filter (fun x => !x.same g))).showRingCh g.chan
/-- The segment becomes FREE. -/
def State.freeSeg (s : State) (g : Seg) : State := (s.dropSeg g).setRingFree g.grp ((s.dropSeg g).ringFree g.grp + 1)

/-- The first segment of a list with the least value of a measure. -/
def leastSeg (f : Seg → Nat) (l : List Seg) : Option Seg :=
  l.foldl (fun b g => match b with
    | none => some g
    | some x => if Nat.blt (f g) (f x) then some g else some x) none

/-- The group with the most FREE segments, the lowest number on a tie; none while no segment is FREE. -/
def State.fullest (s : State) : Option Nat :=
  let g := (List.range 8).foldl (fun b g => if Nat.blt (s.ringFree b) (s.ringFree g) then g else b) 0
  if Nat.beq (s.ringFree g) 0 then none else some g

/-- Channel n takes a segment (R368): the group of its page. -/
def State.takeSeg (s : State) (n : Nat) : Option (Nat × State) :=
  let q := s.get (F.rplChQuotaQ n)
  let mine := s.segsOf n
  let below := Nat.blt mine.length q
  let free : Option (Nat × State) := match s.fullest with
    | some g => some (g, s.setRingFree g (s.ringFree g - 1))
    | none => none
  let idle := leastSeg Seg.newest (s.ring.segs.filter (fun g => !s.segFiles g && !s.held g))
  let spare := mine.filter (fun g => g.full && !s.held g)
  if below && free.isSome then free
  else match (if below then idle else none) with
    | some g => some (g.grp, s.dropSeg g)
    | none =>
      match spare with
      | g :: rest =>
        let s1 := s.dropSeg g
        let s2 := match rest with
          | x :: _ => if Nat.blt q mine.length then s1.freeSeg x else s1
          | [] => s1
        some (g.grp, s2)
      | [] =>
        if free.isSome then free
        else match mine.find? s.held with
          | some g => some (g.grp, s.dropSeg g)
          | none => none

/-! Filing -/

/-- The open segment of channel n, where it has one. -/
def State.openSeg (s : State) (n : Nat) : Option Seg := (s.segsOf n).find? (fun g => !g.full)

/-- The writer begins to copy a record (R364, R366, R368): into the open segment where it fits, else into a new one. -/
def State.fileRecord (s : State) (n : Nat) (r : Rec) : State :=
  if !s.filing n then s
  else
    let into (s : State) (seq : Nat) : State := s.setRing { s.ring with pend := s.ring.pend ++ [(n, seq, r)] }
    match s.openSeg n with
    | some g =>
      if Nat.ble (s.segUsed g + recSize r.len) 2097152 then into s g.seq
      else
        let s1 := s.setSegs (s.ring.segs.map (fun x => if x.same g then { x with full := true } else x))
        match s1.takeSeg n with
        | some (grp, s2) =>
          let seq := Tab.get 0 s2.ring.next n
          ((into (s2.setRing { s2.ring with
            segs := s2.ring.segs ++ [⟨n, s2.epoch n, seq, grp, false, []⟩]
            next := Tab.put 0 s2.ring.next n (seq + 1) }) seq).showRing).showRingCh n
        | none => s1.bump (F.rplChCntDrop n) 1
    | none =>
      match s.takeSeg n with
      | some (grp, s2) =>
        let seq := Tab.get 0 s2.ring.next n
        ((into (s2.setRing { s2.ring with
          segs := s2.ring.segs ++ [⟨n, s2.epoch n, seq, grp, false, []⟩]
          next := Tab.put 0 s2.ring.next n (seq + 1) }) seq).showRing).showRingCh n
      | none => s.bump (F.rplChCntDrop n) 1

/-- RING_RECORD_COMPLETE (R364, R366): the copy of channel n's oldest record in work is complete, or its pacing-store space
was reused first and the record is discarded. -/
def State.recordDone (s : State) (n : Nat) (reused : Bool) : State :=
  match s.ring.pend.find? (fun p => Nat.beq p.1 n) with
  | none => s
  | some (_, seq, r) =>
    let s1 := s.setRing { s.ring with pend := s.ring.pend.eraseP (fun p => Nat.beq p.1 n) }
    let here (g : Seg) : Bool := g.is n (s.epoch n) seq
    if reused || !(s1.ring.segs.any here) then s1.bump (F.rplChCntDrop n) 1
    else (s1.setSegs (s1.ring.segs.map (fun g => if here g then { g with recs := g.recs ++ [r] } else g))).showRingCh n

def execRingRecordComplete (n : Nat) (reused : Bool) (s : State) : Host.Outcome State Fault Refusal :=
  .next (s.recordDone (n % 256) reused)

/-! Starts, releases and quotas -/

/-- Is the channel admitted (chapter 02)? -/
def State.chAdmitted (s : State) (n : Nat) : Bool := !Nat.beq (s.get (F.chnStatState n)) 0

/-- FILING follows admission and RPL_CH_CFG.EN; the quotas are recomputed at the next tick (R367, R369). -/
def State.ringChange (s : State) (n : Nat) : State :=
  (s.setRing { s.ring with quota := true }).flag (F.rplChStatFiling n) (s.chAdmitted n && s.is (F.rplChCfgEn n))

/-- An admitted START begins the channel's next epoch (R363, R376). -/
def State.ringStart (s : State) (n : Nat) : State :=
  let s1 := s.setRing { s.ring with
    next := Tab.put 0 s.ring.next n 0
    pend := s.ring.pend.filter (fun p => !Nat.beq p.1 n) }
  ((((s1.bump (F.rplChStatEpoch n) 1).put (F.rplChCntDrop n) 0).put (F.rplChCntLostSeg n) 0).ringChange n).showRingCh n

/-- N_res (R367). -/
def State.ringReserve (s : State) : Nat := (s.get F.rplPagesN * s.get F.rplCtlResPct + 99) / 100

/-- w_c of a channel with a quota, 0 of every other one (R367). -/
def State.ringWeight (s : State) (n : Nat) : Nat :=
  if s.chAdmitted n && s.is (F.rplChCfgEn n) then
    (if Nat.beq (s.get (F.rplChCfgWeight n)) 0 then s.aget (F.chnRcRateRate n) else s.get (F.rplChCfgWeight n))
  else 0

/-- q_c of every channel (R367). -/
def State.quotas (s : State) : State :=
  let sum := ((List.range 256).map s.ringWeight).sum
  s.each (List.range 256) (fun s n => s.put (F.rplChQuotaQ n)
    (if Nat.beq sum 0 then 0 else (s.get F.rplPagesN - s.ringReserve) * s.ringWeight n / sum))

/-- RING_QUOTA_RECOMPUTE: at the next 1 µs tick. -/
def State.quotaTick (s : State) : State :=
  if s.ring.quota then let t := s.tick; (t.setRing { t.ring with quota := false }).quotas else s
def execRingQuotaRecompute (s : State) : Host.Outcome State Fault Refusal := .next s.quotaTick

/-! Emptying and shrinking -/

/-- The ring is emptied and made of `pages` pages in each of these groups (R2, R362). -/
def State.ringInit (s : State) (groups : List Nat) (pages : Nat) : State :=
  ((s.setRing { s.ring with
    segs := []
    free := groups.foldl (fun t g => Tab.put 0 t g pages) []
    next := []
    pend := []
    quota := true }).put F.rplPagesN (pages * groups.length)).showRing

/-- Every segment in a group that left the map is lost (R375). -/
def State.ringLose (s : State) (g : Nat) : State :=
  let gone := s.ring.segs.filter (fun x => Nat.beq x.grp g)
  let count (n : Nat) : Nat := (gone.filter (fun x => Nat.beq x.chan n)).length
  let s1 := (s.setSegs (s.ring.segs.filter (fun x => !Nat.beq x.grp g))).put F.rplPagesN
    (s.get F.rplPagesN - gone.length - s.ringFree g)
  let s2 := (s1.setRingFree g 0).setRing { (s1.setRingFree g 0).ring with quota := true }
  let s3 := s2.each (List.range 4) (fun s h =>
    let q := s.req h
    if gone.any (fun x => x.is q.chan q.epoch (q.open_.getD x.seq)) && q.open_.isSome then
      ((s.setReq h { q with open_ := none, recs := [] }).bump (F.rplRqCntGap h) 1).reqEnd h
    else s)
  (s3.each ((List.range 256).filter (fun n => Nat.blt 0 (count n))) (fun s n =>
    ((s.bump (F.rplChCntLostSeg n) (count n)).stateEv 18 2 n (count n)).showRingCh n)).showRing

/-- One page of the ring, in the order of R375: the group it lies in. -/
def State.yieldPage (s : State) : Option (Nat × State) :=
  match s.fullest with
  | some g => some (g, s.setRingFree g (s.ringFree g - 1))
  | none =>
    let unheld := s.ring.segs.filter (fun g => !s.held g)
    let pick := match leastSeg Seg.newest (unheld.filter (fun g => !s.segFiles g)) with
      | some g => some g
      | none => match leastSeg Seg.oldest (unheld.filter (fun g => s.segFiles g && g.full)) with
        | some g => some g
        | none => leastSeg Seg.oldest (s.ring.segs.filter s.held)
    match pick with
    | some g => some (g.grp, s.dropSeg g)
    | none => none

/-- `n` pages of the ring for the pools (R306, R375): the groups they lie in; fewer where the ring has no more. -/
def State.yieldPages (s : State) : Nat → List Nat × State
  | 0 => ([], s)
  | n + 1 =>
    match s.yieldPage with
    | some (g, t) =>
      let u := t.put F.rplPagesN (t.get F.rplPagesN - 1)
      let r := (u.setRing { u.ring with quota := true }).yieldPages n
      (g :: r.1, r.2)
    | none => ([], s)

/-! Retrieval (R371 to R374, R579) -/

/-- Does the request select the record (R371)? -/
def Req.selects (q : Req) (r : Rec) : Bool :=
  if q.byFrame then Nat.ble q.t0 r.k && Nat.ble r.k q.t1
  else Nat.ble q.t0 r.start && Nat.ble r.start q.t1 && !r.free
/-- Is the record delivered: selected, or between the ENTRY record and the first selected one? -/
def Req.gives (q : Req) (r : Rec) : Bool := q.selects r || (Nat.ble q.lo r.k && Nat.blt r.k q.hi)

/-- ABORT, and a port reset: a request that runs ends (R374, R567). -/
def State.reqAbort (s : State) (h : Nat) : State :=
  if Nat.beq (s.rstate h) 1 || Nat.beq (s.rstate h) 2 then (s.setReq h {}).setRstate h 3 else s

/-- START (R371, R374, R376, R579). -/
def State.reqStart (s : State) (h : Nat) : State :=
  if Nat.beq (s.rstate h) 1 || Nat.beq (s.rstate h) 2 || !s.is (F.hstRdCfgEn h) then s
  else
    let n := s.get (F.rplRqCfgChan h)
    let e := s.get (F.rplRqCfgEpoch h)
    let q : Req := { chan := n, epoch := if Nat.beq e 0 then s.epoch n else e, byFrame := s.is (F.rplRqCfgByframe h),
                     rap := s.is (F.rplRqCfgRap h), t0 := s.get64 (R.rplRqT0Lo h) (R.rplRqT0Hi h),
                     t1 := s.get64 (R.rplRqT1Lo h) (R.rplRqT1Hi h) }
    (((((s.setReq h q).put (F.rplRqCntRec h) 0).put (F.rplRqCntGap h) 0).put (F.rplRqCntCrc h) 0).put
      (F.rplRqCntKbytes h) 0).setRstate h 1

/-- A write of RPL_RQ_CFG of port p. START never reads 1: the request leaves IDLE at once. -/
def State.writeRqCfg (s : State) (p : Nat) (v : Word) : State :=
  let t := (s.store (R.rplRqCfg p) v allBits).flag (F.rplRqCfgStart p) false
  if Nat.beq (bitsAt v 11 1) 1 then t.reqAbort p else if Nat.beq (bitsAt v 10 1) 1 then t.reqStart p else t

def execRplRequestStart (h p : Nat) (v : Word) (s : State) : Host.Outcome State Fault Refusal :=
  .next (s.takeWrite h (R.rplRqCfg (p % 4)) v false (fun s => s.writeRqCfg (p % 4) v))
def execRplRequestAbort (h p : Nat) (v : Word) (s : State) : Host.Outcome State Fault Refusal :=
  .next (s.takeWrite h (R.rplRqCfg (p % 4)) v false (fun s => s.writeRqCfg (p % 4) v))

/-- RETRIEVAL_SEARCH_DONE (R371): port h's request has found its records in the index. -/
def State.searchDone (s : State) (h : Nat) : State :=
  if !Nat.beq (s.rstate h) 1 then s
  else
    let q := s.req h
    let l := s.ring.segs.filter (fun g => Nat.beq g.chan q.chan && Nat.beq g.epoch q.epoch)
    let rs := l.flatMap Seg.recs
    match rs.find? q.selects with
    | none => s.setRstate h 4
    | some f =>
      let lo := if q.rap then (match (rs.filter (fun r => r.entry && Nat.ble r.k f.k)).getLast? with
        | some r => r.k
        | none => f.k) else f.k
      let q1 : Req := { q with lo := lo, hi := f.k }
      (s.setReq h { q1 with todo := (l.filter (fun g => g.recs.any q1.gives)).map Seg.seq }).setRstate h 2
def execRetrievalSearchDone (h : Nat) (s : State) : Host.Outcome State Fault Refusal := .next (s.searchDone (h % 4))

/-- RETRIEVAL_SEGMENT_READ (R372): the request's next segment still is the one of its index entry and is read, or it is
skipped. -/
def State.segmentRead (s : State) (h : Nat) : State :=
  let q := s.req h
  if !Nat.beq (s.rstate h) 2 || q.open_.isSome then s
  else match q.todo with
    | [] => s.reqEnd h
    | x :: rest =>
      match s.ring.segs.find? (fun g => g.is q.chan q.epoch x) with
      | some g => (s.setReq h { q with todo := rest, open_ := some x, recs := g.recs.filter q.gives }).showRing
      | none => (((s.setReq h { q with todo := rest }).bump (F.rplRqCntGap h) 1).reqEnd h).showRing
def execRetrievalSegmentRead (h : Nat) (s : State) : Host.Outcome State Fault Refusal := .next (s.segmentRead (h % 4))

/-- Where a record of this size goes in a byte ring of 2^size bytes (R577): the new head, or none while the ring lacks space
for it and its pad. Head and tail meet only in an empty ring. -/
def ringPlace (size head tail len : Nat) : Option Nat :=
  let all := 2 ^ size
  let n := recSize len
  let pad := if Nat.ble (head + n) all then 0 else all - head
  let used := (head + all - tail % all) % all
  if Nat.blt (used + pad + n) all then some ((head + pad + n) % all) else none

/-- RETRIEVAL_RECORD_DELIVERY (R371, R373, R579): the next record goes to port h's retrieval ring once it has space; `bad`
says that its check values do not match. -/
def State.recordDelivered (s : State) (h : Nat) (bad : Bool) : State :=
  let q := s.req h
  if !Nat.beq (s.rstate h) 2 || !s.is (F.hstRdCfgEn h) || !s.linkUp h then s
  else match q.recs with
    | [] => if q.open_.isSome then ((s.setReq h { q with open_ := none }).reqEnd h).showRing else s
    | r :: rest =>
      match ringPlace (s.get (F.hstRdCfgSize h)) (s.get (F.hstRdHeadOfs h)) (s.get (F.hstRdTailOfs h)) r.len with
      | none => s
      | some head =>
        let bytes := q.bytes + 32 + r.len
        let s1 := s.setReq h { q with recs := rest, bytes := bytes, open_ := if rest.isEmpty then none else q.open_ }
        let s2 := ((s1.put (F.hstRdHeadOfs h) head).bump (F.rplRqCntRec h) 1).put (F.rplRqCntKbytes h) (bytes / 1024)
        ((s2.cond bad (fun s => s.bump (F.rplRqCntCrc h) 1)).reqEnd h).showRing
def execRetrievalRecordDelivery (h : Nat) (bad : Bool) (s : State) : Host.Outcome State Fault Refusal :=
  .next (s.recordDelivered (h % 4) bad)

/-- A write of HST_RD_CFG of port p (R579): EN switches the retrieval ring on or off. -/
def State.writeRdCfg (s : State) (p : Nat) (v : Word) : State := s.store (R.hstRdCfg p) v allBits
def execRetrievalRingEnable (h p : Nat) (v : Word) (s : State) : Host.Outcome State Fault Refusal :=
  .next (s.takeWrite h (R.hstRdCfg (p % 4)) v false (fun s => s.writeRdCfg (p % 4) v))

end Sys2Proof.Machine
end

