-- ==== Sys2Proof/Machine/Dram.lean ====
section
/-!
DEFINITION. Sys2Proof/Machine/Dram.lean: the DDR5 controllers (chapter 18, R451 to R472). What a failed group and a
poisoned read do elsewhere stands in MemoryEvents.lean.
-/

namespace Sys2Proof.Machine

/-- Codes of CSTATE. -/
def CState.off : Nat := 0
def CState.training : Nat := 1
def CState.active : Nat := 2
def CState.hot : Nat := 3
def CState.retrain : Nat := 4
def CState.failed : Nat := 5

/-- Timers: the refresh grid of subchannel u of channel d, and the training limit. -/
def Timer.refresh (d u : Nat) : Nat := timerKey 17 (d * 2 + u)
def Timer.train (d : Nat) : Nat := timerKey 18 d

/-- Channel d behind its registers. -/
def State.dch (s : State) (d : Nat) : Dram := Tab.get {} s.dram d
def State.setDch (s : State) (d : Nat) (x : Dram) : State := { s with dram := Tab.put {} s.dram d x }

def State.cstate (s : State) (d : Nat) : Nat := s.get (F.drcStatCstate d)

/-- Change CSTATE, with its event (R508). -/
def State.setCstate (s : State) (d v : Nat) : State := s.moveTo (F.drcStatCstate d) v 9 1 d 4 0

/-- Bits of a DRAM address (R451): 41, 40 or 39 by ordering code. -/
def State.daBits (s : State) : Nat := 41 - s.get F.sysIdCode

/-- The channel of a DRAM address (R451): the top 3 bits are the group; within it, DA[7:6] XOR DA[13:12] XOR DA[21:20]. -/
def State.daChannel (s : State) (da : Nat) : Nat :=
  4 * (da / 2 ^ (s.daBits - 3) % 8) + ((da / 2 ^ 6 % 4) ^^^ (da / 2 ^ 12 % 4) ^^^ (da / 2 ^ 20 % 4))

/-- Blocks of one channel, and the DRAM address of its block b in address order (R451, R465). -/
def State.chanBlocks (s : State) : Nat := 2 ^ (s.daBits - 11)
def State.blockDa (s : State) (d b : Nat) : Nat :=
  let up := b / 2 * 2 ^ 9
  let ch := (d % 4) ^^^ (up / 2 ^ 12 % 4) ^^^ (up / 2 ^ 20 % 4)
  d / 4 * 2 ^ (s.daBits - 3) + up + b % 2 * 2 ^ 8 + ch * 2 ^ 6

/-- tREFI and tRFC1 in ns; the refresh limit in force (R457 to R459). -/
def State.trefi (s : State) (d : Nat) : Nat := if s.is (F.drcStatRef2x d) then 1950 else 3900
def State.trfc (s : State) : Nat := if Nat.beq (s.get F.sysIdCode) 0 then 410 else 295
def State.postLimit (s : State) (d : Nat) : Nat :=
  if s.is (F.drcStatRef2x d) then s.get (F.drcRefPostMax d) / 2 else s.get (F.drcRefPostMax d)

/-- The refreshes outstanding on the two subchannels; POSTPONED shows the higher (R457). -/
def State.setOut (s : State) (d a b : Nat) : State :=
  (s.setDch d { s.dch d with outA := a, outB := b }).put (F.drcStatPostponed d) (max a b)

/-- Both refresh grids of channel d start `dt` ns from now. -/
def State.startGrid (s : State) (d dt : Nat) : State :=
  (s.arm (Timer.refresh d 0) dt).arm (Timer.refresh d 1) dt

/-- Refresh stops. -/
def State.stopGrid (s : State) (d : Nat) : State := (s.disarm (Timer.refresh d 0)).disarm (Timer.refresh d 1)

/-- The change of the refresh rate, with its event (R459). -/
def State.setRef2x (s : State) (d : Nat) (b : Bool) : State :=
  if s.is (F.drcStatRef2x d) == b then s
  else (s.flag (F.drcStatRef2x d) b).stateEv 9 2 d ((if b then 1 else 0) + s.get (F.drcStatTemp d) * 2 ^ 8)

/-- Every outstanding refresh is issued back to back as a burst, and the grid restarts at its end (R459). -/
def State.refBurst (s : State) (d : Nat) : State :=
  let n := max (s.dch d).outA (s.dch d).outB
  let s1 := (s.setOut d 0 0).cond (!Nat.beq n 0) (fun s => s.bump (F.drcCntRefBurst d) 1)
  s1.startGrid d (n * s1.trfc + s1.trefi d)

/-- REFRESH_DUE (R457, R459): a refresh falls due on subchannel u. With LIVE or CODE requests waiting and fewer than the
limit outstanding it is postponed; at the limit it is issued at once; with none waiting it and every outstanding one
is issued. The normal rate returns here once the reading has fallen below 83 °C. -/
def State.refreshDue (s : State) (d u : Nat) (busy : Bool) : State :=
  match s.fire (Timer.refresh d u) with
  | some t =>
    let t1 := if (t.dch d).cooled then (t.setDch d { t.dch d with cooled := false }).setRef2x d false else t
    let x := t1.dch d
    let n := if Nat.beq u 0 then x.outA else x.outB
    let m := if busy then (if Nat.blt n (t1.postLimit d) then n + 1 else n) else 0
    (if Nat.beq u 0 then t1.setOut d m x.outB else t1.setOut d x.outA m).arm (Timer.refresh d u) (t1.trefi d)
  | none => s

def execRefreshDue (d u : Nat) (busy : Bool) (s : State) : Host.Outcome State Fault Refusal :=
  .next (s.refreshDue (d % 32) (u % 2) busy)

/-- The highest of the readings; none without one. -/
def hottest : List Int → Option Int
  | [] => none
  | x :: t => match hottest t with
    | none => some x
    | some y => some (max x y)

/-- DRAM_TEMP_READ (R458 to R460): TEMP is the highest device reading. 85 °C enters the doubled range with a burst; above
95 °C the channel stops serving and raises DRC_HOT; at 90 °C or below it resumes after a burst; below 83 °C the normal
rate returns at the next grid instant. -/
def State.tempRead (s : State) (d : Nat) (temps : List Int) : State :=
  match hottest temps with
  | none => s
  | some t =>
    let live := [CState.active, CState.hot, CState.retrain].any (fun c => Nat.beq c (s.cstate d))
    if !live then s
    else
      let s1 := s.put (F.drcStatTemp d) (unsignedOf 8 t)
      let s2 := if 85 ≤ t then
          let u := s1.setDch d { s1.dch d with cooled := false }
          if u.is (F.drcStatRef2x d) then u else (u.setRef2x d true).refBurst d
        else if t < 83 && s1.is (F.drcStatRef2x d) then s1.setDch d { s1.dch d with cooled := true }
        else s1.setDch d { s1.dch d with cooled := false }
      if 95 < t && Nat.beq (s2.cstate d) CState.active then (s2.setCstate d CState.hot).raiseLevel (Src.drcHot d)
      else if t ≤ 90 && Nat.beq (s2.cstate d) CState.hot then
        ((s2.refBurst d).setCstate d CState.active).unraise (Src.drcHot d)
      else s2

def execDramTempRead (d : Nat) (temps : List Int) (s : State) : Host.Outcome State Fault Refusal :=
  .next (s.tempRead (d % 32) temps)

/-- NEIGHBOUR_REFRESH (R461): a scheduled neighbour refresh runs and counts. -/
def State.neighbour (s : State) (d : Nat) : State :=
  if [CState.active, CState.hot, CState.retrain].any (fun c => Nat.beq c (s.cstate d)) then s.bump (F.drcCntNref d) 1
  else s

def execNeighbourRefresh (d : Nat) (s : State) : Host.Outcome State Fault Refusal := .next (s.neighbour (d % 32))

/-- The age limit of a class in ns (R454): LIVE has none. -/
def State.ageLimit (s : State) (d cls : Nat) : Option Nat :=
  match cls with
  | 1 => some (s.get (F.drcSchedAgeCode d) * 1000)
  | 2 => some (s.get (F.drcSchedAgeRing d) * 1000)
  | 3 => some (s.get (F.drcSchedAgeBulk d) * 1000)
  | _ => none

/-- AGE_PROMOTION (R454): a request of class cls that has waited longer than its limit competes as LIVE. -/
def State.promote (s : State) (d cls waited : Nat) : State :=
  match s.ageLimit d cls with
  | some n => if Nat.blt n waited then s.bump (F.drcCntPromote d) 1 else s
  | none => s

def execAgePromotion (d cls waited : Nat) (s : State) : Host.Outcome State Fault Refusal :=
  .next (s.promote (d % 32) cls waited)

/-- Retraining starts (R469): only from ACTIVE; it opens a shadow over DRC_CE of the channel (R499). -/
def State.startRetrain (s : State) (d : Nat) : State :=
  if Nat.beq (s.cstate d) CState.active then
    ((s.put (F.drcStatCstate d) CState.retrain).stateEvOpen 9 1 d (CState.retrain + CState.active * 2 ^ 4) 8).bump
      (F.drcCntRetrain d) 1
  else s

/-- A write of DRC_CTL of channel d (R469). -/
def State.writeDrcCtl (s : State) (d : Nat) (v : Word) : State :=
  (s.store (R.drcCtl d) v allBits).cond (Nat.beq (bitsAt v 0 1) 1) (fun s => s.startRetrain d)

/-- DRAM_RETRAIN_REQUEST: port h writes DRC_CTL with RETRAIN = 1. -/
def execDramRetrainRequest (h d : Nat) (v : Word) (s : State) : Host.Outcome State Fault Refusal :=
  .next (s.takeWrite h (R.drcCtl (d % 32)) (setBitsAt v 0 1 1) false
    (fun s => s.writeDrcCtl (d % 32) (setBitsAt v 0 1 1)))

/-- A write of DRC_INJ of channel d (R509): the next write's check bits are inverted in one lane group or in two. -/
def State.writeDrcInj (s : State) (d : Nat) (v : Word) : State :=
  if Nat.beq (bitsAt v 1 1) 1 then s.setDch d { s.dch d with inj := 2 }
  else if Nat.beq (bitsAt v 0 1) 1 then s.setDch d { s.dch d with inj := 1 }
  else s

/-- DRAM_INJECT_SINGLE: port h writes DRC_INJ with SINGLE = 1. -/
def execDramInjectSingle (h d : Nat) (v : Word) (s : State) : Host.Outcome State Fault Refusal :=
  .next (s.takeWrite h (R.drcInj (d % 32)) (setBitsAt v 0 1 1) false
    (fun s => s.writeDrcInj (d % 32) (setBitsAt v 0 1 1)))

/-- DRAM_INJECT_DOUBLE: port h writes DRC_INJ with DOUBLE = 1. -/
def execDramInjectDouble (h d : Nat) (v : Word) (s : State) : Host.Outcome State Fault Refusal :=
  .next (s.takeWrite h (R.drcInj (d % 32)) (setBitsAt v 1 1 1) false
    (fun s => s.writeDrcInj (d % 32) (setBitsAt v 1 1 1)))

/-- DQS_TRACKING (R469): write timing is corrected; a correction that would pass ±0.125 UI retrains the channel. -/
def State.dqsTrack (s : State) (d : Nat) (beyond : Bool) : State := if beyond then s.startRetrain d else s

def execDqsTracking (d : Nat) (beyond : Bool) (s : State) : Host.Outcome State Fault Refusal :=
  .next (s.dqsTrack (d % 32) beyond)

/-- DRC_BW: bytes count in the present second; at its end the registers show it in units of 10 MB. -/
def State.bandwidth (s : State) (d rd wr : Nat) : State :=
  let x := s.dch d
  if Nat.ble (x.sec + 1000000000) s.now then
    let gap := Nat.ble (x.sec + 2000000000) s.now
    ((s.put (F.drcBwRd d) (if gap then 0 else x.rd / 10000000)).put (F.drcBwWr d)
      (if gap then 0 else x.wr / 10000000)).setDch d { x with sec := s.now / 1000000000 * 1000000000, rd := rd, wr := wr }
  else s.setDch d { x with rd := x.rd + rd, wr := x.wr + wr }

/-- The error record of a corrected or uncorrectable read (DRC_ERR, R463). -/
def State.errRecord (s : State) (d da : Nat) (ue : Bool) (lane origin bank row : Nat) : State :=
  ((((((s.put64 (R.drcErrLo d) (R.drcErrHi d) (da % 2 ^ 41)).flag (F.drcErrInfoUe d) ue).put (F.drcErrInfoSub d)
    (da / 2 ^ 8)).put (F.drcErrInfoLanegrp d) (if ue then 15 else lane)).put (F.drcErrInfoOrigin d) origin).put
    (F.drcErrInfoBank d) bank).put (F.drcErrInfoRow d) row

/-- What the next read of a block finds: clean, corrected or uncorrectable. -/
def State.blockResult (s : State) (d da result : Nat) : Nat := max result (Tab.get 0 (s.dch d).bad (da / 64))

/-- A block is written back or written anew. -/
def State.cleanBlock (s : State) (d da : Nat) : State :=
  s.setDch d { s.dch d with bad := Tab.del (s.dch d).bad (da / 64) }

/-- A read of a channel completes (R463, R464): answers whether its data is poisoned. On a FAILED channel it was waiting
when the group was lost: poisoned, counted in POISON_RD. -/
def State.readDone (s : State) (d : Nat) (a : Access) : State × Bool :=
  if Nat.beq (s.cstate d) CState.failed then (s.bump (F.drcCntPoisonRd d) 1, true)
  else
    let s1 := ((s.bump (F.drcCntLinkRetry d) (min 3 a.retries)).peak (F.drcWaitMax d (min 3 a.cls)) (a.waited / 10)).bandwidth
      d 64 0
    match (if a.dead then 2 else s1.blockResult d a.da a.result) with
    | 0 => (s1, false)
    | 1 => ((((s1.errRecord d a.da false a.lane 0 a.bank a.row).bump (F.drcCntCe d) 1).raise (Src.drcCe d)).cleanBlock d a.da,
        false)
    | _ => (((s1.errRecord d a.da true 15 0 a.bank a.row).bump (F.drcCntUe d) 1).raise (Src.drcUe d), true)

/-- DRAM_WRITE_COMPLETE (R464, R509): a write completes after its retries, or leaves its block unknown, so that its next
read is poisoned, and raises DRC_LINK. A waiting injection corrupts the block's check bits. -/
def State.writeDone (s : State) (a : Access) : State :=
  let d := s.daChannel a.da
  if Nat.beq (s.cstate d) CState.failed then s
  else
    let s1 := ((s.bump (F.drcCntLinkRetry d) (min 3 a.retries)).peak (F.drcWaitMax d (min 3 a.cls)) (a.waited / 10)).bandwidth
      d 0 64
    let mark := if a.dead then 2 else (s1.dch d).inj
    let s2 := s1.setDch d { s1.dch d with bad := Tab.put 0 (s1.dch d).bad (a.da / 64) mark,
                                          inj := if a.dead then (s1.dch d).inj else 0 }
    s2.cond a.dead (fun s => s.raise (Src.drcLink d))

def execDramWriteComplete (a : Access) (s : State) : Host.Outcome State Fault Refusal := .next (s.writeDone a)

/-- SCRUB_READ (R465): the patrol scrub reads the channel's next block; a correctable one is written back unless a write
of a requester came first, an uncorrectable one is not; SCRUB_PASS counts each completed pass. -/
def State.scrubRead (s : State) (d result lane bank row : Nat) (cancelled : Bool) : State :=
  if s.is (F.drcCtlScrubEn d) && Nat.beq (s.cstate d) CState.active then
    let x := s.dch d
    let da := s.blockDa d x.scrub
    let nxt := (x.scrub + 1) % s.chanBlocks
    let s1 := (s.setDch d { x with scrub := nxt }).cond (Nat.beq nxt 0) (fun s => s.bump (F.drcCntScrubPass d) 1)
    match s.blockResult d da result with
    | 0 => s1
    | 1 =>
      ((((s1.errRecord d da false lane 1 bank row).bump (F.drcCntScrubCe d) 1).raise (Src.drcCe d))).cond (!cancelled)
        (fun s => s.cleanBlock d da)
    | _ => ((s1.errRecord d da true 15 1 bank row).bump (F.drcCntUe d) 1).raise (Src.drcUe d)
  else s

def execScrubRead (d result lane bank row : Nat) (cancelled : Bool) (s : State) : Host.Outcome State Fault Refusal :=
  .next (s.scrubRead (d % 32) result lane bank row cancelled)

/-- A channel has passed training (R467): eyes of at least 0.20 UI, 13 of 64, and a clean check. -/
def trainPass (rd wr : Nat) (clean : Bool) : Bool := Nat.ble 13 rd && Nat.ble 13 wr && clean

/-- TRN_SET after a training or retraining. -/
def State.trainSet (s : State) (d rd wr vrd vwr : Nat) : State :=
  (((s.put (F.drcTrnSetRdEye d) rd).put (F.drcTrnSetWrEye d) wr).put (F.drcTrnSetVrefRd d) vrd).put (F.drcTrnSetVrefWr d) vwr

/-- The channel's group fails (R470, R471): all four channels enter FAILED and stop, the group leaves the map with its
reason and channel, DRC_GROUP is raised, its ring segments are lost (R375). A group that has failed already stays as it is. Reasons: 1 TRAIN, 2 UE, 3 PLL. -/
def State.failGroup (s : State) (d reason : Nat) : State :=
  let g := d / 4
  if !Nat.beq (s.get (F.drcGrpStatReason g)) 0 then s
  else
    let s1 := s.each [4 * g, 4 * g + 1, 4 * g + 2, 4 * g + 3] (fun s c =>
      (((s.stopGrid c).disarm (Timer.train c)).setCstate c CState.failed).setOut c 0 0)
    let s2 := ((s1.flag (F.drcGrpStatInMap g) false).put (F.drcGrpStatReason g) reason).put (F.drcGrpStatChan g) (d % 4)
    ((s2.raise (Src.drcGroup g)).stateEv 9 3 g (reason + d % 4 * 2 ^ 8)).ringLose g

/-- The channel becomes ACTIVE: its refresh grid starts. -/
def State.channelUp (s : State) (d : Nat) : State := (s.setCstate d CState.active).startGrid d (s.trefi d)

/-- Groups in the map. -/
def State.groupsIn (s : State) : List Nat := (List.range 8).filter (fun g => s.is (F.drcGrpStatInMap g))

end Sys2Proof.Machine
end

