-- ==== Sys2Proof/Machine/Lanes.lean ====
section
/-!
DEFINITION. Sys2Proof/Machine/Lanes.lean: serial lanes and Ethernet ports (chapter 17, R431 to R450), the flow entries of
R142, and the ARP and IGMP functions of a lane (R337, R338, R444).
-/

namespace Sys2Proof.Machine

/-- Codes of LSTATE and DCAUSE. -/
def LState.off : Nat := 0
def LState.train : Nat := 1
def LState.locking : Nat := 2
def LState.up : Nat := 3
def LState.backoff : Nat := 4
def LState.test : Nat := 5

/-- Timers of a lane: lock time, max_wait_timer, back-off, 10 s in UP. -/
def Timer.laneLock (l : Nat) : Nat := timerKey 19 l
def Timer.laneTrain (l : Nat) : Nat := timerKey 20 l
def Timer.laneBackoff (l : Nat) : Nat := timerKey 21 l
def Timer.laneUp (l : Nat) : Nat := timerKey 22 l

def State.lane (s : State) (l : Nat) : Lane := Tab.get {} s.lanes l
def State.setLane (s : State) (l : Nat) (x : Lane) : State := { s with lanes := Tab.put {} s.lanes l x }

def State.lstate (s : State) (l : Nat) : Nat := s.get (F.lnkStatLstate l)
def State.bonded (s : State) (l : Nat) : Bool := s.is (F.lnkQCfgBond (l / 4))

/-- The lane that names the port of lane l, and the lanes of that port (R432). -/
def State.portLane (s : State) (l : Nat) : Nat := if s.bonded l then l / 4 * 4 else l
def State.portLanes (s : State) (l : Nat) : List Nat :=
  if s.bonded l then [l / 4 * 4, l / 4 * 4 + 1, l / 4 * 4 + 2, l / 4 * 4 + 3] else [l]

/-- Ethernet modes are E10 and E25, Morvolos modes MV3 and MV6. -/
def State.laneEthernet (s : State) (l : Nat) : Bool :=
  Nat.beq (s.get (F.lnkCfgMode l)) 1 || Nat.beq (s.get (F.lnkCfgMode l)) 2
def State.laneMorvolos (s : State) (l : Nat) : Bool :=
  Nat.beq (s.get (F.lnkCfgMode l)) 3 || Nat.beq (s.get (F.lnkCfgMode l)) 4

/-- The lane's port is up (R434). -/
def State.laneUp (s : State) (l : Nat) : Bool := Nat.beq (s.lstate (s.portLane l)) LState.up

/-- n frames are handed to the lane: sent, or discarded while it is DOWN (R434, R443). -/
def State.laneTx (s : State) (l n : Nat) : State :=
  let p := s.portLane l
  if s.laneUp l then s.bump (F.lnkCntTxFrames p) n else s.bump (F.lnkCntTxDisc p) n

/-! What names a lane -/

/-- A source that is enabled: out of IDLE. -/
def State.srcOn (s : State) (i : Nat) : Bool := !Nat.beq (s.get (F.ingSrcStatState i)) 0

/-- Source path x of source i is enabled on the lane (R141). -/
def State.srcPathOn (s : State) (i x l : Nat) : Bool :=
  s.srcOn i && s.is (F.ingSrcPathEn i x) && Nat.beq (s.get (F.ingSrcPathLane i x)) l

/-- Audio flow f is enabled with path x on the lane (R167): path B where it merges. -/
def State.aflOn (s : State) (f x l : Nat) : Bool :=
  s.is (F.ingAflCfgEn f) && (if Nat.beq x 0 then Nat.beq (s.get (F.ingAflCfgLaneA f)) l
    else s.is (F.ingAflCfgMerge f) && Nat.beq (s.get (F.ingAflCfgLaneB f)) l)

/-- PTP domain d is enabled on the lane (R122). -/
def State.domOn (s : State) (d l : Nat) : Bool := s.is (F.timDomCfgEn d) && Nat.beq (s.get (F.timDomCfgLane d)) l

/-- Egress path x of channel n is admitted on the lane (R335). -/
def State.egrOn (s : State) (n x l : Nat) : Bool :=
  s.is (F.egrChStatAdm n) && s.ais (F.egrPathCfgEn n x) && Nat.beq (s.aget (F.egrPathCfgLane n x)) l

/-- Some enabled ingest path, audio flow, egress path, PTP domain or Morvolos source names the lane's port (R433,
R447). -/
def State.laneInUse (s : State) (l : Nat) : Bool :=
  let p := s.portLane l
  (List.range 512).any (fun i => s.srcPathOn i 0 p || s.srcPathOn i 1 p)
    || (List.range 32).any (fun f => s.aflOn f 0 p || s.aflOn f 1 p)
    || (List.range 256).any (fun n => s.egrOn n 0 p || s.egrOn n 1 p)
    || s.domOn 0 p || s.domOn 1 p

/-- The flow entries in use on a lane's port (R142, R432). -/
def State.flowCount (s : State) (l : Nat) : Nat :=
  ((List.range 512).filter (fun i => s.srcPathOn i 0 l)).length + ((List.range 512).filter (fun i => s.srcPathOn i 1 l)).length
    + ((List.range 32).filter (fun f => s.aflOn f 0 l)).length + ((List.range 32).filter (fun f => s.aflOn f 1 l)).length
    + ([0, 1].filter (fun d => s.domOn d l)).length

def State.flowLimit (s : State) (l : Nat) : Nat := if s.bonded l then 128 else 32

/-- Does a UDP frame match a flow entry of the lane (R141, R142, R121)? -/
def State.flowMatch (s : State) (l : Nat) (f : Frame) : Bool :=
  (List.range 512).any (fun i => [0, 1].any (fun x =>
      s.srcPathOn i x l && Nat.beq (s.get (F.ingSrcGrpAddr i x)) f.dip && Nat.beq (s.get (F.ingSrcUdpPort i x)) f.dport
        && Nat.beq (s.get (F.ingSrcPathVlan i x)) f.vlan
        && (Nat.beq (s.get (F.ingSrcFltAddr i x)) 0 || Nat.beq (s.get (F.ingSrcFltAddr i x)) f.src)))
    || (List.range 32).any (fun a =>
      Nat.beq (s.get (F.ingAflUdpPort a)) f.dport
        && ((s.aflOn a 0 l && Nat.beq (s.get (F.ingAflGrpAAddr a)) f.dip)
          || (s.aflOn a 1 l && Nat.beq (s.get (F.ingAflGrpBAddr a)) f.dip)))
    || [0, 1].any (fun d => s.domOn d l && Nat.beq (s.get (F.timDomCfgVlan d)) f.vlan
      && (Nat.beq f.dport 319 || Nat.beq f.dport 320))

/-! IGMP and ARP -/

/-- An IPv4 multicast address. -/
def multicast (a : Nat) : Bool := Nat.beq (a / 2 ^ 28) 14

/-- 224.0.1.129, the PTP group. -/
def ptpGroup : Nat := 0xE0000181

/-- The groups that the module reports on a lane, each with its VLAN (R143, R338): multicast source paths, audio flows
and the PTP group. -/
def State.groupsOn (s : State) (l : Nat) : List (Nat × Nat) :=
  ((List.range 512).flatMap (fun i => ([0, 1].filter (fun x => s.srcPathOn i x l && multicast (s.get (F.ingSrcGrpAddr i x)))).map
      (fun x => (s.get (F.ingSrcPathVlan i x), s.get (F.ingSrcGrpAddr i x)))))
    ++ ((List.range 32).filter (fun f => s.aflOn f 0 l && multicast (s.get (F.ingAflGrpAAddr f)))).map
      (fun f => (0, s.get (F.ingAflGrpAAddr f)))
    ++ ((List.range 32).filter (fun f => s.aflOn f 1 l && multicast (s.get (F.ingAflGrpBAddr f)))).map
      (fun f => (0, s.get (F.ingAflGrpBAddr f)))
    ++ ([0, 1].filter (fun d => s.domOn d l)).map (fun d => (s.get (F.timDomCfgVlan d), ptpGroup))

/-- Kinds of a report: 0 a path is enabled or its lane came up, 1 a path is disabled, 2 an answer to a query. -/
def State.igmpChange (s : State) (l vlan group kind : Nat) : State :=
  if multicast group then
    { s with igmp := s.igmp ++ [⟨l, vlan, some group, s.get F.egrCtlRobust, kind, s.now⟩] }
  else s

/-- The lane reports every group again (R444), or leaves them all (R359). -/
def State.igmpAll (s : State) (l kind : Nat) : State :=
  (s.groupsOn l).foldl (fun s g => s.igmpChange l g.1 g.2 kind) s

/-- IGMP_REPORT_TIMER (R338): the scheduled report at place i is sent; a state change is sent again 1 s later until ROBUST
sendings have gone. -/
def State.igmpSend (s : State) (i : Nat) : State :=
  match s.igmp[i]? with
  | some g =>
    let t := s.advance g.due
    let up := t.laneUp g.lane
    let t1 := (t.laneTx g.lane 1).cond up (fun s => s.sat (F.egrLnCntIgmpTx (s.portLane g.lane)) 1)
    if Nat.ble g.left 1 then { t1 with igmp := t1.igmp.eraseIdx i }
    else { t1 with igmp := t1.igmp.set i { g with left := g.left - 1, due := g.due + 1000000000 } }
  | none => s

def execIgmpReportTimer (i : Nat) (s : State) : Host.Outcome State Fault Refusal := .next (s.igmpSend i)

/-- Is a VLAN identifier used on the lane by an enabled path, flow or domain (R337)? -/
def State.vlanUsed (s : State) (l vlan : Nat) : Bool :=
  (List.range 512).any (fun i => [0, 1].any (fun x => s.srcPathOn i x l && Nat.beq (s.get (F.ingSrcPathVlan i x)) vlan))
    || (List.range 256).any (fun n => [0, 1].any (fun x => s.egrOn n x l && Nat.beq (s.aget (F.egrPathCfgVlan n x)) vlan))
    || [0, 1].any (fun d => s.domOn d l && Nat.beq (s.get (F.timDomCfgVlan d)) vlan)

/-- An ARP request is answered (R337): its target is the lane's address, untagged or on a VLAN in use, at most 1,000
replies per second; requests beyond that count in ARP_DROP. -/
def State.arpAnswer (s : State) (l vlan target : Nat) : State :=
  let ip := s.get (F.egrLnIpAddr l)
  if Nat.beq ip 0 || !Nat.beq ip target || !(Nat.beq vlan 0 || s.vlanUsed l vlan) then s
  else
    let x := s.lane l
    let fresh := Nat.ble (x.arpSec + 1000000000) s.now
    let n := if fresh then 0 else x.arpN
    if Nat.blt n 1000 then
      ((s.setLane l { x with arpSec := if fresh then s.now else x.arpSec, arpN := n + 1 }).laneTx l 1).sat (F.egrLnCntArpTx l) 1
    else s.sat (F.egrLnCntArpDrop l) 1

/-- An IGMP query schedules one current-state report at a random delay within its maximum response time (R338); the delay
is a free value. -/
def State.igmpQuery (s : State) (l vlan group maxNs : Nat) : State :=
  let f := s.fresh
  let known := Nat.beq group 0 || (s.groupsOn l).contains (vlan, group)
  if known then
    { f.2 with igmp := f.2.igmp ++ [⟨l, vlan, if Nat.beq group 0 then none else some group, 1, 2, s.now + f.1 % (maxNs + 1)⟩] }
  else s

/-- LANE_FRAME_RECEIVED (R443): a frame on a lane that is up is handled by the first acceptance check that it fails;
accepted ARP and IGMP frames go to their functions. -/
def State.frameReceived (s : State) (l0 : Nat) (f : Frame) : State :=
  let l := s.portLane l0
  let mac := s.get (F.egrLnMacLoMac l) + s.get (F.egrLnMacHiMac l) * 2 ^ 32
  if !s.laneUp l then s
  else if !f.fcs then s.bump (F.lnkCntRxFcs l) 1
  else if Nat.blt f.len 64 || Nat.blt 9022 f.len then s.bump (F.lnkCntRxLen l) 1
  else if !(Nat.beq f.dst mac || Nat.beq f.dst 0xFFFFFFFFFFFF || Nat.beq (f.dst / 2 ^ 24) 0x01005E) then
    s.bump (F.lnkCntRxMac l) 1
  else if Nat.beq f.ety 0x8808 then s.bump (F.lnkCntRxPause l) 1
  else if Nat.beq f.ety 0x0806 then
    let s1 := s.bump (F.lnkCntRxFrames l) 1
    match f.arp with
    | some t => s1.arpAnswer l f.vlan t
    | none => s1
  else if !Nat.beq f.ety 0x0800 then s.bump (F.lnkCntRxType l) 1
  else if !f.ipOk then s.bump (F.lnkCntRxIphdr l) 1
  else if f.frag then s.bump (F.lnkCntRxFrag l) 1
  else if Nat.beq f.proto 2 then
    let s1 := s.bump (F.lnkCntRxFrames l) 1
    match f.query with
    | some q => s1.igmpQuery l f.vlan q.1 q.2
    | none => s1
  else if !Nat.beq f.proto 17 then s.bump (F.lnkCntRxOther l) 1
  else if !s.flowMatch l f then s.bump (F.lnkCntRxNoflow l) 1
  else s.bump (F.lnkCntRxFrames l) 1

def execLaneFrameReceived (l : Nat) (f : Frame) (s : State) : Host.Outcome State Fault Refusal :=
  .next (s.frameReceived (l % 256) f)

/-! Lane states -/

/-- A lane's timers stop. -/
def State.laneStop (s : State) (l : Nat) : State :=
  (((s.disarm (Timer.laneLock l)).disarm (Timer.laneTrain l)).disarm (Timer.laneBackoff l)).disarm (Timer.laneUp l)

/-- In a state that does not hunt or hold block lock the lane has none, and a bonded port of it is not aligned (R435,
R439). -/
def State.laneUnlock (s : State) (l : Nat) (out : Bool) : State :=
  s.cond out (fun s => (s.flag (F.lnkStatRxlock l) false).cond (s.bonded l) (fun s => s.flag (F.lnkQStatAlign (l / 4)) false))

/-- One lane changes LSTATE (R434, R436): its event carries DCAUSE; leaving UP counts LOCK_LOSS and raises LNK_DOWN, a
bonded port's by lane 4q; entering UP starts the 10 s of R441 and the reports of R444. `cause` 0 keeps DCAUSE. -/
def State.setLstate (s : State) (l new cause : Nat) : State :=
  let old := s.lstate l
  let s0 := s.cond (!Nat.beq cause 0) (fun s => s.put (F.lnkStatDcause l) cause)
  if Nat.beq old new then s0
  else
    let s1 := (((s0.laneStop l).put (F.lnkStatLstate l) new).flag (F.lnkStatUp l) (Nat.beq new LState.up)).laneUnlock l
      (!Nat.beq new LState.locking && !Nat.beq new LState.up)
    let s2 := s1.stateEv 10 1 l (new + old * 2 ^ 4 + s1.get (F.lnkStatDcause l) * 2 ^ 8)
    let s3 := s2.cond (Nat.beq old LState.up) (fun s =>
      (s.bump (F.lnkCntLockLoss l) 1).cond (Nat.beq (s.portLane l) l) (fun s => s.raiseLevel (Src.lnkDown l)))
    let s4 := s3.cond (Nat.beq new LState.up) (fun s =>
      ((s.unraise (Src.lnkDown l)).arm (Timer.laneUp l) 10000000000).cond (Nat.beq (s.portLane l) l) (fun s => s.igmpAll l 0))
    let s5 := s4.cond (Nat.beq new LState.locking && s4.is (F.lnkCfgTrain l) && s4.laneEthernet l) (fun s =>
      s.arm (Timer.laneLock l) (s.get (F.lnkTrnLockMs l) * 1000000))
    s5.cond (Nat.beq new LState.train) (fun s => s.arm (Timer.laneTrain l) 500000000)

/-- Every lane of the port that is in one of these states changes to `new`. -/
def State.portMove (s : State) (l : Nat) (from_ : List Nat) (new cause : Nat) : State :=
  s.each (s.portLanes l) (fun s m => s.cond (from_.any (fun x => Nat.beq x (s.lstate m))) (fun s => s.setLstate m new cause))

/-- The other lanes of the port leave UP when this one does (R434). -/
def State.portDrop (s : State) (l cause : Nat) : State :=
  s.each ((s.portLanes l).filter (fun m => !Nat.beq m l)) (fun s m =>
    s.cond (Nat.beq (s.lstate m) LState.up) (fun s => s.setLstate m LState.locking cause))

/-- A lane starts as from OFF (R434): TRAIN with TRAIN = 1 on Ethernet, otherwise LOCKING. -/
def State.laneStart (s : State) (l : Nat) : State :=
  let s1 := ((s.flag (F.lnkStatRxlock l) false).setLane l { s.lane l with fec := false }).flag (F.lnkStatRxInvAct l)
    (s.is (F.lnkCfgRxInv l))
  s1.setLstate l (if s1.is (F.lnkCfgTrain l) && s1.laneEthernet l then LState.train else LState.locking) 0

/-- The conditions of R435 for one lane: its quad's PLL locked, lock with hi_ber clear, FEC locked where it is on, bonded
alignment, no remote fault. -/
def State.upConds (s : State) (l : Nat) : Bool :=
  s.is (F.lnkQStatPllLock (l / 4)) && s.is (F.lnkStatRxlock l) && !s.is (F.lnkStatRf l)
    && (!(if s.bonded l then s.is (F.lnkQCfgFec100 (l / 4)) else s.is (F.lnkCfgFec l) && Nat.beq (s.get (F.lnkCfgMode l)) 2)
        || (s.lane l).fec)
    && (!s.bonded l || s.is (F.lnkQStatAlign (l / 4)))

/-- The port enters UP when every lane of it is in LOCKING and meets R435. -/
def State.tryUp (s : State) (l : Nat) : State :=
  if (s.portLanes l).all (fun m => Nat.beq (s.lstate m) LState.locking && s.upConds m) then
    s.portMove l [LState.locking] LState.up 0
  else s

/-- LANE_BLOCK_LOCK (R437): block lock, and FEC lock where it runs. -/
def State.blockLock (s : State) (l : Nat) (fec : Bool) : State :=
  if Nat.beq (s.lstate l) LState.locking && s.laneEthernet l then
    (((s.flag (F.lnkStatRxlock l) true).setLane l { s.lane l with fec := fec })).tryUp l
  else s

def execLaneBlockLock (l : Nat) (fec : Bool) (s : State) : Host.Outcome State Fault Refusal :=
  .next (s.blockLock (l % 256) fec)

/-- LANE_LOCK_LOSS (R434, R437): block lock or hi_ber (cause LOCK), or FEC lock or alignment (cause ALIGN); `bad` invalid
sync headers count. -/
def State.lockLoss (s : State) (l : Nat) (align : Bool) (bad : Nat) : State :=
  if s.laneEthernet l && !Nat.beq (s.lstate l) LState.off && !Nat.beq (s.lstate l) LState.test then
    let s1 := s.bump (F.lnkCntBlkErr l) bad
    let s2 := if align then (s1.setLane l { s1.lane l with fec := false }).flag (F.lnkQStatAlign (l / 4)) false
      else s1.laneUnlock l true
    s2.portMove l [LState.up] LState.locking (if align then 2 else 1)
  else s

def execLaneLockLoss (l : Nat) (align : Bool) (bad : Nat) (s : State) : Host.Outcome State Fault Refusal :=
  .next (s.lockLoss (l % 256) align bad)

/-- REMOTE_FAULT_RECEIVED (R434, R435). -/
def State.remoteFault (s : State) (l : Nat) : State :=
  if s.laneEthernet l && !Nat.beq (s.lstate l) LState.off then
    (s.flag (F.lnkStatRf l) true).portMove l [LState.up] LState.locking 3
  else s

def execRemoteFaultReceived (l : Nat) (s : State) : Host.Outcome State Fault Refusal := .next (s.remoteFault (l % 256))

/-- REMOTE_FAULT_CLEAR (R435): no fault sequence for 1 µs. -/
def execRemoteFaultClear (l : Nat) (s : State) : Host.Outcome State Fault Refusal :=
  .next ((s.flag (F.lnkStatRf (l % 256)) false).tryUp (l % 256))

/-- LOCK_TIME_EXPIRY (R434, R440): LOCKING with TRAIN = 1 has not met R435 within LOCK_MS. -/
def State.lockTime (s : State) (l : Nat) : State :=
  match s.fire (Timer.laneLock l) with
  | some t => t.portMove l [LState.locking] LState.train 0
  | none => s

def execLockTimeExpiry (l : Nat) (s : State) : Host.Outcome State Fault Refusal := .next (s.lockTime (l % 256))

/-- TRAINING_COMPLETE (R440, R442): both sides report ready; an inverted receive pair is inverted and counted. -/
def State.trainDone (s : State) (l pre main post : Nat) (inv : Bool) : State :=
  if Nat.beq (s.lstate l) LState.train then
    let s1 := ((s.put (F.lnkTrnStatCPre l) pre).put (F.lnkTrnStatCMain l) main).put (F.lnkTrnStatCPost l) post
    let s2 := s1.cond inv (fun s => (s.flag (F.lnkStatRxInvAct l) (!s.is (F.lnkStatRxInvAct l))).bump (F.lnkCntPolFlip l) 1)
    (s2.setLane l { s2.lane l with noset := 0 }).setLstate l LState.locking 0
  else s

def execTrainingComplete (l pre main post : Nat) (inv : Bool) (s : State) : Host.Outcome State Fault Refusal :=
  .next (s.trainDone (l % 256) pre main post inv)

/-- The back-off of R441 after the a-th consecutive failure, in ns. -/
def backoffNs (min10 a : Nat) : Nat := min (min10 * 10000000 * 2 ^ (min (a - 1) 12)) 16000000000

/-- TRAINING_TIMEOUT (R440, R441): the attempt fails as NO_PARTNER without a training frame, else as NO_SETTING; a bonded
port trains again as a whole. FAIL_MAX NO_SETTING failures in a row raise LNK_NOSET. -/
def State.trainTimeout (s : State) (l : Nat) (frames : Bool) : State :=
  match s.fire (Timer.laneTrain l) with
  | some t =>
    let n := if frames then (t.lane l).noset + 1 else 0
    let t1 := (t.bump (F.lnkCntTrainFail l) 1).setLane l { t.lane l with noset := n }
    let t2 := t1.each (t1.portLanes l) (fun s m =>
      if Nat.beq (s.lstate m) LState.off || Nat.beq (s.lstate m) LState.test then s
      else
        let u := (s.sat (F.lnkTrnStatAttempt m) 1).setLstate m LState.backoff (if frames then 5 else 4)
        u.arm (Timer.laneBackoff m) (backoffNs (u.get (F.lnkTrnBackoffMin m)) (u.get (F.lnkTrnStatAttempt m))))
    t2.cond (frames && Nat.beq n (t2.get (F.lnkTrnFailMax l))) (fun s => s.raise (Src.lnkNoset l))
  | none => s

def execTrainingTimeout (l : Nat) (frames : Bool) (s : State) : Host.Outcome State Fault Refusal :=
  .next (s.trainTimeout (l % 256) frames)

/-- BACKOFF_EXPIRY (R440, R441): the lane trains again, a bonded port as a whole. -/
def State.backoffOver (s : State) (l : Nat) : State :=
  match s.fire (Timer.laneBackoff l) with
  | some t => t.portMove l [LState.backoff] LState.train 0
  | none => s

def execBackoffExpiry (l : Nat) (s : State) : Host.Outcome State Fault Refusal := .next (s.backoffOver (l % 256))

/-- UP_STABLE_RESET (R441): 10 s in UP reset the count of failed attempts. -/
def State.upStable (s : State) (l : Nat) : State :=
  match s.fire (Timer.laneUp l) with
  | some t => if Nat.beq (t.lstate l) LState.up then t.put (F.lnkTrnStatAttempt l) 0 else t
  | none => s

def execUpStableReset (l : Nat) (s : State) : Host.Outcome State Fault Refusal := .next (s.upStable (l % 256))

/-- BOND_ALIGNMENT (R439): the bonded port's lanes are found and reordered; skew beyond 180 ns prevents alignment. -/
def State.bondAlign (s : State) (q map skew : Nat) : State :=
  if s.is (F.lnkQCfgBond q) then
    let s1 := s.put (F.lnkQStatSkew q) (min skew 255)
    if Nat.blt 180 skew then s1
    else ((s1.flag (F.lnkQStatAlign q) true).put (F.lnkQStatMap q) (if s1.is (F.lnkQCfgFec100 q) then map else 0)).tryUp (4 * q)
  else s

def execBondAlignment (q map skew : Nat) (s : State) : Host.Outcome State Fault Refusal :=
  .next (s.bondAlign (q % 64) map skew)

/-- FEC_UNCORRECTABLE (R438, R450): an uncorrectable codeword after `corrected` corrected ones. -/
def State.fecBad (s : State) (l corrected : Nat) : State :=
  let p := s.portLane l
  ((s.bump (F.lnkCntFecCorr p) corrected).bump (F.lnkCntFecUncorr p) 1).raise (Src.lnkFec p)

def execFecUncorrectable (l corrected : Nat) (s : State) : Host.Outcome State Fault Refusal :=
  .next (s.fecBad (l % 256) corrected)

/-- MORVOLOS_ALIGNMENT (R165, R445): comma alignment takes the lane UP, and the initial CREDIT is sent. -/
def State.mvAlign (s : State) (l : Nat) : State :=
  if Nat.beq (s.lstate l) LState.locking && s.laneMorvolos l && s.is (F.lnkQStatPllLock (l / 4)) then
    ((s.flag (F.lnkStatRxlock l) true).setLane l { s.lane l with cred := s.get F.ingCtlMvInitCred }).setLstate l LState.up 0
  else s

def execMorvolosAlignment (l : Nat) (s : State) : Host.Outcome State Fault Refusal := .next (s.mvAlign (l % 256))

/-- Alignment is lost: the credit state is dropped (R165) and the lane hunts again. -/
def State.mvHunt (s : State) (l cause : Nat) : State :=
  let s1 := (s.flag (F.lnkStatRxlock l) false).setLane l { s.lane l with cred := 0 }
  if Nat.beq (s1.lstate l) LState.up then s1.setLstate l LState.locking cause else s1

/-- MORVOLOS_ALIGN_LOSS (R445): `bad` invalid code groups count. -/
def State.mvAlignLoss (s : State) (l bad : Nat) : State :=
  if s.laneMorvolos l then (s.bump (F.lnkCntBlkErr l) bad).mvHunt l 1 else s

def execMorvolosAlignLoss (l bad : Nat) (s : State) : Host.Outcome State Fault Refusal :=
  .next (s.mvAlignLoss (l % 256) bad)

/-- MORVOLOS_POLARITY_FLIP (R446): eight commas in the unexpected form invert the receiver and restart the hunt. -/
def State.mvFlip (s : State) (l : Nat) : State :=
  if s.laneMorvolos l && (Nat.beq (s.lstate l) LState.locking || Nat.beq (s.lstate l) LState.up) then
    ((s.flag (F.lnkStatRxInvAct l) (!s.is (F.lnkStatRxInvAct l))).bump (F.lnkCntPolFlip l) 1).mvHunt l 1
  else s

def execMorvolosPolarityFlip (l : Nat) (s : State) : Host.Outcome State Fault Refusal := .next (s.mvFlip (l % 256))

/-! Enables -/

/-- A write of LNK_CFG (R433, R609): while EN = 1 only EN changes; EN waits for the check of the next tick, and a second
write before it cancels the first. -/
def State.writeLnkCfg (s : State) (l : Nat) (v : Word) : State :=
  let en := s.is (F.lnkCfgEn l)
  let want := Nat.beq (bitsAt v 3 1) 1
  let x := s.lane l
  match x.enWait with
  | some true => if want then s else (s.flag (F.lnkCfgEn l) false).setLane l { x with enWait := none }
  | some false => if want then (s.flag (F.lnkCfgEn l) true).setLane l { x with enWait := none } else s
  | none =>
    if en then (if want then s else (s.flag (F.lnkCfgEn l) false).setLane l { x with enWait := some false })
    else
      let s1 := s.store (R.lnkCfg l) v allBits
      if want then s1.setLane l { x with enWait := some true } else s1

/-- LANE_ENABLE: port h writes LNK_CFG with EN = 1. -/
def execLaneEnable (h l : Nat) (v : Word) (s : State) : Host.Outcome State Fault Refusal :=
  .next (s.takeWrite h (R.lnkCfg (l % 256)) (setBitsAt v 3 1 1) false
    (fun s => s.writeLnkCfg (l % 256) (setBitsAt v 3 1 1)))

/-- LANE_DISABLE: port h writes LNK_CFG with EN = 0. -/
def execLaneDisable (h l : Nat) (v : Word) (s : State) : Host.Outcome State Fault Refusal :=
  .next (s.takeWrite h (R.lnkCfg (l % 256)) (setBitsAt v 3 1 0) false
    (fun s => s.writeLnkCfg (l % 256) (setBitsAt v 3 1 0)))

/-- The first refusal reason of an enable (R431 to R433): 0 none, 1 FAMILY, 2 BOND. -/
def State.laneErr (s : State) (l : Nat) : Nat :=
  let q := l / 4
  if !(if s.is (F.lnkQCfgFamily q) then s.laneMorvolos l else s.laneEthernet l) then 1
  else if s.bonded l && (s.portLanes l).any (fun m => !Nat.beq (s.get (F.lnkCfgMode m)) 2
      || !(s.is (F.lnkCfgTrain m) == s.is (F.lnkCfgTrain (4 * q)))) then 2
  else 0

/-- The lane counters of R450 (offsets 0x0040 to 0x0084) take the value 0. -/
def State.clearLaneCnt (s : State) (l : Nat) : State :=
  s.each (List.range 18) (fun s k => s.setWord (R.lnkCntRxFrames l + 4 * k) 0)

/-- An enable is refused with its reason (R433). -/
def State.laneRefuse (s : State) (l err : Nat) : State :=
  ((s.flag (F.lnkStatRefused l) true).put (F.lnkStatErr l) err).refusalEv 10 2 l err

/-- The check of an enable (R433, R610): refused with EN back at 0, or started with its counters cleared. The quad's lane
PLL starts with the first lane of the quad that is enabled (DEDUCED, notes/assumptions/19). -/
def State.laneAdmit (s : State) (l : Nat) : State :=
  match s.laneErr l with
  | 0 =>
    let t := ((s.clearLaneCnt l).setLane l { s.lane l with enWait := none, checked := true }).laneStart l
    t.cond (Nat.beq (t.pstate (12 + l / 4)) PState.off && Nat.beq (t.get F.nvmStatLstate) 3)
      (fun s => s.acquire (12 + l / 4) false (!s.clk.cleaner))
  | e => ((s.flag (F.lnkCfgEn l) false).setLane l { s.lane l with enWait := none, checked := true }).laneRefuse l e

/-- LANE_ENABLE_CHECK (R433): at the next tick an enable or a disable is checked and carried out or refused. -/
def State.laneCheck (s : State) (l : Nat) : State :=
  match (s.lane l).enWait with
  | some true => s.tick.laneAdmit l
  | some false =>
    let t := s.tick.setLane l { s.lane l with enWait := none }
    if t.laneInUse l then (t.flag (F.lnkCfgEn l) true).laneRefuse l 3
    else ((t.portDrop l 0).setLstate l LState.off 0).flag (F.lnkStatRf l) false
  | none => s

def execLaneEnableCheck (l : Nat) (s : State) : Host.Outcome State Fault Refusal := .next (s.laneCheck (l % 256))

/-! Pattern tests -/

/-- The checker is without lock: the bits it has compared are kept (R448). -/
def State.prbsUnlock (s : State) (l : Nat) : State :=
  (s.put64 (R.lnkPrbsBitsLo l) (R.lnkPrbsBitsHi l) (s.prbsBits l)).flag (F.lnkPrbsChkLock l) false

/-- Inverted generator bits reach the lane's own checker over the near loop (R448): each counts one error, and 128 of
them within 1,024 bits lose the checker's lock. -/
def State.prbsErrors (s : State) (l n : Nat) : State :=
  if Nat.beq (s.get (F.lnkTestLoop l)) 1 && s.is (F.lnkTestChk l) && s.is (F.lnkPrbsChkLock l) then
    let s1 := s.sat (F.lnkPrbsErr l) n
    if Nat.ble 128 n then (s1.prbsUnlock l).flag (F.lnkPrbsLoss l) true else s1
  else s

/-- The generator sends: in TEST, switched on, and not in the far loop. -/
def State.generating (s : State) (l : Nat) : Bool :=
  Nat.beq (s.lstate l) LState.test && s.is (F.lnkTestGen l) && !Nat.beq (s.get (F.lnkTestLoop l)) 2

/-- An injection that waits is carried out once the generator sends. -/
def State.runInjection (s : State) (l : Nat) : State :=
  if s.generating l && !Nat.beq (s.lane l).inj 0 then
    (s.setLane l { s.lane l with inj := 0 }).prbsErrors l (s.lane l).inj
  else s

/-- CHK as a write leaves it: written 1 clears the bit count, and a checker that is off has no lock (R448). -/
def State.prbsCheck (s : State) (l : Nat) : State :=
  if s.is (F.lnkTestChk l) then
    (s.put64 (R.lnkPrbsBitsLo l) (R.lnkPrbsBitsHi l) 0).setLane l { s.lane l with chkAt := s.now }
  else s.cond (s.is (F.lnkPrbsChkLock l)) (fun s => s.prbsUnlock l)

/-- A write of LNK_TEST (R447 to R449): EN = 1 of a lane not in TEST waits for the next tick; EN = 0 leaves TEST as from
OFF. -/
def State.writeLnkTest (s : State) (l : Nat) (v : Word) : State :=
  let old := s.word (R.lnkTest l)
  let x := s.lane l
  let s1 := s.store (R.lnkTest l) v allBits
  if Nat.beq (bitsAt v 0 1) 1 then
    if Nat.beq (s1.lstate l) LState.test then (s1.prbsCheck l).runInjection l
    else s1.setLane l { x with testWait := some (match x.testWait with | some w => w | none => old) }
  else
    let s2 := (s1.setLane l { x with testWait := none }).prbsCheck l
    if Nat.beq (s2.lstate l) LState.test then (s2.prbsUnlock l).laneStart l else s2

/-- LANE_TEST_ENABLE: port h writes LNK_TEST with EN = 1. -/
def execLaneTestEnable (h l : Nat) (v : Word) (s : State) : Host.Outcome State Fault Refusal :=
  .next (s.takeWrite h (R.lnkTest (l % 256)) (setBitsAt v 0 1 1) false
    (fun s => s.writeLnkTest (l % 256) (setBitsAt v 0 1 1)))

/-- LANE_TEST_DISABLE: port h writes LNK_TEST with EN = 0. -/
def execLaneTestDisable (h l : Nat) (v : Word) (s : State) : Host.Outcome State Fault Refusal :=
  .next (s.takeWrite h (R.lnkTest (l % 256)) (setBitsAt v 0 1 0) false
    (fun s => s.writeLnkTest (l % 256) (setBitsAt v 0 1 0)))

/-- LANE_TEST_ACCEPT (R447): at the next tick the enable is accepted in LOOPBACK or on an unbound lane, and takes the lane
into TEST and its bonded port out of UP; any other write has no effect. -/
def State.testAccept (s : State) (l : Nat) : State :=
  match (s.lane l).testWait with
  | some old =>
    let t := s.tick.setLane l { s.lane l with testWait := none }
    if !Nat.beq (t.lstate l) LState.off && (Nat.beq t.mode Mode.loopback || !t.laneInUse l) then
      (((t.portDrop l 7).setLstate l LState.test 7).prbsCheck l).runInjection l
    else t.setWord (R.lnkTest l) old
  | none => s

def execLaneTestAccept (l : Nat) (s : State) : Host.Outcome State Fault Refusal := .next (s.testAccept (l % 256))

/-- A write of LNK_INJ (R448): SINGLE inverts one generator bit, BURST BLEN of them; one that comes while another waits is
discarded. -/
def State.writeLnkInj (s : State) (l : Nat) (v : Word) : State :=
  let s1 := s.store (R.lnkInj l) v allBits
  let n := if Nat.beq (bitsAt v 1 1) 1 then s1.get (F.lnkInjBlen l) else if Nat.beq (bitsAt v 0 1) 1 then 1 else 0
  if Nat.beq n 0 || !Nat.beq (s1.lane l).inj 0 then s1
  else (s1.setLane l { s1.lane l with inj := n }).runInjection l

/-- PRBS_INJECT_SINGLE: port h writes LNK_INJ with SINGLE = 1. -/
def execPrbsInjectSingle (h l : Nat) (v : Word) (s : State) : Host.Outcome State Fault Refusal :=
  .next (s.takeWrite h (R.lnkInj (l % 256)) (setBitsAt v 0 1 1) false
    (fun s => s.writeLnkInj (l % 256) (setBitsAt v 0 1 1)))

/-- PRBS_INJECT_BURST: port h writes LNK_INJ with BURST = 1. -/
def execPrbsInjectBurst (h l : Nat) (v : Word) (s : State) : Host.Outcome State Fault Refusal :=
  .next (s.takeWrite h (R.lnkInj (l % 256)) (setBitsAt v 1 1 1) false
    (fun s => s.writeLnkInj (l % 256) (setBitsAt v 1 1 1)))

/-- PRBS_CHECKER_LOCK (R448): 256 error-free bits. -/
def State.prbsLock (s : State) (l : Nat) : State :=
  if Nat.beq (s.lstate l) LState.test && s.is (F.lnkTestChk l) && !s.is (F.lnkPrbsChkLock l) then
    (s.flag (F.lnkPrbsChkLock l) true).setLane l { s.lane l with chkAt := s.now }
  else s

def execPrbsCheckerLock (l : Nat) (s : State) : Host.Outcome State Fault Refusal := .next (s.prbsLock (l % 256))

/-- PRBS_CHECKER_LOSS (R448): 128 errors within 1,024 bits; `errs` errors in `bits` compared bits since the last count. -/
def State.prbsLoss (s : State) (l errs bits : Nat) : State :=
  if s.is (F.lnkPrbsChkLock l) then
    (((s.sat (F.lnkPrbsErr l) errs).put64 (R.lnkPrbsBitsLo l) (R.lnkPrbsBitsHi l)
      (s.get64 (R.lnkPrbsBitsLo l) (R.lnkPrbsBitsHi l) + bits)).flag (F.lnkPrbsChkLock l) false).flag (F.lnkPrbsLoss l) true
  else s

def execPrbsCheckerLoss (l errs bits : Nat) (s : State) : Host.Outcome State Fault Refusal :=
  .next (s.prbsLoss (l % 256) errs bits)

/-- Every lane in TEST restarts as from OFF with its test enable cleared (R449). -/
def State.endTests (s : State) : State :=
  s.each (List.range 256) (fun s l =>
    if Nat.beq (s.lstate l) LState.test then ((s.flag (F.lnkTestEn l) false).prbsUnlock l).laneStart l else s)

/-- A block reset of the lane (R493): it passes through OFF and restarts, which opens and ends the shadow of R499. -/
def State.resetLane (s : State) (l : Nat) : State :=
  if Nat.beq (s.lstate l) LState.off then s
  else
    let s1 := (s.portDrop l 1).setLstate l LState.off 0
    ((s1.openShadow 1 l false).laneStart l).endShadow 1 l

/-- The quad's lane PLL has lost lock (R434): every lane but those OFF enters LOCKING with cause PLL. -/
def State.quadPllLost (s : State) (q : Nat) : State :=
  (s.flag (F.lnkQStatPllLock q) false).each [4 * q, 4 * q + 1, 4 * q + 2, 4 * q + 3] (fun s l =>
    if Nat.beq (s.lstate l) LState.off then s
    else ((s.flag (F.lnkStatRxlock l) false).setLane l { s.lane l with fec := false, cred := 0 }).setLstate l LState.locking 6)

end Sys2Proof.Machine
end

