-- ==== Sys2Proof/Machine/Pools.lean ====
section
/-!
DEFINITION. Sys2Proof/Machine/Pools.lean: the buffer pools, their marks and ledgers (chapter 10, R295 to R304), with
LOST_HANDOVER. A handover that is not lost completes within the step that starts it, so a buffer stays ISSUED or RETURN
only after LOST_HANDOVER (log entry 6).
-/

namespace Sys2Proof.Machine

/-- Pool codes. -/
def Pool.ingest : Nat := 0
def Pool.composed : Nat := 1
def Pool.reference : Nat := 2

/-- Free pages of pool p in group g, and of the whole pool. -/
def State.freeIn (s : State) (p g : Nat) : Nat := Tab.get 0 s.poolFree (p * 8 + g)
def State.freePages (s : State) (p : Nat) : Nat := ((List.range 8).map (s.freeIn p)).sum

def State.setFree (s : State) (p g n : Nat) : State := { s with poolFree := Tab.put 0 s.poolFree (p * 8 + g) n }

/-- Pages of a buffer (R295): 2 MiB each. -/
def pagesOf (bytes : Nat) : Nat := (bytes + 2097151) / 2097152

/-- The group with the most free pages in the pool, the lowest number on a tie (R295). -/
def State.bestGroup (s : State) (p : Nat) : Nat :=
  (List.range 8).foldl (fun b g => if Nat.blt (s.freeIn p b) (s.freeIn p g) then g else b) 0

/-- Take a buffer for an owner that accepts it (R295, R299): it is HELD, with mark W for a reconstruction. None when no
group has the pages. -/
def State.takeBuf (s : State) (p own tag : Nat) (safe w : Bool) (pages : Nat) : Option State :=
  let g := s.bestGroup p
  if Nat.ble pages (s.freeIn p g) then
    some { s.setFree p g (s.freeIn p g - pages) with
      bufs := s.bufs ++ [⟨p, own, tag, safe, g, pages, 2, !w, w, false, false, false⟩] }
  else none

/-- A buffer with neither marks nor an owner goes back to the free list (R299). -/
def Buf.idle (b : Buf) : Bool := Nat.beq b.st 2 && !(b.held || b.w || b.r || b.s || b.d)

/-- Free every buffer that nothing holds. -/
def State.sweepBufs (s : State) : State :=
  let gone := s.bufs.filter Buf.idle
  let t : State := { s with bufs := s.bufs.filter (fun b => !b.idle) }
  gone.foldl (fun s b => s.setFree b.pool b.grp (s.freeIn b.pool b.grp + b.pages)) t

/-- Change the marks or the ownership of some buffers, then free those that nothing holds (R300). -/
def State.markBufs (s : State) (which : Buf → Bool) (f : Buf → Buf) : State :=
  ({ s with bufs := s.bufs.map (fun b => if which b then f b else b) } : State).sweepBufs

/-- Every mark and ownership on these buffers is cleared (R299). -/
def State.dropBufs (s : State) (which : Buf → Bool) : State :=
  s.markBufs which (fun b => { b with held := false, w := false, r := false, s := false, d := false })

/-- The ledger term of a buffer (R40, R299): 1 held by ingest, 2 held as reference, 3 held by a compositor, 4 in
flight. -/
def Buf.term (b : Buf) : Nat :=
  if !Nat.beq b.st 2 then 4
  else if b.w || b.r || b.s || b.d then 2
  else if Nat.beq b.pool 0 then 1
  else 3

def State.ledger (s : State) (p term : Nat) : Nat :=
  ((s.bufs.filter (fun b => Nat.beq b.pool p && Nat.beq b.term term)).map Buf.pages).sum

/-- The ledger audit of one pool (R303): snapshot, MISMATCH with POOL_LEDGER where the terms do not sum to the size, and
MINFREE. -/
def State.auditPool (s : State) (p : Nat) : State :=
  let f := s.freePages p
  let s1 := ((((s.put (F.sysPoolFreePages p) f).put (F.sysPoolIngPages p) (s.ledger p 1)).put (F.sysPoolRefPages p)
    (s.ledger p 2)).put (F.sysPoolCmpPages p) (s.ledger p 3)).put (F.sysPoolFltPages p) (s.ledger p 4)
  let s2 := s1.put (F.sysPoolMinfreePages p) (min (s1.get (F.sysPoolMinfreePages p)) f)
  if Nat.beq (f + s.ledger p 1 + s.ledger p 2 + s.ledger p 3 + s.ledger p 4) (s.get (F.sysPoolSizePages p)) then s2
  else (s2.flag (F.sysPoolAudMismatch p) true).raise (Src.poolLedger p)

def State.auditPools (s : State) : State := s.each [0, 1, 2] State.auditPool

/-- Divide the pools' pages among the interleave groups in the map (R297). -/
def State.dividePools (s : State) (groups : List Nat) : State :=
  s.each [0, 1, 2] (fun s p =>
    let n := s.get (F.sysPoolSizePages p)
    let k := groups.length
    (s.each (List.range 8) (fun s g => s.setFree p g 0)).each (List.range k) (fun s i =>
      s.setFree p (groups.getD i 0) (n / k + (if Nat.blt i (n % k) then 1 else 0))))

/-- LOST_HANDOVER (R304): buffer i of those in use has stayed ISSUED, or RETURN, for more than 1 ms. -/
def State.lostHandover (s : State) (i : Nat) (returning : Bool) : State :=
  match s.bufs[i]? with
  | some b =>
    ((({ s with bufs := s.bufs.set i { b with st := if returning then 3 else 1 } } : State)).flag (F.sysPoolAudStuck b.pool)
      true).raise (Src.poolStuck b.pool)
  | none => s

def execLostHandover (i : Nat) (returning : Bool) (s : State) : Host.Outcome State Fault Refusal :=
  .next (s.lostHandover i returning)

end Sys2Proof.Machine
end

