-- ==== Sys2Proof/Machine/Bob.lean ====
section
/-!
DEFINITION. Sys2Proof/Machine/Bob.lean: the Bobbin task scheduler (chapter 16): lists, creation, cancellation, dispatch,
credits and the task audit.
-/

namespace Sys2Proof.Machine

/-- Task types (R418) and cancel causes (R424). -/
def TType.ingest : Nat := 0
def TType.decode : Nat := 1
def TType.compose : Nat := 2
def TType.encode : Nat := 3
def TType.pack : Nat := 4
def TType.selftest : Nat := 5
def TType.house : Nat := 6
def Cancel.release : Nat := 0
def Cancel.expired : Nat := 1
def Cancel.cap : Nat := 2
def Cancel.engine : Nat := 3
def Cancel.mode : Nat := 4
def Cancel.reset : Nat := 5

/-- An instant rounded up to a 1 µs tick (R419). -/
def tickUp (t : Nat) : Nat := (t + 999) / 1000 * 1000

/-- Ready tasks on a list. -/
def State.depth (s : State) (x : Nat) : Nat :=
  (s.bob.tasks.filter (fun t => Nat.beq t.list x && Nat.beq t.stage 2)).length

/-- BOB_EX_Q follows its list: DEPTH now, MAX the largest since the last read. -/
def State.showDepth (s : State) (x : Nat) : State :=
  let d := s.depth x
  (s.put (F.bobExQDepth x) (min d 0xFFFF)).peak (F.bobExQMax x) d

/-- A task is created (R427, R428): it takes a credit and stands on its list; without a credit it is not created. In SAFE
and RECOVER no COMPOSE_ROW, ENCODE_ROW or PACK_ROW is created (R425). The second part says whether it was created. -/
def State.create (s : State) (t : Task) : State × Bool :=
  if Nat.ble 2 t.typ && Nat.ble t.typ 4 && s.modeIn [Mode.safe, Mode.recover] then (s, false)
  else if Nat.beq (s.get (F.bobCredFree t.typ)) 0 then
    ((s.bump F.bobCreateFail 1).raise (Src.bobNocred t.typ), false)
  else
    let s1 := s.put (F.bobCredFree t.typ) (s.get (F.bobCredFree t.typ) - 1)
    let s2 : State := { s1 with bob := { s1.bob with
      tasks := s1.bob.tasks ++ [{ t with seq := s1.bob.next }], next := s1.bob.next + 1, created := s1.bob.created + 1 } }
    (s2.showDepth t.list, true)

/-- A credit of the task's type returns (R427). -/
def State.creditBack (s : State) (t : Task) : State := s.put (F.bobCredFree t.typ) (s.get (F.bobCredFree t.typ) + 1)

/-- Cancel the pending tasks that match, with a cause (R424). -/
def State.cancelTasks (s : State) (cause : Nat) (p : Task → Bool) : State :=
  let gone := s.bob.tasks.filter p
  let s1 : State := { s with bob := { s.bob with tasks := s.bob.tasks.filter (fun t => !p t),
                                                 cancelled := s.bob.cancelled + gone.length } }
  let s2 := gone.foldl State.creditBack (s1.bump (F.bobCancel cause) gone.length)
  gone.foldl (fun s t => s.showDepth t.list) s2

/-- The level of a channel's ENCODE_ROW tasks by class (R418): 0 B, 1 S, 2 D. -/
def State.encLevel (s : State) (cls : Nat) : Nat :=
  if Nat.beq cls 2 then s.get F.bobPrioEncD else if Nat.beq cls 1 then s.get F.bobPrioEncS else s.get F.bobPrioEncB

/-- Does task a come before task b in the order of R422? -/
def Task.before (a b : Task) : Bool :=
  let ra := tickUp a.ready
  let rb := tickUp b.ready
  if !Nat.beq a.level b.level then Nat.blt b.level a.level
  else if !Nat.beq ra rb then Nat.blt ra rb
  else if !Nat.beq a.due b.due then Nat.blt a.due b.due
  else if !Nat.beq a.own b.own then Nat.blt a.own b.own
  else if !Nat.beq a.list b.list then Nat.blt a.list b.list
  else Nat.blt a.seq b.seq

/-- The first task of a list of tasks in the order of R422. -/
def firstTask (l : List Task) : Option Task :=
  l.foldl (fun b t => match b with
    | none => some t
    | some x => if t.before x then some t else some x) none

/-- The histogram bin of a wait in µs (BOB_EX_HIST). -/
def waitBin (us : Nat) : Nat := if Nat.beq us 0 then 0 else min 15 (Nat.log2 us + 1)

/-- What an executor runs. -/
def State.running (s : State) (e : Nat) : Option Task :=
  match s.bob.run.find? (fun r => Nat.beq r.1 e) with
  | some r => some r.2.1
  | none => none

/-- An executor's work ends. -/
def State.release (s : State) (e : Nat) : State :=
  { s with bob := { s.bob with run := s.bob.run.filter (fun r => !Nat.beq r.1 e) } }

/-- Hand a task to an executor (R422, R427): counted, its credit back, its wait and lateness recorded. -/
def State.handTo (s : State) (e : Nat) (t : Task) : State :=
  let b : BobSt := { s.bob with
    tasks := s.bob.tasks.filter (fun x => !Nat.beq x.seq t.seq)
    dispatched := s.bob.dispatched + 1
    run := s.bob.run ++ [(e, t, s.now)] }
  let s1 : State := { s with bob := b }
  let s2 := (s1.creditBack t).showDepth t.list
  let s3 := s2.cond (Nat.blt t.due s.now) (fun s => s.sat (F.bobExLate t.list) 1)
  s3.sat (F.bobExHist t.list (waitBin ((s.now - t.ready) / 1000))) 1

/-- The task audit (R429) and the credit check of R427. -/
def State.auditTasks (s : State) : State :=
  let rdy := (s.bob.tasks.filter (fun t => Nat.beq t.stage 2)).length
  let dly := (s.bob.tasks.filter (fun t => !Nat.beq t.stage 2)).length
  let s1 := ((s.put64 R.bobCreatedLo R.bobCreatedHi s.bob.created).put64 R.bobDispatchedLo R.bobDispatchedHi
    s.bob.dispatched).put64 R.bobCancelledLo R.bobCancelledHi s.bob.cancelled
  let s2 := (s1.put F.bobPendingReady rdy).put F.bobPendingDelay dly
  let s3 := if Nat.beq s.bob.created (s.bob.dispatched + s.bob.cancelled + rdy + dly) then s2
    else (s2.flag F.bobAudTaskErr true).raise Src.bobTaskcnt
  s3.each (List.range 7) (fun s t =>
    let n := (s.bob.tasks.filter (fun x => Nat.beq x.typ t)).length
    if Nat.beq (s.get (F.bobCredFree t) + n) (s.get (F.bobCredPool t)) then s
    else (s.flag F.bobAudCredErr true).raise (Src.bobCredit t))

/-- A block reset of BOB cancels every pending task and keeps every counter (R424, R426, R430). -/
def State.resetBob (s : State) : State := s.cancelTasks Cancel.reset (fun _ => true)

/-- A write of BOB_EX_HCLR (R430): CLR = 1 sets the 16 bins of the list to 0. -/
def State.writeHclr (s : State) (x : Nat) (v : Word) : State :=
  if Nat.beq (bitsAt v 0 1) 1 then s.each (List.range 16) (fun s b => s.put (F.bobExHist x b) 0) else s

/-- BOB_HISTOGRAM_CLEAR: port h writes BOB_EX_HCLR of list x. -/
def execBobHistogramClear (h x : Nat) (v : Word) (s : State) : Host.Outcome State Fault Refusal :=
  .next (s.takeWrite h (R.bobExHclr (x % 148)) v false (fun s => s.writeHclr (x % 148) v))

end Sys2Proof.Machine
end

