-- ==== Sys2Proof/Machine/Grid.lean ====
section
/-!
DEFINITION. Sys2Proof/Machine/Grid.lean: channel contexts, frame rates, the frame grid, stitches, row timing and instants
(chapters 02 and 03, R66 to R72, R97 to R114).
-/

namespace Sys2Proof.Machine

def State.chan (s : State) (n : Nat) : Chan := Tab.get {} s.chans n
def State.setChan (s : State) (n : Nat) (c : Chan) : State := { s with chans := Tab.put {} s.chans n c }
def State.updChan (s : State) (n : Nat) (f : Chan → Chan) : State := s.setChan n (f (s.chan n))

/-- Channel states (CHN_STAT.STATE). -/
def ChState.idle : Nat := 0
def ChState.starting : Nat := 1
def ChState.running : Nat := 2
def ChState.shed : Nat := 3
def ChState.closing : Nat := 4

def State.chState (s : State) (n : Nat) : Nat := s.get (F.chnStatState n)

/-- A channel is admitted from its admission to its release (R97). -/
def State.admitted (s : State) (n : Nat) : Bool := !Nat.beq (s.chState n) 0

/-- A channel runs from its first egress slot to its release (R14 to R17). -/
def State.runs (s : State) (n : Nat) : Bool := Nat.ble 2 (s.chState n)

/-- Any channel running; any running or STARTING. -/
def State.anyRuns (s : State) : Bool := (List.range 256).any s.runs
def State.anyAdmitted (s : State) : Bool := (List.range 256).any s.admitted

/-- A channel's state changes with the STATE event of R508 (input 15, event 1): new state, previous state. -/
def State.setChState (s : State) (n v : Nat) : State := s.moveTo (F.chnStatState n) v 15 1 n 4 0

/-- A configuration field of channel n: its shadow for the channels in `tog`, which a commit or a START tries, otherwise
its active value. -/
def State.cg (s : State) (tog : List Nat) (n : Nat) (f : Nat → Fld) : Nat :=
  if tog.contains n then s.get (f n) else s.aget (f n)

/-- The shadow of an IDLE channel and the active values of an admitted one (R102). -/
def State.cfg (s : State) (n : Nat) (f : Nat → Fld) : Nat := if s.admitted n then s.aget (f n) else s.get (f n)

/-- Contexts of a channel: a 4320p channel's four (R68). -/
def spanOf (n : Nat) (span : Bool) : List Nat := if span then [n, n + 1, n + 2, n + 3] else [n]
def State.strips (s : State) (n : Nat) : List Nat := spanOf n (Nat.beq (s.aget (F.chnFmtSpan4 n)) 1)

/-- The channel that a context belongs to: the lowest context of a 4320p channel (R68). -/
def State.leadOf (s : State) (n : Nat) : Nat :=
  if s.admitted (n / 4 * 4) && Nat.beq (s.aget (F.chnFmtSpan4 (n / 4 * 4))) 1 then n / 4 * 4 else n

/-! Frame rates -/

/-- The frame rate num/den of a frame-rate code. -/
def rateNum (c : Nat) : Nat := [24000, 24, 25, 30000, 30, 48000, 48, 50, 60000, 60, 100, 120000, 120].getD c 60
def rateDen (c : Nat) : Nat := if [0, 3, 5, 8, 11].contains c then 1001 else 1

/-- 1,001 times the frame rate in Hz, a whole number. -/
def rate1001 (c : Nat) : Nat := rateNum c * (1001 / rateDen c)

/-- The start of grid index g before the phase: floor(g × 10^9 × den / num) ns (R97). -/
def gridBase (c g : Nat) : Nat := g * 1000000000 * rateDen c / rateNum c

/-- The phase modulo the frame period (R97). -/
def phaseR (c phase : Nat) : Nat :=
  phase - gridBase c (((phase + 1) * rateNum c - 1) / (1000000000 * rateDen c))

/-- The first grid index that starts at or after PTP instant t (R97). -/
def gridAt (c phase : Nat) (t : Int) : Nat :=
  let x := (t - (phaseR c phase : Int)).toNat
  (x * rateNum c + 1000000000 * rateDen c - 1) / (1000000000 * rateDen c)

/-- The offset of the grid's time from the system counter: off once a domain has qualified since LOAD, else 0 (R101). -/
def State.gridOff (s : State) : Int := if s.tim.everQual then s.tim.off else 0

/-- The system-counter instant at which grid index g starts under the present mapping (R100). -/
def State.gridStart (s : State) (c phase g : Nat) : Nat := ((gridBase c g + phaseR c phase : Nat) - s.gridOff).toNat

/-- The rate code and the effective phase of channel n: a group member takes the phase of the lowest-numbered admitted
member (R99); the shadow fields while IDLE (R102). -/
def State.gridOf (s : State) (n : Nat) : Nat × Nat :=
  let rate := s.cfg n F.chnFmtFrate
  let grp := s.cfg n F.chnClassAgrp
  let own := s.cfg n F.chnPhasePhase
  if Nat.beq grp 0 || !s.admitted n then (rate, own)
  else match (List.range 256).find? (fun m => s.admitted m && Nat.beq (s.aget (F.chnClassAgrp m)) grp) with
    | some m => (rate, s.aget (F.chnPhasePhase m))
    | none => (rate, own)

/-! Rows -/

/-- Picture size of a context from the width and height fields (R67, R68). -/
def ctxWidth (w32 : Nat) (span : Bool) : Nat := if span then 1920 else 32 * w32
def State.width (s : State) (n : Nat) : Nat := 32 * s.cfg n F.chnFmtW32
def State.height (s : State) (n : Nat) : Nat := 8 * s.cfg n F.chnFmtH8

def rowsOf (height : Nat) : Nat := (height + 63) / 64
def State.rows (s : State) (n : Nat) : Nat := rowsOf (s.height (s.leadOf n))

/-- Row time t, pacing lead l_p, s_off and d_off (R104). -/
def rowTime (rows : Nat) : Nat := if Nat.beq rows 0 then 0 else (16384 + rows - 1) / rows
def paceLead (rows : Nat) : Nat := (3 * rowTime rows + 3) / 4
def deadlineOff (rows : Nat) (duplex : Bool) : Nat := rowTime rows * (if duplex then 4 else 3) + paceLead rows

/-- b_j (R103). -/
def rowStart (rows j : Nat) : Nat := j * 16384 / rows

/-- Class D. -/
def State.classD (s : State) (n : Nat) : Bool := Nat.beq (s.cfg n F.chnClassClass) 2

/-- e_j and d_j in stitches from the start of the capture frame (R29, R105). -/
def State.releaseAt (s : State) (n j : Nat) : Nat := rowStart (s.rows n) j + s.cfg (s.leadOf n) F.chnDfixDfix
def State.deadlineAt (s : State) (n j : Nat) : Nat :=
  s.releaseAt n j - deadlineOff (s.rows n) (s.classD (s.leadOf n))

/-- D_fix minima (R90). -/
def dminS (rows : Nat) : Nat := 128 * ((475 * 16384 + 12800 * rows - 1) / (12800 * rows))
def dminD (rows : Nat) : Nat := dminS rows + (16384 + rows - 1) / rows

/-! Instants -/

/-- Frame k of the channel as the model knows it: in force, past, or as the grid foresees it (R100, R109). Before the first
frame after entry to ARM the number is the grid index (R97, R102). -/
def State.frame (s : State) (n k : Nat) : Frm :=
  let c := s.chan n
  let g := s.gridOf n
  let st (x : Nat) : Nat := if !c.on then s.gridStart g.1 g.2 x else if Nat.beq x c.nextG then c.next
    else s.gridStart c.rate c.phase x
  let x := if c.on then c.nextG + k - c.cur.k - 1 else k
  if Nat.beq k c.cur.k then c.cur
  else match c.past.find? (fun f => Nat.beq f.k k) with
    | some f => f
    | none => ⟨k, st x, st (x + 1) - st x, false⟩

/-- The instant x stitches after the start of frame k (R109). -/
def State.instant (s : State) (n k x : Nat) : Nat :=
  let f := s.frame n (k + x / 16384)
  f.start + x % 16384 * f.len / 16384

/-- The stitch of the frame in force at the present instant (R110). -/
def Chan.stitch (c : Chan) (now : Nat) : Nat :=
  if Nat.beq c.cur.len 0 then 0 else min 16383 ((now - c.cur.start) * 16384 / c.cur.len)

/-- Release, deadline and decision instants of row j of frame k (R29, R105, R347). -/
def State.releaseInstant (s : State) (n k j : Nat) : Nat := s.instant (s.leadOf n) k (s.releaseAt n j)
def State.deadlineInstant (s : State) (n k j : Nat) : Nat := s.instant (s.leadOf n) k (s.deadlineAt n j)
def State.decisionInstant (s : State) (n k j : Nat) : Nat := s.releaseInstant n k j - 2000

/-- The audit point that ends egress slot k (R18). -/
def State.auditInstant (s : State) (n k : Nat) : Nat := s.instant n (k + 1) (s.aget (F.chnDfixDfix n))

/-! Rows at work -/

def State.row (s : State) (n k j : Nat) : Option Row :=
  (s.chan n).rows.find? (fun r => Nat.beq r.k k && Nat.beq r.j j)

/-- Change a row of a context. -/
def State.updRow (s : State) (n k j : Nat) (f : Row → Row) : State :=
  s.updChan n (fun c => { c with rows := c.rows.map (fun r => if Nat.beq r.k k && Nat.beq r.j j then f r else r) })

/-- The engines of a context: lead, and standby where there is one. -/
def State.leadEng (s : State) (n : Nat) : Nat := s.get (F.chnDupStatLead n)
def State.stbyEng (s : State) (n : Nat) : Option Nat :=
  if s.is (F.chnDupStatStbyValid n) then some (s.get (F.chnDupStatStby n)) else none

/-! Starting a frame -/

/-- The timing registers of the frame in force (R98, R104, R105). -/
def State.showFrame (s : State) (n : Nat) : State :=
  let c := s.chan n
  let rows := rowsOf (s.height n)
  let s1 := (s.put64 (R.chnFstartLo n) (R.chnFstartHi n) c.cur.start).put64 (R.chnFnumLo n) (R.chnFnumHi n) c.cur.k
  let s2 := ((s1.put (F.chnFlenLen n) c.cur.len).flag (F.chnFlenTrans n) c.cur.trans).flag (F.chnFlenFreerun n)
    (!s.tim.everQual)
  let s3 := ((s2.put (F.chnRowtimeT n) (rowTime rows)).put (F.chnRowtimeLp n) (paceLead rows)).put (F.chnRowdlOffs n)
    (s.cfg n F.chnDfixDfix - deadlineOff rows (s.classD n))
  -- the other contexts of a 4320p channel read the timing registers of its first (R102)
  s3.each (if s.admitted n then (s.strips n).drop 1 else []) (fun s m =>
    s.each [R.chnFstartLo, R.chnFstartHi, R.chnFnumLo, R.chnFnumHi, R.chnFlen, R.chnRowtime, R.chnRowdl] (fun s r =>
      s.setWord (r m) (s.word (r n))))

/-- Time reaches the channel's next frame start (R97, R102): the first start of its grid after entry to ARM where no frame
of it has begun. -/
def State.toFrame (s : State) (n : Nat) : State :=
  let c := s.chan n
  if c.on then s.advance c.next
  else
    let g := s.gridOf n
    s.advance (s.gridStart g.1 g.2 (gridAt g.1 g.2 ((s.now : Int) + s.gridOff)))

/-- The frame that begins now (R97, R100, R111): it ends at the next start of the grid; where rate, phase or the mapping
behind them has changed it is a transition frame, which ends at the first start of the new grid at least half a new frame
period after now. -/
def State.beginFrame (s : State) (n : Nat) : State :=
  let c := s.chan n
  let gr := s.gridOf n
  let t := if c.on then c.next else s.now
  let same := c.on && Nat.beq c.rate gr.1 && Nat.beq c.phase gr.2 && c.ptp == s.tim.everQual
  let here := if same then c.nextG else gridAt gr.1 gr.2 ((t : Int) + s.gridOff)
  let half := (1000000000 * rateDen gr.1 + 2 * rateNum gr.1 - 1) / (2 * rateNum gr.1)
  let g' := if same || !c.on then here + 1 else gridAt gr.1 gr.2 ((t : Int) + s.gridOff + half)
  let nxt := s.gridStart gr.1 gr.2 g'
  let k := if s.admitted n && c.on then c.cur.k + 1 else here
  let f : Frm := ⟨k, t, nxt - t, c.on && !same⟩
  let c' : Chan := { c with
    on := true
    past := if c.on then (c.cur :: c.past).take 8 else []
    cur := f
    next := nxt
    nextG := g'
    rate := gr.1
    phase := gr.2
    ptp := s.tim.everQual }
  (s.setChan n c').showFrame n

end Sys2Proof.Machine
end

