-- ==== Sys2Proof/Machine/Capacity.lean ====
section
/-!
DEFINITION. Sys2Proof/Machine/Capacity.lean: engine, compositor and DRAM load, trial placement, the admission checks, and
shedding and restoring (chapter 02, R73 to R95; R612). Engine load is counted in 1/10,010,000 of a sample per second and
DRAM traffic in 1/8,008,000 of a byte per second, so that every weight and every frame rate is whole.
-/

namespace Sys2Proof.Machine

/-! Load -/

/-- The cost weight w of R75 in 1/10,000. -/
def costWeight (chroma scc codec : Nat) : Nat :=
  (if Nat.beq chroma 1 then 133 else if Nat.beq chroma 2 then 150 else 100) * (if Nat.beq scc 1 then 12 else 10)
    * (if Nat.beq codec 1 then 8 else 10)

def State.isSpan (s : State) (tog : List Nat) (n : Nat) : Bool := Nat.beq (s.cg tog n F.chnFmtSpan4) 1
def State.isD (s : State) (tog : List Nat) (n : Nat) : Bool :=
  Nat.beq (s.cg tog n F.chnClassClass) 2 && !(s.is (F.chnStatDuplexLost n))

/-- Luma rate of one context of channel n, times 1,001. -/
def State.ctxRate (s : State) (tog : List Nat) (n : Nat) : Nat :=
  ctxWidth (s.cg tog n F.chnFmtW32) (s.isSpan tog n) * (8 * s.cg tog n F.chnFmtH8) * rate1001 (s.cg tog n F.chnFmtFrate)

/-- ctx_load (R75). -/
def State.ctxLoad (s : State) (tog : List Nat) (n : Nat) : Nat :=
  s.ctxRate tog n * costWeight (s.cg tog n F.chnFmtChroma) (s.cg tog n F.chnCodecScc) (s.cg tog n F.chnCodecCodec)

/-- chan_load of the whole channel (R75). -/
def State.chanLoad (s : State) (tog : List Nat) (n : Nat) : Nat :=
  s.ctxLoad tog n * (if s.isSpan tog n then 4 else 1) * (if s.isD tog n then 2 else 1)

/-- One engine unit and 0.98 of it, in the unit of load (R75, R77). -/
def unitLoad : Nat := 1100000000 * 10010000
def usableLoad : Nat := 1078000000 * 10010000

/-- The channels whose load counts: admitted, not SHED and not about to be shed, with those that are tried (R92, R94). -/
def State.counted (s : State) (tog : List Nat) : List Nat :=
  (List.range 256).filter (fun n => tog.contains n
    || (s.admitted n && (if Nat.beq (s.chState n) ChState.shed then Nat.beq (s.chan n).want 2
      else !Nat.beq (s.chan n).want 1)))

/-! Layers and sources -/

/-- The active, enabled layer instances of channel n (R195). -/
def State.layersOf (s : State) (n : Nat) : List Nat :=
  (List.range 64).filter (fun i => s.ais (F.cmpLyrCtlEn (n / 16) i) && Nat.beq (s.aget (F.cmpLyrCtlChan (n / 16) i)) n)

/-- Do active layers of these channels show the source? -/
def State.shownBy (s : State) (chans : List Nat) (src : Nat) : Bool :=
  chans.any (fun n => (s.layersOf n).any (fun i => Nat.beq (s.aget (F.cmpLyrCtlSrc (n / 16) i)) src))

/-- Source kinds: 1 ST2110, 2 CAMERA, 3 MORVOLOS. -/
def State.isCamera (s : State) (i : Nat) : Bool := Nat.beq (s.get (F.ingSrcCfgKind i)) 2

/-- 1,000 × S_f of a chroma format (R81), and of a source. -/
def sf1000 (chroma : Nat) : Nat := if Nat.beq chroma 1 then 2500 else if Nat.beq chroma 2 then 3750 else 1875
def State.srcSf (s : State) (i : Nat) : Nat :=
  if s.isCamera i then 1875 else if Nat.beq (s.get (F.ingSrcFmtSamp i)) 1 then 3750 else 2500

/-- Luma rate of a source, times 1,001. -/
def State.srcRate (s : State) (i : Nat) : Nat :=
  s.get (F.ingSrcSizeW i) * s.get (F.ingSrcSizeH i) * rate1001 (s.get (F.ingSrcFmtFrate i))

/-- Camera decode load: enabled camera sources that a counted channel shows (R75, R94, R193), those of Class S and D
channels alone, or all of them. -/
def State.camLoad (s : State) (tog : List Nat) (sd : Bool) : Nat :=
  let chans := (s.counted tog).filter (fun n => !sd || !Nat.beq (s.cg tog n F.chnClassClass) 0)
  (((List.range 512).filter (fun i => s.isCamera i && s.srcOn i && s.shownBy chans i)).map (fun i => s.srcRate i * 3000)).sum

/-! Engines -/

def EState.off : Nat := 0
def EState.active : Nat := 1
def EState.spare : Nat := 2
def EState.suspect : Nat := 3
def EState.testing : Nat := 4
def EState.condemned : Nat := 5

def State.estate (s : State) (e : Nat) : Nat := s.get (F.encHealthEstate e)

/-- Engines available (R399): ACTIVE, SPARE and SUSPECT. -/
def State.engUp (s : State) (e : Nat) : Bool := Nat.ble 1 (s.estate e) && Nat.ble (s.estate e) 3

def State.engines (s : State) : List Nat := (List.range 128).filter s.engUp

/-- ARM admits against nominal capacity: every core PLL at its target, every compositor and group present (R537). -/
def State.nominal (s : State) : Bool := Nat.beq s.mode Mode.arm

/-- What engine e counts as, in kHz of 1,700,000 (R79, R478). -/
def State.engKhz (s : State) (e : Nat) : Nat := if s.nominal then s.get (F.clkPllTgtTgt (e / 32)) else s.pllKhz (e / 32)

/-- The placed contexts of an engine. -/
def State.placedOn (s : State) (e : Nat) : List Nat :=
  (List.range 256).filter (fun n => (s.chan n).placed && (Nat.beq (s.leadEng n) e
    || (s.is (F.chnDupStatStbyValid n) && Nat.beq (s.get (F.chnDupStatStby n)) e)))

/-- The load that engine e carries (R612): the contexts in `skip` left out. -/
def State.engLoad (s : State) (tog skip : List Nat) (e : Nat) : Nat :=
  (((s.placedOn e).filter (fun n => !skip.contains n)).map (fun n => s.ctxLoad tog (s.leadOf n))).sum

/-- Can engine e take a context of this load (R612)? -/
def State.canTake (s : State) (tog skip : List Nat) (load e : Nat) : Bool :=
  s.engUp e && Nat.ble ((s.engLoad tog skip e + load) * 1700000) (unitLoad * s.engKhz e)
    && Nat.blt ((s.placedOn e).filter (fun n => !skip.contains n)).length 8

/-- Does the engine hold a context? -/
def State.holds (s : State) (skip : List Nat) (e : Nat) : Bool := !((s.placedOn e).filter (fun n => !skip.contains n)).isEmpty

/-- Weighted engines available, in kHz (R77, R79). -/
def State.availKhz (s : State) : Nat := (s.engines.map s.engKhz).sum

/-- R77 and R78: does the load of these channels fit? `spare` says whether R78 applies (R79). -/
def State.fitsEngines (s : State) (tog : List Nat) : Bool :=
  let load := ((s.counted tog).map (s.chanLoad tog)).sum + s.camLoad tog false
  Nat.ble (load * 1700000) (usableLoad * s.availKhz)
def State.fitsSpare (s : State) (tog : List Nat) : Bool :=
  let load := (((s.counted tog).filter (fun n => !Nat.beq (s.cg tog n F.chnClassClass) 0)).map (s.chanLoad tog)).sum
    + s.camLoad tog true
  Nat.ble (load * 1700000) (usableLoad * (s.availKhz - s.get F.sysRedCfgNspare * 1700000))
    && (Nat.ble 1 (s.get F.sysRedCfgNspare)
      || (s.counted tog).all (fun n => Nat.beq (s.cg tog n F.chnClassClass) 0))

/-- R80 and R478: the output samples of each compositor. -/
def State.fitsCmp (s : State) (tog : List Nat) (c : Nat) : Bool :=
  let load := (((s.counted tog).filter (fun n => Nat.beq (n / 16) c)).map (fun n =>
    s.ctxRate tog n * (if s.isSpan tog n then 4 else 1))).sum
  Nat.ble load (if Nat.testBit (s.get F.sysSelftestCmpFail) c then 0 else 1001 * (if s.pllUp 4 || s.nominal then 8000000000 else 800000000))

/-- The channel term and the Class D addition of R81. -/
def State.chanDram (s : State) (tog : List Nat) (n : Nat) : Nat :=
  let r := s.ctxRate tog n * (if s.isSpan tog n then 4 else 1)
  let sf := sf1000 (s.cg tog n F.chnFmtChroma)
  let nref := s.cg tog n F.chnCodecNref + 1
  r * (sf * (21 + 6 * nref) + 2000) + (if s.isD tog n then r * (sf * (8 + 6 * nref)) else 0)

/-- The layer terms of the layers committed on the channel (R81). -/
def State.layerDram (s : State) (tog : List Nat) (n : Nat) : Nat :=
  ((s.layersOf n).map (fun i =>
    s.aget (F.cmpLyrCdimW (n / 16) i) * s.aget (F.cmpLyrCdimH (n / 16) i) * rate1001 (s.cg tog n F.chnFmtFrate)
      * s.srcSf (s.aget (F.cmpLyrCtlSrc (n / 16) i)) * 8)).sum

/-- The source terms of R81: enabled link sources and cameras that decode. -/
def State.srcDram (s : State) (tog : List Nat) : Nat :=
  (((List.range 512).filter (fun i => s.srcOn i && (!s.isCamera i || s.shownBy (s.counted tog) i))).map (fun i =>
    s.srcRate i * (if s.isCamera i then 30000 else s.srcSf i * 8))).sum

/-- R82: 78 % of 0.28125 TB/s for each group in the map, with `extra` traffic. -/
def State.groupsUp (s : State) : Nat := if s.nominal then 8 else ((List.range 8).filter (fun g => s.is (F.drcGrpStatInMap g))).length
def State.fitsDram (s : State) (tog : List Nat) (extra : Nat) : Bool :=
  Nat.ble (((s.counted tog).map (fun n => s.chanDram tog n + s.layerDram tog n)).sum + s.srcDram tog + extra)
    (s.groupsUp * 219375000000 * 8008000)

/-! Placement -/

/-- One of several choices that the manual leaves open (R612): a free value picks it. -/
def State.pick (s : State) (l : List Nat) : Option Nat × State :=
  match l with
  | [] => (none, s)
  | [x] => (some x, s)
  | l => let f := s.fresh; (l[f.1 % l.length]?, f.2)

/-- The engines of R612's first step, or of its second, among `ok`. -/
def State.stepOf (s : State) (skip : List Nat) (ok : List Nat) : List Nat :=
  let a := ok.filter (s.holds skip)
  if a.isEmpty then ok else a

/-- A trial placement of one context (R612): lead, and standby for Class D under another core PLL. -/
def State.tryPlace (s : State) (tog skip : List Nat) (load : Nat) (pair : Bool) : Option (Nat × Option Nat) × State :=
  let ok := s.engines.filter (s.canTake tog skip load)
  if pair then
    let leads := ok.filter (fun e => ok.any (fun f => !Nat.beq (e / 32) (f / 32)))
    match s.pick (s.stepOf skip leads) with
    | (some e, s1) =>
      match s1.pick (s1.stepOf skip (ok.filter (fun f => !Nat.beq (e / 32) (f / 32)))) with
      | (some f, s2) => (some (e, some f), s2)
      | (none, s2) => (none, s2)
    | (none, s1) => (none, s1)
  else
    match s.pick (s.stepOf skip ok) with
    | (some e, s1) => (some (e, none), s1)
    | (none, s1) => (none, s1)

/-- SYS_RED_STAT and the ACTIVE or SPARE state of the engines that are in service (R397, R398). -/
def State.setEstate (s : State) (e v : Nat) : State :=
  s.moveTo (F.encHealthEstate e) v 14 1 e 4 (s.get (F.encHealthCause e) * 2 ^ 8)

def State.showEngines (s : State) : State :=
  let s1 := s.each (List.range 128) (fun s e =>
    if Nat.beq (s.estate e) 1 && !s.holds [] e then s.setEstate e 2
    else if Nat.beq (s.estate e) 2 && s.holds [] e then s.setEstate e 1 else s)
  let n (l : List Nat) : Nat := ((List.range 128).filter (fun e => l.contains (s1.estate e))).length
  let s2 := ((s1.put F.sysRedStatActive (n [1, 3])).put F.sysRedStatSpare (n [2])).put F.sysRedStatDown (n [4, 5])
  let s3 := s2.flag F.sysRedStatSpareLow (Nat.blt (n [2]) (s2.get F.sysRedCfgNspare))
  s3.each (List.range 4) (fun s m => s.put (F.sysRedCondCond m)
    ((List.range 32).foldl (fun w b => if Nat.beq (s.estate (32 * m + b)) 5 then w + 2 ^ b else w) 0))

/-- The pair state changes with the STATE event of R508 (input 15, event 3). -/
def State.setPair (s : State) (n v : Nat) : State :=
  s.moveTo (F.chnDupStatDstate n) v 15 3 n 4 (s.leadEng n * 2 ^ 8 + s.get (F.chnDupStatStby n) * 2 ^ 16)

/-- Place a context: its lead and standby. -/
def State.place (s : State) (n lead : Nat) (stby : Option Nat) : State :=
  let s1 := (s.updChan n (fun c => { c with placed := true })).put (F.chnDupStatLead n) lead
  match stby with
  | some f => (s1.put (F.chnDupStatStby n) f).flag (F.chnDupStatStbyValid n) true
  | none => (s1.put (F.chnDupStatStby n) 0).flag (F.chnDupStatStbyValid n) false

/-- The context leaves its engines. -/
def State.unplace (s : State) (n : Nat) : State :=
  (((s.updChan n (fun c => { c with placed := false })).put (F.chnDupStatStby n) 0).flag (F.chnDupStatStbyValid n) false)

/-- Place every context of channel n by trial (R612). None when one cannot be placed. -/
def State.placeChan (s : State) (tog : List Nat) (n : Nat) : Option State :=
  (spanOf n (s.isSpan tog n)).foldl (fun r m => match r with
    | none => none
    | some s =>
      match s.tryPlace tog [m] (s.ctxLoad tog n) (s.isD tog n) with
      | (some p, s1) => some (s1.place m p.1 p.2)
      | (none, _) => none) (some s)

/-- Can the channel stay where it is placed with the load that is tried? -/
def State.stays (s : State) (tog : List Nat) (n : Nat) : Bool :=
  (spanOf n (s.isSpan tog n)).all (fun m => (s.chan m).placed && s.canTake tog [m] (s.ctxLoad tog n) (s.leadEng m)
    && (!s.isD tog n || (match s.stbyEng m with
      | some e => s.canTake tog [m] (s.ctxLoad tog n) e
      | none => false)))

/-! Admission -/

/-- Refusal codes of CHN_STAT.REFUSE. -/
def Refuse.format : Nat := 1
def Refuse.runField : Nat := 2
def Refuse.dfix : Nat := 3
def Refuse.ctxLoad : Nat := 4
def Refuse.engine : Nat := 5
def Refuse.spare : Nat := 6
def Refuse.cmp : Nat := 7
def Refuse.dram : Nat := 8
def Refuse.span : Nat := 9
def Refuse.group : Nat := 10
def Refuse.pair : Nat := 11
def Refuse.mode : Nat := 12

/-- Check 2 of R84: does a shadow change a field that cannot change while the channel runs (R86, R262)? -/
def State.runFieldBad (s : State) (n : Nat) : Bool :=
  [F.chnFmtW32 n, F.chnFmtH8 n, F.chnFmtChroma n, F.chnFmtSpan4 n, F.chnCodecCodec n, F.chnCodecNref n, F.chnDfixDfix n,
    F.chnEncVuiPrim n, F.chnEncVuiTrans n, F.chnEncVuiMatrix n, F.chnEncCfgMirror n, F.chnEncCfgHscl n].any
    (fun f => !Nat.beq (s.get f) (s.aget f))

/-- Check 3: R67, the combination rules of CHN_CODEC and R263. -/
def State.formatBad (s : State) (tog : List Nat) (n : Nat) : Bool :=
  let w := s.cg tog n F.chnFmtW32
  let h := s.cg tog n F.chnFmtH8
  let span := s.isSpan tog n
  let hevc := Nat.beq (s.cg tog n F.chnCodecCodec) 1
  !(if span then Nat.beq w 240 && Nat.beq h 540 else Nat.ble 40 w && Nat.ble w 120 && Nat.ble 90 h && Nat.ble h 270)
    || Nat.blt 12 (s.cg tog n F.chnFmtFrate) || Nat.beq (s.cg tog n F.chnFmtChroma) 3
    || (hevc && (span || !Nat.beq (s.cg tog n F.chnFmtChroma) 0))

/-- Check 4: R68; a context that a 4320p channel occupies is no channel's own. -/
def State.spanBad (s : State) (tog : List Nat) (n : Nat) : Bool :=
  !Nat.beq (s.leadOf n) n || (s.isSpan tog n && (!Nat.beq (n % 4) 0 || [n + 1, n + 2, n + 3].any s.admitted))

/-- Check 5: R70, R71. -/
def State.groupBad (s : State) (tog : List Nat) (n : Nat) : Bool :=
  let g := s.cg tog n F.chnClassAgrp
  !Nat.beq g 0 && (List.range 256).any (fun m => !Nat.beq m n && (s.admitted m || tog.contains m)
    && Nat.beq (s.cg tog m F.chnClassAgrp) g
    && !(Nat.beq (s.cg tog m F.chnFmtFrate) (s.cg tog n F.chnFmtFrate)
      && Nat.beq (s.cg tog m F.chnDfixDfix) (s.cg tog n F.chnDfixDfix)))

/-- The engine unit check of R76 on the engines that carry the channel (R478). -/
def State.ctxOver (s : State) (tog : List Nat) (n : Nat) : Bool :=
  !(s.engines.any (fun e => Nat.ble (s.ctxLoad tog n * 1700000) (unitLoad * s.engKhz e)))

/-- The engines in service without a context. -/
def State.empties (s : State) : Nat := (s.engines.filter (fun e => !s.holds [] e)).length

/-- Checks 3 to 12 of R84 for channel n, with the shadows of the channels in `tog` counted: the reason of the first failure,
or 0 with the contexts placed. In DEGRADED the spare reserve is spent (R79). -/
def State.admitBit (s : State) (tog : List Nat) (n : Nat) : Nat × State :=
  let spent := Nat.beq s.mode Mode.degraded
  if s.formatBad tog n then (Refuse.format, s)
  else if s.spanBad tog n then (Refuse.span, s)
  else if s.groupBad tog n then (Refuse.group, s)
  else
    let p := if s.stays tog n then some s else s.placeChan tog n
    if p.isNone && s.isD tog n then (Refuse.pair, s)
    else if s.ctxOver tog n then (Refuse.ctxLoad, s)
    else if !s.fitsEngines tog then (Refuse.engine, s)
    else match p with
      | none => (Refuse.spare, s)
      | some s1 =>
        if !spent && (!s.fitsSpare tog || Nat.blt s1.empties (s.get F.sysRedCfgNspare)) then (Refuse.spare, s)
        else if !s.fitsCmp tog (n / 16) then (Refuse.cmp, s)
        else if !s.fitsDram tog 0 then (Refuse.dram, s)
        else if Nat.blt (s.cg tog n F.chnDfixDfix)
            (if s.isD tog n then dminD (rowsOf (8 * s.cg tog n F.chnFmtH8)) else dminS (rowsOf (8 * s.cg tog n F.chnFmtH8)))
          then (Refuse.dfix, s)
        else (0, s1)

/-- CHN_LOAD of an admitted channel. -/
def State.showLoad (s : State) (n : Nat) : State :=
  (s.put (F.chnLoadEnc n) (min 0xFFFF (s.chanLoad [] n / 10010000000000))).put (F.chnLoadDram n)
    (min 0xFFFF ((s.chanDram [] n + s.layerDram [] n) / 8008000000000))

/-! Rows of a context that stops being a pair -/

def State.packDue (s : State) (m k j : Nat) : Nat := s.instant (s.leadOf m) k (s.releaseAt m j - paceLead (s.rows m))

/-- The row is handed to pacing, or its marker (R325, R402, R412): a live row by a PACK_ROW task. -/
def State.handOff (s : State) (m k j : Nat) : State :=
  match s.row m k j with
  | none => s
  | some r =>
    if r.lead.marker then s.updRow m k j (fun r => { r with mark := true })
    else (s.create ⟨4, m, k, j, 0, 145, s.get F.bobPrioPack, s.now, s.packDue m k j, s.decisionInstant m k j, 2, 0⟩).1

/-- Has the row, or its marker, been handed to pacing? -/
def State.handed (s : State) (m : Nat) (r : Row) : Bool :=
  let it (t : Task) : Bool := Nat.beq t.typ 4 && Nat.beq t.own m && Nat.beq t.frame r.k && Nat.beq t.row r.j
  r.ready.isSome || r.mark || s.bob.tasks.any it || s.bob.run.any (fun x => it x.2.1)

/-- Coded rows that wait for a comparison which will not come are released on the lead's result (R406, SINGLE): handed to
pacing, or replaced when the lead's check flag is set. -/
def State.settleRows (s : State) (m : Nat) : State :=
  (s.chan m).rows.foldl (fun s r =>
    if Nat.beq r.cmp 0 && Nat.beq r.lead.st 4 && Nat.beq r.dec 0 && !s.handed m r then
      (s.updRow m r.k r.j (fun r => { r with lead := { r.lead with marker := r.lead.res || r.lead.par } })).handOff m r.k r.j
    else s) s

/-- The context loses its standby, and the pair state becomes v. -/
def State.dropStandby (s : State) (m v cause : Nat) : State :=
  let s1 := s.cancelTasks cause (fun t => Nat.beq t.typ 3 && Nat.beq t.own m && Nat.beq t.which 1)
  ((((s1.put (F.chnDupStatStby m) 0).flag (F.chnDupStatStbyValid m) false).put (F.chnDupStatCatchup m) 0).setPair m
    v).settleRows m

/-! Shedding and restoring -/

/-- The whole load fits the surviving capacity (R92), the reserve spent (R79). -/
def State.fitsAll (s : State) : Bool :=
  s.fitsEngines [] && s.fitsDram [] 0 && (List.range 16).all (fun c => s.fitsCmp [] c)
    && (s.counted []).all (fun n => (s.strips n).all (fun m => (s.chan m).placed
      && Nat.ble (s.engLoad [] [] (s.leadEng m) * 1700000) (unitLoad * s.engKhz (s.leadEng m)) && s.engUp (s.leadEng m)))

/-- Channels of a class in the order of R92: ascending PRIO, descending number. -/
def State.shedOrder (s : State) (cls : Nat) : List Nat :=
  (List.range 16).flatMap (fun p => ((s.counted []).filter (fun n =>
    Nat.beq (s.aget (F.chnClassClass n)) cls && Nat.beq (s.aget (F.chnClassPrio n)) p)).reverse)

/-- Shed a channel at its next audit point (R94). -/
def State.shed (s : State) (n : Nat) : State :=
  let t := s.updChan n (fun c => { c with want := 1 })
  { t with sys := { t.sys with shedLog := n :: t.sys.shedLog } }

/-- Drop a Class D channel to simplex: DUPLEX_LOST (R92). -/
def State.dropDuplex (s : State) (n : Nat) : State :=
  let t := (s.strips n).foldl (fun s m => s.dropStandby m 4 Cancel.release) (s.flag (F.chnStatDuplexLost n) true)
  { t with sys := { t.sys with shedLog := (n + 256) :: t.sys.shedLog } }

/-- Contexts whose engine no longer takes them are placed anew where R612 finds a place (R92, R478). -/
def State.replace (s : State) : State :=
  (s.counted []).foldl (fun s n => if s.stays [] n then s else match s.placeChan [] n with
    | some t => t
    | none => s) s

/-- One reduction of R92 after another, until the load fits. -/
def State.reduce (s : State) : State :=
  let step (f : State → Nat → State) (s : State) (n : Nat) : State := if s.fitsAll then s else f s n
  let s1 := (s.shedOrder 0).foldl (step State.shed) s
  let s2 := (s1.shedOrder 2).foldl (step (fun s n => if s.is (F.chnStatDuplexLost n) then s else s.dropDuplex n)) s1
  let s3 := (s2.shedOrder 1).foldl (step State.shed) s2
  (s3.shedOrder 2).foldl (step State.shed) s3

/-- Restore in the reverse order of R92, as long as everything fits (R95). -/
def State.restoreOne (r : State × Bool) (x : Nat) : State × Bool :=
  let s := r.1
  if !r.2 then r
  else if Nat.ble 256 x then
    let n := x - 256
    let t := s.flag (F.chnStatDuplexLost n) false
    if t.fitsAll && t.fitsEngines [] then
      ((t.strips n).foldl (fun s m => s.setPair m 2) { t with sys := { t.sys with shedLog := t.sys.shedLog.tail } }, true)
    else (s, false)
  else
    let t := s.updChan x (fun c => { c with want := 2 })
    let u := if t.fitsEngines [x] && t.fitsDram [x] 0 && t.fitsCmp [x] (x / 16) then
        (if s.stays [x] x then some t else t.placeChan [x] x) else none
    match u with
    | some v => ({ v with sys := { v.sys with shedLog := v.sys.shedLog.tail } }, true)
    | none => (s, false)

/-- The capacity evaluation of R92 and R95, in DEGRADED and in step 2 of RECOVER. -/
def State.evaluate (s : State) : State :=
  let t := s.replace
  if t.fitsAll then (t.sys.shedLog.foldl State.restoreOne (t, true)).1 else t.reduce

/-- The same, made only in DEGRADED (R92, R552). -/
def State.evalDegraded (s : State) : State :=
  if Nat.beq s.mode Mode.degraded then s.evaluate.showEngines else s

end Sys2Proof.Machine
end

