-- ==== Sys2Proof/Machine/Ingest.lean ====
section
/-!
DEFINITION. Sys2Proof/Machine/Ingest.lean: live sources (chapter 05, R141 to R173): enables, paths, ST 2110-20 packets and
their merge, source rows, frame close and carry-forward, Morvolos-link capture, change masks and scroll hints.
-/

namespace Sys2Proof.Machine

def State.src (s : State) (i : Nat) : Src := Tab.get {} s.srcs i
def State.setSrc (s : State) (i : Nat) (x : Src) : State := { s with srcs := Tab.put {} s.srcs i x }
def State.updSrc (s : State) (i : Nat) (f : Src → Src) : State := s.setSrc i (f (s.src i))

/-- Source states and kinds. -/
def SState.idle : Nat := 0
def SState.wait : Nat := 1
def SState.receiving : Nat := 2
def SState.lost : Nat := 3
def State.sstate (s : State) (i : Nat) : Nat := s.get (F.ingSrcStatState i)
def State.skind (s : State) (i : Nat) : Nat := s.get (F.ingSrcCfgKind i)

/-- The loss time of path x of source i (R160). -/
def Timer.path (i x : Nat) : Nat := timerKey 23 (i * 2 + x)

/-- Low 32 bits of the linear LTC (R134). -/
def stamp (t : Int) : Nat := (t % 2 ^ 32).toNat

def State.setSstate (s : State) (i v : Nat) : State := s.moveTo (F.ingSrcStatState i) v 11 1 i 4 0

def pathUpFld (i x : Nat) : Fld := if Nat.beq x 0 then F.ingSrcStatPathAUp i else F.ingSrcStatPathBUp i

/-- A path goes up or down, with its event (R160). -/
def State.setPath (s : State) (i x : Nat) (up : Bool) : State :=
  if s.is (pathUpFld i x) == up then s
  else (s.flag (pathUpFld i x) up).stateEv 11 2 i (x + (if up then 2 else 0))

/-- The path has delivered a packet: it is up, and its loss time starts again (R160). -/
def State.pathSeen (s : State) (i x : Nat) : State :=
  (s.setPath i x true).arm (Timer.path i x) (s.get (F.ingSrcCfgLossMs i) * 1000000)

/-- Source rows of a source (64 lines each). -/
def State.srcRows (s : State) (i : Nat) : Nat := rowsOf (s.get (F.ingSrcSizeH i))

/-- Bytes and pages of one of its buffers (R150, R175). -/
def State.srcPages (s : State) (i : Nat) : Nat :=
  pagesOf ((s.get (F.ingSrcSizeW i) * s.get (F.ingSrcSizeH i) * s.srcSf i + 999) / 1000)

/-- Buffers that an enabled source reserves. -/
def State.srcBufs (s : State) (i : Nat) : Nat :=
  if s.isCamera i then s.get (F.decSrcCfgNpic i) else if Nat.beq (s.get (F.ingSrcCfgNbuf i)) 2 then 4 else 3

/-! Frame close -/

/-- The rows of F that are not complete, carried forward from L where it holds a version (R153). A copy is a HOUSEKEEPING
task; until it has completed the row is absent (R420). -/
def State.carryRow (s : State) (i : Nat) (x : Src) (r : Nat) : State :=
  match x.lRows.find? (fun v => Nat.beq v.1 r) with
  | some v =>
    if v.2.absent then s
    else (s.create ⟨6, i, x.fno, r, 0, 146, s.get F.bobPrioHk, s.now, s.now + 200000, 0, 2, 0⟩).1
  | none => s

/-- F closes (R152, R153, R161): L takes its rows, with the rest carried or absent; the former L is freed; the counters
and the stamp follow. -/
def State.closeFrame (s : State) (i : Nat) : State :=
  let x := s.src i
  if !x.isOpen then s
  else
    let n := s.srcRows i
    let missing := (List.range n).filter (fun r => (x.fRows.find? (fun v => Nat.beq v.1 r)).isNone)
    let absent (r : Nat) : Nat × Ver := (r, ⟨x.fno, s.now, 0, 0, false, false, true⟩)
    let s1 := missing.foldl (fun s r => s.carryRow i x r) s
    let lost := if Nat.beq (s.skind i) 3 then
        ((List.range (s.get (F.ingSrcSizeH i))).filter (fun l =>
          Nat.blt ((x.got.filter (fun g => Nat.beq g.1 l)).map (fun g => g.2.2)).sum (s.get (F.ingSrcSizeW i)))).length
      else if Nat.beq x.nseq 0 then 0 else ((x.seq1 + 2 ^ 32 - x.seq0) % 2 ^ 32 + 1) - x.nseq
    let y : Src := { x with
      isOpen := false
      lRows := x.fRows ++ missing.map absent
      hasL := true
      lno := x.fno
      fRows := []
      got := []
      nseq := 0
      fno := x.fno + 1 }
    let s2 := (s1.setSrc i y).markBufs (fun b => Nat.beq b.pool 0 && Nat.beq b.own i && !Nat.beq b.tag x.fno)
      (fun b => { b with held := false })
    let s3 := ((s2.bump (F.ingSrcCntFrames i) 1).put (F.ingSrcStatFrame i) (s2.get (F.ingSrcStatFrame i) + 1)).put
      (F.ingSrcCaptStamp i) x.fcapt
    let s4 := (s3.cond (!missing.isEmpty) (fun s => s.bump (F.ingSrcCntIncomplete i) 1)).bump (F.ingSrcCntPktLost i) lost
    s4.put (F.ingSrcChgTiles i) ((x.chg.map (fun c => ((List.range 512).filter (fun b => Nat.testBit c.2 b)).length)).sum)

/-- CARRY_FORWARD_COMPLETE (R153): DRAM helper e has copied the row's newest version from the former L; the row is
carried, with that version's capture time. -/
def State.carryDone (s : State) (e : Nat) : State :=
  match s.running e with
  | some t =>
    let x := s.src t.own
    let s1 := s.release e
    if Nat.beq t.typ 6 && Nat.beq t.which 0 && Nat.beq x.lno t.frame then
      s1.setSrc t.own { x with lRows := x.lRows.map (fun v =>
        if Nat.beq v.1 t.row && v.2.absent then (v.1, { v.2 with carried := true, absent := false }) else v) }
    else s1
  | none => s

def execCarryForwardComplete (e : Nat) (s : State) : Host.Outcome State Fault Refusal := .next (s.carryDone (168 + e % 4))

/-! Source rows -/

/-- Has line l received exactly W samples? -/
def Src.lineFull (x : Src) (w l : Nat) : Bool := Nat.beq ((x.got.filter (fun g => Nat.beq g.1 l)).map (fun g => g.2.2)).sum w

/-- A source row completes (R151): its instant is recorded and its INGEST_ROW task created (R418). -/
def State.rowDone (s : State) (i r : Nat) : State :=
  let x := s.src i
  let v : Ver := ⟨x.fno, s.now, x.fcapt, x.fcapt, false, false, false⟩
  ((s.setSrc i { x with fRows := x.fRows ++ [(r, v)] }).create
    ⟨0, i, x.fno, r, 0, 144, s.get F.bobPrioIng, s.now, s.now + 50000, 0, 2, 0⟩).1

/-- The rows that are now complete are recorded; with every row complete the frame closes (R151, R152). -/
def State.checkRows (s : State) (i : Nat) : State :=
  let x := s.src i
  let w := s.get (F.ingSrcSizeW i)
  let h := s.get (F.ingSrcSizeH i)
  let s1 := s.each ((List.range (s.srcRows i)).filter (fun r => (x.fRows.find? (fun v => Nat.beq v.1 r)).isNone
    && (List.range (min 64 (h - 64 * r))).all (fun l => x.lineFull w (64 * r + l)))) (fun s r => s.rowDone i r)
  if Nat.beq (s1.src i).fRows.length (s.srcRows i) then s1.closeFrame i else s1

/-- INGEST_ROW_COMPLETE (R169, R171, R418): ingest row unit e has the row's change bits, a bit per tile of 32 × 32, and its
scroll hints: region, dx, dy, confidence. -/
def State.ingestDone (s : State) (e mask : Nat) (hints : List (Nat × Int × Int × Nat)) : State :=
  match s.running e with
  | some t =>
    let x := s.src t.own
    let s1 := (s.release e).setSrc t.own { x with
      chg := (x.chg.filter (fun c => !Nat.beq c.1 t.row)) ++ [(t.row, mask)]
      chgF := (x.chgF.filter (fun c => !Nat.beq c.1 t.row)) ++ [(t.row, t.frame)]
      hints := (x.hints.filter (fun c => !Nat.beq c.1 t.row)) ++ [(t.row, hints)] }
    let s2 := s1.cond (Nat.beq x.lno t.frame && x.hasL) (fun s => s.put (F.ingSrcChgTiles t.own)
      (((s.src t.own).chg.map (fun c => ((List.range 512).filter (fun b => Nat.testBit c.2 b)).length)).sum))
    if s.is (F.ingSrcCfgScrlEn t.own) then
      s2.each (List.range 4) (fun s r => match hints.find? (fun h => Nat.beq h.1 r) with
        | some h => (((s.put (F.ingSrcScrlResDx t.own r) (unsignedOf 9 h.2.1)).put (F.ingSrcScrlResDy t.own r)
            (unsignedOf 9 h.2.2.1)).put (F.ingSrcScrlResConf t.own r) h.2.2.2).flag (F.ingSrcScrlResValid t.own r) true
        | none => if Nat.beq (s.get (F.ingSrcScrlDimW t.own r)) 0 then s else s.flag (F.ingSrcScrlResValid t.own r) false)
    else s2
  | none => s

def execIngestRowComplete (e mask : Nat) (hints : List (Nat × Int × Int × Nat)) (s : State) :
    Host.Outcome State Fault Refusal := .next (s.ingestDone (144 + e % 16) mask hints)

/-! Loss and return -/

/-- Every enabled path that feeds the source is down (R158, R160). -/
def State.feedsDown (s : State) (i : Nat) : Bool :=
  !s.is (F.ingSrcStatPathAUp i) && !(s.is (F.ingSrcCfgMerge i) && s.is (F.ingSrcStatPathBUp i))

/-- The source enters LOST (R160), which closes its frame (R152). -/
def State.loseSource (s : State) (i : Nat) : State := ((s.closeFrame i).setSstate i 3).raiseLevel (Src.srcLost i)

/-- An accepted packet of a LOST source (R160). -/
def State.findSource (s : State) (i : Nat) : State :=
  if Nat.beq (s.sstate i) 3 then (s.setSstate i 2).unraise (Src.srcLost i) else s

/-! Merge -/

/-- Is sequence number a lower than b, by serial arithmetic on 32 bits? -/
def seqLess (a b : Nat) : Bool := !Nat.beq a b && Nat.blt ((b + 2 ^ 32 - a % 2 ^ 32) % 2 ^ 32) (2 ^ 31)

/-- The fate of a packet under R158: 0 accepted, 1 duplicate, 2 late. -/
def State.mergeFate (s : State) (i seq : Nat) : Nat :=
  let x := s.src i
  if x.seqs.contains seq then 1
  else match x.hi with
    | some h => if s.is (F.ingSrcCfgMerge i) && seqLess seq h
        && Nat.blt (x.hiAt + s.get (F.ingSrcMergeSkewUs i) * 1000) s.now then 2 else 0
    | none => 0

/-- A packet is accepted (R158): counted by its path, its number kept. -/
def State.acceptPkt (s : State) (i x seq : Nat) : State :=
  let c := s.src i
  let higher := match c.hi with
    | some h => seqLess h seq
    | none => true
  let y : Src := { c with
    seqs := (seq :: c.seqs).take 65536
    hi := if higher then some seq else c.hi
    hiAt := if higher then s.now else c.hiAt
    seq0 := if Nat.beq c.nseq 0 || seqLess seq c.seq0 then seq else c.seq0
    seq1 := if Nat.beq c.nseq 0 || seqLess c.seq1 seq then seq else c.seq1
    nseq := c.nseq + 1 }
  ((s.setSrc i y).bump (if Nat.beq x 0 then F.ingSrcCntPathFirstA i else F.ingSrcCntPathFirstB i) 1).findSource i

/-- What R158 and R160 do with a packet of path x before its content is looked at: some state when the packet goes on. -/
def State.mergeIn (s : State) (i x seq : Nat) : State × Bool :=
  if Nat.beq x 1 && !s.is (F.ingSrcCfgMerge i) then ((s.pathSeen i x).bump (F.ingSrcCntPktDup i) 1, false)
  else match s.mergeFate i seq with
    | 1 => ((s.pathSeen i x).bump (F.ingSrcCntPktDup i) 1, false)
    | 2 => (s.bump (F.ingSrcCntPktLate i) 1, false)
    | _ => (s, true)

/-! Capture time -/

/-- The capture time of a frame whose first packet arrives now (R136, R157), and whether its timestamp lies in the future. -/
def State.captureOf (s : State) (i ts : Nat) : Nat × Bool :=
  if s.is (F.ingSrcCfgCbase i) then
    let a := s.ltc
    let m := (a * 90000 / 1000000000 % 2 ^ 32).toNat
    let d := (m + 2 ^ 32 - ts % 2 ^ 32) % 2 ^ 32
    if Nat.ble (2 ^ 31) d then (stamp a, true) else (stamp (a - ((d * 1000000000 / 90000 : Nat) : Int)), false)
  else (stamp s.ltc, false)

/-- A new frame starts with the packet that arrives now (R149, R154, R157): a buffer is taken, or its packets are
discarded. -/
def State.openFrame (s : State) (i ts : Nat) : State :=
  let x := s.src i
  let c := s.captureOf i ts
  match s.takeBuf 0 i x.fno false false (s.srcPages i) with
  | some t =>
    (t.setSrc i { x with isOpen := true, nobuf := false, fts := ts, fcapt := c.1, got := [], fRows := [], nseq := 0 }).cond
      c.2 (fun s => s.bump (F.ingSrcCntCaptBad i) 1)
  | none => s.setSrc i { x with isOpen := false, nobuf := true, fts := ts }

/-! ST 2110-20 -/

/-- Does a segment break R148? -/
def State.segBad (s : State) (i : Nat) (g : Nat × Nat × Nat) : Bool :=
  let x := s.src i
  Nat.ble (s.get (F.ingSrcSizeH i)) g.1 || Nat.blt (s.get (F.ingSrcSizeW i)) (g.2.1 + g.2.2)
    || x.got.any (fun o => Nat.beq o.1 g.1 && Nat.blt o.2.1 (g.2.1 + g.2.2) && Nat.blt g.2.1 (o.2.1 + o.2.2))

/-- The samples of an accepted packet enter F (R151). -/
def State.writeSegs (s : State) (i : Nat) (l : List (Nat × Nat × Nat)) : State :=
  (s.updSrc i (fun x => { x with got := x.got ++ l })).checkRows i

/-- A packet of a RECEIVING or LOST source, or the one that ends WAIT (R148, R149, R154, R158). -/
def State.videoIn (s : State) (i : Nat) (p : VideoPkt) : State :=
  let m := s.mergeIn i p.path p.seq
  if !m.2 then m.1
  else
    let x := m.1.src i
    let newer := !(x.isOpen || x.nobuf) && (!x.hasL || seqLess x.fts p.ts) || ((x.isOpen || x.nobuf) && seqLess x.fts p.ts)
    let same := (x.isOpen || x.nobuf) && Nat.beq x.fts p.ts
    if !newer && !same then m.1.bump (F.ingSrcCntPktLate i) 1
    else
      let s1 := if newer then (m.1.closeFrame i).openFrame i p.ts else m.1
      if (s1.src i).nobuf then s1.bump (F.ingSrcCntNobuf i) 1
      else if p.segs.any (s1.segBad i) then s1.bump (F.ingSrcCntBadHdr i) 1
      else ((s1.pathSeen i p.path).acceptPkt i p.path p.seq).writeSegs i p.segs

/-- ST2110_PACKET_RECEIVED (R146 to R161). -/
def State.videoPacket (s : State) (i : Nat) (p : VideoPkt) : State :=
  let x := p.path % 2
  if !s.srcOn i || !Nat.beq (s.skind i) 1 || !s.is (F.ingSrcPathEn i x) then s
  else if Nat.beq (s.sstate i) 1 && !(Nat.beq x 1 && !s.is (F.ingSrcCfgMerge i)) then
    let s1 := s.pathSeen i x
    if !Nat.beq p.pt (s.get (F.ingSrcFmtPt i)) then s1.bump (F.ingSrcCntBadHdr i) 1
    else if (s1.src i).marked then (s1.setSstate i 2).videoIn i p
    else (s1.updSrc i (fun y => { y with marked := p.marker })).bump (F.ingSrcCntPktLate i) 1
  else if !Nat.beq p.pt (s.get (F.ingSrcFmtPt i)) then s.bump (F.ingSrcCntBadHdr i) 1
  else s.videoIn i { p with path := x }

def execSt2110PacketReceived (i : Nat) (p : VideoPkt) (s : State) : Host.Outcome State Fault Refusal :=
  .next (s.videoPacket (i % 512) p)

/-! Morvolos link -/

/-- The fate of a packet that came with a credit (R164). -/
def State.mvIn (s : State) (i : Nat) (p : MvPkt) : State :=
  let x := s.src i
  if !p.crc then s.bump (F.ingSrcCntCrcErr i) 1
  else if Nat.beq p.typ 1 then
    if Nat.beq p.a (s.get (F.ingSrcSizeW i)) && Nat.beq p.b (s.get (F.ingSrcSizeH i)) && Nat.beq p.c (s.get (F.ingSrcFmtFrate i))
    then
      let s1 := ((s.cond (Nat.beq (s.sstate i) 1) (fun s => s.setSstate i 2)).findSource i).closeFrame i
      let s2 := s1.openFrame i p.frame
      if (s2.src i).nobuf then s2.bump (F.ingSrcCntNobuf i) 1 else s2.bump (F.ingSrcCntPathFirstA i) 1
    else (s.closeFrame i).bump (F.ingSrcCntBadHdr i) 1
  else if x.nobuf && Nat.beq x.fts p.frame then s.bump (F.ingSrcCntNobuf i) 1
  else if !x.isOpen || !Nat.beq x.fts p.frame then s.bump (F.ingSrcCntPktLate i) 1
  else if Nat.beq p.typ 3 then ((s.findSource i).bump (F.ingSrcCntPathFirstA i) 1).closeFrame i
  else if !Nat.beq p.typ 2 || !Nat.beq (p.b % 2) 0 || !Nat.beq (p.c % 5) 0 || Nat.blt p.c 5 || Nat.blt 2000 p.c
      || s.segBad i (p.a, p.b, p.c / 5 * 2) then s.bump (F.ingSrcCntBadHdr i) 1
  else ((s.findSource i).bump (F.ingSrcCntPathFirstA i) 1).writeSegs i [(p.a, p.b, p.c / 5 * 2)]

/-- MORVOLOS_PACKET_RECEIVED (R163 to R165): a packet without a credit is discarded; the credit of any other one returns. -/
def State.mvPacket (s : State) (i : Nat) (p : MvPkt) : State :=
  let l := s.get (F.ingSrcPathLane i 0)
  if !s.srcOn i || !Nat.beq (s.skind i) 3 || !s.laneUp l then s
  else if Nat.beq (s.lane l).cred 0 then s.bump (F.ingSrcCntCreditOvf i) 1
  else
    let s1 := s.pathSeen i 0
    if Nat.beq (s.sstate i) 1 && !(Nat.beq p.typ 1 && p.crc) then
      if p.crc then s1.bump (F.ingSrcCntPktLate i) 1 else s1.bump (F.ingSrcCntCrcErr i) 1
    else s1.mvIn i p

def execMorvolosPacketReceived (i : Nat) (p : MvPkt) (s : State) : Host.Outcome State Fault Refusal :=
  .next (s.mvPacket (i % 512) p)

/-! Enables -/

/-- FORMAT of R145, R147, R166 and R175. -/
def State.srcFormatBad (s : State) (i : Nat) : Bool :=
  let w := s.get (F.ingSrcSizeW i)
  let h := s.get (F.ingSrcSizeH i)
  let size := Nat.beq (w % 2) 0 && Nat.ble 320 w && Nat.ble w 3840 && Nat.ble 180 h && Nat.ble h 2160
  match s.skind i with
  | 1 => !size || Nat.blt 12 (s.get (F.ingSrcFmtFrate i))
  | 2 => !size || !Nat.beq (h % 2) 0 || Nat.blt 12 (s.get (F.ingSrcFmtFrate i))
  | 3 => !((Nat.beq w 1280 && Nat.beq h 720) || (Nat.beq w 1920 && Nat.beq h 1080)) || Nat.beq (s.get (F.ingSrcFmtSamp i)) 1
      || Nat.blt 12 (s.get (F.ingSrcFmtFrate i))
  | _ => true

/-- The enabled paths of a source. -/
def State.srcPaths (s : State) (i : Nat) : List Nat := [0, 1].filter (fun x => s.is (F.ingSrcPathEn i x))

/-- DUP_FLOW: another enabled flow on the lane is the same (R145). -/
def State.dupFlow (s : State) (i : Nat) : Bool :=
  (s.srcPaths i).any (fun x => (List.range 512).any (fun k => [0, 1].any (fun y =>
    !(Nat.beq k i && Nat.ble x y) && (Nat.beq k i || s.srcPathOn k y (s.get (F.ingSrcPathLane i x)))
      && s.is (F.ingSrcPathEn k y) && Nat.beq (s.get (F.ingSrcPathLane k y)) (s.get (F.ingSrcPathLane i x))
      && Nat.beq (s.get (F.ingSrcGrpAddr k y)) (s.get (F.ingSrcGrpAddr i x))
      && Nat.beq (s.get (F.ingSrcUdpPort k y)) (s.get (F.ingSrcUdpPort i x))
      && Nat.beq (s.get (F.ingSrcPathVlan k y)) (s.get (F.ingSrcPathVlan i x))
      && Nat.beq (s.get (F.ingSrcFltAddr k y)) (s.get (F.ingSrcFltAddr i x)))))

/-- Pages that the enabled sources reserve. -/
def State.reserved (s : State) : Nat :=
  (((List.range 512).filter s.srcOn).map (fun k => s.srcBufs k * s.srcPages k)).sum

/-- The first failing check of R145, 0 when all pass. -/
def State.srcRefuse (s : State) (i : Nat) : Nat :=
  let paths := s.srcPaths i
  let lane (x : Nat) : Nat := s.get (F.ingSrcPathLane i x)
  let mv := Nat.beq (s.skind i) 3
  if s.srcFormatBad i then 1
  else if !s.is (F.ingSrcPathEn i 0) || paths.any (fun x => !Nat.beq (s.portLane (lane x)) (lane x)) then 8
  else if paths.any (fun x => if mv then !s.laneMorvolos (lane x) else !s.laneEthernet (lane x)) then 2
  else if !mv && paths.any (fun x => Nat.blt (s.flowLimit (lane x))
      (s.flowCount (lane x) + (paths.filter (fun y => Nat.beq (lane y) (lane x))).length)) then 3
  else if !mv && s.dupFlow i then 4
  else if mv && Nat.blt (72 * (if Nat.beq (s.get (F.lnkCfgMode (lane 0))) 4 then 6250000000 else 3125000000) * 1001 * 10)
      (s.srcRate i * 20 * 1007) then 5
  else if (mv && (s.is (F.ingSrcCfgMerge i) || s.is (F.ingSrcCfgCbase i)))
      || (s.is (F.ingSrcCfgMerge i) && !s.is (F.ingSrcPathEn i 1)) then 6
  else if Nat.blt (s.get (F.sysPoolSizePages 0)) (s.reserved + s.srcBufs i * s.srcPages i) then 7
  else 0

/-- Counters that an enable clears (R173, R194). -/
def State.clearSrcCounts (s : State) (i : Nat) : State :=
  let s1 := s.each (List.range 13) (fun s k => s.setWord (0x00401100 + i * 0x400 + 4 * k) 0)
  s1.each (List.range 13) (fun s k => s.setWord (R.decSrcCntAuRx i + 4 * k) 0)

def State.setDecState (s : State) (i v : Nat) : State :=
  s.moveTo (F.decSrcStatDstate i) v 12 1 i 4 (s.get (F.decSrcConcCause i) * 2 ^ 8)

/-- Channels that keep a camera source decoding (R193). -/
def State.showing (s : State) (i : Nat) : Bool :=
  s.shownBy ((List.range 256).filter (fun n => [1, 2, 4].contains (s.chState n))) i

/-- DEC_LOAD (R75, R193). -/
def State.showDec (s : State) : State :=
  let l := (List.range 512).filter (fun i => [1, 2, 3].contains (s.get (F.decSrcStatDstate i)))
  (s.put F.decLoadActive l.length).put F.decLoadLoad (min 0xFFFF ((l.map (fun i => s.srcRate i * 3000)).sum / 10010000000000))

/-- The check of an enable (R145) and what follows it: WAIT with every path down, its reports (R143), or the refusal. -/
def State.srcCheck (s : State) (i : Nat) : State :=
  let r := s.srcRefuse i
  let s0 := s.setSrc i {}
  if Nat.beq r 0 then
    let s1 := ((s0.clearSrcCounts i).flag (F.ingSrcCfgEn i) true).put (F.ingSrcStatFrame i) 0
    let s2 := ((s1.flag (F.ingSrcStatPathAUp i) false).flag (F.ingSrcStatPathBUp i) false).setSstate i 1
    let s3 := if Nat.beq (s2.skind i) 3 then s2 else s2.each (s2.srcPaths i) (fun s x =>
      s.igmpChange (s.get (F.ingSrcPathLane i x)) (s.get (F.ingSrcPathVlan i x)) (s.get (F.ingSrcGrpAddr i x)) 0)
    if s3.isCamera i then (s3.setDecState i (if s3.showing i then 1 else 4)).showDec else s3
  else (((s0.flag (F.ingSrcCfgEn i) false).put (F.ingSrcStatErr i) r).flag (F.ingSrcStatRefused i) true).refusalEv 11 3 i r

/-- SOURCE_ENABLE_CHECK: at the next tick (R145, R609). -/
def execSourceEnableCheck (i : Nat) (s : State) : Host.Outcome State Fault Refusal :=
  .next (if (s.src (i % 512)).enWait then s.tick.srcCheck (i % 512) else s)

/-- EN = 0 (R152, R193): the frame closes, the buffers return, the reports leave, the decoder is OFF. -/
def State.srcDisable (s : State) (i : Nat) : State :=
  if !s.srcOn i then (s.updSrc i (fun x => { x with enWait := false }))
  else
    let s1 := if Nat.beq (s.skind i) 3 then s else s.each (s.srcPaths i) (fun s x =>
      s.igmpChange (s.get (F.ingSrcPathLane i x)) (s.get (F.ingSrcPathVlan i x)) (s.get (F.ingSrcGrpAddr i x)) 1)
    let s2 := (((s1.closeFrame i).setSstate i 0).unraise (Src.srcLost i)).cancelTasks Cancel.release
      (fun t => Nat.beq t.typ 1 && Nat.beq t.own i)
    let s3 := ((s2.disarm (Timer.path i 0)).disarm (Timer.path i 1)).dropBufs (fun b => Nat.beq b.pool 0 && Nat.beq b.own i)
    let s4 := ((s3.flag (F.ingSrcStatPathAUp i) false).flag (F.ingSrcStatPathBUp i) false).setSrc i {}
    ((s4.setDecState i 0).put (F.decSrcStatQueued i) 0).showDec

/-- A write of ING_SRC_CFG (R144, R145, R152): EN = 1 waits for its check; EN = 0 disables; KIND is written only while
EN = 0. -/
def State.writeSrcCfg (s : State) (i : Nat) (v : Word) : State :=
  let was := s.is (F.ingSrcCfgEn i)
  let s1 := s.store (R.ingSrcCfg i) v (if was then 0xFFFFFFFC else allBits)
  if s1.is (F.ingSrcCfgEn i) && !was then s1.updSrc i (fun x => { x with enWait := true })
  else if !s1.is (F.ingSrcCfgEn i) && was then s1.srcDisable i
  else s1

/-- SOURCE_ENABLE: port h writes ING_SRC_CFG of source i with EN = 1. -/
def execSourceEnable (h i : Nat) (v : Word) (s : State) : Host.Outcome State Fault Refusal :=
  .next (s.takeWrite h (R.ingSrcCfg (i % 512)) (setBitsAt v 2 1 1) false
    (fun s => s.writeSrcCfg (i % 512) (setBitsAt v 2 1 1)))

/-- SOURCE_DISABLE: port h writes ING_SRC_CFG of source i with EN = 0. -/
def execSourceDisable (h i : Nat) (v : Word) (s : State) : Host.Outcome State Fault Refusal :=
  .next (s.takeWrite h (R.ingSrcCfg (i % 512)) (setBitsAt v 2 1 0) false
    (fun s => s.writeSrcCfg (i % 512) (setBitsAt v 2 1 0)))

end Sys2Proof.Machine
end

