-- ==== Sys2Proof/Machine/Camera.lean ====
section
/-!
DEFINITION. Sys2Proof/Machine/Camera.lean: camera streams (chapter 06, R174 to R194): access units, their queue and decode
tasks, concealment, resynchronisation and parking, and the loss of a path (R160). What a bitstream spells comes with the
packet that ends the access unit.
-/

namespace Sys2Proof.Machine

def DState.off : Nat := 0
def DState.waitRap : Nat := 1
def DState.decoding : Nat := 2
def DState.concealing : Nat := 3
def DState.parked : Nat := 4
def State.decState (s : State) (i : Nat) : Nat := s.get (F.decSrcStatDstate i)

/-- The counter of each cause of concealment (R186). -/
def State.countCause (s : State) (i cause : Nat) : State :=
  match cause with
  | 1 => s.bump (F.decSrcCntRefMissing i) 1
  | 2 => s.bump (F.decSrcCntSliceLost i) 1
  | 3 => s.bump (F.decSrcCntSyntax i) 1
  | 4 => s.bump (F.decSrcCntAuDrop i) 1
  | 5 => s.bump (F.decSrcCntOversize i) 1
  | _ => s

/-- A cause of concealment comes up while DEC decodes (R186, R187): from DECODING it starts concealment. -/
def State.conceal (s : State) (i cause : Nat) : State :=
  if Nat.beq (s.decState i) 2 then
    ((((s.put (F.decSrcConcCause i) cause).put (F.decSrcConcPics i) 0).bump (F.decSrcCntConcEnter i) 1).setDecState i 3)
  else s

/-- The picture in decode is damaged from source row r on (R188). -/
def State.damageAt (s : State) (i r : Nat) : State :=
  s.updSrc i (fun x => { x with damage := some (match x.damage with
    | some d => min d r
    | none => r) })

/-- A slice is lost (R182, R186). -/
def State.sliceLost (s : State) (i r : Nat) : State :=
  ((s.countCause i 2).conceal i 2).damageAt i r

/-! Queue and tasks -/

def State.showQueue (s : State) (i : Nat) : State :=
  s.put (F.decSrcStatQueued i) (((s.src i).queue.filter (fun q => !q.begun)).length)

/-! Parking -/

/-- DEC drops what waits: the tasks and access units of the source (R193, R424). -/
def State.dropAus (s : State) (i : Nat) : State :=
  ((s.cancelTasks Cancel.release (fun t => Nat.beq t.typ 1 && Nat.beq t.own i)).updSrc i (fun x => { x with
    queue := [], eng := 0, damage := none, recov := none })).showQueue i

/-- A camera source with no showing layer parks once no access unit is in decode, and one that is shown again leaves PARKED
for WAIT_RAP (R193). -/
def State.parkCheck (s : State) (i : Nat) : State :=
  if s.isCamera i && s.srcOn i then
    if s.showing i then
      if Nat.beq (s.decState i) 4 then (s.setDecState i 1).showDec else s
    else if !Nat.beq (s.decState i) 4 && !((s.src i).queue.any (fun q => q.begun)) then
      ((s.dropAus i).setDecState i 4).showDec
    else s
  else s

def State.parkAll (s : State) : State := s.each (List.range 512) State.parkCheck

/-! Decode -/

/-- The buffer of the picture that decode begins (R184). -/
def State.takePicture (s : State) (i : Nat) : State :=
  match s.takeBuf 0 i (s.src i).fno false false (s.srcPages i) with
  | some t => t
  | none => s

/-- The access unit in decode has begun on engine e: its later slices are bound to it (R182, R422), and a buffer is taken for
the picture (R184). -/
def State.bindSlices (s : State) (i pic e : Nat) : State :=
  let b : BobSt := { s.bob with tasks := s.bob.tasks.map (fun t =>
    if Nat.beq t.typ 1 && Nat.beq t.own i && Nat.beq t.frame pic then { t with list := e, stage := 2 } else t) }
  let s1 := ({ s with bob := b } : State).takePicture i
  ((s1.updSrc i (fun x => { x with
    eng := e + 1
    queue := x.queue.map (fun q => if Nat.beq q.no pic then { q with begun := true } else q)
    isOpen := true })).showQueue i).showDepth e

/-- The version of a row of the picture that closes (R188): intact rows stand before the damage, but for the one above it. -/
def closeVer (s : State) (i : Nat) (q : Queued) (concealing : Bool) (r : Nat) : Ver :=
  let x := s.src i
  let at_ := match x.fRows.find? (fun v => Nat.beq v.1 r) with
    | some v => v.2.at_
    | none => s.now
  let bad := match x.damage with
    | some d => Nat.ble d (r + 1)
    | none => false
  let c := concealing || bad
  let old := match x.intact.find? (fun v => Nat.beq v.1 r) with
    | some v => v.2
    | none => 0
  ⟨x.fno, at_, q.capt, if c then old else q.capt, false, c, false⟩

/-- The picture closes (R183, R188, R190): L takes it; DEC leaves WAIT_RAP or concealment at a random-access point whose
slices all decoded intact; after a recovery point it decodes on in concealment. -/
def State.closePicture (s : State) (i : Nat) (q : Queued) (rest : List Queued) : State :=
  let x := s.src i
  let intactPic := !q.lost && x.damage.isNone
  let rap := !Nat.beq q.au.rap 0
  let ok := rap && intactPic && q.au.supp
  let s0 := s.bump (F.decSrcCntAuDec i) 1
  let s1 := if ok then
      if Nat.beq q.au.rap 3 && Nat.blt 0 q.au.frames then
        let a := (s0.put (F.decSrcConcCause i) 6).updSrc i (fun y => { y with recov := some q.au.frames })
        if Nat.beq (a.decState i) 3 then a
        else ((a.put (F.decSrcConcPics i) 0).bump (F.decSrcCntConcEnter i) 1).setDecState i 3
      else ((s0.put (F.decSrcConcCause i) 0).updSrc i (fun y => { y with recov := none, rasl := Nat.beq q.au.rap 2 })).setDecState i 2
    else match x.recov with
      | some n =>
        if intactPic && Nat.ble n 1 then
          ((s0.put (F.decSrcConcCause i) 0).updSrc i (fun y => { y with recov := none })).setDecState i 2
        else s0.updSrc i (fun y => { y with recov := if intactPic then some (n - 1) else none })
      | none => s0
  let wasWait := Nat.beq (s1.decState i) 1
  let conc := Nat.beq (s1.decState i) 3 && (Nat.beq (s.decState i) 3 && x.damage.isNone || ok)
  let rows := (List.range (s.srcRows i)).map (fun r => (r, closeVer s i q (conc || (Nat.beq (s.decState i) 3 && !ok
    && Nat.blt 0 (s.get (F.decSrcConcPics i)))) r))
  let anyC := rows.any (fun r => r.2.concealed)
  let s2 := s1.cond (Nat.beq (s1.decState i) 3) (fun s => s.sat (F.decSrcConcPics i) 1)
  let s3 := s2.cond (anyC && !wasWait) (fun s => s.bump (F.decSrcCntConcPic i) 1)
  let y := s3.src i
  let s4 := if wasWait then
      s3.setSrc i { y with queue := rest, eng := 0, damage := none, isOpen := false, fRows := [] }
    else
      let z : Src := { y with
        queue := rest
        eng := 0
        damage := none
        isOpen := false
        fRows := []
        lRows := rows
        hasL := true
        lno := y.fno
        fno := y.fno + 1
        intact := rows.map (fun r => (r.1, if r.2.concealed then r.2.intact else r.2.capt)) }
      (((s3.setSrc i z).bump (F.ingSrcCntFrames i) 1).put (F.ingSrcStatFrame i) (s3.get (F.ingSrcStatFrame i) + 1)).put
        (F.ingSrcCaptStamp i) q.capt
  -- L, and pictures that the stream keeps for reference (mark D, R184); the other buffers return
  let s5 := s4.markBufs (fun b => Nat.beq b.pool 0 && Nat.beq b.own i) (fun b => { b with
    held := (if wasWait then y.hasL && Nat.beq b.tag y.lno else Nat.beq b.tag y.fno)
    d := (if Nat.beq b.tag y.fno then q.au.ref && !wasWait else b.d && Nat.ble y.fno (b.tag + q.au.keep)) })
  (s5.showQueue i).parkCheck i

/-- The access unit at the front of the queue gets its DECODE_SLICE tasks (R181, R182): the first slice on the shared
list, the later ones waiting for its engine; a slice that did not arrive whole is lost. A task without a credit makes its
slice lost (R428). -/
def State.startAu (s : State) (i : Nat) (q : Queued) (rest : List Queued) : State :=
  let due := q.first + 1000000000 * rateDen (s.get (F.ingSrcFmtFrate i)) / rateNum (s.get (F.ingSrcFmtFrate i))
  let idx := (List.range q.au.slices.length).filter (fun k => (q.au.slices.getD k ⟨false, 0, 0⟩).whole)
  let r := idx.foldl (fun (a : State × Nat) k =>
    let c := a.1.create ⟨1, i, q.no, k, 0, 147, s.get F.decCtlPrio, s.now, due, 0, if Nat.beq a.2 0 then 2 else 1, 0⟩
    if c.2 then (c.1, a.2 + 1) else (c.1.sliceLost i (q.au.slices.getD k ⟨false, 0, 0⟩).row, a.2)) (s, 0)
  let gone := q.au.slices.filter (fun k => !k.whole)
  let s1 := gone.foldl (fun s k => s.sliceLost i k.row) r.1
  s1.updSrc i (fun x => { x with
    queue := { q with left := r.2, lost := !gone.isEmpty || Nat.blt r.2 idx.length, started := true } :: rest })

/-- DEC comes to the front of the queue: in WAIT_RAP an access unit that is no random-access point is discarded (R191), and
a RASL picture of the CRA or BLA picture before it (R190); another one starts, and closes at once where no slice of it is
left to decode. -/
def State.runQueue (s : State) (i : Nat) : Nat → State
  | 0 => s
  | f + 1 =>
    match (s.src i).queue with
    | [] => s
    | q :: rest =>
      if q.started then s
      else if Nat.beq (s.decState i) 1 && Nat.beq q.au.rap 0 then
        (((s.bump (F.decSrcCntWaitAu i) 1).updSrc i (fun x => { x with queue := rest })).showQueue i).runQueue i f
      else if q.au.rasl && (s.src i).rasl then
        (((s.bump (F.decSrcCntRaslSkip i) 1).updSrc i (fun x => { x with queue := rest })).showQueue i).runQueue i f
      else
        let t := s.startAu i q rest
        match (t.src i).queue with
        | y :: ys => if Nat.beq y.left 0 then ((t.takePicture i).closePicture i y ys).runQueue i f else t
        | [] => t

/-- With every slice decoded or concealed the picture closes, and the next access unit comes to the front (R183). -/
def State.pictureCheck (s : State) (i : Nat) : State :=
  match (s.src i).queue with
  | q :: rest => if Nat.beq q.left 0 then (s.closePicture i q rest).runQueue i (rest.length + 1) else s
  | [] => s

/-- The oldest waiting access unit leaves a full queue (R185). -/
def State.makeRoom (s : State) (i : Nat) : State :=
  let waiting := (s.src i).queue.filter (fun q => !q.begun)
  match Nat.ble (s.get (F.decSrcCfgQdepth i)) waiting.length, waiting with
  | true, q :: _ =>
    let s1 := s.cancelTasks Cancel.release (fun t => Nat.beq t.typ 1 && Nat.beq t.own i && Nat.beq t.frame q.no)
    let s2 := (s1.updSrc i (fun x => { x with
      queue := x.queue.filter (fun y => !Nat.beq y.no q.no)
      damage := if q.started then none else x.damage })).countCause i 4
    if q.au.ref then s2.conceal i 4 else s2
  | _, _ => s

/-- A complete access unit joins the queue (R180, R185). -/
def State.queueAu (s : State) (i : Nat) (au : CamAu) (first capt : Nat) : State :=
  let held := ((s.src i).queue.map (fun q => q.au.bytes)).sum
  if Nat.blt (s.get (F.decSrcCfgBsbuf i) * 1048576) (held + au.bytes) then
    let s1 := s.countCause i 5
    if au.ref then s1.conceal i 5 else s1
  else
    let s1 := (s.makeRoom i).updSrc i (fun x => { x with
      queue := x.queue ++ [⟨x.auNo, au, first, capt, au.slices.length, false, false, false⟩]
      auNo := x.auNo + 1 })
    (s1.runQueue i (s1.src i).queue.length).showQueue i

/-- DECODE_SLICE_COMPLETE (R183, R186): engine e has decoded a slice: result 0 intact, 1 a reference is missing, 3 it does
not parse. Its rows complete, and with the last slice the picture closes. -/
def State.sliceDone (s : State) (e result : Nat) : State :=
  match s.running e with
  | some t =>
    let i := t.own
    let s1 := s.release e
    match (s1.src i).queue with
    | q :: rest =>
      if Nat.beq t.typ 1 && Nat.beq q.no t.frame then
        let sl := q.au.slices.getD t.row ⟨true, 0, 0⟩
        let s2 := if Nat.beq result 0 then s1 else ((s1.countCause i result).conceal i result).damageAt i sl.row
        let v (r : Nat) : Nat × Ver := (r, ⟨(s2.src i).fno, s2.now, q.capt, q.capt, false, Nat.beq (s2.decState i) 3, false⟩)
        let s3 := s2.updSrc i (fun x => { x with
          queue := { q with left := q.left - 1, lost := q.lost || !Nat.beq result 0 } :: rest
          fRows := x.fRows ++ ((List.range (min sl.done (s2.srcRows i))).filter (fun r =>
            (x.fRows.find? (fun w => Nat.beq w.1 r)).isNone)).map v })
        s3.pictureCheck i
      else s1
    | [] => s1
  | none => s

def execDecodeSliceComplete (e result : Nat) (s : State) : Host.Outcome State Fault Refusal :=
  .next (s.sliceDone (e % 128) (if Nat.beq result 0 || Nat.beq result 1 then result else 3))

/-- The slice of a DECODE_SLICE task that is cancelled, or cut off, is lost (R182). -/
def State.sliceGone (s : State) (t : Task) : State :=
  match (s.src t.own).queue with
  | q :: rest =>
    if Nat.beq q.no t.frame then
      ((s.sliceLost t.own (q.au.slices.getD t.row ⟨true, 0, 0⟩).row).updSrc t.own (fun x => { x with
        queue := { q with left := q.left - 1, lost := true } :: rest })).pictureCheck t.own
    else s
  | [] => s

/-- The DECODE_SLICE tasks bound to an engine that leaves service are cancelled; their slices, and the one it decodes, are
lost (R182, R424). -/
def State.dropSlices (s : State) (e : Nat) : State :=
  let bound := s.bob.tasks.filter (fun t => Nat.beq t.typ 1 && Nat.beq t.list e)
  let cut := match s.running e with
    | some t => if Nat.beq t.typ 1 then [t] else []
    | none => []
  (bound ++ cut).foldl State.sliceGone
    (s.cancelTasks Cancel.engine (fun t => Nat.beq t.typ 1 && Nat.beq t.list e))

/-! Packets -/

/-- An access unit is complete (R179, R185, R191, R193). -/
def State.auComplete (s : State) (i : Nat) (au : CamAu) : State :=
  let x := s.src i
  let s0 := ((s.bump (F.decSrcCntAuRx i) 1).put (F.decSrcSpsW i) au.w).put (F.decSrcSpsH i) au.h
  let capt := x.fcapt
  let s1 := s0.updSrc i (fun y => { y with auOpen := false })
  match s.decState i with
  | 4 => s1.bump (F.decSrcCntParkedAu i) 1
  | 1 =>
    if Nat.beq au.rap 0 then
      if x.queue.isEmpty then s1.bump (F.decSrcCntWaitAu i) 1 else s1.queueAu i au x.auAt capt
    else if !au.supp || !Nat.beq au.w (s.get (F.ingSrcSizeW i)) || !Nat.beq au.h (s.get (F.ingSrcSizeH i))
        || Nat.blt (s.get (F.decSrcCfgNpic i)) (au.keep + 2) then
      (s1.bump (F.decSrcCntUnsup i) 1).cond (!x.queue.isEmpty) (fun s => s.dropAus i)
    else s1.queueAu i au x.auAt capt
  | 0 => s1
  | _ =>
    if !Nat.beq au.rap 0 && !au.supp then ((s1.bump (F.decSrcCntUnsup i) 1).dropAus i).setDecState i 1
    else if au.rasl && x.rasl && x.queue.isEmpty then s1.bump (F.decSrcCntRaslSkip i) 1
    else
      let s2 := if au.badSet && Nat.beq au.rap 0 then (s1.countCause i 3).conceal i 3 else s1
      s2.queueAu i au x.auAt capt

/-- The first packet of an access unit gives its arrival instant and capture time (R157, R179). -/
def State.auStart (s : State) (i ts : Nat) : State :=
  let x := s.src i
  if x.auOpen && Nat.beq x.fts ts then s
  else
    let c := s.captureOf i ts
    (s.setSrc i { x with auOpen := true, fts := ts, fcapt := c.1, auAt := s.now }).cond c.2
      (fun s => s.bump (F.ingSrcCntCaptBad i) 1)

/-- A packet of a camera source whose access units are accepted (R158, R178, R179). -/
def State.camIn (s : State) (i : Nat) (p : CamPkt) : State :=
  let m := s.mergeIn i p.path p.seq
  if !m.2 then m.1
  else
    let back := Nat.beq (m.1.sstate i) 3
    let s1 := (m.1.pathSeen i p.path).acceptPkt i p.path p.seq
    let s2 := if back && !Nat.beq (s1.decState i) 4 then ((s1.dropAus i).setDecState i 1).showDec else s1
    let s3 := match p.before with
      | some au => s2.auComplete i au
      | none => s2
    let s4 := s3.auStart i p.ts
    let s5 := if p.known then s4 else s4.bump (F.decSrcCntSyntax i) 1
    match p.ends with
    | some au => s5.auComplete i au
    | none => s5

/-- CAMERA_PACKET_RECEIVED (R146, R158, R160, R178). -/
def State.camPacket (s : State) (i : Nat) (p0 : CamPkt) : State :=
  let x := p0.path % 2
  let p : CamPkt := { p0 with path := x }
  if !s.srcOn i || !s.isCamera i || !s.is (F.ingSrcPathEn i x) then s
  else if Nat.beq (s.sstate i) 1 && !(Nat.beq x 1 && !s.is (F.ingSrcCfgMerge i)) then
    let s1 := s.pathSeen i x
    if !Nat.beq p.pt (s.get (F.ingSrcFmtPt i)) then s1.bump (F.ingSrcCntBadHdr i) 1
    else if (s1.src i).marked then (s1.setSstate i 2).camIn i p
    else (s1.updSrc i (fun y => { y with marked := p.marker })).bump (F.ingSrcCntPktLate i) 1
  else if !Nat.beq p.pt (s.get (F.ingSrcFmtPt i)) then s.bump (F.ingSrcCntBadHdr i) 1
  else s.camIn i p

def execCameraPacketReceived (i : Nat) (p : CamPkt) (s : State) : Host.Outcome State Fault Refusal :=
  .next (s.camPacket (i % 512) p)

/-! Path loss -/

/-- PATH_LOSS_TIMEOUT (R160): path x of source i is down; a receiving source whose every feeding path is down enters LOST. -/
def State.pathLoss (s : State) (i x : Nat) : State :=
  match s.fire (Timer.path i x) with
  | some t =>
    let s1 := t.setPath i x false
    if Nat.beq (s1.sstate i) 2 && s1.feedsDown i then s1.loseSource i else s1
  | none => s

def execPathLossTimeout (i x : Nat) (s : State) : Host.Outcome State Fault Refusal :=
  .next (s.pathLoss (i % 512) (x % 2))

end Sys2Proof.Machine
end

