-- ==== Sys2Proof/Machine/Engines.lean ====
section
/-!
DEFINITION. Sys2Proof/Machine/Engines.lean: engine health (chapter 15): condemnation and repair (R410, R411, R614),
replacement of engines by takeover and joining (R408 to R410), capacity after a condemnation (R399), and self-test passes
(R413 to R415).
-/

namespace Sys2Proof.Machine

def State.eng (s : State) (e : Nat) : Eng := Tab.get {} s.engs e
def State.setEng (s : State) (e : Nat) (x : Eng) : State := { s with engs := Tab.put {} s.engs e x }
def State.updEng (s : State) (e : Nat) (f : Eng → Eng) : State := s.setEng e (f (s.eng e))

/-- Causes of a condemnation (ENC_HEALTH.CAUSE). -/
def ECause.residue : Nat := 1
def ECause.parity : Nat := 2
def ECause.selftest : Nat := 3
def ECause.sigmis : Nat := 4
def ECause.hang : Nat := 5
def ECause.host : Nat := 6
def ECause.nospare : Nat := 7

/-- Time that an executor has spent on tasks enters its busy percentage, one second at a time (ENC_LOAD.BUSY). -/
def State.addBusy (s : State) (e dt : Nat) : State :=
  let x := s.eng e
  if Nat.ble (x.since + 1000000000) s.now then
    (s.setEng e { x with busy := dt, since := s.now }).put (F.encLoadBusy e) (min 100 (x.busy / 10000000))
  else s.setEng e { x with busy := x.busy + dt }

/-- The engine's front end is free again. -/
def State.freeEngine (s : State) (e : Nat) : State :=
  match s.bob.run.find? (fun r => Nat.beq r.1 e) with
  | some r => ((s.release e).addBusy e (s.now - r.2.2)).put (F.encLoadCtx e) 0x1FF
  | none => s

/-! Self-test tasks -/

/-- The 32 slices of a pass (R413, R415), at a level. -/
def State.startPass (s : State) (e level : Nat) : State :=
  let s1 := s.updEng e (fun x => { x with slices := 0, rerun := 0 })
  s1.each (List.range 32) (fun s k => (s.create
    ⟨5, e, 0, k, 0, e, level, s.now, s.now + s.get F.sysRedCfgStInterval * 1000000, 0, 2, 0⟩).1)

/-- Does BOB already hold slices of the engine's pass? -/
def State.hasPass (s : State) (e : Nat) : Bool :=
  s.bob.tasks.any (fun t => Nat.beq t.typ 5 && Nat.beq t.own e) || (match s.running e with
    | some t => Nat.beq t.typ 5
    | none => false)

/-! Condemnation -/

/-- The engine stops: its bound tasks are cancelled (cause ENGINE) and what it runs ends. -/
def State.stopEngine (s : State) (e : Nat) : State :=
  let s1 := (s.dropSlices e).cancelTasks Cancel.engine (fun t => Nat.beq t.list e)
  (s1.freeEngine e).updEng e (fun x => { x with slices := 0, rerun := 0, res := [] })

/-- A row of a context whose side on engine e had not been handed to pacing is not coded there (R410). -/
def Row.loseEngine (e : Nat) (r : Row) : Row :=
  let f (d : Side) : Side := if Nat.beq d.eng e && Nat.ble 1 d.st && Nat.ble d.st 3 then { d with st := 5 } else d
  { r with lead := f r.lead, stby := f r.stby }

/-- Context n loses engine e (R403, R406, R410): the standby becomes lead, or the pair is SINGLE on its lead; a context
with one engine waits for a takeover, and its rows that have not been handed to pacing are not coded. -/
def State.loseEngine (s : State) (n e : Nat) : State :=
  let s1 := s.updChan n (fun c => { c with rows := c.rows.map (Row.loseEngine e) })
  match s1.stbyEng n with
  | some f =>
    if Nat.beq e f then s1.dropStandby n 2 Cancel.engine
    else
      -- the standby's work on rows that are not compared yet becomes the lead's, and so do its tasks
      let s2 := s1.updChan n (fun c => { c with rows := c.rows.map (fun r =>
        if Nat.beq r.cmp 0 && !r.rel && !s1.handed n r then { r with lead := r.stby, stby := {} } else r) })
      let mine (t : Task) : Bool := Nat.beq t.typ 3 && Nat.beq t.own n && Nat.beq t.which 1
      let b : BobSt := { s2.bob with
        tasks := s2.bob.tasks.map (fun t => if mine t then { t with which := 0 } else t)
        run := s2.bob.run.map (fun x => if mine x.2.1 then (x.1, { x.2.1 with which := 0 }, x.2.2) else x) }
      (({ s2 with bob := b } : State).put (F.chnDupStatLead n) f).dropStandby n 2 Cancel.engine
  | none => s1.updChan n (fun c => { c with takeover := true })

/-- A block reset of engine e opens and ends its shadow (R493, R499). -/
def State.engineReset (s : State) (e : Nat) : State := (s.openShadow 0 e false).endShadow 0 e

/-- The engine enters TESTING and starts its repair passes (R411). -/
def State.toTesting (s : State) (e : Nat) (cond sig : Bool) : State :=
  let s1 := (s.updEng e (fun x => { x with passes := 0, cond := cond, sig := sig, owed := false })).setEstate e 4
  s1.startPass e (s1.get F.sysRedCfgSuspPrio)

/-- What follows a condemnation (R411): a block reset and TESTING while REPAIRS is below REPAIR_MAX. -/
def State.repair (s : State) (e : Nat) : State :=
  if Nat.blt (s.get (F.encHealthRepairs e)) (s.get F.sysRedCfgRepairMax) then (s.engineReset e).toTesting e true false else s

/-- The contexts that engine e carries leave it. -/
def State.evict (s : State) (e : Nat) : State := (s.placedOn e).foldl (fun s n => s.loseEngine n e) s

/-- Do R77 and R78 hold with the engines now available (R399)? -/
def State.capacityHolds (s : State) : Bool := s.fitsEngines [] && s.fitsSpare []

/-- One context of `from_` moves to an engine that can take it: same cluster, then same core PLL, then lowest number (R399,
R423); never under the partner's core PLL (R74). -/
def State.moveTarget (s : State) (n from_ : Nat) : Option Nat :=
  let partner := if Nat.beq (s.leadEng n) from_ then s.stbyEng n else some (s.leadEng n)
  let ok := s.engines.filter (fun f => !Nat.beq f from_ && s.holds [] f && s.canTake [] [n] (s.ctxLoad [] (s.leadOf n)) f
    && (match partner with
      | some q => !s.is (F.chnDupStatStbyValid n) || !Nat.beq (q / 32) (f / 32)
      | none => true))
  let a := ok.filter (fun f => Nat.beq (f / 8) (from_ / 8))
  let b := ok.filter (fun f => Nat.beq (f / 32) (from_ / 32))
  if a.isEmpty then (if b.isEmpty then ok.head? else b.head?) else a.head?

/-- Empty one engine by moving each of its contexts; none when one cannot move. -/
def State.emptyEngine (s : State) (e : Nat) : Option State :=
  (s.placedOn e).foldl (fun r n => match r with
    | none => none
    | some s => match s.moveTarget n e with
      | some f => some (if Nat.beq (s.leadEng n) e then s.put (F.chnDupStatLead n) f else s.put (F.chnDupStatStby n) f)
      | none => none) (some s)

/-- CAPACITY_REBALANCE (R399): the engine with the smallest load is emptied, again and again, until NSPARE engines hold no
context. -/
def State.rebalance (s : State) : Nat → State
  | 0 => s.showEngines
  | fuel + 1 =>
    if Nat.ble (s.get F.sysRedCfgNspare) s.empties then s.showEngines
    else
      let l := s.engines.filter (s.holds [])
      match l.foldl (fun b e => match b with
          | none => some e
          | some x => if Nat.blt (s.engLoad [] [] e) (s.engLoad [] [] x) then some e else some x) (none : Option Nat) with
      | some e => (match s.emptyEngine e with
        | some t => t.rebalance fuel
        | none => s.showEngines)
      | none => s.showEngines

/-- The evaluation after a condemnation (R399, R552). -/
def State.afterLoss (s : State) : State :=
  if s.capacityHolds then s.rebalance 16 else s.showEngines.capacityLoss

/-- ENGINE_CONDEMN (R410, R411): the engine is condemned; its contexts lose it; it is repaired where R411 allows. -/
def State.condemn (s : State) (e cause : Nat) : State :=
  if Nat.beq (s.estate e) 0 || Nat.beq (s.estate e) 5 then s
  else
    let s1 := ((s.put (F.encHealthCause e) cause).stopEngine e).evict e
    ((s1.setEstate e 5).repair e).afterLoss

/-- An engine enters TESTING without being condemned (R407, R408, R409). -/
def State.retire (s : State) (e : Nat) (sig : Bool) : State := (((s.stopEngine e).evict e).toTesting e false sig).afterLoss

/-! Replacement at the frame start (R408 to R410) -/

/-- Count a takeover, join or new pair; its first picture starts a refresh period (R273, R410). -/
def State.tookOver (s : State) (n : Nat) (fresh : Bool) : State :=
  let s1 := (s.bump (F.chnDupCntTakeover n) 1).updChan n (fun c => { c with takeover := false, gdrNew := c.gdrNew || fresh })
  -- without the carried state, rate control resumes from the fill with its memories at their initial values (R328)
  if fresh then
    let f := s1.get (F.chnRcFillFill (s1.leadOf n))
    s1.updChan (s1.leadOf n) (fun c => { c with rc := { c.rc with mem := [], fill := (f : Nat) } })
  else s1

/-- Class S: one SPARE engine, then a second one (R410). -/
def State.takeSpare (s : State) (n : Nat) : Option Nat :=
  let load := s.ctxLoad [] (s.leadOf n)
  let fresh := (List.range 128).filter (fun e => s.engUp e && s.canTake [] [n] load e && (Nat.beq (s.estate e) 2))
  fresh.head?

/-- Class B: any engine with capacity, SPARE engines excluded (R410). -/
def State.takeAny (s : State) (n : Nat) : Option Nat :=
  (s.engines.filter (fun e => !Nat.beq (s.estate e) 2 && s.canTake [] [n] (s.ctxLoad [] (s.leadOf n)) e)).head?

/-- Two SPARE engines under different core PLLs (R408). -/
def State.sparePair (s : State) (n : Nat) : Option (Nat × Nat) :=
  let l := (List.range 128).filter (fun e => Nat.beq (s.estate e) 2 && s.canTake [] [n] (s.ctxLoad [] (s.leadOf n)) e)
  match l.find? (fun e => l.any (fun f => !Nat.beq (e / 32) (f / 32))) with
  | some e => (match l.find? (fun f => !Nat.beq (e / 32) (f / 32)) with
    | some f => some (e, f)
    | none => none)
  | none => none

/-- TAKEOVER (R408, R410) of context n at its frame start. -/
def State.takeoverOf (s : State) (n : Nat) : State :=
  if !(s.chan n).takeover then s
  else
    let lead := s.leadOf n
    let s0 := s.unplace n
    if s.isD [] lead then
      match s0.sparePair n with
      | some p => (((s0.place n p.1 (some p.2)).setPair n 1).tookOver n true).showEngines
      | none => (s0.raise (Src.engNospare (s.leadEng n))).afterLoss
    else if Nat.beq (s.aget (F.chnClassClass lead)) 0 then
      match s0.takeAny n with
      | some e => ((s0.place n e none).tookOver n true).showEngines
      | none =>
        -- shed at once (R410)
        let t := s0.setChState lead 3
        let u : State := { t with sys := { t.sys with shedLog := lead :: t.sys.shedLog } }
        if Nat.beq u.mode Mode.degraded then u.evalDegraded else u.capacityLoss
    else
      match s0.takeSpare n with
      | some e => ((s0.place n e none).tookOver n true).showEngines
      | none => (s0.raise (Src.engNospare (s.leadEng n))).afterLoss

/-- STANDBY_JOIN (R409): a SPARE engine under another core PLL joins a SINGLE context, which is then in CATCHUP. -/
def State.joinOf (s : State) (n : Nat) : State :=
  if Nat.beq (s.get (F.chnDupStatDstate n)) 2 && s.isD [] (s.leadOf n) && (s.chan n).placed then
    match (List.range 128).find? (fun e => Nat.beq (s.estate e) 2 && !Nat.beq (e / 32) (s.leadEng n / 32)
        && s.canTake [] [n] (s.ctxLoad [] (s.leadOf n)) e) with
    | some e => ((((s.place n (s.leadEng n) (some e)).put (F.chnDupStatCatchup n) 0).setPair n 3).tookOver n false).showEngines
    | none => s.raise (Src.engNospare (s.leadEng n))
  else s

/-! Host commands -/

/-- A write of ENC_RED_CMD (R411, R416, R614): CONDEMN condemns, or in CALIBRATE records the engine; RETEST puts a CONDEMNED
engine into TESTING. -/
def State.writeRedCmd (s : State) (e : Nat) (v : Word) : State :=
  let s1 := if Nat.beq (bitsAt v 0 1) 1 then
      if Nat.beq s.mode Mode.calibrate then
        let t := s.put (F.encHealthCause e) 6
        { t with sys := { t.sys with engRec := if t.sys.engRec.contains e then t.sys.engRec else t.sys.engRec ++ [e] } }
      else s.condemn e 6
    else s
  if Nat.beq (bitsAt v 1 1) 1 && Nat.beq (s1.estate e) 5 && Nat.beq (s.estate e) 5 then
    ((s1.engineReset e).toTesting e true false).showEngines
  else s1

def execEngineCondemnCmd (h e : Nat) (v : Word) (s : State) : Host.Outcome State Fault Refusal :=
  .next (s.takeWrite h (R.encRedCmd (e % 128)) (setBitsAt v 0 1 1) false
    (fun s => s.writeRedCmd (e % 128) (setBitsAt v 0 1 1)))

def execEngineRetestCmd (h e : Nat) (v : Word) (s : State) : Host.Outcome State Fault Refusal :=
  .next (s.takeWrite h (R.encRedCmd (e % 128)) (setBitsAt v 1 1 1) false
    (fun s => s.writeRedCmd (e % 128) (setBitsAt v 1 1 1)))

/-- A write of ENC_INJ (R509): an injection waits for the next row, store read or signature of the engine. -/
def State.writeEncInj (s : State) (e : Nat) (v : Word) : State :=
  s.updEng e (fun x => { x with
    injRes := x.injRes || Nat.beq (bitsAt v 0 1) 1
    injPar := x.injPar || Nat.beq (bitsAt v 1 1) 1
    injSig := x.injSig || Nat.beq (bitsAt v 2 1) 1 })

def execEngineInjectResidue (h e : Nat) (v : Word) (s : State) : Host.Outcome State Fault Refusal :=
  .next (s.takeWrite h (R.encInj (e % 128)) (setBitsAt v 0 1 1) false
    (fun s => s.writeEncInj (e % 128) (setBitsAt v 0 1 1)))

def execEngineInjectParity (h e : Nat) (v : Word) (s : State) : Host.Outcome State Fault Refusal :=
  .next (s.takeWrite h (R.encInj (e % 128)) (setBitsAt v 1 1 1) false
    (fun s => s.writeEncInj (e % 128) (setBitsAt v 1 1 1)))

def execEngineInjectSig (h e : Nat) (v : Word) (s : State) : Host.Outcome State Fault Refusal :=
  .next (s.takeWrite h (R.encInj (e % 128)) (setBitsAt v 2 1 1) false
    (fun s => s.writeEncInj (e % 128) (setBitsAt v 2 1 1)))

/-- A write of CHN_DUP_CMD (CHN_DUP_CMD.SWAP): a swap waits for the next frame start when the pair is IN_STEP. -/
def State.writeDupCmd (s : State) (n : Nat) (v : Word) : State :=
  if Nat.beq (bitsAt v 0 1) 1 && Nat.beq (s.get (F.chnDupStatDstate n)) 1 then s.updChan n (fun c => { c with swapReq := true })
  else s

def execDuplexSwap (h n : Nat) (v : Word) (s : State) : Host.Outcome State Fault Refusal :=
  .next (s.takeWrite h (R.chnDupCmd (n % 256)) v false (fun s => s.writeDupCmd (n % 256) v))

/-- DUPLEX_SWAP_APPLY: lead and standby change places at the frame start. -/
def State.applySwap (s : State) (n : Nat) : State :=
  if (s.chan n).swapReq then
    let s1 := s.updChan n (fun c => { c with swapReq := false })
    match s1.stbyEng n with
    | some f => if Nat.beq (s1.get (F.chnDupStatDstate n)) 1 then s1.place n f (some (s1.leadEng n)) else s1
    | none => s1
  else s

/-! Self-test -/

/-- The interval of the self-test of an ACTIVE engine (R415). -/
def Timer.selftest (e : Nat) : Nat := timerKey 24 e
/-- 100 ms before its end, a pass that is not finished (R415). -/
def Timer.selftestLate (e : Nat) : Nat := timerKey 25 e

/-- The interval starts (R415): the 32 slices of an ACTIVE engine's pass are created, at level 0 or, for a SUSPECT engine, at
SUSP_PRIO; a pass of the last interval that is still there goes on. -/
def State.startInterval (s : State) (e : Nat) : State :=
  let ms := s.get F.sysRedCfgStInterval
  let s1 := (((s.arm (Timer.selftest e) (ms * 1000000)).arm (Timer.selftestLate e) ((ms - 100) * 1000000)).updEng e
    (fun x => { x with passed := false }))
  if (Nat.beq (s1.estate e) 1 || Nat.beq (s1.estate e) 3) && !s1.hasPass e then
    s1.startPass e (if Nat.beq (s1.estate e) 3 then s1.get F.sysRedCfgSuspPrio else 0)
  else s1

/-- SELFTEST_INTERVAL_START: at the end of the interval before, or at once for an engine whose first interval it is. -/
def State.selftestStart (s : State) (e : Nat) : State :=
  if s.modeIn [Mode.hold, Mode.load, Mode.calibrate] then s
  else match s.fire (Timer.selftest e) with
    | some t => t.startInterval e
    | none => if s.armed (Timer.selftest e) then s else s.startInterval e

def execSelftestIntervalStart (e : Nat) (s : State) : Host.Outcome State Fault Refusal := .next (s.selftestStart (e % 128))

/-- Raise the level of the remaining slices of an engine's pass. -/
def State.raisePass (s : State) (e : Nat) : State :=
  let l := s.get F.sysRedCfgSuspPrio
  let b : BobSt := { s.bob with tasks := s.bob.tasks.map (fun t =>
    if Nat.beq t.typ 5 && Nat.beq t.own e then { t with level := l } else t) }
  { s with bob := b }

/-- SELFTEST_OVERDUE (R415): the remaining slices go at SUSP_PRIO. -/
def execSelftestOverdue (e : Nat) (s : State) : Host.Outcome State Fault Refusal :=
  .next (match s.fire (Timer.selftestLate (e % 128)) with
    | some t => if (t.eng (e % 128)).passed then t else t.raisePass (e % 128)
    | none => s)

/-- A clean pass (R407, R411, R415). -/
def State.passClean (s : State) (e : Nat) : State :=
  let s1 := ((s.bump (F.encRedCntPass e) 1).updEng e (fun x => { x with
    slices := 0, lastPass := some s.now, passed := true, passes := x.passes + 1, owed := false })).put (F.encHealthPassAge e) 0
  match s1.estate e with
  | 3 => (s1.setEstate e 1).showEngines
  | 4 =>
    if Nat.ble (s1.get F.sysRedCfg2RepairPasses) (s1.eng e).passes then
      let s2 := s1.cond (s1.eng e).cond (fun s => s.put (F.encHealthRepairs e) (min 15 (s.get (F.encHealthRepairs e) + 1)))
      (s2.setEstate e 2).showEngines.evalDegraded
    else s1.startPass e (s1.get F.sysRedCfgSuspPrio)
  | 2 => s1.startPass e 0
  | _ => s1

/-- A slice fails for good (R411, R414): the engine is condemned, or returns to CONDEMNED. -/
def State.passFailed (s : State) (e : Nat) : State :=
  if Nat.beq (s.estate e) 4 then
    let x := s.eng e
    let s1 := ((s.stopEngine e).cancelTasks Cancel.engine (fun t => Nat.beq t.typ 5 && Nat.beq t.own e)).put
      (F.encHealthCause e) (if x.sig then 4 else 3)
    let s2 := s1.setEstate e 5
    if x.cond then s2.showEngines else (s2.repair e).showEngines
  else s.condemn e 3

/-- SELFTEST_SLICE_COMPLETE (R413, R414): engine e has coded a test slice; `clean` says whether its signature is the known
one. A failed slice is rerun twice at once. -/
def State.selftestSlice (s : State) (e : Nat) (clean : Bool) : State :=
  match s.running e with
  | some t =>
    if Nat.beq t.typ 5 then
      let x := s.eng e
      if Nat.blt 0 x.rerun then
        if !clean then ((s.freeEngine e).updEng e (fun y => { y with rerun := 0 })).passFailed e
        else if Nat.beq x.rerun 1 then
          let s1 := ((s.freeEngine e).updEng e (fun y => { y with rerun := 0, slices := y.slices + 1 }))
          if Nat.ble 32 (s1.eng e).slices then s1.passClean e else s1
        else s.updEng e (fun y => { y with rerun := y.rerun - 1 })
      else if clean then
        let s1 := (s.freeEngine e).updEng e (fun y => { y with slices := y.slices + 1 })
        if Nat.ble 32 (s1.eng e).slices then s1.passClean e else s1
      else ((s.bump (F.encRedCntFail e) 1).updEng e (fun y => { y with rerun := 2 })).raise (Src.engSelftest e)
    else s
  | none => s

def execSelftestSliceComplete (e : Nat) (clean : Bool) (s : State) : Host.Outcome State Fault Refusal :=
  .next (s.selftestSlice (e % 128) clean)

/-- TASK_TIME_LIMIT (R412): the engine has not finished a dispatched task within TASK_LIMIT: ENG_HANG, condemned at once. -/
def State.taskLimit (s : State) (e : Nat) : State :=
  match s.bob.run.find? (fun r => Nat.beq r.1 e) with
  | some r => ((s.advance (r.2.2 + s.get F.sysRedCfg2TaskLimit * 1000)).raise (Src.engHang e)).condemn e 5
  | none => s

def execTaskTimeLimit (e : Nat) (s : State) : Host.Outcome State Fault Refusal := .next (s.taskLimit (e % 128))

end Sys2Proof.Machine
end

