-- ==== Sys2Proof/Machine/Pixel.lean ====
section
/-!
DEFINITION. Sys2Proof/Machine/Pixel.lean: the compositor's sample arithmetic as functions of samples (chapter 08, R228 to
R244, and the tulle of R216). Samples are naturals; what memory holds of pictures is outside the state (log entry 8).
-/

namespace Sys2Proof.Machine

/-- The integer closest to a value within bounds. -/
def clampI (lo hi z : Int) : Int := max lo (min hi z)

/-- Sample m of a line, with the nearest edge sample outside it. -/
def edge (l : List Nat) (m : Int) : Nat := l.getD (clampI 0 ((l.length : Int) - 1) m).toNat 0

/-! Chroma upsampling (R228) -/

/-- 4:2:2 to 4:4:4: the chroma of luma column x from a line of co-sited chroma samples. -/
def up422 (c : List Nat) (x : Nat) : Nat :=
  if Nat.beq (x % 2) 0 then edge c (x / 2) else (edge c (x / 2) + edge c (x / 2 + 1) + 1) / 2

/-- 4:2:0 to 4:2:2: the chroma of luma line y from a column of chroma samples. -/
def up420 (c : List Nat) (y : Nat) : Nat :=
  let m : Int := (y / 2 : Nat)
  if Nat.beq (y % 2) 0 then (3 * edge c m + edge c (m - 1) + 2) / 4 else (3 * edge c m + edge c (m + 1) + 2) / 4

/-! Representation conversion (R229) -/

/-- A row of a conversion matrix with its offset, in units of 2^-14. -/
structure CscRow where
  a   : Int
  b   : Int
  c   : Int
  off : Int
deriving DecidableEq, Repr

/-- The nearest multiple of 2^-14, halves upwards. -/
def round14 (q : Rat) : Int := (q * 16384 + 1 / 2).floor

/-- A row from its exact coefficients and the codes' offsets: ins the inputs', out the output's. -/
def cscRow (a b c : Rat) (ia ib ic out : Rat) : CscRow :=
  ⟨round14 a, round14 b, round14 c, round14 (out - a * ia - b * ib - c * ic)⟩

def CscRow.apply (r : CscRow) (x y z : Nat) : Nat :=
  (clampI 0 1023 ((r.a * x + r.b * y + r.c * z + r.off + 8192) / 16384)).toNat

/-- Kr and Kb: BT.2020, or BT.709. -/
def krOf (bt2020 : Bool) : Rat := if bt2020 then 2627 / 10000 else 2126 / 10000
def kbOf (bt2020 : Bool) : Rat := if bt2020 then 593 / 10000 else 722 / 10000

/-- YCbCr to R, G and B. -/
def toRgb (bt2020 : Bool) (y cb cr : Nat) : Nat × Nat × Nat :=
  let kr := krOf bt2020
  let kb := kbOf bt2020
  let kg := 1 - kr - kb
  let u : Rat := 876 / 896
  let r := cscRow 1 0 (2 * (1 - kr) * u) 64 512 512 64
  let g := cscRow 1 (0 - kb * 2 * (1 - kb) / kg * u) (0 - kr * 2 * (1 - kr) / kg * u) 64 512 512 64
  let b := cscRow 1 (2 * (1 - kb) * u) 0 64 512 512 64
  (r.apply y cb cr, g.apply y cb cr, b.apply y cb cr)

/-- R, G and B to YCbCr. -/
def toYcc (bt2020 : Bool) (r g b : Nat) : Nat × Nat × Nat :=
  let kr := krOf bt2020
  let kb := kbOf bt2020
  let kg := 1 - kr - kb
  let u : Rat := 896 / 876
  let y := cscRow kr kg kb 64 64 64 64
  let cb := cscRow (0 - kr / (2 * (1 - kb)) * u) (0 - kg / (2 * (1 - kb)) * u) ((1 - kb) / (2 * (1 - kb)) * u) 64 64 64 512
  let cr := cscRow ((1 - kr) / (2 * (1 - kr)) * u) (0 - kg / (2 * (1 - kr)) * u) (0 - kb / (2 * (1 - kr)) * u) 64 64 64 512
  (y.apply r g b, cb.apply r g b, cr.apply r g b)

/-! Scaling (R231, R232, R236) -/

/-- pos of output position u for crop size c and destination size d (R231). -/
def scalePos (u c d : Nat) : Int := (((2 * u + 1) * c * 65536 / (2 * d) : Nat) : Int) - 32768

/-- Integer source position and phase (R231). -/
def scaleIdx (u c d : Nat) : Int := scalePos u c d / 65536
def scalePhase (u c d : Nat) : Nat := (scalePos u c d % 65536 / 1024).toNat

/-- The source line of tap k of n (R231). -/
def tapLine (n u c d o k : Nat) : Nat :=
  o + (clampI 0 ((c : Int) - 1) (scaleIdx u c d - ((n / 2 : Nat) : Int) + 1 + k)).toNat

/-- Phases 0 to 32 of set 1, from the formula of R236; a phase above 32 mirrors the one as far below 64. -/
def set1a : List (List Int) :=
  [[0, 0, 1024, 0, 0, 0],
   [3, -13, 1023, 14, -3, 0],
   [6, -25, 1022, 28, -7, 0],
   [9, -37, 1021, 42, -11, 0],
   [12, -48, 1018, 57, -15, 0],
   [14, -59, 1014, 73, -19, 1],
   [17, -69, 1009, 89, -23, 1],
   [19, -78, 1003, 106, -27, 1],
   [21, -87, 995, 124, -31, 2],
   [23, -95, 989, 141, -36, 2],
   [24, -103, 980, 160, -40, 3]]
def set1b : List (List Int) :=
  [[26, -110, 971, 178, -45, 4],
   [27, -116, 962, 197, -50, 4],
   [28, -122, 951, 217, -55, 5],
   [29, -128, 940, 237, -60, 6],
   [30, -132, 927, 257, -65, 7],
   [31, -136, 913, 278, -70, 8],
   [31, -140, 902, 298, -75, 8],
   [32, -143, 886, 320, -80, 9],
   [32, -146, 871, 341, -85, 11],
   [32, -148, 855, 363, -90, 12],
   [32, -150, 839, 384, -94, 13]]
def set1c : List (List Int) :=
  [[32, -151, 822, 406, -99, 14],
   [32, -151, 804, 428, -104, 15],
   [31, -152, 788, 450, -109, 16],
   [31, -151, 767, 473, -113, 17],
   [30, -151, 749, 495, -117, 18],
   [29, -150, 729, 517, -121, 20],
   [29, -148, 708, 539, -125, 21],
   [28, -146, 688, 561, -129, 22],
   [27, -144, 668, 583, -133, 23],
   [26, -142, 647, 605, -136, 24],
   [25, -139, 626, 626, -139, 25]]
def set1Half : List (List Int) := set1a ++ set1b ++ set1c

/-- The taps of the fixed sets at phase p (R236). -/
def set0At (p : Nat) : List Int := [1024 - 16 * p, 16 * p]
def set1At (p : Nat) : List Int := if Nat.ble p 32 then set1Half.getD p [] else (set1Half.getD (64 - p) []).reverse

/-- The horizontal filter gives 12 bits, the vertical one 10 (R232). -/
def weighted (w : List Int) (s : List Int) : Int := ((w.zip s).map (fun x => x.1 * x.2)).sum
def hFilter (w : List Int) (s : List Int) : Int := clampI 0 4095 ((weighted w s + 128) / 256)
def vFilter (w : List Int) (s : List Int) : Int := clampI 0 1023 ((weighted w s + 2048) / 4096)

/-! Tables (R240) -/

/-- The pre-blend table of 257 points on a 10-bit value, and its bypass. -/
def preLut (pt : List Nat) (v : Nat) : Nat :=
  let a : Int := pt.getD (v / 4) 0
  let b : Int := pt.getD (v / 4 + 1) 0
  (clampI 0 16383 (a + ((b - a) * (v % 4 : Nat) + 2) / 4)).toNat
def preBypass (v : Nat) : Nat := v * 16

/-- The post-blend table on a 14-bit value, and its bypass. -/
def postLut (pt : List Nat) (v : Nat) : Nat :=
  let a : Int := pt.getD (v / 64) 0
  let b : Int := pt.getD (v / 64 + 1) 0
  (clampI 0 1023 (a + ((b - a) * (v % 64 : Nat) + 32) / 64)).toNat
def postBypass (v : Nat) : Nat := min ((v + 8) / 16) 1023

/-! Blending (R241 to R243) -/

/-- A background or fill colour in blend space (R241). -/
def inBlend (c : Nat) : Nat := 16 * c

/-- One layer over what lies below it (R243). -/
def blend (p acc alpha : Nat) : Nat :=
  let a1 := alpha + alpha / 512
  (p * a1 + acc * (1024 - a1) + 512) / 1024

/-- What a layer contributes at a sample (R208, R242): policy, worst kind (1 fresh, 2 held, 3 concealed, 4 missing), its
filtered sample and its fill colour in blend space. None: the stage passes the sample through. -/
def contribution (policy kind filtered fill : Nat) : Option Nat :=
  if Nat.beq kind 1 then some filtered
  else if Nat.beq policy 1 then none
  else if Nat.beq policy 2 || Nat.beq kind 4 then some fill
  else some filtered

/-- The layers of a sample in ascending Z over the background: alpha and contribution (R243). -/
def blendAll (bg : Nat) (l : List (Nat × Option Nat)) : Nat :=
  l.foldl (fun acc x => match x.2 with
    | some p => blend p acc x.1
    | none => acc) bg

/-! Chroma downsampling (R244) -/

/-- 4:2:2 chroma at column xc of a 4:4:4 line; 4:2:0 chroma from two lines of 4:2:2. -/
def down422 (c : List Nat) (xc : Nat) : Nat :=
  let x : Int := (2 * xc : Nat)
  (edge c (x - 1) + 2 * edge c x + edge c (x + 1) + 2) / 4
def down420 (a b : Nat) : Nat := (a + b + 1) / 2

/-! The tulle (R216, R244) -/

/-- Does the luma sample at (x, y) lie on the net? -/
def onNet (x y : Nat) : Bool := Nat.blt ((x + y) % 16) 2 || decide (((x : Int) - y) % 16 < 2)

/-- A sample on the net takes the mark colour. -/
def tulle (v col : Nat) : Nat := (v + col + 1) / 2

/-- The luma position that decides for a chroma sample: chroma 0 4:2:0, 1 4:2:2, 2 4:4:4 (CHN_FMT.CHROMA). -/
def netAt (chroma xc yc : Nat) : Bool :=
  if Nat.beq chroma 0 then onNet (2 * xc) (2 * yc) else if Nat.beq chroma 1 then onNet (2 * xc) yc else onNet xc yc

end Sys2Proof.Machine
end

