-- ==== Sys2Proof/Machine/Layers.lean ====
section
/-!
DEFINITION. Sys2Proof/Machine/Layers.lean: layer commits, readiness and tile entries (chapter 07, R195 to R225), and the
loading of coefficient sets and tables (chapter 08, R236 to R240, R245, R246).
-/

namespace Sys2Proof.Machine

def State.cmpr (s : State) (c : Nat) : Cmp := Tab.get {} s.cmps c
def State.setCmp (s : State) (c : Nat) (x : Cmp) : State := { s with cmps := Tab.put {} s.cmps c x }
def State.lyr (s : State) (c i : Nat) : Lyr := Tab.get {} s.lyrs (c * 64 + i)
def State.setLyr (s : State) (c i : Nat) (x : Lyr) : State := { s with lyrs := Tab.put {} s.lyrs (c * 64 + i) x }

/-- The shadowed registers of layer i of compositor c (R199). -/
def layerAddrs (c i : Nat) : List Nat := [0, 4, 8, 12, 16, 20, 24, 32, 36, 40].map (fun o => R.cmpLyrCtl c i + o)

/-- A layer field with the shadows of the instances in `tog`. -/
def State.lg (s : State) (tog : List Nat) (c : Nat) (f : Nat → Nat → Fld) (i : Nat) : Nat :=
  if tog.contains i then s.get (f c i) else s.aget (f c i)

/-- The channel of a layer (R199): its active CHAN while enabled, else its shadow CHAN. -/
def State.layerChan (s : State) (c i : Nat) : Nat :=
  if Nat.beq (s.get (F.cmpLyrStatLstate c i)) 1 then s.aget (F.cmpLyrCtlChan c i) else s.get (F.cmpLyrCtlChan c i)

/-! Coefficient sets and tables -/

/-- Taps of a coefficient set; is it valid; its weights at phase p (R236). -/
def State.setTaps (s : State) (c v : Nat) : Nat :=
  if Nat.beq v 0 then 2 else if Nat.beq v 1 then 6 else 2 * (bitsAt (s.word (R.cmpCoefTaps c)) (2 * v) 2 + 1)
def State.setValid (s : State) (c v : Nat) : Bool := Nat.testBit (s.get (F.cmpCoefValidValid c)) v
def State.weights (s : State) (c v p : Nat) : List Int :=
  if Nat.beq v 0 then set0At p else if Nat.beq v 1 then set1At p else (Tab.get [] (s.cmpr c).coef v).getD p []

/-- Is table slot t of compositor c valid and of this type? -/
def State.lutValid (s : State) (c t : Nat) (post : Bool) : Bool :=
  Nat.testBit (s.get (F.cmpLutValidValid c)) t && Nat.testBit (s.get (F.cmpLutTypePost c)) t == post

/-- A load is busy (R238): an enabled active layer, a pending commit or, for a table, an output configuration, active or
shadow, names the set or slot. A table is named where its EN or POST_EN is 1 (log entry 9). -/
def State.coefBusy (s : State) (c v : Nat) : Bool :=
  (List.range 64).any (fun i =>
    (s.ais (F.cmpLyrCtlEn c i) && (Nat.beq (s.aget (F.cmpLyrSclHset c i)) v || Nat.beq (s.aget (F.cmpLyrSclVset c i)) v))
    || (s.is (F.cmpLyrCommitCommit c i)
      && (Nat.beq (s.get (F.cmpLyrSclHset c i)) v || Nat.beq (s.get (F.cmpLyrSclVset c i)) v)))
def State.lutBusy (s : State) (c t : Nat) : Bool :=
  (List.range 64).any (fun i =>
    (s.ais (F.cmpLyrCtlEn c i) && s.ais (F.cmpLyrPreEn c i) && Nat.beq (s.aget (F.cmpLyrPreSlot c i)) t)
    || (s.is (F.cmpLyrCommitCommit c i) && s.is (F.cmpLyrPreEn c i) && Nat.beq (s.get (F.cmpLyrPreSlot c i)) t))
  || (List.range 16).any (fun m =>
    (s.ais (F.cmpChlOutPostEn c m) && Nat.beq (s.aget (F.cmpChlOutPost c m)) t)
    || (s.is (F.cmpChlOutPostEn c m) && Nat.beq (s.get (F.cmpChlOutPost c m)) t))

/-- A write of CMP_COEF_SEL empties the staging buffer; of CMP_COEF_DATA appends to it; of CMP_COEF_LOAD requests the load
(R237). -/
def State.writeCoefSel (s : State) (c : Nat) (v : Word) : State :=
  (s.store (R.cmpCoefSel c) v allBits).setCmp c { s.cmpr c with stage := [] }
def State.writeCoefData (s : State) (c : Nat) (v : Word) : State :=
  s.setCmp c { s.cmpr c with stage := (s.cmpr c).stage ++ [v] }
def State.writeCoefLoad (s : State) (c : Nat) (v : Word) : State := s.store (R.cmpCoefLoad c) v allBits

def execCoefSelect (h c : Nat) (v : Word) (s : State) : Host.Outcome State Fault Refusal :=
  .next (s.takeWrite h (R.cmpCoefSel (c % 16)) v false (fun s => s.writeCoefSel (c % 16) v))
def execCoefDataWrite (h c : Nat) (v : Word) (s : State) : Host.Outcome State Fault Refusal :=
  .next (s.takeWrite h (R.cmpCoefData (c % 16)) v false (fun s => s.writeCoefData (c % 16) v))
def execCoefLoad (h c : Nat) (v : Word) (s : State) : Host.Outcome State Fault Refusal :=
  .next (s.takeWrite h (R.cmpCoefLoad (c % 16)) (setBitsAt v 0 1 1) false
    (fun s => s.writeCoefLoad (c % 16) (setBitsAt v 0 1 1)))

/-- The taps that a staged word holds, even tap first. -/
def wordTaps (w : Word) : List Int := [signedOf 12 (bitsAt w 0 12), signedOf 12 (bitsAt w 16 12)]

/-- Cut a list into pieces of n. -/
def pieces {α : Type} (n : Nat) : Nat → List α → List (List α)
  | 0, _ => []
  | k + 1, l => l.take n :: pieces n k (l.drop n)

/-- The 64 phases of a staged set of n taps. -/
def phasesOf (n : Nat) (l : List Word) : List (List Int) := pieces n 64 (l.flatMap wordTaps)

/-- The result of a load is shown and numbered (CMP event 3 of R508). -/
def State.loadResult (s : State) (c r slot : Nat) (table : Bool) : State :=
  s.stateEv 13 3 c (r + (if table then 256 else 0) + slot * 2 ^ 16)

/-- COEF_LOAD_CHECK (R237, R238): at the tick after the request: FIXED, BUSY, COUNT, SUM, or the set is loaded. -/
def State.coefCheck (s0 : State) (c : Nat) : State :=
  if s0.is (F.cmpCoefLoadLoad c) then
    let s := (s0.tick).flag (F.cmpCoefLoadLoad c) false
    let v := s.get (F.cmpCoefSelSet c)
    let code := s.get (F.cmpCoefSelTaps c)
    let n := 2 * (code + 1)
    let ph := phasesOf n (s.cmpr c).stage
    let bad := (List.range 64).find? (fun p => decide ((ph.getD p []).sum ≠ 1024))
    let r := if Nat.ble v 1 then 1 else if s.coefBusy c v then 2
      else if !Nat.beq (s.cmpr c).stage.length (32 * n) then 3 else if bad.isSome then 4 else 0
    let s1 := (s.put (F.cmpCoefLoadResult c) r).put (F.cmpCoefLoadPhase c) (if Nat.beq r 4 then bad.getD 0 else 0)
    let s2 := if Nat.beq r 0 then
        ((s1.setCmp c { s1.cmpr c with coef := Tab.put [] (s1.cmpr c).coef v ph }).put (F.cmpCoefValidValid c)
          (s1.get (F.cmpCoefValidValid c) ||| 2 ^ v)).setWord (R.cmpCoefTaps c) (setBitsAt (s1.word (R.cmpCoefTaps c))
            (2 * v) 2 code)
      else s1
    s2.loadResult c r v false
  else s0
def execCoefLoadCheck (c : Nat) (s : State) : Host.Outcome State Fault Refusal := .next (s.coefCheck (c % 16))

/-- The same writes for tables (R239). -/
def State.writeLutSel (s : State) (c : Nat) (v : Word) : State :=
  (s.store (R.cmpLutSel c) v allBits).setCmp c { s.cmpr c with lstage := [] }
def State.writeLutData (s : State) (c : Nat) (v : Word) : State :=
  s.setCmp c { s.cmpr c with lstage := (s.cmpr c).lstage ++ [bitsAt v 0 14] }
def State.writeLutLoad (s : State) (c : Nat) (v : Word) : State := s.store (R.cmpLutLoad c) v allBits

def execLutSelect (h c : Nat) (v : Word) (s : State) : Host.Outcome State Fault Refusal :=
  .next (s.takeWrite h (R.cmpLutSel (c % 16)) v false (fun s => s.writeLutSel (c % 16) v))
def execLutDataWrite (h c : Nat) (v : Word) (s : State) : Host.Outcome State Fault Refusal :=
  .next (s.takeWrite h (R.cmpLutData (c % 16)) v false (fun s => s.writeLutData (c % 16) v))
def execLutLoad (h c : Nat) (v : Word) (s : State) : Host.Outcome State Fault Refusal :=
  .next (s.takeWrite h (R.cmpLutLoad (c % 16)) (setBitsAt v 0 1 1) false
    (fun s => s.writeLutLoad (c % 16) (setBitsAt v 0 1 1)))

/-- LUT_LOAD_CHECK (R238, R239): BUSY, COUNT, RANGE, or the slot is loaded with its type. -/
def State.lutCheck (s0 : State) (c : Nat) : State :=
  if s0.is (F.cmpLutLoadLoad c) then
    let s := (s0.tick).flag (F.cmpLutLoadLoad c) false
    let t := s.get (F.cmpLutSelSlot c)
    let post := s.is (F.cmpLutSelPost c)
    let l := (s.cmpr c).lstage
    let r := if s.lutBusy c t then 2 else if !Nat.beq l.length 771 then 3
      else if post && l.any (fun x => Nat.blt 1023 x) then 5 else 0
    let s1 := s.put (F.cmpLutLoadResult c) r
    let s2 := if Nat.beq r 0 then
        ((s1.setCmp c { s1.cmpr c with lut := Tab.put [] (s1.cmpr c).lut t l }).put (F.cmpLutValidValid c)
          (s1.get (F.cmpLutValidValid c) ||| 2 ^ t)).setWord (R.cmpLutType c) (setBitsAt (s1.word (R.cmpLutType c)) t 1
            (if post then 1 else 0))
      else s1
    s2.loadResult c r t true
  else s0
def execLutLoadCheck (c : Nat) (s : State) : Host.Outcome State Fault Refusal := .next (s.lutCheck (c % 16))

/-- A write of CMP_CHL_OUT (R246): POST_EN = 1 with a slot that is not a valid post-blend table leaves it unchanged. -/
def State.writeChlOut (s : State) (c m : Nat) (v : Word) : State :=
  if Nat.beq (bitsAt v 2 1) 1 && !s.lutValid c (bitsAt v 3 5) true then s else s.store (R.cmpChlOut c m) v allBits

/-- REP_IGN of a channel (R246): its active REP is 1 and its CHROMA is not 4:4:4. -/
def State.showRep (s : State) (n : Nat) : State :=
  s.flag (F.cmpChlOutRepIgn (n / 16) (n % 16))
    (s.ais (F.cmpChlOutRep (n / 16) (n % 16)) && !Nat.beq (s.cfg n F.chnFmtChroma) 2)

/-! Layer commits -/

/-- LAYER_COMMIT (R199, R200): port h writes CMP_LYR_COMMIT with COMMIT = 1. -/
def execLayerCommit (h c i : Nat) (v : Word) (s : State) : Host.Outcome State Fault Refusal :=
  .next (s.takeWrite h (R.cmpLyrCommit (c % 16) (i % 64)) (setBitsAt v 0 1 1) false
    (fun s => s.store (R.cmpLyrCommit (c % 16) (i % 64)) (setBitsAt v 0 1 1) allBits))

/-- SET_COMMIT (R200): port h writes CMP_CHL_COMMIT of channel n with SET = 1. -/
def execSetCommit (h n : Nat) (v : Word) (s : State) : Host.Outcome State Fault Refusal :=
  .next (s.takeWrite h (R.cmpChlCommit (n % 256 / 16) (n % 16)) (setBitsAt v 0 1 1) false
    (fun s => s.store (R.cmpChlCommit (n % 256 / 16) (n % 16)) (setBitsAt v 0 1 1) allBits))

/-- Crop and destination break R197. -/
def State.geomBad (s : State) (tog : List Nat) (c i n : Nat) : Bool :=
  let g (f : Nat → Nat → Fld) : Nat := s.lg tog c f i
  let src := g F.cmpLyrCtlSrc
  [F.cmpLyrDposX, F.cmpLyrDposY, F.cmpLyrDdimW, F.cmpLyrDdimH, F.cmpLyrCposX, F.cmpLyrCposY, F.cmpLyrCdimW,
      F.cmpLyrCdimH].any (fun f => Nat.beq (g f % 2) 1)
    || [F.cmpLyrDdimW, F.cmpLyrDdimH, F.cmpLyrCdimW, F.cmpLyrCdimH].any (fun f => Nat.blt (g f) 16)
    || Nat.blt (s.get (F.ingSrcSizeW src)) (g F.cmpLyrCposX + g F.cmpLyrCdimW)
    || Nat.blt (s.get (F.ingSrcSizeH src)) (g F.cmpLyrCposY + g F.cmpLyrCdimH)
    || Nat.blt (s.width n) (g F.cmpLyrDposX + g F.cmpLyrDdimW)
    || Nat.blt (s.height n) (g F.cmpLyrDposY + g F.cmpLyrDdimH)

/-- The scale limits of R234. -/
def State.scaleBad (s : State) (tog : List Nat) (c i : Nat) : Bool :=
  let g (f : Nat → Nat → Fld) : Nat := s.lg tog c f i
  Nat.blt (16 * g F.cmpLyrCdimW) (g F.cmpLyrDdimW) || Nat.blt (8 * g F.cmpLyrDdimW) (g F.cmpLyrCdimW)
    || Nat.blt (16 * g F.cmpLyrCdimH) (g F.cmpLyrDdimH) || Nat.blt (4 * g F.cmpLyrDdimH) (g F.cmpLyrCdimH)
    || !s.setValid c (g F.cmpLyrSclHset) || !s.setValid c (g F.cmpLyrSclVset)
    || (Nat.beq (g F.cmpLyrPreEn) 1 && !s.lutValid c (g F.cmpLyrPreSlot) false)

/-- The enabled layers of channel n with the shadows of `tog`. -/
def State.layersWith (s : State) (tog : List Nat) (c n : Nat) : List Nat :=
  (List.range 64).filter (fun i => Nat.beq (s.lg tog c F.cmpLyrCtlEn i) 1 && Nat.beq (s.lg tog c F.cmpLyrCtlChan i) n)

/-- The commit of layer i applied for a trial. -/
def State.tryLayers (s : State) (c : Nat) (tog : List Nat) : State := s.activate (tog.flatMap (fun i => layerAddrs c i))

/-- The checks of R202 for layer i, committed together with the instances in `tog`: the first failure's reason, or 0. -/
def State.layerReason (s : State) (tog : List Nat) (c i : Nat) : Nat :=
  let g (f : Nat → Nat → Fld) : Nat := s.lg tog c f i
  let n := g F.cmpLyrCtlChan
  let src := g F.cmpLyrCtlSrc
  if s.modeIn [Mode.safe, Mode.recover, Mode.drain] then 1
  else if (layerAddrs c i).all (fun a => s.word a == s.actWord a) || Nat.beq (g F.cmpLyrCtlEn) 0 then 0
  else if !Nat.beq (n / 16) c || (s.ais (F.cmpLyrCtlEn c i) && !Nat.beq (s.aget (F.cmpLyrCtlChan c i)) n) then 2
  else if Nat.blt 16 (s.layersWith tog c n).length then 3
  else if (s.layersWith tog c n).any (fun j => !Nat.beq j i && Nat.beq (s.lg tog c F.cmpLyrCtlZ j) (g F.cmpLyrCtlZ)) then 4
  else if s.geomBad tog c i n then 5
  else if s.scaleBad tog c i then 6
  else if Nat.blt 49152 (g F.cmpLyrDdimW * s.setTaps c (g F.cmpLyrSclVset)) then 7
  else
    let t := s.tryLayers c tog
    if s.isCamera src && s.srcOn src && !s.shownBy (s.counted []) src && t.shownBy (t.counted []) src
        && (!t.fitsEngines [] || (!Nat.beq s.mode Mode.degraded && !t.fitsSpare [])) then 8
    else if s.admitted n && !t.fitsDram [] 0 then 9
    else 0

/-- A commit of layer i applies (R199, R205, R225). -/
def State.applyLayer (s : State) (c i : Nat) : State :=
  let was := s.ais (F.cmpLyrCtlEn c i)
  let en := s.is (F.cmpLyrCtlEn c i)
  let changed := [F.cmpLyrCtlSrc, F.cmpLyrCposX, F.cmpLyrCposY, F.cmpLyrCdimW, F.cmpLyrCdimH].any
      (fun f => !Nat.beq (s.get (f c i)) (s.aget (f c i)))
    || (Nat.beq (s.aget (F.cmpLyrAlphaAlpha c i)) 0 && !Nat.beq (s.get (F.cmpLyrAlphaAlpha c i)) 0)
  let s1 := (s.activate (layerAddrs c i)).flag (F.cmpLyrCommitCommit c i) false
  let s2 := (s1.put (F.cmpLyrStatLstate c i) (if en then 1 else 2)).cond (en && (!was || changed)) (fun s =>
    s.setLyr c i { s.lyr c i with reads := [] })
  if en && !was then
    (((s2.setLyr c i {}).setWord (R.cmpLyrAge c i) 0).setWord (R.cmpLyrMissfr c i) 0).setWord (R.cmpLyrStalefr c i) 0
  else s2

/-- A refused commit of layer i (R203). -/
def State.dropLayer (s : State) (c i reason : Nat) : State :=
  (((s.reload (layerAddrs c i)).flag (F.cmpLyrCommitCommit c i) false).flag (F.cmpLyrStatRefused c i) true).put
    (F.cmpLyrStatRefuse c i) reason

/-- The commit of one layer at its channel's frame start. -/
def State.commitLayer (s : State) (c i : Nat) : State :=
  let r := s.layerReason [i] c i
  if Nat.beq r 0 then s.applyLayer c i else (s.dropLayer c i r).refusalEv 13 1 (64 * c + i) r

/-- A set commit of channel n with its pending members (R200, R203, R245): whole or not at all. -/
def State.commitSet (s : State) (n : Nat) (mem : List Nat) : State :=
  let c := n / 16
  let m := n % 16
  let bad := mem.find? (fun i => !Nat.beq (s.layerReason mem c i) 0)
  let s1 := s.flag (F.cmpChlCommitSet c m) false
  if bad.isNone && !s.modeIn [Mode.safe, Mode.recover, Mode.drain] then
    ((s1.each mem (fun s i => s.applyLayer c i)).activate [R.cmpChlBg c m, R.cmpChlOut c m]).showRep n
  else
    let first := bad.getD 0
    let r := if bad.isNone then 1 else s.layerReason mem c first
    let s2 := s1.each mem (fun s i => s.dropLayer c i r)
    let s3 := ((s2.flag (F.cmpChlCommitRefused c m) true).put (F.cmpChlCommitRefuse c m) r).put (F.cmpChlCommitFirst c m)
      first
    s3.refusalEv 13 2 n (r + first * 2 ^ 8)

/-- The pending layers of a channel. -/
def State.pendingOf (s : State) (c n : Nat) : List Nat :=
  (List.range 64).filter (fun i => s.is (F.cmpLyrCommitCommit c i) && Nat.beq (s.layerChan c i) n)

/-- The layer commits of compositor c for the channels whose frames start now, in ascending instance number (R201); a set
stands at the place of its lowest instance, a set without a layer at the end. -/
def State.commitLayers (s : State) (c : Nat) (chans : List Nat) : State :=
  let s1 := s.each (List.range 64) (fun s i =>
    let n := s.layerChan c i
    if s.is (F.cmpLyrCommitCommit c i) && chans.contains n then
      if s.is (F.cmpChlCommitSet (n / 16 % 16) (n % 16)) && Nat.beq (n / 16) c then s.commitSet n (s.pendingOf c n)
      else s.commitLayer c i
    else s)
  s1.each (chans.filter (fun n => Nat.beq (n / 16) c)) (fun s n =>
    if s.is (F.cmpChlCommitSet c (n % 16)) then s.commitSet n [] else s)

/-! Readiness -/

/-- The layers of channel n as the rows of the frame that starts now read them, in ascending Z. -/
def State.layerShot (s : State) (n : Nat) : List LCfg :=
  let c := n / 16
  let l := (s.layersOf n).map (fun i =>
    let g (f : Nat → Nat → Fld) : Nat := s.aget (f c i)
    (⟨i, g F.cmpLyrCtlZ, g F.cmpLyrCtlPolicy, g F.cmpLyrCtlSrc, g F.cmpLyrDposX, g F.cmpLyrDposY, g F.cmpLyrDdimW,
      g F.cmpLyrDdimH, g F.cmpLyrCposX, g F.cmpLyrCposY, g F.cmpLyrCdimW, g F.cmpLyrCdimH, g F.cmpLyrAlphaAlpha,
      g F.cmpLyrSclVset⟩ : LCfg))
  (List.range 16).flatMap (fun z => l.filter (fun x => Nat.beq x.z z))

/-- Keep the layers of the frame that starts now. -/
def State.keepShot (s : State) (n : Nat) : State :=
  let x := s.layerShot n
  let m := (s.aget (F.chnFreshLimit n), unsignedOf 64 (((s.chan n).cur.start : Int) + s.tim.off),
    Nat.beq (s.get F.timStatTstate) 0)
  s.updChan n (fun c => { c with shots := ((c.cur.k, x) :: c.shots).take 8, lims := ((c.cur.k, m) :: c.lims).take 8, lags := ((c.cur.k, s.get (F.audChCfgALag n)) :: c.lags).take 8 })

/-- The stale limit of frame k, its start in linear LTC ns and whether it started in FREERUN. -/
def State.markOf (s : State) (n k : Nat) : Nat × Nat × Bool :=
  match (s.chan n).lims.find? (fun x => Nat.beq x.1 k) with
  | some x => x.2
  | none => (s.aget (F.chnFreshLimit n), unsignedOf 64 (((s.frame n k).start : Int) + s.tim.off), false)
def State.limOf (s : State) (n k : Nat) : Nat := (s.markOf n k).1

/-- The layers that frame k of channel n reads. -/
def State.shotOf (s : State) (n k : Nat) : List LCfg :=
  match (s.chan n).shots.find? (fun x => Nat.beq x.1 k) with
  | some x => x.2
  | none => []

/-- The source lines that the output lines [y0, y1) read through a layer (R233). -/
def State.footLines (s : State) (c : Nat) (l : LCfg) (y0 y1 : Nat) : List Nat :=
  let n := s.setTaps c l.vset
  let a := max y0 l.dy
  let b := min y1 (l.dy + l.dh)
  let lines := (List.range (b - a)).flatMap (fun k =>
    let u := a + k - l.dy
    let w := s.weights c l.vset (scalePhase u l.ch l.dh)
    ((List.range n).filter (fun t => decide (w.getD t 0 ≠ 0))).map (fun t => tapLine n u l.ch l.dh l.cy t))
  if s.isCamera l.src && !lines.isEmpty then
    let lo := lines.foldl min (l.cy + l.ch)
    let hi := lines.foldl max 0
    lines ++ [max l.cy (lo - 2), min (l.cy + l.ch - 1) (hi + 2)]
  else lines

/-- The source rows that these lines lie in. -/
def State.footRows (s : State) (c : Nat) (l : LCfg) (y0 y1 : Nat) : List Nat :=
  let lines := s.footLines c l y0 y1
  (List.range (s.srcRows l.src)).filter (fun r => lines.any (fun y => Nat.beq (y / 64) r))

/-- The version of a source row that a layer reads (R155, R204): from F where the row is complete there, else from L; none
from a disabled source or for a crop outside the source. -/
def State.version (s : State) (l : LCfg) (r : Nat) : Option Ver :=
  let x := s.src l.src
  if Nat.beq (s.sstate l.src) SState.idle || Nat.blt (s.get (F.ingSrcSizeW l.src)) (l.cx + l.cw)
      || Nat.blt (s.get (F.ingSrcSizeH l.src)) (l.cy + l.ch) then none
  else match x.fRows.find? (fun v => Nat.beq v.1 r) with
    | some v => some v.2
    | none => if x.hasL then (x.lRows.find? (fun v => Nat.beq v.1 r)).map (fun v => v.2) else none

/-- The judgement of R205: from the version read, the state of the layer's row and the time, the kind. -/
def judgeKind (v : Option Ver) (x : Read) (tdl rate : Nat) : Nat :=
  let owed := match x.lastOk with
    | none => true
    | some t => Nat.ble (1000000000 * rateDen rate) ((tdl - t) * rateNum rate)
  match v with
  | none => 4
  | some v =>
    if v.absent then 4
    else if v.concealed then 3
    else if v.carried then 2
    else if !(x.shown == some v.frame) then 1
    else if owed || !Nat.beq x.kind 1 then 2
    else 1

/-- What a layer keeps of a source row after a judgement (R205). -/
def Read.judged (x : Read) (v : Option Ver) (tdl rate k : Nat) : Read :=
  let kind := judgeKind v x tdl rate
  ⟨x.row, if Nat.beq kind 1 then 0 else min (x.age + 1) 0xFFFF,
    if Nat.beq kind 1 then v.map (fun v => v.at_) else x.lastOk, v.map (fun v => v.frame), kind, k + 1,
    match v with
    | some v => if v.absent then 0 else if Nat.beq kind 3 then v.intact else v.capt
    | none => 0, (x.age, x.lastOk)⟩

def Lyr.read (x : Lyr) (r : Nat) : Read :=
  match x.reads.find? (fun y => Nat.beq y.row r) with
  | some y => y
  | none => ⟨r, 0, none, none, 0, 0, 0, (0, none)⟩

/-- Layer l of channel n is judged for source row r at a deadline of frame k, once per frame (R205, R206); a held or missing
row counts in ROW_MISS of its source (R155). -/
def State.judgeRead (s : State) (n k tdl : Nat) (l : LCfg) (r : Nat) : State :=
  let c := n / 16
  let x := s.lyr c l.i
  let y := x.read r
  if Nat.beq y.frame (k + 1) then s
  else
    let z := y.judged (s.version l r) tdl (s.get (F.ingSrcFmtFrate l.src)) k
    let bad := !Nat.beq z.kind 1
    let s1 := s.setLyr c l.i { x with
      reads := x.reads.filter (fun y => !Nat.beq y.row r) ++ [z]
      maxAge := max x.maxAge z.age
      nf := if bad then x.nf + 1 else x.nf
      miss := x.miss || bad }
    s1.cond (Nat.beq z.kind 2 || Nat.beq z.kind 4) (fun s => s.bump (F.ingSrcCntRowMiss l.src) 1)

/-! Tile entries -/

/-- A sampler entry (R209). -/
def entryOf (capt age owner state : Nat) : BitVec 64 :=
  BitVec.ofNat 64 (capt % 2 ^ 32 + min age 0xFFFF * 2 ^ 32 + owner % 256 * 2 ^ 48 + state % 16 * 2 ^ 56)
def entryCapt (e : BitVec 64) : Nat := e.toNat % 2 ^ 32
def entryAge (e : BitVec 64) : Nat := e.toNat / 2 ^ 32 % 2 ^ 16
def entryOwner (e : BitVec 64) : Nat := e.toNat / 2 ^ 48 % 2 ^ 8
def entryState (e : BitVec 64) : Nat := e.toNat / 2 ^ 56 % 16
def safeEntry : BitVec 64 := entryOf 0 0 0xFF 5

/-- Does the layer's destination meet the lines [y0, y1); the tile [x0, x1) × [y0, y1); cover it? -/
def LCfg.meetsY (l : LCfg) (y0 y1 : Nat) : Bool := Nat.blt l.dy y1 && Nat.blt y0 (l.dy + l.dh)
def LCfg.meets (l : LCfg) (x0 x1 y0 y1 : Nat) : Bool :=
  l.meetsY y0 y1 && Nat.blt l.dx x1 && Nat.blt x0 (l.dx + l.dw)
def LCfg.covers (l : LCfg) (x0 x1 y0 y1 : Nat) : Bool :=
  Nat.ble l.dx x0 && Nat.ble x1 (l.dx + l.dw) && Nat.ble l.dy y0 && Nat.ble y1 (l.dy + l.dh)

/-- The contributing layers of a tile (R198), from layers in ascending Z. -/
def contributing (ls : List LCfg) (x0 x1 y0 y1 : Nat) : List LCfg :=
  ls.filter (fun l => l.meets x0 x1 y0 y1 && !Nat.beq l.alpha 0
    && !(ls.any (fun u => Nat.blt l.z u.z && Nat.beq u.alpha 1023 && u.covers x0 x1 y0 y1)))

/-- The read of greater age; at equal age a concealed one (R210). -/
def worseRead (a b : Read) : Read :=
  if Nat.blt a.age b.age || (Nat.beq a.age b.age && Nat.beq b.kind 3 && !Nat.beq a.kind 3) then b else a

/-- The read of a layer that decides for the lines [y0, y1). -/
def State.tileRead (s : State) (c : Nat) (l : LCfg) (y0 y1 : Nat) : Read :=
  match (s.footRows c l y0 y1).map (s.lyr c l.i).read with
  | [] => ⟨0, 0, none, none, 1, 0, 0, (0, none)⟩
  | x :: t => t.foldl worseRead x

/-- STATE of a kind of read (R210). -/
def kindState (kind : Nat) : Nat := if Nat.beq kind 1 then 0 else if Nat.beq kind 3 then 3 else 1

/-- The candidate entry of a tile from its contributing layers in ascending Z, each with its read (R210 to R212). -/
def candidate (l : List (LCfg × Read)) (limit bgCapt : Nat) : BitVec 64 :=
  match l with
  | [] => entryOf bgCapt 0 0xFE 0
  | x :: t =>
    let o := t.foldl (fun a b =>
      if Nat.blt b.2.age a.2.age || (Nat.beq a.2.age b.2.age && Nat.beq a.2.kind 3 && !Nat.beq b.2.kind 3) then a else b) x
    entryOf o.2.capt o.2.age o.1.i (if Nat.blt limit o.2.age then 2 else kindState o.2.kind)

/-- The layers' reads of one tile row. -/
def State.rowReads (s : State) (c : Nat) (ls : List LCfg) (y0 y1 : Nat) : List (LCfg × Read) :=
  (ls.filter (fun l => l.meetsY y0 y1 && !Nat.beq l.alpha 0)).map (fun l => (l, s.tileRead c l y0 y1))

/-- The candidate entries of one tile row, from tile column t0 for tn tiles. -/
def State.tileRow (s : State) (n k y0 y1 w t0 tn : Nat) (ls : List LCfg) : List (BitVec 64) :=
  let c := n / 16
  let reads := s.rowReads c ls y0 y1
  let lim := s.limOf n k
  let bg := (s.markOf n k).2.1
  (List.range tn).map (fun t =>
    let x0 := 32 * (t0 + t)
    let x1 := min w (x0 + 32)
    let con := (contributing ls x0 x1 y0 y1).map LCfg.i
    candidate (reads.filter (fun p => con.contains p.1.i)) lim bg)

/-- Tile rows of a picture of h lines that lie in block row j, with their first and last lines. -/
def tileRowsOf (h j : Nat) : List (Nat × Nat) :=
  ([64 * j, 64 * j + 32].filter (fun y => Nat.blt y h)).map (fun y => (y, min h (y + 32)))

/-- Tiles across one context of channel n. -/
def State.tilesX (s : State) (n : Nat) : Nat := ctxWidth (s.aget (F.chnFmtW32 n)) (Nat.beq (s.aget (F.chnFmtSpan4 n)) 1) / 32

/-- The candidates of block row j of frame k for strip x of channel n, tile rows in raster order. -/
def State.candsOf (s : State) (n k j x : Nat) : List (BitVec 64) :=
  (tileRowsOf (s.height n) j).flatMap (fun y =>
    s.tileRow n k y.1 y.2 (s.width n) (x * s.tilesX n) (s.tilesX n) (s.shotOf n k))

/-- At the row deadline of row j of frame k, the compositor judges every source row that the channel's layers read for it
(R205). -/
def State.judgeRow (s : State) (n k j : Nat) : State :=
  let y1 := min (s.height n) (64 * j + 64)
  let t := s.now
  s.each ((s.shotOf n k).filter (fun l => !Nat.beq l.alpha 0 && l.meetsY (64 * j) y1)) (fun s l =>
    s.each (s.footRows (n / 16) l (64 * j) y1) (fun s r => s.judgeRead n k t l r))

/-- Layers that own a stale tile of the row count the frame (R225). -/
def State.markStale (s : State) (c : Nat) (cands : List (BitVec 64)) : State :=
  s.each (List.range 64) (fun s i =>
    if cands.any (fun e => Nat.beq (entryState e) 2 && Nat.beq (entryOwner e) i) then
      s.setLyr c i { s.lyr c i with stale := true }
    else s)

/-- The last row of a frame has been judged: the layers' counters of the frame (R225). -/
def State.closeLayers (s : State) (n k : Nat) : State :=
  let c := n / 16
  s.each (s.shotOf n k) (fun s l =>
    let x := s.lyr c l.i
    let s1 := (s.put (F.cmpLyrAgeMax c l.i) x.maxAge).put (F.cmpLyrAgeNotfresh c l.i) (min x.nf 0xFFFF)
    let s2 := (s1.cond x.miss (fun s => s.bump (F.cmpLyrMissfr c l.i) 1)).cond x.stale (fun s =>
      s.bump (F.cmpLyrStalefr c l.i) 1)
    s2.setLyr c l.i { x with maxAge := 0, nf := 0, miss := false, stale := false })

end Sys2Proof.Machine
end

