-- ==== Sys2Proof/Machine/Rate.lean ====
section
/-!
DEFINITION. Sys2Proof/Machine/Rate.lean: rate control per block row (chapter 11, R311 to R334), and the pacing figures of
egress that it rests on (R348, R351, R352). The four strips of a 4320p channel share one rate control (log entry 12).
-/

namespace Sys2Proof.Machine

/-! Logarithms and powers of two by sixths, exactly (R317, R320, R321) -/

/-- (a / b)^12 ≤ 2^k for a whole k. -/
def pow12Le (a b : Nat) (k : Int) : Bool :=
  if 0 ≤ k then Nat.ble (a ^ 12) (2 ^ k.toNat * b ^ 12) else Nat.ble (a ^ 12 * 2 ^ (-k).toNat) (b ^ 12)

/-- round(32 − 6 log2(a / b)), halves upwards, between −1 and 64: the largest q with (a / b)^12 ≤ 2^(65 − 2q). -/
def roundQ (a b : Nat) : Int :=
  (((List.range 65).filter (fun q => pow12Le a b (65 - 2 * (q : Int)))).length : Int) - 1

/-- round(6 log2(a / b)), halves upwards, between −17 and 16: the largest m with 2^(2m − 1) ≤ (a / b)^12. -/
def roundLog (a b : Nat) : Int :=
  (((List.range 33).filter (fun i => pow12Le b a (1 - 2 * ((i : Int) - 16)))).length : Int) - 17

/-- The largest n below 2^48 with n^6 × den ≤ num. -/
def root6 (num den : Nat) : Nat :=
  ((List.range 48).reverse).foldl (fun n b => if Nat.ble ((n + 2 ^ b) ^ 6 * den) num then n + 2 ^ b else n) 0

/-- floor(v × 2^(k/6)). -/
def scale6 (v : Nat) (k : Int) : Nat :=
  if 0 ≤ k then root6 (v ^ 6 * 2 ^ k.toNat) 1 else root6 (v ^ 6) (2 ^ (-k).toNat)

/-! Egress figures -/

/-- A configuration field from the shadows or from the active values. -/
def State.fld (s : State) (act : Bool) (f : Fld) : Nat := if act then s.aget f else s.get f

/-- Length in bytes of an egress packet on the wire (R348). -/
def State.wPkt (s : State) (act : Bool) (n : Nat) : Nat :=
  (if Nat.beq (s.fld act (F.egrChCfgPkg n)) 1 then 1356 else s.fld act (F.egrChCfgLen n)) + 38
    + (if [0, 1].any (fun x => Nat.beq (s.fld act (F.egrPathCfgEn n x)) 1 && !Nat.beq (s.fld act (F.egrPathCfgVlan n x)) 0)
      then 4 else 0)

/-- t_min (R351) from rows and rate code. -/
def tMin (rows frate : Nat) : Nat := 16384 / rows * (1000000000 * rateDen frate / rateNum frate) / 16384

/-- n_pkt (R351). -/
def State.nPkt (s : State) (act cact : Bool) (n : Nat) : Nat :=
  9 * tMin (rowsOf (8 * s.fld cact (F.chnFmtH8 n))) (s.fld cact (F.chnFmtFrate n)) * s.fld act (F.egrChPacePace n)
    / (80000000 * s.wPkt act n)

/-- a_row (R351). -/
def State.aRow (s : State) (act cact : Bool) (n : Nat) : Nat :=
  if Nat.beq (s.fld act (F.egrChCfgAudEn n)) 0 then 0
  else
    let fr := s.fld cact (F.chnFmtFrate n)
    let pb := 5 + s.fld act (F.egrChCfgBits n)
    let smp := (48000 * rateDen fr + rateNum fr - 1) / rateNum fr
    let rows := rowsOf (8 * s.fld cact (F.chnFmtH8 n))
    ((18 + smp * (s.fld act (F.egrChCfgPairs n) + 1) * pb + 183) / 184 + rows - 1) / rows

/-- S_row (R351). -/
def State.sRow (s : State) (act cact : Bool) (n : Nat) : Nat :=
  if Nat.beq (s.fld act (F.egrChCfgPkg n)) 1 then
    (7 * s.nPkt act cact n - 4 - s.aRow act cact n) * 184 - 24
  else (s.nPkt act cact n - 6) * (s.fld act (F.egrChCfgLen n) - 43)

/-- P_buf in bytes (R352). -/
def State.pBuf (s : State) (act : Bool) (n : Nat) : Nat := s.fld act (F.egrChCfgPbuf n) * 65536

/-! Sizes that stand in for a row (R311) -/

def State.store_ (s : State) (n : Nat) : Store := Tab.get {} s.est n
def State.safeSize (s : State) (n j : Nat) : Nat := (s.store_ n).safe.getD j 0
def State.skipSize (s : State) (n j : Nat) : Nat := (s.store_ n).skip.getD j 0

/-- r_j and z_j of a channel, over its strips. -/
def State.rSize (s : State) (strips : List Nat) (j : Nat) : Nat := (strips.map (fun m => max (s.skipSize m j) (s.safeSize m j))).sum
def State.zSize (s : State) (strips : List Nat) (j : Nat) (idr : Bool) : Nat :=
  (strips.map (fun m => if idr then s.safeSize m j else s.skipSize m j)).sum

/-- Σ r_j from row j on. -/
def State.rFrom (s : State) (strips : List Nat) (rows j : Nat) : Nat :=
  (((List.range rows).filter (fun i => Nat.ble j i)).map (s.rSize strips)).sum

/-- E_sei_max, and C_min for a value of MAP (R312, R313). -/
def seiMax (map : Bool) : Nat := if map then 12432 else 96
def State.cMin (s : State) (strips : List Nat) (rows : Nat) (map : Bool) : Nat := 2048 + s.rFrom strips rows 0 + seiMax map

/-- S_row and C_row in the frame in force (R313): scaled in a transition frame shorter than the new nominal period. -/
def State.sRowNow (s : State) (n : Nat) : Nat :=
  let f := (s.chan n).cur
  let fr := s.aget (F.chnFmtFrate n)
  let x := s.sRow true true n
  if f.trans && Nat.blt (f.len * rateNum fr) (1000000000 * rateDen fr) then
    x * (f.len * rateNum fr) / (1000000000 * rateDen fr)
  else x

/-- C_cfg in force, and whether it was raised (R313). -/
def State.cCfg (s : State) (n : Nat) : Option Nat × Bool :=
  let c := s.aget (F.chnRcCapCap n)
  let m := s.cMin (s.strips n) (s.rows n) (s.ais (F.chnFreshMap n))
  if Nat.beq c 0 then (none, false) else if Nat.blt c m then (some m, true) else (some c, false)

/-- C_hard (R313). -/
def State.cHard (s : State) (n : Nat) : Nat :=
  let x := min (s.pBuf true n / 2) (s.rows n * s.sRowNow n)
  match (s.cCfg n).1 with
  | some c => min x c
  | none => x

/-- CHN_RC_HARD and CHN_RC_SROW at admission and at a commit (R333). -/
def State.showCap (s : State) (n : Nat) : State :=
  ((s.put (F.chnRcHardHard n) (min 0xFFFFFF (s.cHard n))).flag (F.chnRcHardRaised n) (s.cCfg n).2).put (F.chnRcSrowSrow n)
    (min 0xFFFFFF (s.sRowNow n))

/-! Coded size -/

/-- Coded width of a context (R266); CTUs per row of a channel. -/
def State.codedWidth (s : State) (n : Nat) : Nat :=
  let w := 32 * s.tilesX n
  let h := s.aget (F.chnEncCfgHscl n)
  if Nat.beq h 1 then w * 3 / 4 else if Nat.beq h 2 then w / 2 else w
def State.ctus (s : State) (n : Nat) : Nat := (s.codedWidth n + 63) / 64 * (s.strips n).length

/-- qp_floor, and a QP value as the codec takes it (R321, R332). -/
def State.qpTop (s : State) (n : Nat) : Nat := if s.ais (F.chnCodecCodec n) then 51 else 63
def State.qpOf (s : State) (n : Nat) (f : Fld) : Int := (min (s.aget f) (s.qpTop n) : Nat)

/-- Σ f_j over `k` rows (R311). -/
def State.floorSize (s : State) (n k : Nat) : Nat := s.aget (F.chnRcCfgFloorCtu n) * s.ctus n * k

def State.setRc (s : State) (n : Nat) (f : Rc → Rc) : State := s.updChan n (fun c => { c with rc := f c.rc })
def State.rc (s : State) (n : Nat) : Rc := (s.chan n).rc

/-- The bucket in bytes. -/
def Rc.buf (x : Rc) : Nat := x.rate * x.bufMs / 8

/-- Memories h and u of a row, in 1/256 byte (R319). -/
def Rc.memOf (x : Rc) (j : Nat) : Nat × Nat := Tab.get (6144, 512) x.mem j

/-- The parameters of R332 as active now. -/
def State.rcParams (s : State) (n : Nat) (x : Rc) : Rc :=
  { x with mode := s.aget (F.chnRcCfgMode n), rate := s.aget (F.chnRcRateRate n), bufMs := s.aget (F.chnRcCfgBufMs n) }

/-- Rate control of a channel as it starts (R319, R334, R613): half the bucket, initial memories, counters at 0. -/
def State.rcStart (s : State) (n : Nat) : State :=
  let x := s.rcParams n {}
  let s1 := s.setRc n (fun _ => { x with fill := (x.buf / 2 : Nat) })
  s1.each [R.chnRcCntFloorFr n, R.chnRcCntFloorRow n, R.chnRcCntCapRow n, R.chnRcCntCeilRow n, R.chnRcCntBytesLo n,
    R.chnRcCntBytesHi n] (fun s a => s.setWord a 0)

/-- At a frame start (R318, R328, R332): what the audits found enters the fill; a change of MODE, RATE or BUF_MS takes
effect with the fill at half the new bucket; CHN_RC_FILL. -/
def State.rcFrame (s : State) (n : Nat) : State :=
  let x := s.rc n
  let y := s.rcParams n x
  let changed := !(Nat.beq x.mode y.mode && Nat.beq x.rate y.rate && Nat.beq x.bufMs y.bufMs)
  let z : Rc := { y with fill := if changed then (y.buf / 2 : Nat) else x.fill + x.pend, pend := 0 }
  (s.setRc n (fun _ => z)).put (F.chnRcFillFill n) z.fill.toNat

/-- A reference restart keeps the fill and sets the memories to their initial values (R613). -/
def State.rcRestart (s : State) (n : Nat) : State := s.setRc n (fun x => { x with mem := [] })

/-- e_j in 1/256 byte from n_j, x_j, g_j and the memories (R317, R319). -/
def rowEst (idr : Bool) (m : Nat × Nat) (t : Nat × Nat × Nat) : Nat :=
  if idr then 3 * t.1 * m.1 else t.2.1 * m.1 + (t.1 - t.2.1) * m.2 + t.2.2 * m.1

/-- Targets t_j of R317 from b_rows and the estimates: the last row takes the remainder. -/
def targetsOf (b : Int) (e : List Nat) : List Int :=
  let sum : Int := (e.sum : Nat)
  let t := (List.range e.length).map (fun j =>
    if sum = 0 then Config.zeroTarget b j else b * (e.getD j 0 : Nat) / sum)
  let head := t.dropLast
  head ++ (if e.isEmpty then [] else [b - head.sum])

/-- The spent value of the picture before, with a last row that is not in at its target (R317). -/
def Rc.spentOf (x : Rc) (rows : Nat) : Int :=
  (x.epre : Int) + x.a + (if Nat.blt x.inRows rows then x.targets.getD (rows - 1) 0 else 0) + x.seiEst

/-- Row 0's front end starts on picture k (R317): the frame budget, q0, the targets. `est` holds n_j, x_j and g_j by row,
`epre` is E_pre. -/
def State.rcBegin (s : State) (n k epre : Nat) (idr : Bool) (est : List (Nat × Nat × Nat)) : State :=
  let x := s.rc n
  let rows := s.rows n
  let avg := 1000 * x.rate * (s.frame n k).len / 8000000000
  let spent := x.spentOf rows
  let prev := x.coded && Nat.beq (x.pic + 1) k
  let fill := if prev then max 0 (x.fill + spent - (x.avg : Int)) else x.fill
  let seiEst := (s.chan n).seiSize
  let e := (List.range rows).map (fun j => rowEst idr (x.memOf j) (est.getD j (0, 0, 0)))
  let sum := e.sum
  let b0 : Int := (avg : Int) + ((x.buf : Int) / 2 - fill) / 4
  let b1 : Int := if idr then ((s.aget (F.chnRcCfgIdrMult n) * avg : Nat) : Int) else b0
  let b2 := min b1 (min ((x.buf : Int) - fill + avg) ((s.cHard n : Int) - seiMax (s.ais (F.chnFreshMap n))))
  let b := if Nat.beq x.mode 0 then max b2 ((avg : Int) / 4) else b2
  let bRows := b - epre - seiEst
  let floor := decide (bRows ≤ (s.floorSize n rows : Int))
  let q := if sum = 0 then Config.zeroQ bRows else roundQ (bRows.toNat * 256) sum
  let vbr := Nat.beq x.mode 1 && decide (q < s.qpOf n (F.chnRcQpQpVbr n)) && !floor
  let q1 := if vbr then s.qpOf n (F.chnRcQpQpVbr n) else q
  let bRows1 : Int := if vbr then ((scale6 sum (32 - q1) / 256 : Nat) : Int) else bRows
  let q0 : Int := if floor then (s.qpTop n : Int) else clampI (s.qpOf n (F.chnRcQpQpMin n)) (s.qpOf n (F.chnRcQpQpMax n)) q1
  let s1 := s.setRc n (fun x => { x with
    fill := fill
    pic := k
    avg := avg
    budget := b
    rowsB := bRows1
    q0 := q0.toNat
    targets := targetsOf bRows1 e
    qps := [(0, q0.toNat)]
    a := 0
    oldPre := x.epre
    oldH := x.charge
    epre := epre
    charge := 0
    floor := floor
    cap := false
    first := if floor then 0 else 0x7F
    idr := idr
    open_ := if prev && !x.settled then (x.open_.filter (fun o => !Nat.beq o.1 x.pic) ++ [(x.pic, spent)]) else x.open_
    oldT := x.targets.getD (rows - 1) 0
    settled := false
    coded := true
    seiEst := seiEst
    inRows := 0 })
  let s2 := ((s1.put (F.chnRcFrameQ0 n) q0.toNat).put (F.chnRcFrameFirstFloor n) (if floor then 0 else 0x7F)).put
    (F.chnRcBudgetB n) (min 0xFFFFFF b.toNat)
  ((s2.flag (F.chnRcFrameFloor n) floor).flag (F.chnRcFrameCapskip n) false).cond floor
    (fun s => s.bump (F.chnRcCntFloorFr n) 1)

/-- The law of R321 for the row after row j, given a with row j's bytes in it: floor or not, and the QP. -/
def State.qpLaw (s : State) (n j : Nat) (x : Rc) (a : Int) : Bool × Nat :=
  let rows := s.rows n
  if x.floor || decide (x.rowsB - a < (s.floorSize n (rows - 1 - j) : Int)) then (true, s.qpTop n)
  else
    let d := a - (x.targets.take (j + 1)).sum
    let rem := (x.targets.drop (j + 1)).sum
    let up : Int := (s.aget (F.chnRcQpDqUp n) : Nat)
    let q0 : Int := (x.q0 : Nat)
    let den := max (rem - d) (rem / 8)
    let qf := if rem ≤ 0 || den ≤ 0 then q0 + up else q0 + roundLog rem.toNat den.toNat
    (false, (clampI (max (s.qpOf n (F.chnRcQpQpMin n)) (q0 - (s.aget (F.chnRcQpDqDn n) : Nat)))
      (min (s.qpOf n (F.chnRcQpQpMax n)) (q0 + up)) qf).toNat)

/-- QP_pred of row j, whose front end starts (R322): row j − 1 counts at its target unless it is in; row 0 takes q0. -/
def State.qpPred (s : State) (n j : Nat) : Nat :=
  let x := s.rc n
  if Nat.beq j 0 then x.q0
  else match x.qps.find? (fun q => Nat.beq q.1 j) with
    | some q => q.2
    | none => (s.qpLaw n (j - 1) x (x.a + ((x.targets.drop x.inRows).take (j - x.inRows)).sum)).2

/-- QP_final of row j, once it is set. -/
def State.qpFinal (s : State) (n j : Nat) : Option Nat :=
  ((s.rc n).qps.find? (fun q => Nat.beq q.1 j)).map (fun q => q.2)

/-- The cap check (R323): E_pre + H + max(s_j, r_j) + r_(j+1) + … + E_sei_max > C_hard. -/
def State.capBroken (s : State) (n j epre h size : Nat) : Bool :=
  let st := s.strips n
  Nat.blt (s.cHard n) (epre + h + max size (s.rSize st j) + s.rFrom st (s.rows n) (j + 1) + seiMax (s.ais (F.chnFreshMap n)))

/-- The ceiling check (R316). -/
def State.ceilBroken (s : State) (n j epre size : Nat) : Bool :=
  Nat.blt (s.sRowNow n) (size + (if Nat.beq j 0 then epre else 0)
    + (if Nat.beq (j + 1) (s.rows n) then seiMax (s.ais (F.chnFreshMap n)) else 0))

/-- The memories of row j after it has coded s bytes at QP q (R320). -/
def memAfter (m : Nat × Nat) (size q nj xj gj : Nat) : Nat × Nat :=
  let v := scale6 (256 * size) ((q : Int) - 32)
  if Nat.beq (xj + gj) 0 then (m.1, (m.2 + v / nj) / 2)
  else ((m.1 + (v - (nj - xj) * m.2) / (xj + gj)) / 2, m.2)

/-- Steps 3 to 5 of R323 for row j of picture k: the charge, the memories where the row stays live, the law. -/
def State.rcCharge (s : State) (n k j size : Nat) (replaced : Bool) (q : Nat) (live : Bool) (t : Nat × Nat × Nat) : State :=
  let x := s.rc n
  let st := s.strips n
  let z := s.zSize st j x.idr
  let sn := if replaced then z else size
  let mem := if live && !replaced && !x.idr then Tab.put (6144, 512) x.mem j (memAfter (x.memOf j) size q t.1 t.2.1 t.2.2)
    else x.mem
  if Nat.beq k x.pic then
    let a := x.a + (sn : Int)
    let law := s.qpLaw n j x a
    let last := Nat.beq (j + 1) (s.rows n)
    let fl := !last && law.1 && !x.floor
    let s1 := s.setRc n (fun x => { x with
      a := a
      charge := x.charge + (if replaced then s.rSize st j else max size (s.rSize st j))
      mem := mem
      floor := x.floor || fl
      first := if fl then j + 1 else x.first
      qps := if last then x.qps else x.qps.filter (fun q => !Nat.beq q.1 (j + 1)) ++ [(j + 1, law.2)]
      inRows := j + 1 })
    s1.cond fl (fun s => ((s.flag (F.chnRcFrameFloor n) true).put (F.chnRcFrameFirstFloor n) (j + 1)).bump
      (F.chnRcCntFloorFr n) 1)
  else
    s.setRc n (fun x => { x with
      mem := mem
      fill := x.fill + (sn : Int) - x.oldT
      open_ := x.open_.map (fun o => if Nat.beq o.1 k then (k, o.2 + (sn : Int) - x.oldT) else o)
      oldH := x.oldH + (if replaced then s.rSize st j else max size (s.rSize st j)) })

/-- The cap flag is set (R323, R324). -/
def State.setCapFlag (s : State) (n : Nat) : State :=
  (s.setRc n (fun x => { x with cap := true })).flag (F.chnRcFrameCapskip n) true

/-- An audit point settles picture k with the bytes its access unit emitted (R318): the difference waits for the next
frame start. -/
def State.rcAudit (s : State) (n k bytes : Nat) : State :=
  let x := s.rc n
  let now := Nat.beq k x.pic && x.coded
  let known := if now then some (x.spentOf (s.rows n))
    else (x.open_.find? (fun o => Nat.beq o.1 k)).map (fun o => o.2)
  match known with
  | some c => s.setRc n (fun x => { x with
      pend := x.pend + (bytes : Int) - c
      open_ := x.open_.filter (fun o => !Nat.beq o.1 k)
      settled := x.settled || now })
  | none => s

end Sys2Proof.Machine
end

