-- ==== Sys2Proof/Machine/Encode.lean ====
section
/-!
DEFINITION. Sys2Proof/Machine/Encode.lean: the encoder row pipeline: composing, coding, comparing and packing a row, with
refresh, references and repair (chapters 09, 10, 15 and 16).
-/

namespace Sys2Proof.Machine

/-! Profile and level (R261) -/

/-- MaxLumaPs, 1,001 × MaxLumaSr, and general_level_idc in VVC and in HEVC, by level (PRESUMED, notes/assumptions/13). -/
def levels : List (Nat × Nat × Nat × Nat) :=
  [(36864, 552960 * 1001, 16, 30), (122880, 3686400 * 1001, 32, 60), (245760, 7372800 * 1001, 35, 63),
   (552960, 16588800 * 1001, 48, 90), (983040, 33177600 * 1001, 51, 93), (2228224, 66846720 * 1001, 64, 120),
   (2228224, 133693440 * 1001, 67, 123), (8912896, 267386880 * 1001, 80, 150), (8912896, 534773760 * 1001, 83, 153),
   (8912896, 1069547520 * 1001, 86, 156), (35651584, 1069547520 * 1001, 96, 180), (35651584, 2139095040 * 1001, 99, 183),
   (35651584, 4278190080 * 1001, 102, 186)]

/-- CHN_ENC_STAT of an admitted channel (R261). -/
def State.showCodec (s : State) (n : Nat) : State :=
  let hevc := s.ais (F.chnCodecCodec n)
  let ps := s.codedWidth n * (s.strips n).length * s.height n
  let sr := ps * rate1001 (s.aget (F.chnFmtFrate n))
  let lv := match levels.find? (fun l => Nat.ble ps l.1 && Nat.ble sr l.2.1) with
    | some l => if hevc then l.2.2.2 else l.2.2.1
    | none => 0
  (s.put (F.chnEncStatLevel n) lv).put (F.chnEncStatProfile n)
    (if hevc then 3 else if Nat.beq (s.aget (F.chnFmtChroma n)) 0 then 1 else 2)

/-! Change bits and refresh columns in a row's estimate -/

/-- The change bit of tile (tx, ty) of a source as a layer reads it (R268, R420): 0 for a carried row, 1 while its INGEST_ROW
task has not completed. -/
def State.srcChanged (s : State) (l : LCfg) (tx ty : Nat) : Bool :=
  let x := s.src l.src
  let r := ty / 2
  match s.version l r with
  | none => true
  | some v =>
    if v.carried then false
    else if !(x.chgF.any (fun c => Nat.beq c.1 r && Nat.beq c.2 v.frame)) then true
    else match x.chg.find? (fun c => Nat.beq c.1 r) with
      | some c => Nat.testBit c.2 (ty % 2 * ((s.get (F.ingSrcSizeW l.src) + 31) / 32) + tx)
      | none => true

/-- First and last source position under output positions u0 to u1 (R231). -/
def underSpan (u0 u1 c d o : Nat) : Nat × Nat :=
  let f (u : Nat) : Nat := o + (clampI 0 ((c : Int) - 1) (scaleIdx u c d)).toNat
  (f u0, f u1)

/-- Does the layer show changed content inside the tile [x0, x1) × [y0, y1)? -/
def State.layerChanged (s : State) (l : LCfg) (x0 x1 y0 y1 : Nat) : Bool :=
  let ax := max x0 l.dx - l.dx
  let bx := min x1 (l.dx + l.dw) - l.dx - 1
  let ay := max y0 l.dy - l.dy
  let by_ := min y1 (l.dy + l.dh) - l.dy - 1
  let h := underSpan ax bx l.cw l.dw l.cx
  let v := underSpan ay by_ l.ch l.dh l.cy
  (List.range (v.2 / 32 + 1 - v.1 / 32)).any (fun a =>
    (List.range (h.2 / 32 + 1 - h.1 / 32)).any (fun b => s.srcChanged l (h.1 / 32 + b) (v.1 / 32 + a)))

/-- Were all the row's layers read fresh or held (R268)? -/
def State.cleanReads (s : State) (n k j : Nat) : Bool :=
  let y1 := min (s.height n) (64 * j + 64)
  ((s.shotOf n k).filter (fun l => !Nat.beq l.alpha 0 && l.meetsY (64 * j) y1)).all (fun l =>
    (s.footRows (n / 16) l (64 * j) y1).all (fun r =>
      let x := (s.lyr (n / 16) l.i).read r
      Nat.beq x.kind 1 || Nat.beq x.kind 2))

/-- Tiles of block row j in one context: n_j of R311. -/
def State.tilesIn (s : State) (n j : Nat) : Nat := s.tilesX n * (tileRowsOf (s.height n) j).length

/-- x_j of strip x of channel n (R319): tiles that are not offered with a skip bias. -/
def State.rowX (s : State) (n k j x : Nat) : Nat :=
  if (s.rc n).dirty.contains ((k - 1) * 128 + j) || !s.cleanReads n k j then s.tilesIn n j
  else
    let w := s.width n
    let ls := s.shotOf n k
    ((tileRowsOf (s.height n) j).map (fun y =>
      ((List.range (s.tilesX n)).filter (fun t =>
        let x0 := 32 * (x * s.tilesX n + t)
        let x1 := min w (x0 + 32)
        (contributing ls x0 x1 y.1 y.2).any (fun l => s.layerChanged l x0 x1 y.1 y.2))).length)).sum

/-! Refresh (R269 to R275) -/

/-- The boundary x_p (R269) of the picture k that begins: in a closing sweep, equal steps from the column where it began
(R275); an IDR picture is refreshed whole. -/
def State.nextX (s : State) (n k : Nat) (idr : Bool) : Nat :=
  let c := s.chan n
  let cw := s.codedWidth n
  let nb := (cw + 63) / 64
  let b := if Nat.blt 0 c.closeN && Nat.ble c.closeF k then
      c.closeX + ((nb - c.closeX) * (k + 1 - c.closeF) + c.closeN - 1) / c.closeN
    else
      let sw := max 1 (c.period - s.aget (F.chnEncGdrMargin n))
      ((c.gdrP + 1) * nb + sw - 1) / sw
  if idr then cw else min cw (64 * b)

/-- x_p of picture k, its period, and whether it is the last of it; pictures not begun count to the present period. -/
def State.refreshOf (s : State) (n k : Nat) : Nat × Nat × Bool :=
  match (s.chan n).gdrX.find? (fun g => Nat.beq g.1 k) with
  | some g => g.2
  | none => (0, (s.chan n).gdrN, false)

/-- b(j) of a row of context m in a period. -/
def State.refreshB (s : State) (m per j : Nat) : Nat := Tab.get 0 (s.chan m).gdrB (per * 128 + j)

/-- g_j of context m (R319): tiles of row j that its refresh column meets, mapped to the composed picture. -/
def State.rowG (s : State) (n m k j : Nat) : Nat :=
  let cw := s.codedWidth n
  let w := 32 * s.tilesX n
  let g := s.refreshOf n k
  let b0 := s.refreshB m g.2.1 j
  let b1 := g.1
  if Nat.ble b1 b0 || Nat.beq cw 0 then 0
  else
    let a := b0 * w / cw
    let e := (b1 * w + cw - 1) / cw
    let lo := if s.ais (F.chnEncCfgMirror n) then w - e else a
    let hi := if s.ais (F.chnEncCfgMirror n) then w - a else e
    ((hi + 31) / 32 - lo / 32) * (tileRowsOf (s.height n) j).length

/-- Is capture frame k of channel n an IDR picture (R274)? -/
def State.isIdr (s : State) (n k : Nat) : Bool :=
  let i := s.aget (F.chnEncGdrIdr n)
  !Nat.beq i 0 && Nat.beq ((k - (s.chan n).k0) % i) 0 && Nat.blt (s.chan n).k0 k

/-- The refresh state moves to the picture k whose row 0 begins (R269, R273 to R275): a new period, or the next position. -/
def State.refreshStep (s : State) (n k : Nat) (idr : Bool) : State :=
  let c := s.chan n
  let start := c.gdrNew || (Nat.beq c.closeN 0 && Nat.ble c.period (c.gdrP + 1)) || Nat.beq c.period 0
  let s1 := if start then
      s.updChan n (fun c => { c with gdrP := 0, gdrN := c.gdrN + 1, gdrNew := idr, period := s.aget (F.chnEncGdrPeriod n) })
    else s.updChan n (fun c => { c with gdrP := c.gdrP + 1, gdrNew := idr })
  let d := s1.chan n
  let last := idr || (Nat.beq d.closeN 0 && Nat.ble d.period (d.gdrP + 1)) || (Nat.blt 0 d.closeK && Nat.beq d.closeK k)
  let s2 := s1.updChan n (fun c => { c with gdrX := ((k, (s1.nextX n k idr, c.gdrN, last)) :: c.gdrX).take 8 })
  let keep (b : Nat × Nat) : Bool := Nat.ble d.gdrN (b.1 / 128 + 1)
  s2.each (s2.strips n) (fun s m => (s.updChan m (fun c => { c with gdrB := c.gdrB.filter keep })).put
    (F.chnEncStatGdrP m) d.gdrP)

/-- The channel enters CLOSING with a live picture, after slot k (R275): the rest of the refresh is swept in CLOSE pictures,
or the period ends on its own schedule where that is sooner. -/
def State.startClosing (s : State) (n k : Nat) : State :=
  let c := s.chan n
  let cl := max 1 (s.aget (F.chnEncGdrClose n))
  let own := c.rc.pic + (c.period - (c.gdrP + 1))
  if Nat.blt k own && Nat.ble own (k + cl) then s.updChan n (fun c => { c with closeK := own })
  else
    let x := ((s.refreshOf n k).1 + 63) / 64
    let nb := (s.codedWidth n + 63) / 64
    s.updChan n (fun c => { c with
      closeK := k + cl
      closeF := k + 1
      closeN := cl
      closeX := if Nat.ble nb x then 0 else x
      gdrNew := c.gdrNew || Nat.ble nb x })

/-- A row's release moves its refresh boundary (R271): a live row outside floor mode to x_p, a safe row to the coded width. -/
def State.refreshRow (s : State) (n m k j : Nat) (live safe floor : Bool) : State :=
  let g := s.refreshOf n k
  let at_ (x : Nat) : State := s.updChan m (fun c => { c with gdrB := Tab.put 0 c.gdrB (g.2.1 * 128 + j) x })
  if safe then at_ (s.codedWidth n)
  else if live && !floor then at_ (max g.1 (s.refreshB m g.2.1 j))
  else s

/-- Is every row of the channel refreshed over its coded width in the period of picture k (R272)? -/
def State.refreshed (s : State) (n k : Nat) : Bool :=
  let per := (s.refreshOf n k).2.1
  (s.strips n).all (fun m => (List.range (s.rows n)).all (fun j => Nat.ble (s.codedWidth n) (s.refreshB m per j)))

/-! Tasks of a row -/

/-- Does the engine code capture frame k of channel n (R276, R307)? -/
def State.codes (s : State) (n k : Nat) : Bool :=
  Nat.ble (s.chan n).codeFrom k && [1, 2, 4].contains (s.chState n) && !(s.chan n).wantSafe

/-- The reference rows that row j of frame k of context m needs are final (R252, R280), and the safe reconstruction is
decoded where it is the reference (R276). -/
def State.refsFinal (s : State) (m k j : Nat) : Bool :=
  let n := s.leadOf m
  let r := s.aget (F.chnCodecNref n) + 1
  !((s.chan m).rows.any (fun x => Nat.blt x.k k && Nat.ble k (x.k + r) && Nat.ble j (x.j + 2) && Nat.ble x.j (j + 1) && !x.fin))
    && (Nat.blt (s.chan n).codeFrom k || (s.chan n).recon)

/-- Release, due and expiry instants of a row's tasks (R106, R418). -/
def State.codedDue (s : State) (m k j : Nat) : Nat :=
  s.instant (s.leadOf m) k (s.deadlineAt m j + 2 * rowTime (s.rows m))

/-- The ENCODE_ROW tasks of a composed row of context m (R402, R418, R423): one on the home engine's list, a second one on
the standby's list of a pair. A row that waits for its references stands on the delay list. -/
def State.encodeTasks (s : State) (m k j : Nat) : State :=
  let n := s.leadOf m
  let t (w e : Nat) : Task := ⟨3, m, k, j, w, e, s.encLevel (s.aget (F.chnClassClass n)), s.now, s.codedDue m k j,
    s.decisionInstant m k j, if s.refsFinal m k j then 2 else 1, 0⟩
  let s1 := (s.create (t 0 (s.leadEng m))).1
  match s.stbyEng m with
  | some e => (s1.create (t 1 e)).1
  | none => s1

/-- A row that is not coded: its engine work is dropped (R257, R324). -/
def Side.drop (d : Side) : Side := if Nat.blt d.st 4 then { d with st := 5, spec := false } else d
def Row.drop (r : Row) : Row := { r with lead := r.lead.drop, stby := r.stby.drop }

/-- The engine's front end stops its work on a row. -/
def State.stopFront (s : State) (p : Task → Bool) : State :=
  ((s.bob.run.filter (fun r => Nat.beq r.2.1.typ 3 && p r.2.1)).map (fun r => r.1)).foldl State.freeEngine s

/-- Residency of a context on an engine (R248): the longest idle one is evicted from a full engine. -/
def State.touch (s : State) (e m : Nat) : State :=
  let x := s.eng e
  let l := x.res.filter (fun r => !Nat.beq r.1 m)
  let old := l.foldl (fun b r => min b r.2) s.now
  let l1 := if Nat.blt l.length 8 then l else match l.find? (fun r => Nat.beq r.2 old) with
    | some r => l.filter (fun q => !Nat.beq q.1 r.1)
    | none => l
  let l2 := l1 ++ [(m, s.now)]
  let s1 := (s.setEng e { x with res := l2 }).put (F.encLoadRes e) l2.length
  s1.each (List.range 4) (fun s i =>
    let a := l2[2 * i]?
    let b := l2[2 * i + 1]?
    (((s.put (F.encResCtxA e i) (a.getD (0, 0)).1).flag (F.encResValidA e i) a.isSome).put (F.encResCtxB e i)
      (b.getD (0, 0)).1).flag (F.encResValidB e i) b.isSome)

/-- A side of a row. -/
def Row.side (r : Row) (w : Nat) : Side := if Nat.beq w 0 then r.lead else r.stby
def Row.setSide (r : Row) (w : Nat) (d : Side) : Row := if Nat.beq w 0 then { r with lead := d } else { r with stby := d }
def State.updSide (s : State) (m k j w : Nat) (f : Side → Side) : State := s.updRow m k j (fun r => r.setSide w (f (r.side w)))

/-- The final QP of row j of picture k, where rate control has set it. -/
def State.finalOf (s : State) (n k j : Nat) : Option Nat := if Nat.beq (s.rc n).pic k then s.qpFinal n j else none

/-- May the front end of row j of picture k of context m start now (R255)? With its final QP known, or as a speculation. -/
def State.mayStart (s : State) (m k j : Nat) : Bool :=
  let n := s.leadOf m
  Nat.beq j 0 || (s.finalOf n k j).isSome
    || (Nat.beq (s.rc n).pic k && s.ais (F.chnEncSpecEn n) && (s.rc n).specOn
      && Nat.ble (32 * s.tilesX n * 64) (s.rc n).slack)

/-- A checker of engine e fires (R400, R401): the rows in flight on it are flagged, and Selvedge hears of it. -/
def State.checkerFires (s : State) (e : Nat) (parity : Bool) : State :=
  let f (d : Side) : Side := if Nat.beq d.eng e && Nat.ble 1 d.st && Nat.ble d.st 3 then
      (if parity then { d with par := true } else { d with res := true }) else d
  let hit (r : Row) : Bool := (Nat.beq r.lead.eng e && Nat.ble 1 r.lead.st && Nat.ble r.lead.st 3)
    || (Nat.beq r.stby.eng e && Nat.ble 1 r.stby.st && Nat.ble r.stby.st 3)
  let s1 := s.each (s.placedOn e) (fun s m =>
    let k := ((s.chan m).rows.filter hit).length
    (s.updChan m (fun c => { c with rows := c.rows.map (fun r => { r with lead := f r.lead, stby := f r.stby }) })).bump
      (F.encRedCntFlag e) k)
  s1.raise (if parity then Src.engParity e else Src.engResidue e)

def execCheckerFiring (e : Nat) (parity : Bool) (s : State) : Host.Outcome State Fault Refusal :=
  .next (s.checkerFires (e % 128) parity)

/-- Injections that wait fire with the row that the front end begins (R509). -/
def State.injectAt (s : State) (e : Nat) : State :=
  let x := s.eng e
  let s1 := (s.updEng e (fun x => { x with injRes := false, injPar := false })).cond x.injRes (fun s => s.checkerFires e false)
  s1.cond x.injPar (fun s => s.checkerFires e true)

/-- The estimates of picture k for rate control (R317): n_j, x_j, g_j by row over the strips. -/
def State.estimates (s : State) (n k : Nat) : List (Nat × Nat × Nat) :=
  let st := s.strips n
  (List.range (s.rows n)).map (fun j =>
    (s.tilesIn n j * st.length,
      (st.map (fun m => match s.row m k j with
        | some r => r.x
        | none => s.rowX n k j (m - n))).sum,
      (st.map (fun m => s.rowG n m k j)).sum))

/-- Pages of a reconstruction buffer of one context (R296). -/
def State.refPages (s : State) (n : Nat) : Nat :=
  pagesOf ((32 * s.tilesX n * s.height n * sf1000 (s.aget (F.chnFmtChroma n)) + 999) / 1000
    + 32 * s.tilesX n * s.height n / 256)

/-- Row 0's front end starts on picture k of channel n (R317, R256, R269, R308): refresh, budget, slack, reconstruction
buffers and reference count. -/
def State.beginPicture (s : State) (n k pre : Nat) : State :=
  let idr := s.isIdr n k
  let r := s.aget (F.chnCodecNref n) + 1
  let s1 := (s.refreshStep n k idr).cond (Nat.beq (s.chan n).restart 3) (fun s =>
    ((s.updChan n (fun c => { c with restart := 0 })).bump (F.chnRefCntRestart n) 1).flag (F.chnRefStatRestarting n) false)
  let s2 := s1.rcBegin n k pre idr (s1.estimates n k)
  let s3 := s2.setRc n (fun x => { x with slack := 32 * s2.tilesX n * 64, specOn := s2.ais (F.chnEncSpecEn n) })
  let s4 := s3.flag (F.chnEncStatSpecOn n) (s3.ais (F.chnEncSpecEn n))
  s4.each (s4.strips n) (fun s m =>
    let t := s.put (F.chnRefStatNrefAct m) (min r (k + 1 - (s.chan n).codeFrom))
    match t.takeBuf Pool.reference m k false true (t.refPages n) with
    | some u => u
    | none => t)

/-- The front end of engine e starts row j of picture k of context m (R250, R254, R255). -/
def State.startRow (s : State) (m k j w e pre : Nat) : State :=
  let n := s.leadOf m
  let s1 := s.cond (Nat.beq j 0 && !Nat.beq (s.rc n).pic k) (fun s => s.beginPicture n k pre)
  let fin := s1.finalOf n k j
  let pred := s1.qpPred n j
  let q := match fin with
    | some f => if Nat.ble ((f : Int) - (pred : Int)).natAbs (s1.aget (F.chnEncSpecTol n)) then pred else f
    | none => pred
  let s2 := s1.updSide m k j w (fun d => { d with st := 1, eng := e, qp := q, spec := fin.isNone })
  ((s2.put (F.encLoadCtx e) m).touch e m).injectAt e

/-! Dispatch (R422) -/

/-- The shared list of an executor's kind. -/
def sharedList (e : Nat) : Nat :=
  if Nat.blt e 128 then 147 else if Nat.blt e 144 then e else if Nat.blt e 160 then 144 else if Nat.blt e 168 then 145 else 146

/-- May executor e (engines 0 to 127, compositors 128 to 143, ingest row units 144 to 159, packers 160 to 167, DRAM helpers
168 to 171) take the task now? Lists 0 to 143 belong to one executor; the lists from 144 on are shared by a kind, and those of
the engines go to ACTIVE and SUSPECT engines only (R421, R422). -/
def State.takes (s : State) (e : Nat) (t : Task) : Bool :=
  Nat.beq t.stage 2 && ((Nat.blt e 128 && Nat.beq t.list e) || (Nat.beq t.list (sharedList e)
      && (!Nat.blt e 128 || Nat.beq (s.estate e) 1 || Nat.beq (s.estate e) 3)))
    && (Nat.beq t.expiry 0 || Nat.blt s.now t.expiry)
    && (!Nat.beq t.typ 3 || s.mayStart t.own t.frame t.row)

/-- TASK_DISPATCH: executor e is free and takes the first task of R422. `pre` is the size of the units before row 0, known
when row 0 of a picture begins (R311). -/
def State.dispatch (s : State) (e pre : Nat) : State :=
  if (s.running e).isSome then s
  else match firstTask (s.bob.tasks.filter (s.takes e)) with
    | none => s
    | some t =>
      let s1 := s.handTo e t
      if Nat.beq t.typ 3 then s1.startRow t.own t.frame t.row t.which e pre
      else if Nat.beq t.typ 1 && Nat.beq t.list 147 then s1.bindSlices t.own t.frame e
      else s1

def execTaskDispatch (e pre : Nat) (s : State) : Host.Outcome State Fault Refusal := .next (s.dispatch (e % 172) pre)

/-! Coding -/

/-- The back end of engine e takes the first row of its contexts whose front end is done and whose final QP is known
(R250). -/
def State.kickBack (s : State) (e : Nat) : State :=
  let rows := (s.placedOn e).flatMap (fun m => (s.chan m).rows.flatMap (fun r =>
    ([0, 1].filter (fun w => Nat.beq (r.side w).eng e && !Nat.beq (r.side w).st 0)).map (fun w => (m, r, w))))
  if rows.any (fun x => Nat.beq (x.2.1.side x.2.2).st 3) then s
  else match rows.find? (fun x => Nat.beq (x.2.1.side x.2.2).st 2
      && (s.finalOf (s.leadOf x.1) x.2.1.k x.2.1.j).isSome) with
    | some (m, r, w) =>
      let n := s.leadOf m
      let q := (s.finalOf n r.k r.j).getD 0
      let fl := (s.rc n).floor && Nat.ble (s.rc n).first r.j
      s.updSide m r.k r.j w (fun d => { d with st := 3, qp := q, spec := false, floor := fl })
    | none => s

/-- What motion search reports of a row (R287 to R289, R294). -/
def State.searched (s : State) (n e : Nat) (x : Search) : State :=
  let s1 := (((s.bump (F.encMeCntHint e) x.hint).bump (F.encMeCntHash e) x.hash).bump (F.encMeCntHfalse e) x.hfalse).bump
    (F.encMeCntDrop e) x.drop
  let c := s1.chan n
  if Nat.ble (c.refAt + 1000000000) s1.now then
    let full := c.refFull
    ((s1.setChan n { c with refSec := x.sectors, refFull := x.full, refAt := s1.now }).put (F.chnRefRatioRatio n)
      (if Nat.beq full 0 then 0 else min 2047 (c.refSec * 1024 / full)))
  else s1.setChan n { c with refSec := c.refSec + x.sectors, refFull := c.refFull + x.full }

/-- The engines have read the last row of a composed picture: its buffer goes back (R298). -/
def State.composedRead (s : State) (m k j : Nat) : State :=
  match s.row m k j with
  | some r =>
    if Nat.beq (j + 1) (s.rows m) && Nat.ble 3 r.lead.st && (Nat.ble 3 r.stby.st || (s.stbyEng m).isNone) then
      s.dropBufs (fun b => Nat.beq b.pool 1 && Nat.beq b.own m && Nat.beq b.tag k)
    else s
  | none => s

/-- FRONT_END_COMPLETE (R250): the front end of the lead's (w = 0) or the standby's engine finishes row j of picture k of
context m. -/
def State.frontDone (s : State) (m k j w : Nat) (x : Search) : State :=
  match s.row m k j with
  | none => s
  | some r =>
    let d := r.side w
    if !Nat.beq d.st 1 then s
    else
      let s1 := match s.running d.eng with
        | some t => if Nat.beq t.typ 3 && Nat.beq t.own m && Nat.beq t.frame k && Nat.beq t.row j && Nat.beq t.which w then
            s.freeEngine d.eng else s
        | none => s
      (((s1.updSide m k j w (fun d => { d with st := 2 })).searched m d.eng x).kickBack d.eng).composedRead m k j

def execFrontEndComplete (m k j w : Nat) (x : Search) (s : State) : Host.Outcome State Fault Refusal :=
  .next (s.frontDone (m % 256) k j (w % 2) x)

/-- A row has its final QP (R254 to R256): a row decided at a QP further than TOL from it is unpicked. -/
def State.giveFinal (s : State) (n m k j w : Nat) : State :=
  match s.row m k j, s.finalOf n k j with
  | some r, some f =>
    let d := r.side w
    if !d.spec || !(Nat.beq d.st 1 || Nat.beq d.st 2) then s
    else if Nat.ble ((f : Int) - (d.qp : Int)).natAbs (s.aget (F.chnEncSpecTol n)) then
      (s.updSide m k j w (fun d => { d with spec := false })).kickBack d.eng
    else
      let x := s.rc n
      let unit := 32 * s.tilesX n
      let lines := min (s.height n) (64 * j + 64) - 64 * j
      let s1 := (s.updSide m k j w (fun d => { d with st := 1, qp := f, spec := false })).sat (F.encSpecUnpick d.eng) 1
      let s2 := s1.cond (s1.running d.eng).isNone (fun s =>
        let b : BobSt := { s.bob with run := s.bob.run ++ [(d.eng, ⟨3, m, k, j, w, d.eng, 0, s.now, s.codedDue m k j,
          s.decisionInstant m k j, 2, 0⟩, s.now)] }
        { s with bob := b })
      if Nat.beq w 1 then s2
      else
        let left := x.slack - unit * lines
        let off := x.specOn && Nat.blt left (unit * 64)
        let s3 := (s2.bump (F.chnEncCntUnpick m) 1).setRc n (fun x => { x with slack := left, specOn := x.specOn && !off })
        s3.cond off (fun s => ((s.bump (F.chnEncCntSpecoff n) 1).sat (F.encSpecSpecoff d.eng) 1).flag
          (F.chnEncStatSpecOn n) false)
  | _, _ => s

/-- After the cap flag the rows after row j of picture k are not coded (R324). -/
def State.capRest (s : State) (n k j : Nat) : State :=
  let st := s.strips n
  let later (t : Task) : Bool := Nat.beq t.typ 3 && st.contains t.own && Nat.beq t.frame k && Nat.blt j t.row
  let s1 := (s.cancelTasks Cancel.cap later).stopFront later
  s1.each st (fun s m => s.updChan m (fun c => { c with rows := c.rows.map (fun r =>
    if Nat.beq r.k k && Nat.blt j r.j && (r.comp || Nat.blt 0 r.lead.st) then { r.drop with mark := true } else r) }))

/-- Is the context a pair whose rows are compared (R403, R409)? -/
def State.paired (s : State) (m : Nat) : Bool :=
  Nat.beq (s.get (F.chnDupStatDstate m)) 1 || Nat.beq (s.get (F.chnDupStatDstate m)) 3

/-- Cause of a condemnation by comparison (R403). -/
def Side.cause (d : Side) : Nat := if d.res then 1 else 2

/-- The signature that a comparison sees: two markers are equal (R404). -/
def Side.seen (d : Side) : Nat := if d.marker then 2 ^ 32 else d.sig

/-- A comparison gives a skip row. -/
def State.cmpSkip (s : State) (m k j : Nat) : State :=
  (s.updRow m k j (fun r => { r with cmp := 3 })).bump (F.chnDupCntSkip m) 1

/-- The comparison of row j in a pair that is IN_STEP (R403, R404, R407). -/
def State.compareStep (s : State) (m k j : Nat) (a b : Side) : State :=
  let fa := a.res || a.par
  let fb := b.res || b.par
  let equal := Nat.beq a.seen b.seen
  let s1 := s.cond (!equal) (fun s => (((s.bump (F.chnDupCntSigmis m) 1).bump (F.encRedCntSigmis a.eng) 1)).bump
    (F.encRedCntSigmis b.eng) 1)
  if equal then (s1.updRow m k j (fun r => { r with cmp := 1 })).handOff m k j
  else if fa && fb then ((s1.cmpSkip m k j).condemn a.eng a.cause).condemn b.eng b.cause
  else if fa then
    ((s1.updRow m k j (fun r => { r with cmp := 2, lead := r.stby, stby := r.lead })).handOff m k j).condemn a.eng a.cause
  else if fb then ((s1.updRow m k j (fun r => { r with cmp := 1 })).handOff m k j).condemn b.eng b.cause
  else
    let s2 := ((s1.cmpSkip m k j).raise (Src.engSigmis m)).updChan m (fun c => { c with
      suspect := if [a.eng, b.eng].any (fun e => (s.eng e).owed) then c.suspect else (s.chan (s.leadOf m)).gdrN + 2 })
    s2.each [a.eng, b.eng] (fun s e =>
      if Nat.beq (s.estate e) 1 then
        ((s.updEng e (fun x => { x with owed := true })).setEstate e 3).startPass e (s.get F.sysRedCfgSuspPrio)
      else s)

/-- The comparison in CATCHUP (R409). -/
def State.compareCatch (s : State) (m k j : Nat) (a b : Side) : State :=
  let fa := a.res || a.par
  let fb := b.res || b.par
  if fa then s.compareStep m k j a b
  else
    let equal := Nat.beq a.seen b.seen
    let s1 := (s.cond (!equal) (fun s => ((s.bump (F.chnDupCntSigmis m) 1).bump (F.encRedCntSigmis a.eng) 1).bump
      (F.encRedCntSigmis b.eng) 1)).updRow m k j (fun r => { r with cmp := 1 })
    let s2 := s1.handOff m k j
    if equal && !fb then
      let n := s.get (F.chnDupStatCatchup m) + 1
      (s2.put (F.chnDupStatCatchup m) (min n 64)).cond (Nat.ble 64 n) (fun s => s.setPair m 1)
    else s2.retire b.eng false

/-- The row of a pair is compared once both engines have coded or replaced it (R403). -/
def State.compareRow (s : State) (m k j : Nat) : State :=
  match s.row m k j with
  | none => s
  | some r =>
    if !Nat.beq r.cmp 0 || !(Nat.beq r.lead.st 4 && Nat.beq r.stby.st 4) then s
    else if Nat.beq (s.get (F.chnDupStatDstate m)) 3 then s.compareCatch m k j r.lead r.stby
    else s.compareStep m k j r.lead r.stby

/-- Rate control acts on row j of picture k of channel n when it has left FC on every strip, or is found not coded there
(R321, R323, R324): cap check, ceiling check, charge, memories, law, unpick test. -/
def State.rcRow (s : State) (n k j : Nat) : State :=
  let st := s.strips n
  let x := s.rc n
  let rs := st.filterMap (fun m => s.row m k j)
  let idr := x.idr
  let coded := rs.any (fun r => Nat.beq r.lead.st 4)
  let size := (st.map (fun m => match s.row m k j with
    | some r => if Nat.beq r.lead.st 4 then r.lead.size else s.zSize [m] j idr
    | none => 0)).sum
  let cur := Nat.beq k x.pic
  let epre := if cur then x.epre else x.oldPre
  let h := if cur then x.charge else x.oldH
  let capped := cur && x.cap
  let cap := coded && !capped && s.capBroken n j epre h size
  let ceil := coded && !capped && !cap && s.ceilBroken n j (if cur then epre else 0) size
  let replaced := !coded || capped || cap || ceil
  let q := (rs.head?.map (fun r => r.lead.qp)).getD 0
  let floor := rs.any (fun r => r.lead.floor)
  let t : Nat × Nat × Nat := (s.tilesIn n j * st.length, (rs.map (fun r => r.x)).sum, (rs.map (fun r => r.g)).sum)
  let s1 := s.each st (fun s m => s.updRow m k j (fun r => { r with
    done := true
    lead := if cap || ceil then { r.lead with marker := true } else r.lead
    stby := if cap || ceil then { r.stby with marker := true } else r.stby }))
  let s2 := (s1.cond (cap || capped) (fun s => s.bump (F.chnRcCntCapRow n) 1)).cond ceil (fun s => s.bump (F.chnRcCntCeilRow n) 1)
  let s3 := s2.cond cap (fun s => s.setCapFlag n)
  let s4 := s3.rcCharge n k j size replaced q (coded && !floor) t
  let s5 := s4.cond cap (fun s => s.capRest n k j)
  let s6 := s5.cond (replaced || floor) (fun s => s.setRc n (fun x => { x with
    dirty := (k * 128 + j) :: x.dirty.filter (fun d => Nat.ble k (d / 128 + 2)) }))
  let s7 := s6.each st (fun s m => s.each [0, 1] (fun s w => s.giveFinal n m k (j + 1) w))
  ((s7.each st (fun s m => s.each [0, 1] (fun s w => match s.row m k (j + 1) with
    | some r => s.kickBack (r.side w).eng
    | none => s))))

/-- Is row j of picture k through on every strip: coded, or not coded? -/
def State.rowThrough (s : State) (n k j : Nat) : Bool :=
  (s.strips n).all (fun m => match s.row m k j with
    | some r => Nat.ble 4 r.lead.st
    | none => false)

/-- Rate control takes the rows that are through in row order (R321). -/
def State.rcAdvance (s : State) (n k : Nat) : State :=
  let x := s.rc n
  s.each (List.range (s.rows n)) (fun s j =>
    let next := if Nat.beq k (s.rc n).pic then Nat.beq j (s.rc n).inRows
      else Nat.beq (k + 1) (s.rc n).pic && Nat.beq (j + 1) (s.rows n)
    if Nat.ble k x.pic && next && s.rowThrough n k j && !((s.row n k j).any (fun r => r.done)) then s.rcRow n k j else s)

/-- A row of context m is found not coded (R324): its engine work ends, rate control charges it. -/
def State.notCoded (s : State) (m k j : Nat) : State :=
  let mine (t : Task) : Bool := Nat.beq t.typ 3 && Nat.beq t.own m && Nat.beq t.frame k && Nat.beq t.row j
  ((s.stopFront mine).updRow m k j Row.drop).rcAdvance (s.leadOf m) k

/-- BACK_END_COMPLETE (R278, R323, R403, R412): the back end of the lead's (w = 0) or the standby's engine has coded row j of
picture k of context m, with the size and signature given. -/
def State.backDone (s : State) (m k j w size sig : Nat) : State :=
  match s.row m k j with
  | none => s
  | some r =>
    let d := r.side w
    if !Nat.beq d.st 3 then s
    else
      let e := d.eng
      let n := s.leadOf m
      let sg := if (s.eng e).injSig then sig % 2 ^ 32 ^^^ 1 else sig % 2 ^ 32
      let pair := s.paired m
      let flagged := (d.res || d.par) && !pair
      let s1 := (s.updEng e (fun x => { x with injSig := false })).updSide m k j w (fun d => { d with
        st := 4
        size := size
        sig := sg
        marker := flagged || d.marker })
      let rows := s1.get64 (R.encRowsLo e) (R.encRowsHi e) + 1
      let s2 := ((((s1.put64 (R.encRowsLo e) (R.encRowsHi e) rows).put (F.encSigSig e) sg).put (F.encSigtagCtx e) m).put
        (F.encSigtagRow e) j).put (F.encSigtagFrame e) k
      let s3 := (s2.cond (Nat.beq w 0) (fun s => s.rcAdvance n k)).kickBack e
      (if pair then s3.compareRow m k j
      else if Nat.beq w 0 then s3.handOff m k j
      else s3).composedRead m k j

def execBackEndComplete (m k j w size sig : Nat) (s : State) : Host.Outcome State Fault Refusal :=
  .next (s.backDone (m % 256) k j (w % 2) size sig)

/-! Composing -/

/-- COMPOSE_ROW_COMPLETE (R227, R418): compositor c has composed a row; its ENCODE_ROW tasks are created, or after the cap
flag it is not coded (R324). -/
def State.composeDone (s : State) (c : Nat) : State :=
  match s.bob.run.find? (fun r => Nat.beq r.1 (128 + c)) with
  | none => s
  | some (_, t, t0) =>
    let n := t.own
    let s1 := (s.release (128 + c)).cond (Nat.blt t.due s.now) (fun s => s.sat (F.cmpLatecmp c) 1)
    -- BUSY of the compositor, by the engine's rule with index 128 + c
    let s2 := let x := s1.eng (128 + c)
      if Nat.ble (x.since + 1000000000) s1.now then
        (s1.setEng (128 + c) { x with busy := s1.now - t0, since := s1.now }).put (F.cmpLoadBusy c) (min 100 (x.busy / 10000000))
      else s1.setEng (128 + c) { x with busy := x.busy + (s1.now - t0) }
    (s2.each (s2.strips n) (fun s m =>
      match s.row m t.frame t.row with
      | none => s
      | some r =>
        if r.rel || !Nat.beq r.dec 0 then s
        else
          let u := s.updRow m t.frame t.row (fun r => { r with comp := true })
          if !s.codes n t.frame then u
          else if Nat.beq (s.rc n).pic t.frame && (s.rc n).cap then
            u.updRow m t.frame t.row (fun r => { r.drop with mark := true })
          else u.encodeTasks m t.frame t.row)).rcAdvance n t.frame

def execComposeRowComplete (c : Nat) (s : State) : Host.Outcome State Fault Refusal := .next (s.composeDone (c % 16))

/-- PACK_ROW_COMPLETE (R347, R418): packer p has put a row's last byte into the pacing buffer. -/
def State.packDone (s : State) (p : Nat) : State :=
  match s.running (160 + p) with
  | some t => (s.release (160 + p)).updRow t.own t.frame t.row (fun r => if Nat.beq r.dec 0 then { r with ready := some s.now } else r)
  | none => s
def execPackRowComplete (p : Nat) (s : State) : Host.Outcome State Fault Refusal := .next (s.packDone (p % 8))

/-! References -/

/-- POISON_ROWS (R305). -/
def State.showPoison (s : State) (m : Nat) : State := s.put (F.chnRefStatPoisonRows m) (min 255 (s.chan m).poison.length)

/-- The picture is final once every row is released and repaired (R298): its buffer's mark W becomes R, and the picture
R_ref before it loses its mark; its rows leave the row table. -/
def State.pictureFinal (s : State) (m k : Nat) : State :=
  let n := s.leadOf m
  let rs := (s.chan m).rows.filter (fun r => Nat.beq r.k k)
  if Nat.beq rs.length (s.rows m) && rs.all (fun r => r.fin && r.rel) then
    let nr := s.aget (F.chnCodecNref n) + 1
    let s1 := s.markBufs (fun b => Nat.beq b.pool 2 && Nat.beq b.own m && !b.safe && Nat.beq b.tag k)
      (fun b => { b with r := true, w := false })
    let s2 := s1.markBufs (fun b => Nat.beq b.pool 2 && Nat.beq b.own m && !b.safe && Nat.ble (b.tag + nr) k)
      (fun b => { b with r := false })
    (s2.updChan m (fun c => { c with
      rows := c.rows.filter (fun r => !Nat.beq r.k k)
      poison := c.poison.filter (fun p => Nat.ble 256 p.2 || Nat.blt k (p.1 + nr)) })).showPoison m
  else s

/-- The row's reference content is what the decoder holds (R252). -/
def State.rowFinal (s : State) (m k j : Nat) : State := (s.updRow m k j (fun r => { r with fin := true })).pictureFinal m k

/-- The repair of a reference row is lost: the row is poisoned (R305, R428). -/
def State.repairLost (s : State) (m k j : Nat) : State :=
  ((s.updChan m (fun c => { c with
    poison := (k, j) :: c.poison.filter (fun p => !(Nat.beq p.1 k && Nat.beq p.2 j)) })).showPoison m).rowFinal m k j

/-- A replaced row's reference is repaired by a DRAM helper (R253, R418). -/
def State.repairRow (s : State) (m k j : Nat) (safe : Bool) : State :=
  let c := (s.bump (F.chnEncCntRepair m) 1).create ⟨6, m, k, j, if safe then 2 else 1, 146, s.get F.bobPrioHk, s.now,
    s.now + 200000, 0, 2, 0⟩
  if c.2 then c.1 else c.1.repairLost m k j

/-- REFERENCE_REPAIR_COMPLETE (R253, R305): helper e has copied the co-located row of L0[0], or the row of the safe
reconstruction, poison included. -/
def State.repairDone (s : State) (e : Nat) : State :=
  match s.running (168 + e) with
  | some t =>
    let s1 := s.release (168 + e)
    if Nat.beq t.typ 6 && Nat.ble 1 t.which then
      let from_ : Nat × Nat := if Nat.beq t.which 2 then (0, 256 + t.row) else (t.frame - 1, t.row)
      let bad := (s1.chan t.own).poison.any (fun p => Nat.beq p.2 from_.2 && (Nat.beq t.which 2 || Nat.beq p.1 from_.1))
      let keep (p : Nat × Nat) : Bool := !(Nat.beq p.1 t.frame && Nat.beq p.2 t.row)
      let s2 := s1.cond bad (fun s => (s.updChan t.own (fun c => { c with
        poison := (t.frame, t.row) :: c.poison.filter keep })).showPoison t.own)
      s2.rowFinal t.own t.frame t.row
    else s1
  | none => s
def execReferenceRepairComplete (e : Nat) (s : State) : Host.Outcome State Fault Refusal := .next (s.repairDone (e % 4))

/-! Ticks and expiry -/

/-- BOB_TICK (R421): tasks whose ready tick or condition has come move to the ready lists, in list order. -/
def State.readyTasks (s : State) : State :=
  let b : BobSt := { s.bob with tasks := s.bob.tasks.map (fun t =>
    if Nat.beq t.stage 0 && Nat.ble (tickUp t.ready) s.now then { t with stage := 2 }
    else if Nat.beq t.stage 1 && Nat.beq t.typ 3 && s.refsFinal t.own t.frame t.row then { t with stage := 2, ready := s.now }
    else t) }
  let t : State := { s with bob := b }
  t.each (List.range 148) State.showDepth

/-- May the task move from its home engine at this tick (R423)? -/
def State.mayMove (s : State) (t : Task) : Bool :=
  let n := s.leadOf t.own
  let wait := s.get F.bobCtlMoveRows * rowTime (s.rows t.own) * (s.chan n).cur.len / 16384
  s.is F.bobCtlMoveEn && Nat.beq t.typ 3 && Nat.beq t.stage 2 && Nat.beq t.which 0 && Nat.beq t.list (s.leadEng t.own)
    && Nat.ble (t.ready + wait) s.now
    && !(s.bob.run.any (fun r => Nat.beq r.1 t.list && Nat.beq r.2.1.typ 3 && Nat.beq r.2.1.own t.own))

/-- The engine that a moved task goes to (R423): free, ACTIVE, with no bound ready task; same cluster, same core PLL, lowest
number; not under the partner's core PLL (R74). -/
def State.moveHost (s : State) (t : Task) : Option Nat :=
  let ok := (List.range 128).filter (fun e => Nat.beq (s.estate e) 1 && !Nat.beq e t.list && (s.running e).isNone
    && !(s.bob.tasks.any (fun x => Nat.beq x.list e && Nat.beq x.stage 2))
    && (match s.stbyEng t.own with
      | some q => !Nat.beq (q / 32) (e / 32)
      | none => true))
  match ok.find? (fun e => Nat.beq (e / 8) (t.list / 8)) with
  | some e => some e
  | none => match ok.find? (fun e => Nat.beq (e / 32) (t.list / 32)) with
    | some e => some e
    | none => ok.head?

/-- A task moves and its engine becomes the context's home engine (R247, R423). -/
def State.moveTask (s : State) (t : Task) : State :=
  if !s.mayMove t then s
  else match s.moveHost t with
    | none => s
    | some e =>
      let b : BobSt := { s.bob with tasks := s.bob.tasks.map (fun x =>
        if Nat.beq x.typ 3 && Nat.beq x.own t.own && Nat.beq x.which 0 && Nat.beq x.list t.list then { x with list := e } else x) }
      let u : State := { s with bob := b }
      (((u.put (F.chnDupStatLead t.own) e).bump F.bobMoves 1).showDepth t.list).showDepth e

/-- BOB_TICK: at the next 1 µs tick. Rows that an engine's loss left uncoded are charged at the tick at the latest (R324). -/
def State.bobTick (s : State) : State :=
  let t := s.tick.readyTasks
  (t.each t.bob.tasks State.moveTask).each ((List.range 256).filter t.admitted) (fun s n => s.rcAdvance n (s.rc n).pic)
def execBobTick (s : State) : Host.Outcome State Fault Refusal := .next s.bobTick

/-- TASK_EXPIRY (R31, R424): the tasks whose expiry has come are cancelled; a row that is then not coded is charged (R324). -/
def State.expireTasks (s : State) : State :=
  let late (t : Task) : Bool := !Nat.beq t.expiry 0 && Nat.ble t.expiry s.now
  let gone := s.bob.tasks.filter (fun t => late t && Nat.beq t.typ 3 && Nat.beq t.which 0)
  (s.cancelTasks Cancel.expired late).each gone (fun s t => s.notCoded t.own t.frame t.row)

/-- TASK_EXPIRY: time reaches the earliest expiry that has come or comes next. -/
def State.taskExpiry (s : State) : State :=
  match (s.bob.tasks.filter (fun t => !Nat.beq t.expiry 0)).foldl (fun (b : Option Nat) t => match b with
      | none => some t.expiry
      | some x => some (min x t.expiry)) none with
  | none => s
  | some t => (s.advance t).expireTasks
def execTaskExpiry (s : State) : Host.Outcome State Fault Refusal := .next s.taskExpiry

end Sys2Proof.Machine
end

