-- ==== Sys2Proof/Machine/Audio.lean ====
section
/-!
DEFINITION. Sys2Proof/Machine/Audio.lean: audio ports, network audio flows, audio inputs, their buffers and what egress takes
from them (chapter 14; R49, R50, R167, R168).
-/

namespace Sys2Proof.Machine

def State.ain (s : State) (i : Nat) : AIn := Tab.get {} s.ains i
def State.setAin (s : State) (i : Nat) (x : AIn) : State := { s with ains := Tab.put {} s.ains i x }
def State.updAin (s : State) (i : Nat) (f : AIn → AIn) : State := s.setAin i (f (s.ain i))
def State.aport (s : State) (a : Nat) : APort := Tab.get {} s.aports a
def State.setAport (s : State) (a : Nat) (x : APort) : State := { s with aports := Tab.put {} s.aports a x }
def State.updAport (s : State) (a : Nat) (f : APort → APort) : State := s.setAport a (f (s.aport a))

/-- Codes of PSTATE. -/
def AState.off : Nat := 0
def AState.clkWait : Nat := 1
def AState.prime : Nat := 2
def AState.run : Nat := 3
def AState.stopping : Nat := 4
def State.audState (s : State) (a : Nat) : Nat := s.get (F.audPortStatPstate a)

/-- PSTATE changes, with its event (R508); in OFF the clocks are stopped, and LOCK is 0 (R379). -/
def State.setAudState (s : State) (a v : Nat) : State :=
  (s.moveTo (F.audPortStatPstate a) v 19 1 a 4 0).cond (Nat.beq v AState.off) (fun s => s.flag (F.audPortStatLock a) false)

def State.isAes3 (s : State) (a : Nat) : Bool := Nat.beq (s.get (F.audPortCfgMode a)) 2

/-- Slots of a port, or channels of a flow (R377, R385, R387). -/
def State.slotCount (s : State) (i : Nat) : Nat :=
  if Nat.blt i 16 then (if Nat.beq (s.get (F.audPortCfgMode i)) 1 then 2 ^ (s.get (F.audPortCfgSlots i) + 1) else 2)
  else s.get (F.ingAflCfgCh (i - 16))

def popcount (n : Nat) : Nat := ((List.range 16).filter (fun b => Nat.testBit n b)).length

/-- The slots that an input receives, ascending (R385). -/
def State.maskSlots (s : State) (i : Nat) : List Nat := (List.range 16).filter (fun b => Nat.testBit (s.get (F.audInCfgMask i)) b)

/-! Inputs (R380, R382, R387) -/

/-- The stream channels of the ST 302 stream that an input feeds (R386). -/
def State.feeds (s : State) (i : Nat) : List Nat :=
  (List.range (popcount (s.get (F.audInCfgMask i)))).map (fun q => s.get (F.audInCfgFirstCh i) + q)

/-- The checks of R387 in order. -/
def State.inputErr (s : State) (i : Nat) : Nat :=
  let m := s.get (F.audInCfgMask i)
  if Nat.beq m 0 || Nat.ble (2 ^ s.slotCount i) m then 1
  else if Nat.blt 8 (s.get (F.audInCfgFirstCh i) + popcount m) then 2
  else if (List.range 48).any (fun j => !Nat.beq j i && s.is (F.audInCfgEn j)
      && Nat.beq (s.get (F.audInCfgChan j)) (s.get (F.audInCfgChan i)) && (s.feeds j).any (fun c => (s.feeds i).contains c)) then 3
  else 0

/-- EN of an input is written 1 and checked (R387, R396): its counters at 0 and its data enabled from a frame boundary, or
refused. -/
def State.inputCheck (s : State) (i : Nat) : State :=
  let e := s.inputErr i
  if !Nat.beq e 0 then
    (((s.flag (F.audInCfgEn i) false).put (F.audInStatErr i) e).flag (F.audInStatRefused i) true).refusalEv 19 2 i e
  else
    let s1 := s.each (List.range 11) (fun s k => s.setWord (R.audInCntRecv i + 4 * k) 0)
    let x := s1.ain i
    s1.setAin i { next := x.next, seqs := x.seqs, hi := x.hi, hiAt := x.hiAt, data := if Nat.ble 16 i then 3 else if Nat.beq (s1.audState i) 3 then 1 else 0 }

/-- EN of an input is written 0: data is disabled at the next frame boundary (R380). -/
def State.inputOff (s : State) (i : Nat) : State :=
  s.updAin i (fun x => { x with data := if Nat.ble 16 i then 0 else if Nat.beq x.data 3 || Nat.beq x.data 4 then 4 else 0 })

/-- A write of AUD_IN_CFG (R382, R387): the other fields change only while EN = 0. -/
def State.writeAudIn (s : State) (i : Nat) (v : Word) : State :=
  let was := s.is (F.audInCfgEn i)
  let t := s.store (R.audInCfg i) v (if was then 0x10000 else allBits)
  if Nat.beq (bitsAt v 16 1) 1 then (if was then t else t.inputCheck i) else if was then t.inputOff i else t

/-- AUD_INPUT_ENABLE, AUD_INPUT_DISABLE: port h writes AUD_IN_CFG of input i with EN = 1, with EN = 0. -/
def execAudInputEnable (h i : Nat) (v : Word) (s : State) : Host.Outcome State Fault Refusal :=
  .next (s.takeWrite h (R.audInCfg (i % 48)) (setBitsAt v 16 1 1) false
    (fun s => s.writeAudIn (i % 48) (setBitsAt v 16 1 1)))
def execAudInputDisable (h i : Nat) (v : Word) (s : State) : Host.Outcome State Fault Refusal :=
  .next (s.takeWrite h (R.audInCfg (i % 48)) (setBitsAt v 16 1 0) false
    (fun s => s.writeAudIn (i % 48) (setBitsAt v 16 1 0)))

/-! Ports (R377 to R381) -/

/-- A port gets its clock: CLK_WAIT to PRIME (R379). -/
def State.clockOk (s : State) (a : Nat) : State :=
  if Nat.beq (s.audState a) AState.clkWait then (s.flag (F.audPortStatLock a) true).setAudState a AState.prime else s

/-- The port drives its clocks from audio PLL a / 8, which is locked (R378). -/
def State.ownClock (s : State) (a : Nat) : Bool := s.is (F.audPortCfgMaster a) && !s.isAes3 a && s.pllUp (9 + a / 8)

/-- The port starts into CLK_WAIT (R380); a master port passes at once while its PLL is locked. -/
def State.portOn (s : State) (a : Nat) : State :=
  let t := s.setAudState a AState.clkWait
  if t.ownClock a then t.clockOk a else t

/-- A write of AUD_PORT_CFG (R380, R382): the other fields change only while the port's input has EN = 0. -/
def State.writeAudPort (s : State) (a : Nat) (v : Word) : State :=
  let was := s.is (F.audPortCfgEn a)
  let t := s.store (R.audPortCfg a) v (if s.is (F.audInCfgEn a) then 0x20 else allBits)
  if Nat.beq (bitsAt v 5 1) 1 then
    (if !was && Nat.beq (t.audState a) AState.off then t.portOn a else t)
  else if Nat.beq (t.audState a) AState.clkWait then t.setAudState a AState.off
  else if Nat.beq (t.audState a) AState.prime || Nat.beq (t.audState a) AState.run then
    (t.inputOff a).setAudState a AState.stopping
  else t

/-- AUD_PORT_ENABLE, AUD_PORT_DISABLE: port h writes AUD_PORT_CFG of audio port a with EN = 1, with EN = 0. -/
def execAudPortEnable (h a : Nat) (v : Word) (s : State) : Host.Outcome State Fault Refusal :=
  .next (s.takeWrite h (R.audPortCfg (a % 16)) (setBitsAt v 5 1 1) false
    (fun s => s.writeAudPort (a % 16) (setBitsAt v 5 1 1)))
def execAudPortDisable (h a : Nat) (v : Word) (s : State) : Host.Outcome State Fault Refusal :=
  .next (s.takeWrite h (R.audPortCfg (a % 16)) (setBitsAt v 5 1 0) false
    (fun s => s.writeAudPort (a % 16) (setBitsAt v 5 1 0)))

/-- PORT_CLOCK_VALID (R379). -/
def execPortClockValid (a : Nat) (s : State) : Host.Outcome State Fault Refusal := .next (s.clockOk (a % 16))

/-- PORT_PRIME_DONE (R380): after 64 frames the port is in RUN, and data is enabled while AUD_IN_CFG.EN = 1. -/
def State.primeDone (s : State) (a : Nat) : State :=
  if Nat.beq (s.audState a) AState.prime then
    (s.updAin a (fun x => { x with data := if s.is (F.audInCfgEn a) then 2 else 0 })).setAudState a AState.run
  else s
def execPortPrimeDone (a : Nat) (s : State) : Host.Outcome State Fault Refusal := .next (s.primeDone (a % 16))

/-- PORT_STOP_DONE (R380): after 64 frames the port is OFF, or starts again where EN has been written 1. -/
def State.stopDone (s : State) (a : Nat) : State :=
  if Nat.beq (s.audState a) AState.stopping then
    let t := (s.updAin a (fun x => { x with data := 0 })).setAudState a AState.off
    if t.is (F.audPortCfgEn a) then t.portOn a else t
  else s
def execPortStopDone (a : Nat) (s : State) : Host.Outcome State Fault Refusal := .next (s.stopDone (a % 16))

/-- The frame in progress is partial (R381): its `got` received samples are dropped. -/
def State.partialFrame (s : State) (a got : Nat) : State :=
  let x := s.ain a
  let n := if Nat.beq x.data 3 || Nat.beq x.data 4 || (Nat.beq x.data 2 && !s.isAes3 a) then min got (popcount (s.get (F.audInCfgMask a))) else 0
  ((s.bump (F.audInCntRecv a) n).bump (F.audInCntPartial a) n).setAin a { x with data := 0 }

/-- The port loses its clock (R379): back to CLK_WAIT, with AUD_CLK from RUN; a port that is stopping is OFF. -/
def State.clockLost (s : State) (a got : Nat) : State :=
  let p := s.audState a
  if Nat.ble p AState.clkWait then s
  else
    let t := s.partialFrame a got
    if Nat.beq p AState.stopping && !t.is (F.audPortCfgEn a) then t.setAudState a AState.off
    else
      let u := t.setAudState a AState.clkWait
      if Nat.beq p AState.run then u.raise (Src.audClk a) else u

/-- PORT_CLOCK_LOSS (R379): no frame clock for two frame periods, with `got` samples of the frame in progress received. -/
def execPortClockLoss (a got : Nat) (s : State) : Host.Outcome State Fault Refusal :=
  .next (if Nat.ble (s.audState (a % 16)) 1 then s else (s.flag (F.audPortStatLock (a % 16)) false).clockLost (a % 16) got)

/-- PORT_RATE_GATE (R379): a gate of 100 ms has measured the offset in 0.1 ppm; the second of two gates beyond 1,000 ppm loses
the clock. -/
def State.rateGate (s : State) (a : Nat) (ppm : Int) (got : Nat) : State :=
  if Nat.beq (s.audState a) AState.off then s
  else
    let x := s.aport a
    let bad := if Nat.blt 10000 ppm.natAbs then x.bad + 1 else 0
    let t := (s.put (F.audPortStatPpm a) (unsignedOf 16 (clampSigned 16 ppm))).setAport a { x with bad := if Nat.ble 2 bad then 0 else bad }
    if Nat.ble 2 bad && Nat.ble 2 (t.audState a) then (t.flag (F.audPortStatRateErr a) true).clockLost a got else t
def execPortRateGate (a : Nat) (ppm : Int) (got : Nat) (s : State) : Host.Outcome State Fault Refusal :=
  .next (s.rateGate (a % 16) ppm got)

/-- A block reset of AUD (R493): the port passes through OFF and restarts, and the frame in progress is partial. -/
def State.resetAudPort (s : State) (a got : Nat) : State :=
  let t := ((s.partialFrame a got).setAport a {}).setAudState a AState.off
  if t.is (F.audPortCfgEn a) then t.portOn a else t

/-! Storing (R385, R388) -/

/-- A stored frame of `w` words, of which `n` are stored samples, `v` with V = 1, goes to its input's buffer (R388). -/
def State.storeFrame (s : State) (i : Nat) (t : Int) (words : List Word) (n v : Nat) : State :=
  let x := s.ain i
  if Nat.beq (s.chState (s.get (F.audInCfgChan i))) 0 then s.bump (F.audInCntNodest i) n
  else if Nat.ble 8192 x.frames.length then s.bump (F.audInCntOverrun i) n
  else ((s.bump (F.audInCntStored i) n).bump (F.audInCntValidity i) v).setAin i { x with
    frames := x.frames ++ [⟨x.next, t, words⟩]
    next := x.next + 1 }

/-- A sample left-justified in a stored word (R385). -/
def leftWord (bits v : Nat) : Word := BitVec.ofNat 32 (v % 2 ^ bits * 2 ^ (32 - bits))

/-! Port frames -/

/-- The CRCC of AES3 professional channel status over its first 184 bits, LSB first (PRESUMED, notes/assumptions/18). -/
def crcc (bits : Nat) : Nat :=
  (List.range 184).foldl (fun c i =>
    if Nat.beq ((c + bits / 2 ^ i) % 2) 1 then (c / 2) ^^^ 0xB8 else c / 2) 0xFF

/-- Byte 0 bit 0 of a block is 1 and byte 23 is not the CRCC of the block. -/
def csBad (bits : Nat) : Bool := Nat.beq (bits % 2) 1 && !Nat.beq (bits / 2 ^ 184 % 256) (crcc bits)

/-- CHANNEL_STATUS_BLOCK (R384): the C bits of a frame; after 192 frames the block is captured or counted in CS_CRC. -/
def State.collectCs (s : State) (a : Nat) (f : AudFrame) : State :=
  let x := if f.z then { s.aport a with csA := 0, csB := 0, csN := 0 } else s.aport a
  let bit (k : Nat) : Nat := match f.slots[k]? with
    | some d => if d.c then 2 ^ x.csN else 0
    | none => 0
  let y : APort := { x with csA := x.csA + bit 0, csB := x.csB + bit 1, csN := x.csN + 1 }
  if Nat.blt y.csN 192 then s.setAport a y
  else
    let t := s.setAport a { y with csA := 0, csB := 0, csN := 0 }
    if csBad y.csA || csBad y.csB then t.bump (F.audInCntCsCrc a) 1
    else t.each (List.range 6) (fun s w => (s.put (F.audPortCsABytes a w) (y.csA / 2 ^ (32 * w))).put (F.audPortCsBBytes a w)
      (y.csB / 2 ^ (32 * w)))

/-- The frame's place in its block, and the block's stamp at its first frame (R389). -/
def State.stampFrame (s : State) (a : Nat) (f : AudFrame) (first : Bool) : State :=
  let x := s.aport a
  let start := first || (if s.isAes3 a then f.z else Nat.ble 191 x.n)
  if !start then s.setAport a { x with n := x.n + 1 }
  else
    let t := ((s.now : Int) + max (-10) (min 10 f.jit)).toNat
    (s.put64 (R.audPortBlkLo a) (R.audPortBlkHi a) t).setAport a { x with
      n := 0
      blk := t
      per := if first then 4000000 else t - x.blk }

/-- The received samples of a frame are compacted and stored (R383, R385). -/
def State.receiveFrame (s : State) (a : Nat) (f : AudFrame) : State :=
  let p := s.aport a
  let x := s.ain a
  let l := (s.maskSlots a).map (fun b => (b, f.slots.getD b ⟨0, false, false, false⟩))
  let words := l.map (fun d => if d.2.bad then Tab.get 0 x.last d.1 else leftWord 24 d.2.smp)
  let bad := (l.filter (fun d => d.2.bad)).length
  let v := (l.filter (fun d => d.2.v && !d.2.bad)).length
  let s1 := (s.bump (F.audInCntRecv a) l.length).bump (F.audInCntParity a) bad
  let s2 := s1.storeFrame a ((p.blk + p.n * p.per / 192 : Nat) : Int) words (l.length - bad) v
  if Nat.beq (s2.ain a).next x.next then s2
  else s2.updAin a (fun y => { y with last := l.foldl (fun t d => if d.2.bad then t else Tab.put 0 t d.1 (leftWord 24 d.2.smp)) y.last })

/-- AUDIO_PORT_FRAME (R380, R383 to R389): a frame of audio port a completes. -/
def State.portFrame (s : State) (a : Nat) (f : AudFrame) : State :=
  if Nat.ble (s.audState a) AState.clkWait then s
  else
    let s0 := s.cond (s.isAes3 a) (fun s => s.collectCs a f)
    let d := (s0.ain a).data
    let starts := Nat.beq d 2 && (!s0.isAes3 a || f.z)
    if starts || Nat.beq d 3 || Nat.beq d 4 then
      let s1 := ((s0.stampFrame a f starts).receiveFrame a f)
      s1.updAin a (fun x => { x with data := if Nat.beq d 4 then 0 else 3 })
    else if Nat.beq d 1 then s0.updAin a (fun x => { x with data := 2 })
    else s0
def execAudioPortFrame (a : Nat) (f : AudFrame) (s : State) : Host.Outcome State Fault Refusal := .next (s.portFrame (a % 16) f)

/-! Flows (R167, R168, R390) -/

/-- A write of ING_AFL_CFG (R144, R167): EN switches the flow and its reports on or off; the other fields change only while
EN = 0. -/
def State.writeAfl (s : State) (f : Nat) (v : Word) : State :=
  let was := s.is (F.ingAflCfgEn f)
  let t := s.store (R.ingAflCfg f) v (if was then 0x800000 else allBits)
  let on := t.is (F.ingAflCfgEn f)
  if was == on then t
  else
    let report (s : State) : State :=
      let u := s.igmpChange (s.get (F.ingAflCfgLaneA f)) 0 (s.get (F.ingAflGrpAAddr f)) (if on then 0 else 1)
      u.cond (u.is (F.ingAflCfgMerge f)) (fun s =>
        s.igmpChange (s.get (F.ingAflCfgLaneB f)) 0 (s.get (F.ingAflGrpBAddr f)) (if on then 0 else 1))
    (report t).updAin (16 + f) (fun x => { x with seqs := [], hi := none, hiAt := 0 })
def execAudioFlowEnable (h f : Nat) (v : Word) (s : State) : Host.Outcome State Fault Refusal :=
  .next (s.takeWrite h (R.ingAflCfg (f % 32)) v false (fun s => s.writeAfl (f % 32) v))

/-- Is the packet accepted by the merge of its flow (R158)? Without MERGE only path A feeds it. -/
def State.flowAccepts (s : State) (f : Nat) (p : AudPkt) : Bool :=
  let x := s.ain (16 + f)
  let merge := s.is (F.ingAflCfgMerge f)
  (Nat.beq p.path 0 || merge) && !x.seqs.contains p.seq && (match x.hi with
    | some h => !(merge && seqLess p.seq h && Nat.blt (x.hiAt + Config.flowSkewUs f * 1000) s.now)
    | none => true)

/-- The capture time of a packet on the system counter (R390). -/
def State.flowCapture (s : State) (ts : Nat) : Int :=
  let a := s.ltc
  let m := (a * 48000 / 1000000000 % 2 ^ 32).toNat
  let d := (m + 2 ^ 32 - ts % 2 ^ 32) % 2 ^ 32
  (if Nat.ble (2 ^ 31) d then a else a - ((d * 1000000000 / 48000 : Nat) : Int)) - s.tim.off

/-- AUDIO_FLOW_PACKET_RECEIVED (R168, R385, R390): a packet of flow f; its sample frames are stored one after another. -/
def State.flowPacket (s : State) (f : Nat) (p : AudPkt) : State :=
  let i := 16 + f
  if !s.is (F.ingAflCfgEn f) || !s.flowAccepts f p then s
  else
    let x := s.ain i
    let higher := match x.hi with
      | some h => seqLess h p.seq
      | none => true
    let s1 := s.setAin i { x with seqs := (p.seq :: x.seqs).take 65536, hi := if higher then some p.seq else x.hi, hiAt := if higher then s.now else x.hiAt }
    if !s1.is (F.audInCfgEn i) then s1
    else
      let t0 := s1.flowCapture p.ts
      let bits := if s1.is (F.ingAflCfgL24 f) then 24 else 16
      let ch := s1.maskSlots i
      (List.range p.frames.length).foldl (fun s n =>
        let d := p.frames.getD n []
        (s.bump (F.audInCntRecv i) ch.length).storeFrame i (t0 + ((n * 1000000000 / 48000 : Nat) : Int))
          (ch.map (fun c => leftWord bits (d.getD c 0))) ch.length 0) s1
def execAudioFlowPacketReceived (f : Nat) (p : AudPkt) (s : State) : Host.Outcome State Fault Refusal :=
  .next (s.flowPacket (f % 32) p)

/-! What egress takes (R391 to R394) -/

/-- N_k (R391). -/
def samplesOf (rate k : Nat) : Nat :=
  48000 * (k + 1) * rateDen rate / rateNum rate - 48000 * k * rateDen rate / rateNum rate

/-- A_LAG of frame k. -/
def State.lagOf (s : State) (n k : Nat) : Nat :=
  match (s.chan n).lags.find? (fun x => Nat.beq x.1 k) with
  | some x => x.2
  | none => s.get (F.audChCfgALag n)

/-- tau_m of sample slot m of access unit k (R391). -/
def State.tauOf (s : State) (n k nk m : Nat) : Int :=
  let f := s.frame n k
  ((f.start + m * f.len / nk : Nat) : Int) - ((s.lagOf n k * f.len / 16384 : Nat) : Int)

/-- The sample slots that row j takes (R392): those whose first byte lies in the row's TS packets. -/
def rowSlots (nk pairs pb rows j : Nat) : List Nat :=
  let p := (18 + nk * pairs * pb + 183) / 184
  let a := 184 * ((j * p + rows - 1) / rows)
  let b := 184 * (((j + 1) * p + rows - 1) / rows)
  (List.range nk).filter (fun m => Nat.ble a (18 + m * pairs * pb) && Nat.blt (18 + m * pairs * pb) b)

/-- One take of input i at nominal instant tau (R392, R393): the newest stored frame no younger than tau; older ones are
freed. -/
def State.takeSlot (s : State) (i : Nat) (tau : Int) : State :=
  let x := s.ain i
  let late := match x.frames.getLast? with
    | some g => decide (g.at_ + 20834 < tau)
    | none => false
  let s1 := s.cond late (fun s => s.bump (F.audInCntLate i) 1)
  match (x.frames.filter (fun g => decide (g.at_ ≤ tau))).getLast? with
  | none => s1
  | some g =>
    let s2 := match x.prev with
      | some p =>
        if Nat.beq p g.no then s1.bump (F.audInCntRep i) 1
        else if Nat.blt (p + 1) g.no then s1.bump (F.audInCntSkip i) (g.no - p - 1)
        else s1
      | none => s1
    s2.setAin i { x with prev := some g.no, frames := x.frames.filter (fun y => Nat.ble g.no y.no) }

/-- AUDIO_SLOT_TAKE (R392): at the decision instant of row j of access unit k, egress takes the row's sample slots of every
input that feeds the channel. -/
def State.audioTake (s : State) (n k j : Nat) : State :=
  if !s.ais (F.egrChCfgAudEn n) then s
  else
    let nk := samplesOf (s.aget (F.chnFmtFrate n)) k
    let ins := (List.range 48).filter (fun i => s.is (F.audInCfgEn i) && Nat.beq (s.get (F.audInCfgChan i)) n)
    let l := rowSlots nk (s.aget (F.egrChCfgPairs n) + 1) (5 + s.aget (F.egrChCfgBits n)) (s.rows n) j
    s.each l (fun s m => s.each ins (fun s i => s.takeSlot i (s.tauOf n k nk m)))

end Sys2Proof.Machine
end

