-- ==== Sys2Proof/Machine/Egress.lean ====
section
/-!
DEFINITION. Sys2Proof/Machine/Egress.lean: the release decision, the release of rows, packets, the freshness SEI and the audit
point (chapters 01, 07 and 12: R18 to R42, R213 to R222, R335 to R361), and egress commits.
-/

namespace Sys2Proof.Machine

/-! Packets (R336, R339 to R341, R348): what a header or a schedule holds is a function of the configuration -/

/-- Destination MAC of path x (R336). -/
def State.pathMac (s : State) (n x : Nat) : Nat :=
  let a := s.aget (F.egrPathDstAddr n x)
  if s.ais (F.egrPathCfgMacAuto n x) && multicast a then 0x01005E000000 + a % 2 ^ 23
  else s.aget (F.egrPathMacLoMac n x) + s.aget (F.egrPathMacHiMac n x) * 2 ^ 32

/-- The RTP timestamp of a DIRECT packet from start_k in linear LTC ns, and of a TS packet from its departure (R339); the PCR
of a departure (TS multiplex). -/
def rtpDirect (start : Nat) : Nat := start * 9 / 100000 % 2 ^ 32
def rtpTs (departure : Nat) : Nat := departure * 9 / 100000 % 2 ^ 32
def pcrOf (departure : Nat) : Nat := departure * 27 / 1000 % (2 ^ 33 * 300)

/-- Packets of a NAL unit of b bytes in DIRECT mode (R340): one, or fragmentation units. -/
def State.nalPackets (s : State) (n b : Nat) : Nat :=
  let l := s.aget (F.egrChCfgLen n)
  if Nat.ble b (l - 40) then 1 else (b - 2 + (l - 43) - 1) / (l - 43)

/-- The packet gap (R348). -/
def State.gap (s : State) (n : Nat) : Nat := s.wPkt true n * 8000000 / s.aget (F.egrChPacePace n)

/-- PACKET_DEPARTURE: the next packet of the row in transmission goes to the lane of path x (0 A, 1 B), at its scheduled
instant or later (R348, R349, R354). -/
def State.packetOut (s : State) (n x : Nat) : State :=
  let c := s.chan n
  let i := if Nat.beq x 0 then c.pktA else c.pktB
  if !s.runs n || c.slot.isNone || !s.ais (F.egrPathCfgEn n x) then s
  else
    let t := s.advance (c.txAt + i * s.gap n)
    let u := if Nat.beq x 0 then (t.updChan n (fun c => { c with pktA := c.pktA + 1, rtpSeq := (c.rtpSeq + 1) % 65536 })).bump
        (F.egrChCntPktA n) 1
      else (t.updChan n (fun c => { c with pktB := c.pktB + 1 })).bump (F.egrChCntPktB n) 1
    u.laneTx (u.aget (F.egrPathCfgLane n x)) 1
def execPacketDeparture (n x : Nat) (s : State) : Host.Outcome State Fault Refusal := .next (s.packetOut (n % 256) (x % 2))

/-! The freshness SEI (R220 to R222) -/

/-- The entries of the whole picture in tile raster order. -/
def State.pictureEntries (s : State) (n : Nat) : List (BitVec 64) :=
  let tx := s.tilesX n
  let rows (j : Nat) : List (List (BitVec 64)) :=
    (List.range (tileRowsOf (s.height n) j).length).map (fun y =>
      (s.strips n).flatMap (fun m => ((Tab.get [] (s.chan m).smp j).drop (y * tx)).take tx))
  (List.range (s.rows n)).flatMap (fun j => (rows j).flatMap id)

/-- Run lengths by state (R221): a run ends where the state changes, or at 8,192 tiles. -/
def runsOf (l : List (BitVec 64)) : List (Nat × Nat) :=
  (l.foldl (fun (r : List (Nat × Nat)) e => match r with
    | (st, k) :: t => if Nat.beq st (entryState e) && Nat.blt k 8192 then (st, k + 1) :: t else (entryState e, 1) :: r
    | [] => [(entryState e, 1)]) []).reverse

/-- A number of `n` bytes, most significant byte first. -/
def bytesBE (n v : Nat) : List Nat := ((List.range n).reverse).map (fun i => v / 2 ^ (8 * i) % 256)

/-- The payload of the freshness SEI of an access unit (R220 to R222). -/
def State.seiPayload (s : State) (n k : Nat) (safePic : Bool) : List Nat :=
  let l := s.pictureEntries n
  let all := if safePic then l.map (fun _ => safeEntry) else l
  let runs := runsOf all
  let map := safePic || (s.ais (F.chnFreshMap n) && Nat.ble runs.length 4096)
  let omitted := !safePic && s.ais (F.chnFreshMap n) && Nat.blt 4096 runs.length
  let f := s.frame n k
  let age := (all.map entryAge).foldl max 0
  let oldest := match all.find? (fun e => Nat.beq (entryAge e) age) with
    | some e => entryCapt e
    | none => 0
  let count (st : Nat) : Nat := (all.filter (fun e => Nat.beq (entryState e) st)).length
  let mk := s.markOf n k
  [0x46, 0x52, 0x4E, 0x44, 0x2D, 0x4B, 0x5A, 0x45, 0x2D, 0x46, 0x52, 0x53, 0x48, 0x00, 0x00, 0x01]
    ++ [1, (if safePic then 1 else 0) + (if map then 2 else 0) + (if omitted then 4 else 0) + (if f.trans then 8 else 0),
        mk.1, 0]
    ++ bytesBE 2 n ++ bytesBE 2 (s.tilesX n * (s.strips n).length) ++ bytesBE 2 ((s.height n + 31) / 32)
    ++ bytesBE 4 k ++ bytesBE 4 mk.2.1
    ++ [0, 1, 2, 3, 4, 5].flatMap (fun st => bytesBE 2 (count st))
    ++ bytesBE 2 age ++ bytesBE 4 oldest ++ bytesBE 2 (if map then runs.length else 0)
    ++ (if map then runs.flatMap (fun r => bytesBE 2 (r.1 * 8192 + (r.2 - 1))) else [])

/-- Emulation prevention bytes that a sequence of bytes needs; `z` zero bytes stand before it. -/
def preventions : Nat → List Nat → Nat
  | _, [] => 0
  | z, b :: t =>
    if Nat.ble 2 z && Nat.ble b 3 then 1 + preventions (if Nat.beq b 0 then 1 else 0) t
    else preventions (if Nat.beq b 0 then z + 1 else 0) t

/-- Size of the SEI's NAL unit: header, payload type and size, payload, trailing bits (R311; notes/assumptions/14). -/
def seiSizeOf (payload : List Nat) : Nat :=
  let n := payload.length
  let body := 5 :: (List.replicate (n / 255) 255 ++ [n % 255]) ++ payload ++ [0x80]
  2 + body.length + preventions 0 body

/-! The release decision (R343 to R345) -/

def State.slotKind (s : State) (n k : Nat) : Nat := Tab.get 0 (s.chan n).slotK k
def State.setSlotKind (s : State) (n k v : Nat) : State :=
  s.updChan n (fun c => { c with slotK := Tab.put 0 (c.slotK.filter (fun x => Nat.ble k (x.1 + 3))) k v })

/-- The slot carries the safe picture whole: order 1 of R343, a live path lost before row 0's decision, or a closing picture
that missed its refresh (R358). -/
def State.safeWhole (s : State) (n k : Nat) : Bool :=
  let c := s.chan n
  Nat.beq (s.chState n) ChState.shed || Nat.beq c.want 1 || s.modeIn [Mode.safe, Mode.recover] || Nat.blt k c.codeFrom
    || c.wantSafe || c.lostK.contains k
    || (Nat.beq (s.chState n) ChState.closing && Nat.blt 0 c.closeK && Nat.beq k (c.closeK + 1) && !s.refreshed n c.closeK)

/-- Row 0's decision settles the slot: the safe picture whole, the header template where picture k has no units before row 0
yet (notes/assumptions/15), or its own units. -/
def State.settleSlot (s : State) (n k : Nat) : State :=
  if !Nat.beq (s.slotKind n k) 0 then s
  else if s.safeWhole n k then s.setSlotKind n k 2
  else if !Nat.beq (s.rc n).pic k then (s.setSlotKind n k 3).bump (F.egrChCntTemplate n) 1
  else s.setSlotKind n k 1

/-- The sampler entries of block row j of context m as they stand (R213). -/
def State.oldEntries (s : State) (m j : Nat) : List (BitVec 64) := Tab.get [] (s.chan m).smp j

/-- The entry of a tile of a skip row (R213). -/
def skipEntry (e : BitVec 64) : BitVec 64 :=
  if Nat.beq (entryState e) 5 then safeEntry else entryOf (entryCapt e) (entryAge e + 1) (entryOwner e) 4

/-- Would a skip row carry a tile past the stale limit (R36)? -/
def State.skipTooOld (s : State) (n m k j : Nat) : Bool :=
  (s.oldEntries m j).any (fun e => !Nat.beq (entryState e) 5 && Nat.blt (s.limOf n k) (entryAge (skipEntry e)))

/-- Lines of the table of R343 for row j of access unit k of context m: 1 the coded row, 2 its skip row, 3 its safe row, and
whether nothing was ready. -/
def State.lineOf (s : State) (n m k j : Nat) : Nat × Bool :=
  let repl := if s.isIdr n k then 3 else 2
  if Nat.beq (s.slotKind n k) 2 || (s.chan n).lostK.contains k then (3, false)
  else if Nat.beq (s.slotKind n k) 3 && !Nat.beq j 0 then (2, false)
  else match s.row m k j with
    | some r =>
      if (match r.ready with | some t => Nat.blt t s.now | none => false) then (1, false)
      else if r.mark || Nat.beq r.cmp 3 then (repl, false)
      else (repl, true)
    | none => (repl, true)

/-- A signature is missing at the decision (CHN_DUP_CNT.SIGLATE). -/
def State.sigMissing (s : State) (m k j : Nat) : Bool :=
  s.paired m && (match s.row m k j with
    | some r => Nat.beq r.cmp 0 && !r.mark
    | none => false)

/-- RELEASE_DECISION (R343, R36, R356): what row j of access unit k of context m is released as; a row that is not coded is
charged (R324). -/
def State.decideNow (s : State) (m k j : Nat) : State :=
  let n := s.leadOf m
  let s0 := match s.row m k j with
    | some _ => s
    | none => s.updChan m (fun c => { c with rows := c.rows ++ [({ k := k, j := j, fin := true } : Row)] })
  let s1 := s0.settleSlot n k
  let l := s1.lineOf n m k j
  let d := if Nat.beq l.1 2 && s1.skipTooOld n m k j then 3 else l.1
  let bad := Nat.beq d 3 && (s1.store_ m).bad.contains j
  let s2 := (s1.cond l.2 (fun s => (s.updChan n (fun c => { c with late := c.late + 1 })).cond (s.sigMissing m k j)
    (fun s => s.bump (F.chnDupCntSiglate m) 1))).cond bad (fun s =>
      (s.bump (F.egrChCntStoreErr n) 1).raise (Src.egrStore n))
  let s3 := s2.updRow m k j (fun r => { r with dec := if bad then 2 else d })
  let notCoded := Nat.beq (s3.slotKind n k) 1 && (match s3.row m k j with
    | some r => Nat.blt r.lead.st 4 && !r.fin
    | none => false)
  (s3.cond (notCoded && !Nat.beq d 1) (fun s => s.notCoded m k j)).cond (Nat.beq m n) (fun s => s.audioTake n k j)

/-- Has row j of context m been released in the slot in progress? -/
def State.released (s : State) (m j : Nat) : Bool := Nat.testBit (s.chan m).nRel j

/-- May access unit k be the channel's first: the boundary of its slot is the first one after admission and after the mode
that starts it (R538, R557)? -/
def State.firstSlot (s : State) (n k : Nat) : Bool :=
  let t (k : Nat) : Nat := s.instant n k (s.aget (F.chnDfixDfix n))
  let since := max s.sys.since (s.chan n).startAt
  Nat.beq (s.chState n) ChState.starting && s.modeIn [Mode.run, Mode.degraded, Mode.safe, Mode.recover]
    && Nat.ble since (t k) && Nat.blt (t k - (s.frame n (k - 1)).len) since

/-- Is (k, j) of context m a row that egress still has to decide and release? -/
def State.rowDue (s : State) (m k j : Nat) : Bool :=
  let n := s.leadOf m
  Nat.blt j (s.rows n) && (s.strips n).contains m && (match (s.chan n).slot with
    | some x => s.runs n && ((Nat.beq x k && !s.released m j) || (Nat.beq (x + 1) k && Nat.beq j 0))
    | none => Nat.beq j 0 && s.firstSlot n k)

def State.releaseDecision (s : State) (m k j : Nat) : State :=
  if !s.rowDue m k j || (s.row m k j).any (fun r => !Nat.beq r.dec 0) then s
  else (s.advance (s.decisionInstant m k j)).decideNow m k j
def execReleaseDecision (m k j : Nat) (s : State) : Host.Outcome State Fault Refusal :=
  .next (s.releaseDecision (m % 256) k j)

/-! The release (R29 to R39, R213, R346) -/

/-- The channel's first egress slot begins (R25, R276): RUNNING; the engine codes from the next capture frame on. -/
def State.enterFirst (s : State) (n k : Nat) : State :=
  if (s.chan n).slot.isSome then s
  else (s.updChan n (fun c => { c with
    slot := some k
    k0 := k
    codeFrom := if s.modeIn [Mode.safe, Mode.recover] then 2 ^ 40 else k + 1
    gdrNew := true })).setChState n ChState.running

/-- A tile past the limit that is neither under the tulle nor safe (R39). -/
def unmarked (lim : Nat) (e : BitVec 64) : Bool :=
  Nat.blt lim (entryAge e) && !Nat.beq (entryState e) 2 && !Nat.beq (entryState e) 5

/-- The release deviation (R34). -/
def State.deviation (s : State) (n dev : Nat) : State :=
  let s1 := s.peak (F.chnDlyDevMax n) dev
  if Nat.ble dev 1000 then s1
  else
    let s2 := s1.sat (F.chnDlyDevOver n) 1
    if s2.is (F.chnPromiseDelayErr n) then s2 else (s2.flag (F.chnPromiseDelayErr n) true).raise (Src.delay n)

/-- A composed buffer goes back once the last row of its frame is released (R298). -/
def State.dropComposed (s : State) (m k : Nat) : State :=
  s.dropBufs (fun b => Nat.beq b.pool 1 && Nat.beq b.own m && Nat.beq b.tag k)

/-- What the release does to the references and the refresh (R252, R253, R271, R319). -/
def State.releaseRefs (s : State) (n m k j d : Nat) (floor : Bool) : State :=
  let s1 := s.refreshRow n m k j (Nat.beq d 1) (Nat.beq d 3) floor
  if !s.codes n k || Nat.beq (s.slotKind n k) 2 then s1.updRow m k j (fun r => { r with fin := true })
  else if Nat.beq d 1 then (s1.cond floor (fun s => s.bump (F.chnRcCntFloorRow n) 1)).rowFinal m k j
  else
    let have_ := s1.bufs.any (fun b => Nat.beq b.pool 2 && Nat.beq b.own m && !b.safe && Nat.beq b.tag k)
    let s2 := if have_ then s1 else match s1.takeBuf Pool.reference m k false true (s1.refPages n) with
      | some t => t
      | none => s1
    let s3 := s2.setRc n (fun x => { x with dirty := (k * 128 + j) :: x.dirty.filter (fun y => Nat.ble k (y / 128 + 2)) })
    (s3.updRow m k j (fun r => { r with fin := false })).repairRow m k j (Nat.beq d 3)

/-- Row j of access unit k of context m leaves; `dev` is its deviation in ns. -/
def State.releaseNow (s : State) (m k j dev : Nat) : State :=
  let n := s.leadOf m
  let s0 := s.enterFirst n k
  let r := (s0.row m k j).getD { k := k, j := j, fin := true }
  let d := r.dec
  let lim := s0.limOf n k
  let old := s0.oldEntries m j
  let new := if Nat.beq d 1 then r.cands else if Nat.beq d 2 then old.map skipEntry else old.map (fun _ => safeEntry)
  let bytes := if Nat.beq d 1 then r.lead.size else if Nat.beq d 2 then s0.skipSize m j else s0.safeSize m j
  let kind := s0.slotKind n k
  let pre := if !Nat.beq j 0 || !Nat.beq m n then 0
    else if Nat.beq kind 2 then (s0.store_ n).pre
    else if Nat.beq kind 3 then (s0.store_ n).tmpl
    else if Nat.beq (s0.rc n).pic k then (s0.rc n).epre else (s0.rc n).oldPre
  let stale := if Nat.beq d 1 then (new.filter (fun e => Nat.blt lim (entryAge e))).length else 0
  let s1 := (s0.updChan m (fun c => { c with smp := Tab.put [] c.smp j new, nRel := c.nRel ||| 2 ^ j })).updChan n
    (fun c => { c with
      nSkip := if Nat.beq d 2 then c.nSkip + 1 else c.nSkip
      nSafe := if Nat.beq d 3 then c.nSafe + 1 else c.nSafe
      tulle := c.tulle + stale
      bytes := c.bytes + bytes + pre
      txAt := s0.now
      pktA := if Nat.beq c.txAt s0.now then c.pktA else 0
      pktB := if Nat.beq c.txAt s0.now then c.pktB else 0 })
  let s2 := (s1.cond (new.any (unmarked lim)) (fun s =>
    (s.flag (F.chnPromiseMarkErr n) true).raise (Src.mark n))).deviation n dev
  let s3 := s2.updRow m k j (fun r => { r with rel := true })
  let s4 := (s3.releaseRefs n m k j d r.lead.floor).pictureFinal m k
  s4.cond (Nat.beq (j + 1) (s4.rows n)) (fun s => s.dropComposed m k)

/-- ROW_RELEASE: at e_j, with the decision 2,000 ns before. -/
def State.rowRelease (s : State) (m k j dev : Nat) : State :=
  let n := s.leadOf m
  if !s.rowDue m k j then s
  else
    let s1 := s.releaseDecision m k j
    match (s1.chan n).slot with
    | some x => if Nat.beq x k then (s1.advance (s1.releaseInstant m k j)).releaseNow m k j dev else s1
    | none => (s1.advance (s1.releaseInstant m k j)).releaseNow m k j dev
def execRowRelease (m k j dev : Nat) (s : State) : Host.Outcome State Fault Refusal := .next (s.rowRelease (m % 256) k j dev)

/-! Losing the live path -/

/-- The rows at work of the channel are given up: their tasks are cancelled, their buffers freed; `refs` says that the
reference window goes too. -/
def State.abandon (s : State) (n cause : Nat) (refs : Bool) : State :=
  let st := s.strips n
  let mine (t : Task) : Bool := (Nat.beq t.typ 2 || Nat.beq t.typ 3 || Nat.beq t.typ 4 || (Nat.beq t.typ 6 && Nat.ble 1 t.which))
    && st.contains t.own
  let s1 := (s.cancelTasks cause mine).stopFront (fun t => st.contains t.own)
  let s2 := s1.each st (fun s m => s.updChan m (fun c => { c with rows := [], poison := if refs then [] else c.poison }))
  ((s2.setRc n (fun x => { x with coded := false })).dropBufs (fun b => st.contains b.own
    && (Nat.beq b.pool 1 || (refs && Nat.beq b.pool 2 && !b.safe)))).each st State.showPoison

/-- The live path of a running channel is lost now (R24): the rest of the slot in progress, and of a slot whose row 0 is
decided already, is sent as safe rows; the engine codes nothing until references restart. -/
def State.losePath (s : State) (n cause : Nat) : State :=
  let c := s.chan n
  let ks := match c.slot with
    | some k => if Nat.beq (s.slotKind n (k + 1)) 0 then [k] else [k, k + 1]
    | none => []
  (s.updChan n (fun c => { c with lostK := (ks ++ c.lostK).take 4, codeFrom := 2 ^ 40 })).abandon n cause true

/-- The channel waits to restart its references (R307). -/
def State.wantRestart (s : State) (n : Nat) : State :=
  if s.admitted n then s.updChan n (fun c => { c with restart := 1, recon := false }) else s

/-! Leaving a channel -/

/-- The channel is released (R15): IDLE, its engines, buffers, tasks and ring quota freed; its grid runs on (R102). -/
def State.freeChan (s : State) (n : Nat) : State :=
  let st := s.strips n
  let s1 := ((s.abandon n Cancel.release true).dropBufs (fun b => Nat.beq b.pool 2 && st.contains b.own)).each st (fun s m =>
    let c := s.chan m
    let d : Chan := { on := c.on, cur := c.cur, past := c.past, next := c.next, nextG := c.nextG, rate := c.rate, phase := c.phase, ptp := c.ptp, smp := c.smp, smpX := c.smpX, shots := c.shots, lims := c.lims, lags := c.lags }
    ((s.setPair m 0).unplace m).setChan m d)
  let s2 := (((s1.setChState n ChState.idle).flag (F.chnStatDuplexLost n) false).setWord (R.chnLoad n) 0).setWord
    (R.chnCommit n) 0
  let s3 : State := { s2 with sys := { s2.sys with shedLog := s2.sys.shedLog.filter (fun x => !Nat.beq (x % 256) n) } }
  (s3.ringChange n).showEngines

/-! Egress commits (R350 to R352, R355, R360) -/

/-- The shadow registers of an egress channel; the path registers alone. -/
def egrPaths (n : Nat) : List Nat := [0, 1].flatMap (fun x =>
  [R.egrPathCfg n x, R.egrPathDst n x, R.egrPathUdp n x, R.egrPathMacLo n x, R.egrPathMacHi n x])
def egrAddrs (n : Nat) : List Nat :=
  [R.egrChCfg n, R.egrChPace n, R.egrChRtp n, R.egrChSsrc n, R.egrChTs n, R.egrChProg n] ++ egrPaths n

def State.egrAdm (s : State) (n : Nat) : Bool := s.is (F.egrChStatAdm n)

/-- The channels whose flows count, channel `n` tried with its shadows. -/
def State.egrCounted (s : State) (n : Nat) : List Nat := (List.range 256).filter (fun m => Nat.beq m n || s.egrAdm m)

/-- A field of a counted channel: the shadow of the one that is tried. -/
def State.eg (s : State) (n m : Nat) (f : Fld) : Nat := if Nat.beq m n then s.get f else s.aget f

/-- The flows on a lane, as channel and path (R335). -/
def State.flowsOn (s : State) (n l : Nat) : List (Nat × Nat) :=
  (s.egrCounted n).flatMap (fun m => ([0, 1].filter (fun x => Nat.beq (s.eg n m (F.egrPathCfgEn m x)) 1
    && Nat.beq (s.eg n m (F.egrPathCfgLane m x)) l)).map (fun x => (m, x)))

/-- PACE summed over a lane, in kb/s. -/
def State.paceSum (s : State) (n l : Nat) : Nat := ((s.flowsOn n l).map (fun p => s.eg n p.1 (F.egrChPacePace p.1))).sum

/-- Flows that share frame-rate code, effective phase and D_fix with flow p (R350). -/
def State.coincOf (s : State) (n l : Nat) (p : Nat × Nat) : List (Nat × Nat) :=
  let key (m : Nat) : Nat × Nat × Nat := ((s.gridOf m).1, (s.gridOf m).2, s.cfg m F.chnDfixDfix)
  (s.flowsOn n l).filter (fun q => key q.1 == key p.1)
def State.coinc (s : State) (n l : Nat) : Nat := ((s.flowsOn n l).map (fun p => (s.coincOf n l p).length)).foldl max 0

/-- Gb/s of the port of a lane. -/
def State.laneGb (s : State) (l : Nat) : Nat := if s.bonded l then 100 else if Nat.beq (s.get (F.lnkCfgMode l)) 1 then 10 else 25

/-- EGR_LN_LOAD of every lane, EGR_MEM.PBUF_USED. 256 names no channel: no shadow is tried. -/
def State.showEgress (s : State) : State :=
  (s.each (List.range 256) (fun s l => (s.put (F.egrLnLoadPaceSum l) (min 0x1FFFF (s.paceSum 256 l / 1000))).put
    (F.egrLnLoadCoinc l) (min 63 (s.coinc 256 l)))).put F.egrMemPbufUsed
      (((List.range 256).filter s.egrAdm).map (fun m => s.aget (F.egrChCfgPbuf m))).sum

def pidBad (v : Nat) : Bool := Nat.blt v 0x20 || Nat.blt 0x1FFE v

/-- FORMAT of an egress commit. -/
def State.egrFormatBad (s : State) (n : Nat) : Bool :=
  let g (f : Nat → Fld) : Nat := s.get (f n)
  let ts := Nat.beq (g F.egrChCfgPkg) 1
  let aud := Nat.beq (g F.egrChCfgAudEn) 1
  (!ts && (Nat.blt (g F.egrChCfgLen) 576 || Nat.blt 9000 (g F.egrChCfgLen)))
    || Nat.blt (g F.egrChPacePace) 10000 || Nat.blt 90000000 (g F.egrChPacePace)
    || Nat.beq (g F.egrChCfgPbuf) 0 || Nat.blt 32 (g F.egrChCfgPbuf)
    || (ts && (pidBad (g F.egrChTsVpid) || pidBad (g F.egrChProgPmtPid) || (aud && pidBad (g F.egrChTsApid))))
    || (aud && !ts)

/-- PATH of an egress commit (R335): path A is enabled; every lane is the port of an Ethernet lane; two lanes differ. -/
def State.egrPathBad (s : State) (n : Nat) : Bool :=
  let en (x : Nat) : Bool := s.is (F.egrPathCfgEn n x)
  let lane (x : Nat) : Nat := s.get (F.egrPathCfgLane n x)
  !en 0 || [0, 1].any (fun x => en x && (!s.laneEthernet (lane x) || !Nat.beq (s.portLane (lane x)) (lane x)))
    || (en 1 && Nat.beq (lane 0) (lane 1))

/-- The limits of R350 on one lane: 0, or the reason. -/
def State.laneReason (s : State) (n l : Nat) : Nat :=
  let gb := s.laneGb l
  let late (p : Nat × Nat) : Bool :=
    let q := s.coincOf n l p
    let tag := q.any (fun x => !Nat.beq (s.eg n x.1 (F.egrPathCfgVlan x.1 x.2)) 0)
    Nat.blt (900 * gb) (q.length * (256 + (if tag then 42 else 38)) * 8)
  if Nat.blt (gb * 900000) (s.paceSum n l) then 4
  else if (s.flowsOn n l).any late then 5
  else 0

/-- C_buf or C_row below the C_min of R352, with the egress shadows or active values and those of the channel. -/
def State.capBad (s : State) (n : Nat) (act cact : Bool) : Bool :=
  let rows := rowsOf (8 * s.fld cact (F.chnFmtH8 n))
  let m := s.cMin (spanOf n (Nat.beq (s.fld cact (F.chnFmtSpan4 n)) 1)) rows true
  Nat.blt (s.pBuf act n / 2) m || Nat.blt (rows * s.sRow act cact n) m

/-- The checks of an egress commit of channel n: the first failure's reason (EGR_CH_STAT.REFUSE), or 0. -/
def State.egrReason (s : State) (n : Nat) : Nat :=
  let run := s.admitted n
  let fixed := (egrAddrs n).filter (fun a => !(egrPaths n).contains a)
  let lanes := ([0, 1].filter (fun x => s.is (F.egrPathCfgEn n x))).map (fun x => s.get (F.egrPathCfgLane n x))
  let l := (lanes.map (s.laneReason n)).filter (fun r => !Nat.beq r 0)
  if s.modeIn [Mode.safe, Mode.recover, Mode.drain] then 8
  else if run && (fixed.any (fun a => s.word a != s.actWord a) || !Nat.beq (s.get (F.egrPathCfgEn n 0)) (s.aget (F.egrPathCfgEn n 0)))
    then 1
  else if s.egrFormatBad n then 2
  else if s.egrPathBad n then 3
  else if l.contains 4 then 4
  else if l.contains 5 then 5
  else if Nat.blt 1536 ((s.egrCounted n).map (fun m => s.eg n m (F.egrChCfgPbuf m))).sum then 6
  else if s.capBad n false run then 7
  else 0

/-- An egress commit is checked and applied or refused. -/
def State.egrCommit (s : State) (n : Nat) : State :=
  let r := s.egrReason n
  let s1 := s.flag (F.egrChCommitCommit n) false
  if Nat.beq r 0 then
    let k := s.nPkt false (s.admitted n) n
    (((s1.activate (egrAddrs n)).flag (F.egrChStatAdm n) true).put (F.egrChStatNpkt n) (min 0xFFFF k)).showEgress
  else ((s1.flag (F.egrChStatRefused n) true).put (F.egrChStatRefuse n) r).refusalEv 17 1 n r

/-- EGR_COMMIT: port h writes EGR_CH_COMMIT with COMMIT = 1. -/
def execEgrCommit (h n : Nat) (v : Word) (s : State) : Host.Outcome State Fault Refusal :=
  .next (s.takeWrite h (R.egrChCommit (n % 256)) (setBitsAt v 0 1 1) false
    (fun s => s.store (R.egrChCommit (n % 256)) (setBitsAt v 0 1 1) allBits))

/-- EGR_COMMIT_CHECK: at the next tick, for an IDLE channel. -/
def State.egrCheck (s : State) (n : Nat) : State :=
  if s.is (F.egrChCommitCommit n) && !s.admitted n then s.tick.egrCommit n else s
def execEgrCommitCheck (n : Nat) (s : State) : Host.Outcome State Fault Refusal := .next (s.egrCheck (n % 256))

/-- A START is refused by egress (R360). -/
def State.egrStartBad (s : State) (n : Nat) : Bool := !s.egrAdm n || s.capBad n true false
def State.egrStartRefuse (s : State) (n : Nat) : State :=
  let s1 := (s.flag (F.egrChStatStartRef n) true).cond (s.egrAdm n) (fun s => s.put (F.egrChStatRefuse n) 7)
  s1.refusalEv 17 1 n (s1.get (F.egrChStatRefuse n) + 16)

/-- At ARM (R360): the egress configurations whose path A the image enables, in ascending channel number. -/
def State.armEgress (s : State) : State :=
  s.each (List.range 256) (fun s n => if s.is (F.egrPathCfgEn n 0) then s.egrCommit n else s)

end Sys2Proof.Machine
end

