-- ==== Sys2Proof/Machine/Audit.lean ====
section
/-!
DEFINITION. Sys2Proof/Machine/Audit.lean: the audit point of a channel and what it settles: the promise counters, the shared
audits of pools, credits and tasks, retired pages, the replay ring and the taps, and the channel's changes of state
(R18 to R45, R94, R303, R306, R307, R358, R364, R577).
-/

namespace Sys2Proof.Machine

/-! Shared audits -/

/-- The pages of one pool in groups that have left the map are retired; pages of the ring in surviving groups join the pool in
their place, and a shortfall makes the pool smaller (R306). -/
def State.retirePool (s : State) (p : Nat) : State :=
  let gone (g : Nat) : Bool := !s.is (F.drcGrpStatInMap g)
  let mine (b : Buf) : Bool := Nat.beq b.pool p && gone b.grp
  let n := (((List.range 8).filter gone).map (s.freeIn p)).sum + ((s.bufs.filter mine).map Buf.pages).sum
  if Nat.beq n 0 then s
  else
    let s1 : State := { s with bufs := s.bufs.filter (fun b => !mine b) }
    let s2 := s1.each ((List.range 8).filter gone) (fun s g => s.setFree p g 0)
    let r := s2.yieldPages n
    let s3 := r.1.foldl (fun s g => s.setFree p g (s.freeIn p g + 1)) r.2
    (s3.put (F.sysPoolSizePages p) (s3.get (F.sysPoolSizePages p) - (n - r.1.length))).showRing

/-- The CREDIT source of a crossing's sender (R484, R488). -/
def creditSrc (x : Nat) : Nat :=
  if Nat.blt x 16 then Src.creditEnc x else if Nat.beq x 16 then Src.creditTim else if Nat.beq x 17 then Src.creditSel
  else if Nat.blt x 50 then Src.creditDrc (x - 18) else if Nat.blt x 306 then Src.creditLnkRx (x - 50)
  else if Nat.blt x 562 then Src.creditLnkTx (x - 306) else if Nat.blt x 578 then Src.creditAud (x - 562)
  else Src.creditHst (x - 578)

/-- Does the direction of a crossing exist (R484)? -/
def hasDir (x : Nat) (out : Bool) : Bool :=
  if out then Nat.blt x 50 || (Nat.ble 306 x && Nat.blt x 562) || Nat.ble 578 x else Nat.blt x 306 || Nat.ble 562 x

/-- The credit audit of one direction (R44, R45): a crossing that the snapshot does not list has all its credits at the
sender. -/
def State.auditDir (s : State) (l : List Snap) (x : Nat) (out : Bool) : State :=
  if !hasDir x out then s
  else
    let cfg := s.get (if out then F.clkXqCredOut x else F.clkXqCredIn x)
    let c := (l.find? (fun c => Nat.beq c.x x && c.out == out)).getD ⟨x, out, cfg, 0, 0⟩
    let f := if out then F.clkXqStatMinfreeOut x else F.clkXqStatMinfreeIn x
    let s1 := s.put f (min (s.get f) c.free)
    if Nat.beq (c.free + c.held + c.transit) cfg then s1
    else (s1.flag (if out then F.clkXqStatErrOut x else F.clkXqStatErrIn x) true).raise (creditSrc x)

/-- The audits that audit points of one tick share (R42, R45, R303, R429). -/
def State.auditShared (s : State) (l : List Snap) : State :=
  if Nat.beq s.sys.auditAt (s.now / 1000 + 1) then s
  else
    let s1 : State := { s with sys := { s.sys with auditAt := s.now / 1000 + 1 } }
    let s2 := (s1.each [0, 1, 2] State.retirePool).auditPools
    (s2.each (List.range 582) (fun s x => (s.auditDir l x false).auditDir l x true)).auditTasks

/-- IDLE_AUDIT_TICK (R42): every 1 ms while no channel runs and the module is out of HOLD. -/
def State.idleAudit (s : State) (l : List Snap) : State :=
  if Nat.beq s.mode Mode.hold || s.anyRuns then s else (s.advance ((s.now / 1000000 + 1) * 1000000)).auditShared l
def execIdleAuditTick (l : List Snap) (s : State) : Host.Outcome State Fault Refusal := .next (s.idleAudit l)

/-! Taps (R577, R578) -/

/-- A tap drops a record (R578), with interrupt cause 5. -/
def State.tapDrop (s : State) (h k : Nat) : State := (s.bump (F.hstTapCntDrop h k) 1).irqPort h 5

/-- Where the records in work of a tap and then `len` bytes end in its ring; none where the ring lacks space. -/
def State.tapPlace (s : State) (h k : Nat) (lens : List Nat) : Option Nat :=
  lens.foldl (fun r n => match r with
    | some head => ringPlace (s.get (F.hstTapCfgSize h k)) head (s.get (F.hstTapTailOfs h k)) n
    | none => none) (some (s.get (F.hstTapHeadOfs h k)))

/-- Every tap of channel n begins to copy the access unit, or drops it. -/
def State.tapRecord (s : State) (n : Nat) (r : Rec) : State :=
  s.each (List.range 4) (fun s h => s.each (List.range 16) (fun s k =>
    if s.is (F.hstTapCfgEn h k) && Nat.beq (s.get (F.hstTapCfgChan h k)) n then
      let lens := (((s.port h).taps.filter (fun x => Nat.beq x.1 k)).map (fun x => x.2.len)) ++ [r.len]
      if s.linkUp h && (s.tapPlace h k lens).isSome then
        s.setPort h { s.port h with taps := (s.port h).taps ++ [(k, r)] }
      else s.tapDrop h k
    else s))

/-- TAP_RECORD_COMPLETE: the copy of the tap's oldest record in work is complete, or its pacing-store space was reused. -/
def State.tapDone (s : State) (h k : Nat) (reused : Bool) : State :=
  match (s.port h).taps.find? (fun x => Nat.beq x.1 k) with
  | none => s
  | some (_, r) =>
    let s1 := s.setPort h { s.port h with taps := (s.port h).taps.eraseP (fun x => Nat.beq x.1 k) }
    match s1.tapPlace h k [r.len] with
    | some head =>
      if reused || !s1.linkUp h then s1.tapDrop h k
      else ((s1.put (F.hstTapHeadOfs h k) head).bump (F.hstTapCntRec h k) 1).irqPort h 4
    | none => s1.tapDrop h k
def execTapRecordComplete (h k : Nat) (reused : Bool) (s : State) : Host.Outcome State Fault Refusal :=
  .next (s.tapDone (h % 4) (k % 16) reused)

/-- A write of HST_TAP_CFG of port p, tap k (R578): EN = 1 sets the head to the tail; the other fields are locked while the
tap is on. -/
def State.writeTapCfg (s : State) (p k : Nat) (v : Word) : State :=
  let on := s.is (F.hstTapCfgEn p k)
  let t := s.store (R.hstTapCfg p k) v (if on then 0x100 else allBits)
  if Nat.beq (bitsAt v 8 1) 1 then t.put (F.hstTapHeadOfs p k) (t.get (F.hstTapTailOfs p k))
  else t.setPort p { t.port p with taps := (t.port p).taps.filter (fun x => !Nat.beq x.1 k) }
def execTapEnable (h p k : Nat) (v : Word) (s : State) : Host.Outcome State Fault Refusal :=
  .next (s.takeWrite h (R.hstTapCfg (p % 4) (k % 16)) v false (fun s => s.writeTapCfg (p % 4) (k % 16) v))

/-! The last release in DRAIN (R359, R370, R544) -/

/-- A RING record (R541). -/
def ringRecord (seq n epoch newest : Nat) (r : Rec) : List Word :=
  [BitVec.ofNat 32 seq, BitVec.ofNat 32 (seq / 2 ^ 32 % 2 ^ 16 + 6 * 2 ^ 16), BitVec.ofNat 32 (n + epoch * 2 ^ 16),
    BitVec.ofNat 32 newest, BitVec.ofNat 32 r.k, BitVec.ofNat 32 (r.k / 2 ^ 32), BitVec.ofNat 32 r.start,
    BitVec.ofNat 32 (r.start / 2 ^ 32)]
def isRingRecord (r : List Word) : Bool := Nat.beq (bitsAt (r.getD 1 0) 16 8) 6

/-- The ring's summary enters the journal's buffer ahead of every waiting record (R544); bytes 0 to 5 are free values. -/
def State.ringSummary (s : State) : State :=
  let one (a : List (List Word) × State) (n : Nat) : List (List Word) × State :=
    let rs := (a.2.ring.segs.filter (fun g => Nat.beq g.chan n)).flatMap (fun g => g.recs.map (fun r => (g.epoch, r)))
    match rs.head?, rs.getLast? with
    | some x, some y =>
      let f := a.2.fresh
      let g := f.2.fresh
      (a.1 ++ [ringRecord (f.1 % 2 ^ 48) n x.1 0 x.2, ringRecord (g.1 % 2 ^ 48) n y.1 1 y.2], g.2)
    | _, _ => a
  let r := (List.range 256).foldl one ([], s)
  { r.2 with arb := { r.2.arb with jbuf := r.1 ++ r.2.arb.jbuf }, sys := { r.2.sys with summary := true } }

/-- With no channel left in DRAIN: leave reports for every group on every lane, and the ring's summary. -/
def State.drainLast (s : State) : State :=
  if Nat.beq s.mode Mode.drain && !s.anyAdmitted && !s.sys.summary then
    (s.each (List.range 256) (fun s l => s.igmpAll l 1)).ringSummary
  else s

/-! The audit point -/

/-- References restart at the audit that ends slot k (R307 steps 2 and 3): the next slot is the safe picture, and the capture
frame after it is coded with the safe reconstruction as reference. -/
def State.restartRefs (s : State) (n k : Nat) : State :=
  if !Nat.beq (s.chan n).restart 1 then s
  else
    let st := s.strips n
    let safe := Nat.beq (s.slotKind n (k + 1)) 2 || Nat.beq (s.slotKind n (k + 1)) 0
    let s1 := (s.abandon n Cancel.release true).dropBufs (fun b => Nat.beq b.pool 2 && st.contains b.own)
    let s2 := (s1.updChan n (fun c => { c with
      restart := 3
      recon := false
      gdrNew := true
      lostK := if safe then c.lostK else (k + 1) :: c.lostK
      codeFrom := if s.modeIn [Mode.safe, Mode.recover] || Nat.beq (s.chState n) ChState.shed then 2 ^ 40
        else if safe then k + 2 else k + 3 })).rcRestart n
    s2.flag (F.chnRefStatRestarting n) true

/-- The channel is shed (R94): it emits its safe picture, and its engines and rows are freed. -/
def State.shedNow (s : State) (n k : Nat) : State :=
  let s1 := (s.losePath n Cancel.release).each (s.strips n) (fun s m => (s.setPair m 0).unplace m)
  (s1.updChan n (fun c => { c with
    want := 0
    takeover := false
    lostK := if Nat.beq (s.slotKind n (k + 1)) 1 then (k + 1) :: c.lostK else c.lostK })).setChState n ChState.shed |>.showEngines

/-- The channel is restored (R95): its contexts stand on engines again, and its first coded picture starts a refresh. -/
def State.restoreNow (s : State) (n k : Nat) : State :=
  let s1 := s.each (s.strips n) (fun s m => s.setPair m (if (s.stbyEng m).isSome then 1 else 0))
  (s1.updChan n (fun c => { c with want := 0, codeFrom := k + 2, gdrNew := true })).setChState n ChState.running |>.showEngines

/-- The channel enters CLOSING (R358). -/
def State.enterClosing (s : State) (n k : Nat) : State :=
  let t := if Nat.beq (s.chState n) ChState.shed then s.updChan n (fun c => { c with wantSafe := true })
    else if Nat.beq (s.slotKind n (k + 1)) 2 then s
    else s.startClosing n k
  t.setChState n ChState.closing

/-- What the audit point settles for the channel after slot k: a release, CLOSING, shedding or restoring, a restart of the
references, an egress commit; then the next slot begins. -/
def State.afterSlot (s : State) (n k : Nat) : State :=
  let c := s.chan n
  let closed := Nat.beq (s.chState n) ChState.closing
    && (Nat.beq (s.slotKind n k) 2 || (Nat.blt 0 c.closeK && Nat.beq c.closeK k && s.refreshed n k))
  if c.relReq || closed then ((s.freeChan n).evalDegraded).drainLast
  else
    let s1 := if Nat.beq s.mode Mode.drain && !Nat.beq (s.chState n) ChState.closing then s.enterClosing n k
      else if Nat.beq c.want 1 then s.shedNow n k
      else if Nat.beq c.want 2 then s.restoreNow n k
      else s
    let s2 := (s1.restartRefs n k).cond (s1.is (F.egrChCommitCommit n)) (fun s => s.egrCommit n)
    (s2.each (s2.strips n) (fun s m => s.updChan m (fun c => { c with nRel := 0 }))).updChan n (fun c => { c with
      slot := some (k + 1)
      nSkip := 0
      nSafe := 0
      bytes := 0
      lostK := c.lostK.filter (fun x => Nat.blt k x) })

/-- Rows that no command released leave on their schedule before the slot ends (notes/assumptions/16). -/
def State.finishRows (s : State) (n k : Nat) : State :=
  s.each (List.range (s.rows n)) (fun s j => s.each (s.strips n) (fun s m => s.rowRelease m k j 0))

/-- The kind of the access unit of the slot (R21): 0 live, 1 skip-row-bearing, 2 safe-row-bearing, 3 safe. -/
def State.auKind (s : State) (n k : Nat) : Nat :=
  let c := s.chan n
  if Nat.beq (s.slotKind n k) 2 then 3 else if Nat.blt 0 c.nSafe then 2 else if Nat.blt 0 c.nSkip then 1 else 0

/-- The promise counters after a slot with an access unit of this kind, shown together (R58). -/
def State.countSlot (s : State) (n kind : Nat) : State :=
  let one (b : Bool) : Nat := if b then 1 else 0
  let s1 := s.updChan n (fun c => { c with
    slots := c.slots + 1
    aus := c.aus + 1
    skipAu := c.skipAu + one (Nat.beq kind 1)
    safeRowAu := c.safeRowAu + one (Nat.beq kind 2)
    safeAu := c.safeAu + one (Nat.beq kind 3) })
  let c := s1.chan n
  let s2 := (((s1.put64 (R.chnSlotLo n) (R.chnSlotHi n) c.slots).put64 (R.chnAuLo n) (R.chnAuHi n) c.aus).put64
    (R.chnSkipauLo n) (R.chnSkipauHi n) c.skipAu).put64 (R.chnSaferowauLo n) (R.chnSaferowauHi n) c.safeRowAu
  let s3 := ((s2.put64 (R.chnSafeauLo n) (R.chnSafeauHi n) c.safeAu).put64 (R.chnLaterowLo n) (R.chnLaterowHi n)
    c.late).put64 (R.chnTulleLo n) (R.chnTulleHi n) c.tulle
  if Nat.beq c.slots c.aus then s3 else (s3.flag (F.chnPromiseFrameErr n) true).raise (Src.frame n)

/-- Does picture k start a refresh period, or is it an IDR or safe picture (R365)? -/
def State.entryPic (s : State) (n k : Nat) : Bool :=
  Nat.beq (s.slotKind n k) 2 || s.isIdr n k
    || ((s.chan n).gdrX.any (fun g => Nat.beq g.1 k)
      && !((s.chan n).gdrX.any (fun g => Nat.blt g.1 k && Nat.beq g.2.2.1 (s.refreshOf n k).2.1)))

/-- AUDIT_POINT (R18, R28, R42, R58, R318, R346, R364): egress slot k of channel n ends. `units` is the number of NAL units
that the access unit held before row 0 (R258, R364), `l` what the credit audit finds. -/
def State.auditPoint (s : State) (n units : Nat) (l : List Snap) : State :=
  match (s.chan n).slot with
  | none => s
  | some k =>
    if !s.runs n then s
    else
      let s1 := (s.finishRows n k).advance (s.auditInstant n k)
      let kind := s1.auKind n k
      let sei := seiSizeOf (s1.seiPayload n k (Nat.beq kind 3))
      let bytes := (s1.chan n).bytes + sei
      let s2 := (s1.countSlot n kind).updChan n (fun c => { c with seiSize := sei, audited := s1.now })
      let s3 := (s2.put64 (R.chnRcCntBytesLo n) (R.chnRcCntBytesHi n)
        (s2.get64 (R.chnRcCntBytesLo n) (R.chnRcCntBytesHi n) + bytes)).cond (!Nat.beq kind 3) (fun s => s.rcAudit n k bytes)
      let e := s3.pictureEntries n
      let s4 := (s3.put (F.chnFsumStale n) (min 0xFFFF (e.filter (fun x => Nat.beq (entryState x) 2)).length)).put
        (F.chnFsumNotfresh n) (min 0xFFFF (e.filter (fun x => !Nat.beq (entryState x) 0)).length)
      let miss := (s4.chan n).gdrX.any (fun g => Nat.beq g.1 k && g.2.2.2) && !s4.refreshed n k
      let s5 := (s4.cond miss (fun s => s.bump (F.chnEncCntGdrmiss n) 1)).auditShared l
      let mk := s5.markOf n k
      let r : Rec := ⟨k, mk.2.1, kind, s5.entryPic n k, mk.2.2, (s5.frame n k).trans,
        bytes + 4 * (units + s5.rows n * (s5.strips n).length + 1)⟩
      ((s5.fileRecord n r).tapRecord n r).afterSlot n k
def execAuditPoint (n units : Nat) (l : List Snap) (s : State) : Host.Outcome State Fault Refusal :=
  .next (s.auditPoint (n % 256) units l)

/-- SAFE_RECONSTRUCTION_DECODED (R277): the home engines of channel n have decoded the safe rows of its contexts into buffers
that carry mark S; rows that poisoned reads gave a fault in are none. -/
def State.reconDone (s : State) (n : Nat) : State :=
  if !s.admitted n || (s.chan n).recon then s
  else
    let t := s.each (s.strips n) (fun s m => match s.takeBuf Pool.reference m 0 true false (s.refPages n) with
      | some u => u.markBufs (fun b => Nat.beq b.pool 2 && Nat.beq b.own m && b.safe) (fun b => { b with s := true, held := false })
      | none => s)
    t.updChan n (fun c => { c with recon := true })
def execSafeReconstructionDecoded (n : Nat) (s : State) : Host.Outcome State Fault Refusal := .next (s.reconDone (n % 256))

end Sys2Proof.Machine
end

