-- ==== Sys2Proof/Machine/Channel.lean ====
section
/-!
DEFINITION. Sys2Proof/Machine/Channel.lean: starting, releasing and committing channels, the capture frame start with all
that happens in it, and the row deadlines (R84 to R96, R97 to R113, R201, R205, R407 to R410).
-/

namespace Sys2Proof.Machine

/-- The shadowed registers of a channel. -/
def chnAddrs (n : Nat) : List Nat :=
  [R.chnFmt n, R.chnCodec n, R.chnClass n, R.chnDfix n, R.chnPhase n, R.chnFresh n, R.chnMarkcol n, R.chnEncCfg n,
    R.chnEncVui n, R.chnEncSpec n, R.chnEncGdr n, R.chnMeCfg n, R.chnRcCfg n, R.chnRcRate n, R.chnRcQp n, R.chnRcCap n]

/-- A commit or START is refused (R85): its reason, and the REFUSAL event. -/
def State.chnRefuse (s : State) (n reason : Nat) : State :=
  ((s.flag (F.chnStatRefused n) true).put (F.chnStatRefuse n) reason).refusalEv 15 2 n reason

/-- The modes in which every commit and START is refused (R87). -/
def State.noCommits (s : State) : Bool := s.modeIn [Mode.safe, Mode.recover, Mode.drain]

/-! Host commands (R96, R88, R71) -/

/-- A write of CHN_CTL of channel n (R96). -/
def State.writeChnCtl (s : State) (n : Nat) (v : Word) : State :=
  if Nat.beq (bitsAt v 1 1) 1 then
    s.updChan n (fun c => if s.admitted n then { c with relReq := true } else { c with startReq := false })
  else if Nat.beq (bitsAt v 0 1) 1 && !s.admitted n && !(s.chan n).startReq then
    if s.noCommits then s.chnRefuse n Refuse.mode else s.updChan n (fun c => { c with startReq := true })
  else s

/-- CHN_START: port h writes CHN_CTL of channel n with START = 1. -/
def execChnStart (h n : Nat) (v : Word) (s : State) : Host.Outcome State Fault Refusal :=
  .next (s.takeWrite h (R.chnCtl (n % 256)) (setBitsAt v 0 1 1) false
    (fun s => s.writeChnCtl (n % 256) (setBitsAt v 0 1 1)))

/-- CHN_RELEASE: port h writes CHN_CTL of channel n with RELEASE = 1. -/
def execChnRelease (h n : Nat) (v : Word) (s : State) : Host.Outcome State Fault Refusal :=
  .next (s.takeWrite h (R.chnCtl (n % 256)) (setBitsAt v 1 1 1) false
    (fun s => s.writeChnCtl (n % 256) (setBitsAt v 1 1 1)))

/-- CHN_COMMIT: port h writes CHN_COMMIT of channel n with COMMIT = 1 and GROUP = 0. -/
def execChnCommit (h n : Nat) (s : State) : Host.Outcome State Fault Refusal :=
  .next (s.takeWrite h (R.chnCommit (n % 256)) 1 false (fun s => s.store (R.chnCommit (n % 256)) 1 allBits))

/-- CHN_GROUP_COMMIT: the same write with GROUP = 1. -/
def execChnGroupCommit (h n : Nat) (s : State) : Host.Outcome State Fault Refusal :=
  .next (s.takeWrite h (R.chnCommit (n % 256)) 3 false (fun s => s.store (R.chnCommit (n % 256)) 3 allBits))

/-! Commits (R84 to R86, R71) -/

/-- The channels that a pending commit of channel n commits together: its active group with GROUP = 1 (R71), else n. -/
def State.commitMembers (s : State) (n : Nat) : List Nat :=
  let g := s.aget (F.chnClassAgrp n)
  if s.is (F.chnCommitGroup n) && s.admitted n && !Nat.beq g 0 then
    (List.range 256).filter (fun m => s.admitted m && Nat.beq (s.aget (F.chnClassAgrp m)) g)
  else [n]

/-- The checks of R84 for member n of a commit, in order; a channel with a live path takes its trial placement. -/
def State.commitCheck (s : State) (mem : List Nat) (n : Nat) : Nat × State :=
  if s.noCommits then (Refuse.mode, s)
  else if s.admitted n && s.runFieldBad n then (Refuse.runField, s)
  else
    let r := s.admitBit mem n
    if s.admitted n && !Nat.beq (s.chState n) ChState.shed then r else (r.1, { s with free := r.2.free })

/-- The pair state follows the class (R86, R406): a new standby proves itself from CATCHUP on; a channel that leaves Class D
gives its standby up. -/
def State.followClass (s : State) (n : Nat) : State :=
  if Nat.beq (s.aget (F.chnClassClass n)) 2 then
    s.each (s.strips n) (fun s m =>
      if Nat.beq (s.get (F.chnDupStatDstate m)) 0 && (s.stbyEng m).isSome then (s.put (F.chnDupStatCatchup m) 0).setPair m 3
      else s)
  else
    let t := s.flag (F.chnStatDuplexLost n) false
    let u : State := { t with sys := { t.sys with shedLog := t.sys.shedLog.filter (fun x => !Nat.beq x (n + 256)) } }
    u.each (u.strips n) (fun s m =>
      if Nat.beq (s.get (F.chnDupStatDstate m)) 0 then s else s.dropStandby m 0 Cancel.release)

/-- What the registers show of a channel's configuration. -/
def State.showChannel (s : State) (n : Nat) : State := (((s.showCodec n).showCap n).showLoad n).showRep n

/-- A commit of channel n applies. -/
def State.applyCommit (s : State) (n : Nat) : State :=
  let s1 := (s.activate (chnAddrs n)).setWord (R.chnCommit n) 0
  if s.admitted n then (((s1.followClass n).showChannel n).showEngines).ringChange n else s1

/-- A commit of channel n is refused (R85). -/
def State.dropCommit (s : State) (n reason : Nat) : State :=
  ((s.reload (chnAddrs n)).setWord (R.chnCommit n) 0).chnRefuse n reason

/-- CHANNEL_ADMISSION of a commit (R84, R71): all its members together or none. -/
def State.commitChan (s : State) (n : Nat) : State :=
  if !s.is (F.chnCommitCommit n) then s
  else if (s.chan n).relReq then s.setWord (R.chnCommit n) 0   -- the release wins (R89)
  else
    let mem := s.commitMembers n
    let r := mem.foldl (fun (r : Nat × State) m => if Nat.beq r.1 0 then r.2.commitCheck mem m else r) (0, s)
    if Nat.beq r.1 0 then r.2.each mem State.applyCommit else s.each mem (fun s m => s.dropCommit m r.1)

/-! Admission of a START (R84, R214, R277, R360) -/

/-- The channel counters that a start clears (R58, R279, R309, R361, R417). -/
def startCounters (n : Nat) : List Nat :=
  (List.range 15).map (fun i => R.chnSlotLo n + 4 * i) ++ (List.range 4).map (fun i => R.chnEncCntUnpick n + 4 * i)
    ++ [R.chnRefCntRestart n, R.chnRefCntPoison n] ++ (List.range 4).map (fun i => R.chnDupCntSigmis n + 4 * i)
    ++ (List.range 4).map (fun i => R.egrChCntPktA n + 4 * i)

/-- Every sampler slot of a context in state 5 (R214): tile rows of `rows` block rows, `tx` tiles across. -/
def safeSlice (height tx : Nat) : List (Nat × List (BitVec 64)) :=
  (List.range (rowsOf height)).map (fun j => (j, List.replicate (tx * (tileRowsOf height j).length) safeEntry))

/-- Context m of channel n begins anew; only the channel's own grid runs on (R102). -/
def State.freshCtx (s : State) (n m : Nat) : State :=
  let c := s.chan m
  let tx := s.tilesX n
  s.setChan m { on := c.on && Nat.beq m n, cur := c.cur, past := c.past, next := c.next, nextG := c.nextG, rate := c.rate, phase := c.phase, ptp := c.ptp, placed := c.placed, shots := c.shots, lims := c.lims, lags := c.lags, smp := safeSlice (s.height n) tx, smpX := tx, startAt := s.now, codeFrom := 2 ^ 40 }

/-- A START that passed every check: the channel is STARTING on its engines. -/
def State.startChan (s : State) (n : Nat) : State :=
  let s1 := (s.activate (chnAddrs n)).setChState n ChState.starting
  let st := s1.strips n
  let s2 := s1.each st (fun s m => (s.freshCtx n m).each (startCounters m) (fun s a => s.setWord a 0))
  let s3 := s2.each st (fun s m => (s.put (F.chnDupStatCatchup m) 0).setPair m (if s2.isD [] n then 1 else 0))
  ((((s3.rcStart n).showChannel n).showEngines).ringStart n).showFrame n

/-- CHANNEL_ADMISSION of a START. -/
def State.admitStart (s : State) (n : Nat) : State :=
  if !(s.chan n).startReq then s
  else
    let s0 := s.updChan n (fun c => { c with startReq := false })
    if s0.noCommits then s0.chnRefuse n Refuse.mode
    else
      let r := s0.admitBit [n] n
      if !Nat.beq r.1 0 then s0.chnRefuse n r.1
      else if s0.egrStartBad n then s0.egrStartRefuse n
      else r.2.startChan n

/-! The capture frame start -/

/-- The context is shed at once, outside an audit point (R410). -/
def State.shedHere (s : State) (n : Nat) : State :=
  (s.losePath n Cancel.release).each (s.strips n) (fun s m => ((s.setPair m 0).unplace m).updChan m (fun c => { c with
    takeover := false }))

/-- Engines of context m that leave at the frame start: both after a lasting ENG_SIGMIS (R408), and SUSPECT ones whose time
is over (R407). -/
def State.leaveEngines (s : State) (m : Nat) : State :=
  let c := s.chan m
  let pair := s.leadEng m :: (s.stbyEng m).toList
  let s1 := if c.sigLast then (s.updChan m (fun c => { c with sigLast := false })).each pair (fun s e => s.retire e true)
    else s
  if !Nat.beq c.suspect 0 && Nat.ble c.suspect (s.chan (s.leadOf m)).gdrN then
    (s1.updChan m (fun c => { c with suspect := 0 })).each (pair.filter (fun e => (s1.eng e).owed)) (fun s e => s.retire e false)
  else s1

/-- The COMPOSE_ROW tasks of the frame that begins (R418). -/
def State.composeTasks (s : State) (n : Nat) : State :=
  let k := (s.chan n).cur.k
  s.each (List.range (s.rows n)) (fun s j =>
    (s.create ⟨2, n, k, j, 0, 128 + n / 16, s.get F.bobPrioCmp, s.deadlineInstant n k j,
      s.instant n k (s.deadlineAt n j + rowTime (s.rows n)), s.decisionInstant n k j, 0, 0⟩).1)

/-- The frame of an admitted channel begins: its layers, engines and rate control as the frame will use them, and its tasks. -/
def State.frameWork (s : State) (n : Nat) : State :=
  let s1 := s.keepShot n
  if Nat.beq (s1.chState n) ChState.shed then s1
  else
    let s2 := s1.each (s1.strips n) (fun s m => (((s.leaveEngines m).takeoverOf m).joinOf m).applySwap m)
    let s3 := s2.rcFrame n
    if Nat.beq (s3.chState n) ChState.shed then s3.shedHere n else s3.composeTasks n

/-- Does the channel's next frame start at instant t? -/
def State.startsAt (s : State) (t n : Nat) : Bool :=
  let c := s.chan n
  if c.on then Nat.beq c.next t
  else
    let g := s.gridOf n
    Nat.beq (s.gridStart g.1 g.2 (gridAt g.1 g.2 ((s.now : Int) + s.gridOff))) t

/-- A STARTING channel that is released leaves at its frame start (R96). -/
def State.freeStarting (s : State) (n : Nat) : State :=
  if Nat.beq (s.chState n) ChState.starting && (s.chan n).relReq then s.freeChan n else s

/-- CAPTURE_FRAME_START (R97, R201): stitch 0 of the next capture frame of channel n and of every channel whose frame starts
at the same instant, in the order of R201 (notes/assumptions/10). No grid runs before ARM (R102). -/
def State.frameStart (s : State) (n : Nat) : State :=
  if s.modeIn [Mode.hold, Mode.load, Mode.calibrate] || !Nat.beq (s.leadOf n) n then s
  else
    let t := if (s.chan n).on then (s.chan n).next else (s.toFrame n).now
    let s0 := s.toFrame n
    let l := (List.range 256).filter (fun m => Nat.beq (s0.leadOf m) m && s0.startsAt t m)
    let s1 := ((s0.evalDegraded).each l State.freeStarting).each l (fun s m => s.each (s.strips m) State.commitChan)
    let s2 := (s1.each l State.beginFrame).each l (fun s m => s.each (s.strips m) State.admitStart)
    let s3 := (s2.each (List.range 16) (fun s c => s.commitLayers c l)).parkAll
    s3.each l (fun s m => if s.admitted m then s.frameWork m else s)
def execCaptureFrameStart (n : Nat) (s : State) : Host.Outcome State Fault Refusal := .next (s.frameStart (n % 256))

/-! The row deadline -/

/-- Pages of a composed buffer of one context (R296). -/
def State.composedPages (s : State) (n : Nat) : Nat :=
  pagesOf ((32 * s.tilesX n * s.height n * sf1000 (s.aget (F.chnFmtChroma n)) + 999) / 1000)

/-- ROW_DEADLINE (R105, R205, R298): at d_j the compositor judges the source rows of row j of frame k of channel n, and the
row begins its way with the candidate entries of its tiles. -/
def State.rowDeadline (s : State) (n k j : Nat) : State :=
  let c := s.chan n
  let known := Nat.beq c.cur.k k || c.past.any (fun f => Nat.beq f.k k)
  let st := s.strips n
  if !Nat.beq (s.leadOf n) n || !s.admitted n || Nat.beq (s.chState n) ChState.shed || s.modeIn [Mode.safe, Mode.recover]
      || !known || !Nat.blt j (s.rows n) || st.any (fun m => (s.row m k j).isSome || (s.runs n && s.released m j && c.slot == some k))
  then s
  else
    let s0 := s.advance (s.deadlineInstant n k j)
    let s1 := if !Nat.beq j 0 then s0 else s0.each st (fun s m =>
      match s.takeBuf Pool.composed m k false false (s.composedPages n) with
      | some t => t
      | none => s)
    let s2 := s1.judgeRow n k j
    let s3 := (List.range st.length).foldl (fun s x =>
      let m := st.getD x n
      let cands := s.candsOf n k j x
      let r : Row := { k := k, j := j, cands := cands, fresh := s.cleanReads n k j, x := s.rowX n k j x, g := s.rowG n m k j }
      (s.updChan m (fun c => { c with rows := c.rows ++ [r] })).markStale (n / 16) cands) s2
    if Nat.beq (j + 1) (s3.rows n) then s3.closeLayers n k else s3
def execRowDeadline (n k j : Nat) (s : State) : Host.Outcome State Fault Refusal := .next (s.rowDeadline (n % 256) k j)

end Sys2Proof.Machine
end

