-- ==== Sys2Proof/Machine/MemoryEvents.lean ====
section
/-!
DEFINITION. Sys2Proof/Machine/MemoryEvents.lean: what the loss of an interleave group and a poisoned read do (R305 to R307,
R463, R471), and the ends of reads and retrainings.
-/

namespace Sys2Proof.Machine

/-! The loss of an interleave group -/

/-- A buffer of pool p that lies in group g. -/
def Buf.lies (b : Buf) (p g : Nat) : Bool := Nat.beq b.pool p && Nat.beq b.grp g

/-- Has channel n a reference buffer in group g? -/
def State.refIn (s : State) (g n : Nat) : Bool := s.bufs.any (fun b => b.lies 2 g && (s.strips n).contains b.own)

/-- A channel that loses a reference buffer: its live path is lost now, and its references restart (R24, R307). In DRAIN it
closes with its safe picture (R358). -/
def State.loseRefs (s : State) (n : Nat) : State :=
  let live := [ChState.running, ChState.closing].any (fun c => Nat.beq c (s.chState n))
  let t := (s.cond live (fun s => s.losePath n Cancel.mode)).wantRestart n
  t.cond (Nat.beq (t.chState n) ChState.closing) (fun s => s.updChan n (fun c => { c with wantSafe := true }))

/-- The rows of a lost composed buffer that no engine has read: their engines will hand replacement markers (R307, R325). -/
def State.loseComposed (s : State) (m k : Nat) : State :=
  s.updChan m (fun c => { c with rows := c.rows.map (fun r =>
    if Nat.beq r.k k then { r with
      lead := if Nat.ble r.lead.st 1 then { r.lead with marker := true } else r.lead
      stby := if Nat.ble r.stby.st 1 then { r.stby with marker := true } else r.stby }
    else r) })

/-- A source loses the buffer of frame `tag`: its rows have no version (R307). A frame that is filling is given up. -/
def State.loseIngest (s : State) (i tag : Nat) : State :=
  s.updSrc i (fun x =>
    if x.hasL && Nat.beq x.lno tag then { x with lRows := [] }
    else if Nat.beq x.fno tag then
      if x.isOpen then { x with isOpen := false, nobuf := true, fRows := [], got := [], nseq := 0, fno := x.fno + 1 }
      else { x with fRows := [] }
    else x)

/-- GROUP_LEAVES_MAP (R471): channel d's failure, for the reason given (1 TRAIN, 2 UE, 3 PLL), takes its group out of the map;
what lay in the group is lost; capacity is lost; without a group the module enters SAFE (R452). -/
def State.loseGroup (s : State) (d reason : Nat) : State :=
  let g := d / 4
  if !Nat.beq (s.get (F.drcGrpStatReason g)) 0 then s
  else
    let s1 := s.failGroup d reason
    let s2 := s1.each ((List.range 256).filter (fun n => s1.admitted n && s1.refIn g n)) State.loseRefs
    let s3 := (s2.bufs.filter (fun b => b.lies 1 g)).foldl (fun s b => s.loseComposed b.own b.tag) s2
    let s4 := (s3.bufs.filter (fun b => b.lies 0 g)).foldl (fun s b => s.loseIngest b.own b.tag) s3
    (s4.cond s4.groupsIn.isEmpty (fun s => s.request Mode.safe 6 6 0)).capacityLoss

/-! Poisoned reads (R463) -/

/-- REFERENCE_POISON (R305): the row of the picture is poisoned. -/
def State.poisonRow (s : State) (m pic row : Nat) : State :=
  let keep (p : Nat × Nat) : Bool := !(Nat.beq p.1 pic && Nat.beq p.2 row)
  (s.updChan m (fun c => { c with poison := (pic, row) :: c.poison.filter keep })).showPoison m

/-- The layer's read of a source row has no version (R205): kind missing, its age one more than before the judgement; the
candidates of the row that is being composed follow. -/
def State.readMissing (s : State) (n k j layer row : Nat) : State :=
  let c := n / 16
  let x := s.lyr c layer
  let y := x.read row
  if !Nat.beq y.frame (k + 1) || Nat.beq y.kind 4 then s
  else
    let z : Read := { y with age := min (y.was.1 + 1) 0xFFFF, lastOk := y.was.2, shown := none, kind := 4, capt := 0 }
    let s1 := s.setLyr c layer { x with
      reads := x.reads.filter (fun y => !Nat.beq y.row row) ++ [z]
      maxAge := max x.maxAge z.age
      nf := if Nat.beq y.kind 1 then x.nf + 1 else x.nf
      miss := true }
    let s2 := s1.cond (Nat.beq y.kind 1 || Nat.beq y.kind 3) (fun s =>
      s.bump (F.ingSrcCntRowMiss (s.aget (F.cmpLyrCtlSrc c layer))) 1)
    (List.range (s2.strips n).length).foldl (fun s i => s.updRow (n + i) k j (fun r =>
      if Nat.beq r.dec 0 && !r.comp then { r with cands := s.candsOf n k j i } else r)) s2

/-- The slice that engine e decodes is lost (R186). -/
def State.poisonSlice (s : State) (e : Nat) : State :=
  match s.running e with
  | some t =>
    if Nat.beq t.typ 1 then
      match (s.src t.own).queue with
      | q :: rest =>
        if Nat.beq q.no t.frame then
          (s.sliceLost t.own (q.au.slices.getD t.row ⟨true, 0, 0⟩).row).updSrc t.own (fun x => { x with
            queue := { q with lost := true } :: rest })
        else s
      | [] => s
    else s
  | none => s

/-- A DRAM helper's source is poisoned: the repaired row is poisoned (R305), a carried row stays absent (R153). -/
def State.poisonCopy (s : State) (e : Nat) : State :=
  match s.running (168 + e) with
  | some t => if Nat.beq t.which 0 then s.release (168 + e) else s.poisonRow t.own t.frame t.row
  | none => s

/-- What the reader of a poisoned block does (R463). The samples of an audio take and the words of a DMA are not state. -/
def State.poisonRead (s : State) (r : Reader) : State :=
  match r with
  | .reference ctx pic row => (s.bump (F.chnRefCntPoison (ctx % 256)) 1).poisonRow (ctx % 256) pic row
  | .composed ctx k j w => s.updSide (ctx % 256) k j (w % 2) (fun d => { d with marker := true })
  | .source n k j layer row => s.readMissing (n % 256) k j (layer % 64) row
  | .decode e => s.poisonSlice (e % 128)
  | .helper e => s.poisonCopy (e % 4)
  | .audio _ => s
  | .replay h => s.bump (F.rplRqCntCrc (h % 4)) 1
  | .dma _ => s

/-- DRAM_READ_COMPLETE (R463): a read completes, corrected or poisoned, and its reader acts on the result. -/
def State.dramRead (s : State) (a : Access) (r : Reader) : State :=
  let x := s.readDone (s.daChannel a.da) a
  if x.2 then x.1.poisonRead r else x.1

def execDramReadComplete (a : Access) (r : Reader) (s : State) : Host.Outcome State Fault Refusal := .next (s.dramRead a r)

/-! Retraining -/

/-- DRAM_RETRAIN_COMPLETE (R467, R469): the channel returns to ACTIVE with its new settings, or fails with its group. Either
ends the shadow of the retraining (R499). -/
def State.retrained (s : State) (d rd wr vrd vwr : Nat) (clean : Bool) : State :=
  if Nat.beq (s.cstate d) CState.retrain then
    let s1 := (s.trainSet d rd wr vrd vwr).endShadow 8 d
    if trainPass rd wr clean then s1.setCstate d CState.active
    else (s1.raise (Src.drcTrain d)).loseGroup d 1
  else s

def execDramRetrainComplete (d rd wr vrd vwr : Nat) (clean : Bool) (s : State) : Host.Outcome State Fault Refusal :=
  .next (s.retrained (d % 32) rd wr vrd vwr clean)

end Sys2Proof.Machine
end

