-- ==== Sys2Proof/Machine/Nvm.lean ====
section
/-!
DEFINITION. Sys2Proof/Machine/Nvm.lean: the Ecotte image and its checks (chapter 22, R523 to R531), the boot count and the
BOOT record (R541, R542), and the update and readout units (R545 to R547). An image is held by its fields and sections
(notes/assumptions/20).
-/

namespace Sys2Proof.Machine

/-! The image -/

/-- The section of type code t with its table index (R525). -/
def imgSection (x : Img) (t : Nat) : Option (Nat × Sect) :=
  ((List.range x.sects.length).zip x.sects).find? (fun p => Nat.beq p.2.typ t)

/-- REGS records of an image. -/
def imgRecords (x : Img) : List (Nat × Word) :=
  match imgSection x 1 with
  | some p => (match p.2.body with
    | .regs l => l
    | _ => [])
  | none => []

/-- The bytes of a section and its table entry, its stored check apart (R529). -/
def sectBytes (x : Sect) : Sect := { x with crc := true }

/-- The bytes of an image before its check block, its stored checks apart (R529). -/
def imgBytes (x : Img) : Img := { x with hdrCrc := true, imgCrc := true, sects := x.sects.map sectBytes }

/-- The header with its section table, without the sections' content (R529). -/
def imgHeader (x : Img) : Img := { imgBytes x with sects := x.sects.map (fun e => { sectBytes e with body := .note 0 }), pad := 0 }

/-- Do two sections overlap? -/
def sectsMeet (a b : Sect) : Bool := Nat.blt a.off (b.off + b.len) && Nat.blt b.off (a.off + a.len)

/-- Does any pair of sections overlap? -/
def overlapping : List Sect → Bool
  | [] => false
  | a :: t => t.any (fun b => sectsMeet a b) || overlapping t

/-- LAYOUT of R528: lengths and offsets, overlaps, reserved fields, the required types. -/
def imgLayoutBad (x : Img) : Bool :=
  let n := x.sects.length
  Nat.blt 0x01000000 x.len || Nat.beq n 0 || Nat.blt 64 n || !Nat.beq (x.cbOff % 4096) 0
    || Nat.blt x.len (x.cbOff + 4 * n + 12)
    || x.sects.any (fun e => Nat.blt x.len (e.off + e.len))
    || overlapping x.sects
    || !x.clear || Nat.ble 8 x.codes
    || x.sects.any (fun e => !e.clear || Nat.blt (if Nat.beq e.typ 8 then 1 else 0) e.flags)
    || [1, 2, 3, 4, 5].any (fun t => !Nat.beq (x.sects.filter (fun e => Nat.beq e.typ t)).length 1)

/-- The img fields that REGS does not set (R527), by register. -/
def notInRegs (a : Nat) : Bool :=
  isInst a (R.selTypeCfg 0) 4 256 || isInst a (R.encId 0) 0x8000 128 || isInst a (R.encUcode 0) 0x8000 128
    || isInst a (R.cmpCoefValid 0) 0x10000 16 || isInst a (R.cmpCoefTaps 0) 0x10000 16
    || isInst a (R.cmpLutValid 0) 0x10000 16 || isInst a (R.cmpLutType 0) 0x10000 16
    || Nat.beq a R.egrMem || Nat.beq a R.selBoot

/-- The img fields of a register that a REGS record sets (R526, R527). -/
def imgFields (a : Nat) : List FSpec :=
  if notInRegs a then []
  else match findReg a with
    | some r => r.fields.filter (fun f => f.img)
    | none => []

/-- The bits of fields. -/
def fieldMask (l : List FSpec) : Word := l.foldl (fun m f => setBitsAt m f.lo f.width (2 ^ f.width - 1)) 0

/-- REGS of R528: does one record break R526 or R527, name a reserved offset, or hold a value that its field does not take? -/
def recordBad (p : Nat × Word) : Bool :=
  let l := imgFields p.1
  Nat.ble 0x02000000 p.1 || l.isEmpty || p.2 &&& ~~~(fieldMask l) != 0
    || l.any (fun f => !f.rng.takes p.2 (bitsAt p.2 f.lo f.width))

/-- Every register that R527 wants a record for. -/
def recordsNeeded : List Nat :=
  ([rowsSys, rowsSel, rowsBob, rowsClk, rowsTim, rowsNvm, rowsHst, rowsCkv, rowsAud, rowsDrc, rowsLnk, rowsIng, rowsDec,
    rowsCmp, rowsEnc, rowsChn, rowsEgr, rowsRpl].flatMap id).flatMap (fun r =>
      if r.fields.any (fun f => f.img) then
        ((List.range r.dim1.2).flatMap (fun i => (List.range r.dim2.2).map (fun j =>
          r.base + i * r.dim1.1 + j * r.dim2.1))).filter (fun a => !notInRegs a)
      else [])

/-- A field as the REGS records leave it. -/
def imgField (x : Img) (f : Fld) : Nat :=
  match ((imgRecords x).reverse.find? (fun p => Nat.beq p.1 f.addr)) with
  | some p => bitsAt p.2 f.lo f.width
  | none => 0

/-- The channels that the image configures: path A is enabled, as in R360 (DEDUCED, notes/assumptions/21). -/
def imgConfigured (x : Img) : List Nat := (List.range 256).filter (fun n => Nat.beq (imgField x (F.egrPathCfgEn n 0)) 1)

/-- The SAFE sections with their table indices. -/
def imgSafes (x : Img) : List (Nat × Sect) := ((List.range x.sects.length).zip x.sects).filter (fun p => Nat.beq p.2.typ 8)

/-- SAFE of R528: the index of the first failing section, 255 where none fails by itself. -/
def imgSafeBad (x : Img) : Option Nat :=
  match (imgSafes x).find? (fun p => !(imgConfigured x).contains p.2.inst) with
  | some p => some p.1
  | none =>
    if (imgConfigured x).any (fun n => !(imgSafes x).any (fun p => Nat.beq p.2.inst n))
        || Nat.blt 0x01800000 ((imgSafes x).map (fun p => p.2.len)).sum then some 255
    else none

/-- The first failing check of R528 with its section (255 none), where a check-value failure that `hdr`, `sec` or `img`
forgives does not fail (R529). -/
def imgCheck (x : Img) (code rom : Nat) (hdr : Bool) (sec : Nat → Bool) (img : Bool) : Nat × Nat :=
  let bad := ((List.range x.sects.length).zip x.sects).find? (fun p => !p.2.crc && !sec p.1)
  let regs := match imgSection x 1 with
    | some p => p.1
    | none => 255
  if !x.magic then (1, 255)
  else if !x.hdrCrc && !hdr then (2, 255)
  else if !Nat.testBit x.codes code || Nat.blt rom x.romMin then (3, 255)
  else if imgLayoutBad x then (4, 255)
  else match bad with
    | some p => (5, p.1)
    | none =>
      if !x.imgCrc && !img then (6, 255)
      else if (imgRecords x).any recordBad then (7, regs)
      else if recordsNeeded.any (fun a => !(imgRecords x).any (fun p => Nat.beq p.1 a)) then (8, regs)
      else match imgSafeBad x with
        | some p => (9, p)
        | none => (0, 255)

/-- The image in slot k. -/
def State.image (s : State) (k : Nat) : Option Img := Tab.get none (s.nvm.slots.map (fun p => (p.1, some p.2))) k

/-- R528 on one slot by itself. -/
def State.checkAlone (s : State) (x : Img) : Nat × Nat :=
  imgCheck x (s.get F.sysIdCode) (s.get F.nvmIdRomVer) false (fun _ => false) false

/-- R528 and R529 on slot k, beside the other slot: FAIL, SECTION, DAMAGE. -/
def State.checkSlot (s : State) (k : Nat) : Nat × Nat × Bool :=
  match s.image k, s.image (1 - k) with
  | none, _ => (1, 255, false)
  | some x, o =>
    let a := s.checkAlone x
    match o with
    | some y =>
      if Nat.beq a.1 0 || !Nat.beq (s.checkAlone y).1 0 then (a.1, a.2, false)
      else
        let same (i : Nat) : Bool := match x.sects[i]?, y.sects[i]? with
          | some p, some q => p.typ == q.typ && p.inst == q.inst && p.len == q.len && p.body == q.body
          | _, _ => false
        let b := imgCheck x (s.get F.sysIdCode) (s.get F.nvmIdRomVer) (imgHeader x == imgHeader y) same (imgBytes x == imgBytes y)
        let first := (List.range x.sects.length).find? (fun i => (x.sects[i]?).any (fun p => !p.crc))
        if Nat.beq b.1 0 then (0, first.getD 255, true) else (a.1, a.2, false)
    | none => (a.1, a.2, false)

/-- The check of slot k is shown (R528, R529), with its event where LOAD makes it; a slot that failed while
the LOAD before applied it is not valid (R532). -/
def State.showSlot (s : State) (k : Nat) (event : Bool) : State :=
  let c := s.checkSlot k
  let ok := Nat.beq c.1 0 && !s.nvm.bad.contains k
  let x := s.image k
  let s1 := ((((s.flag (F.nvmImgStatValid k) ok).flag (F.nvmImgStatDamage k) c.2.2).put (F.nvmImgStatFail k)
    (if Nat.beq c.1 0 && !ok then 5 else c.1)).put (F.nvmImgStatSection k) c.2.1)
  let s2 := (s1.put (F.nvmImgGenGen k) (match x with | some y => y.gen | none => 0)).put (F.nvmImgLenLen k)
    (match x with | some y => y.len | none => 0)
  s2.cond event (fun s => s.stateEv 8 1 k ((s.word (R.nvmImgStat k)).toNat % 2 ^ 16))

/-- The slot that LOAD selects (R530): the valid image with the higher generation, A on equal ones. -/
def State.selectSlot (s : State) : Option Nat :=
  let ok (k : Nat) : Bool := s.is (F.nvmImgStatValid k)
  if ok 0 && ok 1 then (if Nat.blt (s.get (F.nvmImgGenGen 0)) (s.get (F.nvmImgGenGen 1)) then some 1 else some 0)
  else if ok 0 then some 0
  else if ok 1 then some 1
  else none

/-! The journal at LOAD -/

/-- The PAGE record with the highest serial (R542): its serial and boot count. -/
def State.lastPage (s : State) : Option (Nat × Nat) :=
  (s.arb.journal.map (fun p => p.2)).foldl (fun b r =>
    if Nat.beq (bitsAt (r.getD 1 0) 16 8) 8 then
      let serial := (r.getD 4 0).toNat + (r.getD 5 0).toNat * 2 ^ 32
      match b with
      | some x => if Nat.blt x.1 serial then some (serial, (r.getD 2 0).toNat) else b
      | none => some (serial, (r.getD 2 0).toNat)
    else b) none

/-- The journal is found at entry to LOAD (R542): at the first one since power-on the boot count is the last page's plus 1. -/
def State.scanJournal (s : State) : State :=
  let s1 := if s.sys.booted then s
    else
      let s0 : State := { s with sys := { s.sys with booted := true } }
      match s.lastPage with
      | some p => ({ s0 with arb := { s0.arb with jpage := p.1 } } : State).put F.selBoot (p.2 + 1)
      | none => ({ s0 with arb := { s0.arb with jidx := 0, jpage := 0 } } : State).put F.selBoot 1
  s1.put F.nvmJrnHeadIdx s1.arb.jidx

/-- The BOOT record (R541, R542); bytes 0 to 5 are a free value. -/
def State.bootRecord (s : State) (slot : Nat) (first : Bool) : State :=
  let f := s.fresh
  let t := f.2
  let flags := (if t.is (F.nvmImgStatDamage 0) then 1 else 0) + (if t.is (F.nvmImgStatDamage 1) then 2 else 0)
    + (if first then 4 else 0)
  let r := recordWords (f.1 % 2 ^ 48) 5 0 0 0 0 (slot + flags * 2 ^ 8) (t.get (F.nvmImgGenGen slot)) t.now
  t.journalPush (r.set 2 (BitVec.ofNat 32 (t.get F.selBoot)))

/-! The update unit (R545, R546) -/

/-- An update ends with its result (R545), its event and the host cause. -/
def State.updateDone (s : State) (result : Nat) : State :=
  let s1 := ((s.put F.nvmUpdStatUstate 3).put F.nvmUpdStatResult result).flag F.nvmUpdCtlGo false
  (s1.stateEv 8 3 0 (result + s1.get F.nvmUpdCtlSlot * 2 ^ 4)).irqAll 6

/-- The update unit works: WRITING or VERIFYING. -/
def State.updating (s : State) : Bool := Nat.beq (s.get F.nvmUpdStatUstate) 1 || Nat.beq (s.get F.nvmUpdStatUstate) 2

/-- ABORT: the update ends; while it is WRITING the slot holds no valid magic. -/
def State.updateAbort (s : State) : State := if s.updating then s.updateDone 8 else s

/-- GO: the checks in the order of the result table, then the slot's magic is cleared and writing starts. -/
def State.updateGo (s : State) : State :=
  let k := s.get F.nvmUpdCtlSlot
  let n := s.get F.nvmUpdLenLen
  let s1 := s.put F.nvmUpdStatDone64k 0
  if !Nat.beq s.mode Mode.service then s1.updateDone 2
  else if Nat.beq (s.get F.nvmStatLstate) 3 && Nat.beq (s.get F.nvmStatLoaded) k then s1.updateDone 3
  else if !Nat.beq (n % 4096) 0 || Nat.blt n 4096 || Nat.blt 0x01000000 n then s1.updateDone 4
  else
    let s2 := (((s1.put F.nvmUpdStatUstate 1).put F.nvmUpdStatResult 0).flag F.nvmUpdCtlGo true)
    { s2 with nvm := { s2.nvm with slots := Tab.del s2.nvm.slots k } }

/-- A write of NVM_UPD_CTL (R546): during an update only ABORT acts. -/
def State.writeUpdCtl (s : State) (v : Word) : State :=
  let abort := Nat.beq (bitsAt v 1 1) 1
  if s.updating then (if abort then s.updateAbort else s)
  else
    let s1 := s.store R.nvmUpdCtl v 0x1C
    if Nat.beq (bitsAt v 0 1) 1 && !abort then s1.updateGo else s1

/-- A write of another update register (R546). -/
def State.writeUpd (s : State) (a : Nat) (v : Word) : State := if s.updating then s else s.store a v allBits

/-- NVM_UPDATE_GO, NVM_UPDATE_ABORT: port h writes NVM_UPD_CTL. -/
def execNvmUpdateGo (h : Nat) (v : Word) (s : State) : Host.Outcome State Fault Refusal :=
  .next (s.takeWrite h R.nvmUpdCtl (setBitsAt v 0 1 1) false (fun s => s.writeUpdCtl (setBitsAt v 0 1 1)))
def execNvmUpdateAbort (h : Nat) (v : Word) (s : State) : Host.Outcome State Fault Refusal :=
  .next (s.takeWrite h R.nvmUpdCtl (setBitsAt v 1 1 1) false (fun s => s.writeUpdCtl (setBitsAt v 1 1 1)))

/-- NVM_UPDATE_WRITE_DONE (R545): `x` is the image that stands in the slot after `units` 64 KiB were written; none where a
host memory read failed, which leaves no valid magic. -/
def State.updateWritten (s : State) (x : Option Img) (units : Nat) : State :=
  if !Nat.beq (s.get F.nvmUpdStatUstate) 1 then s
  else
    let s1 := s.put F.nvmUpdStatDone64k (min 256 units)
    match x with
    | none => s1.updateDone 5
    | some y =>
      let k := s1.get F.nvmUpdCtlSlot
      let s2 := s1.put F.nvmUpdStatUstate 2
      { s2 with nvm := { s2.nvm with slots := Tab.ins s2.nvm.slots k y, bad := s2.nvm.bad.filter (fun b => !Nat.beq b k) } }
def execNvmUpdateWriteDone (x : Option Img) (units : Nat) (s : State) : Host.Outcome State Fault Refusal :=
  .next (s.updateWritten x units)

/-- NVM_UPDATE_VERIFY_DONE (R545): the read-back matches the data or not; then R528 decides. -/
def State.updateVerified (s : State) (same : Bool) : State :=
  if !Nat.beq (s.get F.nvmUpdStatUstate) 2 then s
  else if !same then (s.raise Src.nvmWrite).updateDone 6
  else
    let t := s.showSlot (s.get F.nvmUpdCtlSlot) false
    t.updateDone (if t.is (F.nvmImgStatValid (s.get F.nvmUpdCtlSlot)) then 1 else 7)
def execNvmUpdateVerifyDone (same : Bool) (s : State) : Host.Outcome State Fault Refusal := .next (s.updateVerified same)

/-! The readout unit (R547) -/

/-- A readout ends DONE or HALTED, with its event and the host cause. -/
def State.readoutEnd (s : State) (state result : Nat) : State :=
  ((((s.put F.nvmRdStatRstate state).put F.nvmRdStatResult result).flag F.nvmRdCtlGo false).stateEv 8 4 0 result).irqAll 6

def State.reading (s : State) : Bool := Nat.beq (s.get F.nvmRdStatRstate) 1

def State.readoutAbort (s : State) : State := if s.reading then s.readoutEnd 3 5 else s

/-- GO: MODE outside SERVICE, RANGE for a range that is not whole records or passes 64 MiB, else BUSY. -/
def State.readoutGo (s : State) : State :=
  let o := s.get F.nvmRdSrcOffset
  let n := s.get F.nvmRdLenLen
  if !Nat.beq s.mode Mode.service then s.readoutEnd 2 2
  else if !Nat.beq (o % 32) 0 || !Nat.beq (n % 32) 0 || Nat.blt 0x04000000 (o + n) then s.readoutEnd 2 3
  else ((s.put F.nvmRdStatRstate 1).put F.nvmRdStatResult 0).flag F.nvmRdCtlGo true

/-- A write of NVM_RD_CTL: ABORT wins over GO; GO of a BUSY unit has no effect. -/
def State.writeRdCtl (s : State) (v : Word) : State :=
  if Nat.beq (bitsAt v 1 1) 1 then s.readoutAbort
  else if s.reading then s
  else
    let s1 := s.store R.nvmRdCtl v 0xC
    if Nat.beq (bitsAt v 0 1) 1 then s1.readoutGo else s1

/-- NVM_READOUT_GO, NVM_READOUT_ABORT: port h writes NVM_RD_CTL. -/
def execNvmReadoutGo (h : Nat) (v : Word) (s : State) : Host.Outcome State Fault Refusal :=
  .next (s.takeWrite h R.nvmRdCtl (setBitsAt v 0 1 1) false (fun s => s.writeRdCtl (setBitsAt v 0 1 1)))
def execNvmReadoutAbort (h : Nat) (v : Word) (s : State) : Host.Outcome State Fault Refusal :=
  .next (s.takeWrite h R.nvmRdCtl (setBitsAt v 1 1 1) false (fun s => s.writeRdCtl (setBitsAt v 1 1 1)))

/-- NVM_READOUT_DONE (R547): the bytes are written to host memory, or a write failed; a readout waits while the update unit is
WRITING. -/
def State.readoutDone (s : State) (good : Bool) : State :=
  if !s.reading || Nat.beq (s.get F.nvmUpdStatUstate) 1 then s
  else if good then s.readoutEnd 2 1 else s.readoutEnd 3 4
def execNvmReadoutDone (good : Bool) (s : State) : Host.Outcome State Fault Refusal := .next (s.readoutDone good)

end Sys2Proof.Machine
end

