-- ==== Sys2Proof/Machine/Time.lean ====
section
/-!
DEFINITION. Sys2Proof/Machine/Time.lean: network time and the two time domains (chapter 04, R115 to R140).
-/

namespace Sys2Proof.Machine

/-- Codes of TSTATE and DSTATE (chapter 04). -/
def TState.freerun : Nat := 0
def TState.locked : Nat := 1
def TState.slewing : Nat := 2
def TState.holdover : Nat := 3
def DState.disabled : Nat := 0
def DState.listening : Nat := 1
def DState.uncalibrated : Nat := 2
def DState.qualified : Nat := 3

/-- An interval of 2^l seconds in ns. -/
def logNs (l : Int) : Nat := if 0 ≤ l then 1000000000 * 2 ^ l.toNat else 1000000000 / 2 ^ (-l).toNat

/-- Sync, Announce and Delay_Req intervals of a domain (R121). -/
def Dom.syncNs (x : Dom) : Nat := logNs x.logSync
def Dom.annNs (x : Dom) : Nat := logNs x.logAnn
def Dom.dreqNs (x : Dom) : Nat :=
  match x.logDreq with
  | some l => logNs (max (-7) (min 5 l))
  | none => x.syncNs

/-- State of domain d; the selected domain; the other one. -/
def State.dstate (s : State) (d : Nat) : Nat := s.get (F.timDomStatDstate d)
def State.qualified (s : State) (d : Nat) : Bool := Nat.beq (s.dstate d) DState.qualified
def State.selected (s : State) : Nat := s.get F.timStatSelected
def State.tstate (s : State) : Nat := s.get F.timStatTstate

/-- Change TSTATE, with its event (R138); entering and leaving HOLDOVER keep HO_SEC and HOLDOVER_LONG (R130, R139). -/
def State.setTstate (s : State) (t : Nat) : State :=
  if Nat.beq s.tstate t then s
  else
    let leave := Nat.beq s.tstate TState.holdover
    let ho := s.hoSec
    let s1 := s.moveTo F.timStatTstate t 7 3 0 4 0
    let s2 := s1.cond leave (fun s => ({ s with tim := { s.tim with hoLast := ho } }.disarm Timer.holdoverLong).unraise
      Src.holdoverLong)
    s2.cond (Nat.beq t TState.holdover) (fun s =>
      { s with tim := { s.tim with hoSince := s.now } }.arm Timer.holdoverLong (3600 * 1000000000))

/-- FAR follows the remaining slew (R120); SLEW_FAR is timed from its setting (R139). -/
def State.setFar (s : State) : State :=
  let far := Nat.blt 1000000 s.tim.rem.natAbs
  if far == s.is F.timStatFar then s
  else if far then (s.flag F.timStatFar true).arm Timer.slewFar (60 * 1000000000)
  else ((s.flag F.timStatFar false).disarm Timer.slewFar).unraise Src.slewFar

/-- A step of at most 10 ns may be applied now: none has been in the last 1 s (R117). -/
def State.mayStep (s : State) : Bool :=
  Nat.beq s.tim.lastStep 0 || Nat.ble (s.tim.lastStep + 1000000000) (s.now + 1)

/-- Step off by the remaining slew (at most 10 ns, R117, R119, R127). -/
def State.lastStep (s : State) : State :=
  if s.tim.rem = 0 then s
  else { s with tim := { s.tim with off := s.tim.off + s.tim.rem, rem := 0, slewAcc := 0, lastStep := s.now + 1 } }

/-- The slew target moves to x from the LTC (R119, R123, R127): off steps by it when it is at most 10 ns, `step` holds
and no step has been applied in the last 1 s; LOCKED within ±10 ns (`near`), else SLEWING. -/
def State.retargetTo (s : State) (x : Int) (near step : Bool) : State :=
  let s1 : State := { s with tim := { s.tim with rem := x } }
  let s2 := s1.cond (near && step && s1.mayStep) State.lastStep
  (s2.setTstate (if near then TState.locked else TState.slewing)).setFar

/-- The slew target moves to x, near where x lies within ±10 ns (R119, R123). -/
def State.retarget (s : State) (x : Int) (step : Bool) : State := s.retargetTo x (Nat.ble x.natAbs 10) step

/-- The last accepted x of a domain, as TIM_DOM_OFS shows it. -/
def State.domOfs (s : State) (d : Nat) : Int := s.getInt (F.timDomOfsOfs d)

/-- The offset of a domain's time from the LTC, by which off steps or slews (R118, R119, R127): TIM_DOM_OFS, and at an end of
that saturating register the whole of the last accepted x (assumption 91, DEDUCED). -/
def State.offsetOf (s : State) (d : Nat) : Int :=
  let x := s.domOfs d
  match (s.dom d).lastX with
  | some l => if decide (-(2 ^ 31 : Int) < x) && decide (x < 2 ^ 31 - 1) then x else l.1 - s.tim.off
  | none => x

/-- The mean of a domain's frequency estimates over the last 64 s in which it was QUALIFIED (R129). -/
def Dom.mean (x : Dom) : Int :=
  if x.fHist.isEmpty then x.fEst
  else (x.fHist.foldl (fun (acc : Int) e => acc + e.2) 0) / (x.fHist.length : Int)

/-- The frequency source and FHOLD (R126, R129): with FSRC = PTP the selected domain, with REF_FIRST a qualified REF_IN
and otherwise the selected domain; with none of them qualified the cleaner holds. -/
def State.refreshFreq (s : State) : State :=
  let ptp := (Nat.beq s.tstate TState.locked || Nat.beq s.tstate TState.slewing) && s.qualified s.selected
  let ref := Nat.beq (s.get F.timRefRstate) 2
  let hold := match s.get F.timCtlFsrc with
    | 0 => !ptp
    | 1 => !ptp && !ref
    | _ => false
  let s1 := s.cond (hold && !s.is F.timStatFhold && s.tim.everQual) (fun s =>
    { s with tim := { s.tim with steer := (s.dom s.selected).mean } })
  s1.flag F.timStatFhold hold

/-- The named domain is selected, with the event of a changed selection (R126, R138). -/
def State.setSelected (s : State) (d : Nat) : State :=
  if Nat.beq s.selected d then s else (s.put F.timStatSelected d).stateEv 7 2 0 d

/-- Switch to domain d (R127), or select it from HOLDOVER (R119). -/
def State.switchTo (s : State) (d : Nat) : State := (s.setSelected d).retargetTo (s.offsetOf d) (Nat.ble (s.domOfs d).natAbs 10) true

/-- Selection after domain d moved from state `old` to its present one (R126). -/
def State.select (s : State) (d old : Nat) : State :=
  let o := 1 - d
  let primary := s.get F.timCtlPrimary
  let tick := s.now / 1000 + 1
  let s1 :=
    if s.qualified d && !Nat.beq old DState.qualified then
      let s := { s with tim := { s.tim with everQual := true } }.flag F.timStatArmReady true
      if Nat.beq s.tstate TState.freerun then
        if s.tim.acq && !(Nat.beq s.tim.selTick tick && Nat.beq d primary) then s
        else (s.setSelected d).cond true (fun s => { s with tim := { s.tim with acq := true, selTick := tick } })
      else if Nat.beq s.tstate TState.holdover then
        (s.switchTo d).cond true (fun s => { s with tim := { s.tim with selTick := tick } })
      else if Nat.beq d s.selected then s
      else if (Nat.beq s.tim.selTick tick || s.is F.timCtlRevert) && Nat.beq d primary then s.switchTo d
      else s
    else if Nat.beq old DState.qualified && !s.qualified d && Nat.beq d s.selected then
      if Nat.beq s.tstate TState.freerun then
        if s.qualified o then s.setSelected o else { s with tim := { s.tim with acq := false } }
      else if s.qualified o then s.switchTo o
      else s.setTstate TState.holdover
    else s
  s1.refreshFreq

/-- A domain's timers stop. -/
def State.stopDom (s : State) (d : Nat) : State :=
  (((s.disarm (Timer.domQual d)).disarm (Timer.domAnnounce d)).disarm (Timer.domSync d)).disarm (Timer.domDreq d)

/-- The qualification count of domain d starts (R125), where its master's clockClass allows it (R124). -/
def State.startQual (s : State) (d : Nat) : State :=
  let s1 := s.setDom d { s.dom d with qStart := s.now, qNext := 0 }
  if Nat.ble (s.get (F.timDomStatClass d)) (s.get (F.timDomQualClassMax d)) then
    s1.arm (Timer.domQual d) (10 * 1000000000)
  else s1.disarm (Timer.domQual d)

/-- Domain d enters DISABLED (R124). -/
def State.domDisable (s : State) (d : Nat) : State :=
  let old := s.dstate d
  let s1 := (s.stopDom d).setDom d {}
  (s1.moveTo (F.timDomStatDstate d) DState.disabled 7 1 d 4 0).select d old

/-- Domain d enters LISTENING (R124): no master is selected. -/
def State.domListen (s : State) (d : Nat) : State :=
  let old := s.dstate d
  let s1 := (s.stopDom d).setDom d { s.dom d with foreign := [], master := none, lastX := none, sync := none, t3 := none }
  (s1.moveTo (F.timDomStatDstate d) DState.listening 7 1 d 4 0).select d old

/-- Domain d enters, or enters again, UNCALIBRATED (R124, R125): the count restarts and Sync is awaited. -/
def State.domUncal (s : State) (d : Nat) : State :=
  let old := s.dstate d
  let s1 := s.moveTo (F.timDomStatDstate d) DState.uncalibrated 7 1 d 4 0
  let s2 := (s1.startQual d).arm (Timer.domSync d) (3 * (s.dom d).syncNs)
  (s2.cond (!s.armed (Timer.domDreq d)) (fun s => s.arm (Timer.domDreq d) (s.dom d).dreqNs)).select d old

/-- Default data set comparison of IEEE 1588-2019, as a list compared from its head. PRESUMED, notes/assumptions/4. -/
def annKey (a : Announce) : List Nat :=
  [a.prio1, a.cls, a.acc, a.var, a.prio2, a.gm, a.steps, a.port]

def lexLt : List Nat → List Nat → Bool
  | x :: xs, y :: ys => Nat.blt x y || (Nat.beq x y && lexLt xs ys)
  | _, _ => false

/-- Is data set a better than b? One grandmaster heard twice is compared by steps and sender only. -/
def annBetter (a b : Announce) : Bool :=
  if Nat.beq a.gm b.gm then lexLt [a.steps, a.port] [b.steps, b.port] else lexLt (annKey a) (annKey b)

/-- The best qualified foreign master (R121): at least 2 Announce messages within 4 intervals. -/
def bestForeign (l : List Foreign) : Option Foreign :=
  (l.filter (fun f => Nat.ble 2 f.count)).foldl
    (fun best f => match best with
      | none => some f
      | some b => if annBetter f.ann b.ann then some f else some b) none

/-- The list of foreign masters after an Announce at instant t (R121): at most 8. -/
def hearForeign (l : List Foreign) (a : Announce) (t : Nat) : List Foreign :=
  if l.any (fun f => Nat.beq f.ann.port a.port) then
    l.map (fun f => if Nat.beq f.ann.port a.port then
      ⟨a, if Nat.ble (t - f.last) (4 * logNs a.logInt) then f.count + 1 else 1, t⟩ else f)
  else if Nat.blt l.length 8 then l ++ [⟨a, 1, t⟩]
  else l

/-- PTP_DOMAIN_ENABLE and PTP_DOMAIN_DISABLE (R124): TIM_DOM_CFG.EN moves the domain out of and into DISABLED. -/
def State.domCfgEffect (s : State) (d : Nat) : State :=
  if s.is (F.timDomCfgEn d) then (if Nat.beq (s.dstate d) DState.disabled then s.domListen d else s)
  else if Nat.beq (s.dstate d) DState.disabled then s else s.domDisable d

/-- A write of TIM_DOM_CFG of domain d. -/
def State.writeDomCfg (s : State) (d : Nat) (v : Word) : State :=
  (s.store (R.timDomCfg d) v allBits).domCfgEffect d

/-- The reference state follows FSRC (TIM_REF.RSTATE): UNUSED unless REF_FIRST; a used one starts QUALIFYING (R128). -/
def State.refUse (s : State) : State :=
  if Nat.beq (s.get F.timCtlFsrc) 1 then
    if Nat.beq (s.get F.timRefRstate) 0 then
      { (s.moveTo F.timRefRstate 1 7 4 0 4 0).arm Timer.refQual (10 * 1000000000) with
        tim := { s.tim with refSince := s.now, refBad := 0 } }
    else s
  else (s.moveTo F.timRefRstate 0 7 4 0 4 0).disarm Timer.refQual

/-- A write of TIM_CTL (R126): its rw fields, then FORCE, which switches to the other domain where that is QUALIFIED and
counts FORCE_NQ where it is not. -/
def State.writeTimCtl (s : State) (v : Word) : State :=
  let s1 := ((s.store R.timCtl v allBits).refUse).refreshFreq
  if Nat.beq (bitsAt v 2 1) 1 then
    let o := 1 - s1.selected
    if s1.qualified o then (s1.switchTo o).refreshFreq else s1.sat F.timStatForceNq 1
  else s1

/-- TIM_FORCE: port h writes TIM_CTL with FORCE = 1 (R126). -/
def execTimForce (h : Nat) (v : Word) (s : State) : Host.Outcome State Fault Refusal :=
  .next (s.takeWrite h R.timCtl (setBitsAt v 2 1 1) false (fun s => s.writeTimCtl (setBitsAt v 2 1 1)))

/-- PTP_DOMAIN_ENABLE: port h writes TIM_DOM_CFG with EN = 1 (R124). -/
def execPtpDomainEnable (h d : Nat) (v : Word) (s : State) : Host.Outcome State Fault Refusal :=
  .next (s.takeWrite h (R.timDomCfg (d % 2)) (setBitsAt v 29 1 1) false
    (fun s => s.writeDomCfg (d % 2) (setBitsAt v 29 1 1)))

/-- PTP_DOMAIN_DISABLE: port h writes TIM_DOM_CFG with EN = 0 (R124). -/
def execPtpDomainDisable (h d : Nat) (v : Word) (s : State) : Host.Outcome State Fault Refusal :=
  .next (s.takeWrite h (R.timDomCfg (d % 2)) (setBitsAt v 29 1 0) false
    (fun s => s.writeDomCfg (d % 2) (setBitsAt v 29 1 0)))

/-- Does the domain track a master: UNCALIBRATED or QUALIFIED? -/
def State.tracking (s : State) (d : Nat) : Bool := Nat.ble DState.uncalibrated (s.dstate d)

/-- An accepted Sync counts towards the qualification (R124): a Sync interval of the count without one restarts it. -/
def State.countSync (s : State) (d : Nat) : State :=
  let x := s.dom d
  let w := (s.now - x.qStart) / (max 1 x.syncNs)
  if Nat.blt x.qNext w then (s.startQual d).setDom d { (s.startQual d).dom d with qNext := 1 }
  else if Nat.beq x.qNext w then s.setDom d { x with qNext := w + 1 }
  else s

/-- PTP_SYNC_RECEIVED (R123): t1 is the Sync's departure in domain time, corr its correction, t2 the lane's stamp on
the system counter, which time reaches. The latency is subtracted and the asymmetry applied; the tracker of R123 takes x or
discards it. -/
def State.ptpSync (s00 : State) (d : Nat) (port : Nat) (t1 corr : Int) (t2 : Nat) (logInt : Int) : State :=
  let x0 := s00.dom d
  if !s00.tracking d || !(x0.master == some port) || decide (logInt < -7) || decide (0 < logInt) then s00
  else
    let s := s00.advance t2
    let t2c : Int := (t2 : Int) - (s.get (F.timDomLatIngLat d) : Int)
    let t1c := t1 + corr
    let x := t1c + s.getInt (F.timDomAsymAsym d) + x0.mpd - (t2c + s.tim.off)
    let dt := s.now - (match x0.lastX with | some l => l.2 | none => s.now)
    let pred : Int := match x0.lastX with
      | some l => l.1 - s.tim.off + x0.fEst * (dt : Int) / 1000000000
      | none => x
    let s0 := s.setDom d { x0 with sync := some (t1c, t2c), logSync := logInt }
    if Nat.blt (s.get (F.timDomQualOutl d)) (x - pred).natAbs then
      let s1 := (s0.setDom d { s0.dom d with outliers := x0.outliers + 1 }).sat (F.timDomCntOutlier d) 1
      if Nat.ble 3 x0.outliers then (s1.setDom d { s1.dom d with outliers := 0, lastX := none }).domUncal d else s1
    else
      let f := x0.fEst + Config.stepFreq x pred dt
      let hist := if s.qualified d then
          (x0.fHist.filter (fun e => Nat.blt s.now (e.1 + 64 * 1000000000))) ++ [(s.now, f)]
        else x0.fHist
      let s1 := s0.setDom d { s0.dom d with outliers := 0, lastX := some (x + s.tim.off, s.now), fEst := f, fHist := hist }
      let s2 := ((s1.put (F.timDomOfsOfs d) (unsignedOf 32 (clampSigned 32 x))).sat (F.timDomCntSync d) 1).arm
        (Timer.domSync d) (3 * logNs logInt)
      let s3 := s2.cond (Nat.beq (s2.dstate d) DState.uncalibrated) (fun s => s.countSync d)
      let lockedOn := Nat.beq d s3.selected && (Nat.beq s3.tstate TState.locked || Nat.beq s3.tstate TState.slewing)
      let s4 := s3.cond lockedOn (fun s => s.retarget x (Nat.beq s.tstate TState.slewing))
      let steers := lockedOn && (Nat.beq (s4.get F.timCtlFsrc) 0
        || (Nat.beq (s4.get F.timCtlFsrc) 1 && !Nat.beq (s4.get F.timRefRstate) 2))
      s4.cond steers (fun s => { s with tim := { s.tim with steer := f } })

def execPtpSyncReceived (d port : Nat) (t1 corr : Int) (t2 : Nat) (logInt : Int) (s : State) :
    Host.Outcome State Fault Refusal :=
  .next (s.ptpSync (d % 2) port t1 corr t2 logInt)

/-- PTP_ANNOUNCE_RECEIVED (R121, R124): the best-master comparison; a first master takes LISTENING to UNCALIBRATED; a
changed grandmaster or a clockClass risen above CLASS_MAX starts the qualification again. -/
def State.ptpAnnounce (s : State) (d : Nat) (a : Announce) : State :=
  let x0 := s.dom d
  if Nat.beq (s.dstate d) DState.disabled || decide (a.logInt < -3) || decide (1 < a.logInt) then s
  else
    let l := hearForeign x0.foreign a s.now
    match bestForeign l with
    | none => s.setDom d { x0 with foreign := l }
    | some b =>
      let gmOld := s.get64 (R.timDomGmLo d) (R.timDomGmHi d)
      let clsOld := s.get (F.timDomStatClass d)
      let mx := s.get (F.timDomQualClassMax d)
      let s1 := s.setDom d { x0 with foreign := l, master := some b.ann.port, logAnn := b.ann.logInt }
      let s2 := ((s1.put (F.timDomStatClass d) b.ann.cls).put (F.timDomStatUtcOff d) (unsignedOf 16 b.ann.utc)).put64
        (R.timDomGmLo d) (R.timDomGmHi d) b.ann.gm
      let s3 := s2.cond (Nat.beq b.ann.port a.port) (fun s => s.arm (Timer.domAnnounce d) (3 * logNs b.ann.logInt))
      if Nat.beq (s.dstate d) DState.listening then s3.domUncal d
      else if !Nat.beq gmOld b.ann.gm || (Nat.ble clsOld mx && Nat.blt mx b.ann.cls) then s3.domUncal d
      else if Nat.beq (s.dstate d) DState.uncalibrated && Nat.blt mx clsOld && Nat.ble b.ann.cls mx then s3.startQual d
      else s3

def execPtpAnnounceReceived (d : Nat) (a : Announce) (s : State) : Host.Outcome State Fault Refusal :=
  .next (s.ptpAnnounce (d % 2) a)

/-- PTP_DELAY_RESP_RECEIVED (R123): t4 is the Delay_Req's arrival in domain time, corr the correction; the mean path
delay moves by a sixteenth of the difference. -/
def State.ptpDelayResp (s : State) (d : Nat) (t4 corr : Int) (logInt : Int) : State :=
  let x := s.dom d
  match x.sync, x.t3 with
  | some (t1, t2), some t3 =>
    if s.tracking d then
      let raw := ((t2 - t1) + (t4 - corr - t3)) / 2
      let mpd := x.mpd + (raw - x.mpd) / 16
      (s.setDom d { x with mpd := mpd, t3 := none, logDreq := some logInt }).put (F.timDomMpdMpd d)
        (unsignedOf 32 (clampSigned 32 mpd))
    else s
  | _, _ => s

def execPtpDelayRespReceived (d : Nat) (t4 corr logInt : Int) (s : State) : Host.Outcome State Fault Refusal :=
  .next (s.ptpDelayResp (d % 2) t4 corr logInt)

/-- PTP_DELAY_REQ_SEND (R121, R123): the Delay_Req interval of a domain that tracks a master elapses; t3 is the stamp
plus EGR_LAT. -/
def State.ptpDelayReq (s : State) (d : Nat) : State :=
  match s.fire (Timer.domDreq d) with
  | some t =>
    if t.tracking d then
      let x := t.dom d
      (t.setDom d { x with t3 := some ((t.now : Int) + (t.get (F.timDomLatEgrLat d) : Int)) }).arm (Timer.domDreq d) x.dreqNs
    else t
  | none => s

def execPtpDelayReqSend (d : Nat) (s : State) : Host.Outcome State Fault Refusal := .next (s.ptpDelayReq (d % 2))

/-- PTP_QUALIFICATION_COMPLETE (R124): 10 s without a disqualifying event, with a Sync in every Sync interval, make an
UNCALIBRATED domain QUALIFIED; selection follows (R126). -/
def State.ptpQualified (s : State) (d : Nat) : State :=
  match s.fire (Timer.domQual d) with
  | some t =>
    let x := t.dom d
    if Nat.beq (t.dstate d) DState.uncalibrated then
      if Nat.ble (10000000000 / max 1 x.syncNs) x.qNext then
        (t.moveTo (F.timDomStatDstate d) DState.qualified 7 1 d 4 0).select d DState.uncalibrated
      else t.startQual d
    else t
  | none => s

/-- PTP_ANNOUNCE_TIMEOUT (R124): no Announce for 3 intervals returns the domain to LISTENING. -/
def State.ptpAnnounceTimeout (s : State) (d : Nat) : State :=
  match s.fire (Timer.domAnnounce d) with
  | some t => if t.tracking d then (t.sat (F.timDomCntTimeout d) 1).domListen d else t
  | none => s

def execPtpAnnounceTimeout (d : Nat) (s : State) : Host.Outcome State Fault Refusal :=
  .next (s.ptpAnnounceTimeout (d % 2))

/-- PTP_SYNC_TIMEOUT (R124): no accepted Sync for 3 intervals returns the domain to UNCALIBRATED. -/
def State.ptpSyncTimeout (s : State) (d : Nat) : State :=
  match s.fire (Timer.domSync d) with
  | some t => if t.tracking d then (t.sat (F.timDomCntTimeout d) 1).domUncal d else t
  | none => s

def execPtpSyncTimeout (d : Nat) (s : State) : Host.Outcome State Fault Refusal := .next (s.ptpSyncTimeout (d % 2))

/-- ACQUISITION_STEP (R118): at the tick after the first qualification the LTC steps to the selected domain's time. -/
def State.acquisition (s : State) : State :=
  if s.tim.acq && Nat.beq s.tstate TState.freerun then
    let t := s.tick
    let x := t.offsetOf t.selected
    let t1 : State := { t with tim := { t.tim with off := t.tim.off + x, rem := 0, slewAcc := 0, acq := false } }
    let t2 := t1.stateEv 7 5 t1.selected (unsignedOf 64 x)
    (t2.setTstate TState.locked).refreshFreq
  else s

def execAcquisitionStep (s : State) : Host.Outcome State Fault Refusal := .next s.acquisition

/-- The time that off needs to slew until at most n ns remain, in ns, rounded up (R117). -/
def State.slewTime (s : State) (n : Nat) : Nat :=
  ((s.tim.rem.natAbs - n) * 1000000000 - s.tim.slewAcc + s.get F.timCtlSlewMax - 1) / s.get F.timCtlSlewMax

/-- SLEW_COMPLETE (R119): in SLEWING the remaining slew comes within ±10 ns; a last step of at most 10 ns follows where
none has been applied in the last 1 s, and the time state becomes LOCKED. -/
def State.slewComplete (s : State) : State :=
  if Nat.beq s.tstate TState.slewing && !Nat.beq (s.get F.timCtlSlewMax) 0 then
    let t := if Nat.ble s.tim.rem.natAbs 10 then s else s.advance (s.now + s.slewTime 10)
    ((t.cond t.mayStep State.lastStep).setTstate TState.locked).setFar
  else s

def execSlewComplete (s : State) : Host.Outcome State Fault Refusal := .next s.slewComplete

/-- FAR_CLEAR (R120): the remaining slew falls to 1,000,000 ns. -/
def State.farClear (s : State) : State :=
  if s.is F.timStatFar && Nat.beq s.tstate TState.slewing && !Nat.beq (s.get F.timCtlSlewMax) 0 then
    (s.advance (s.now + s.slewTime 1000000)).setFar
  else s

def execFarClear (s : State) : Host.Outcome State Fault Refusal := .next s.farClear

/-- REF_IN_QUALIFIED (R128): 10 s of stable reference. -/
def State.refQualified (s : State) : State :=
  match s.fire Timer.refQual with
  | some t => if Nat.beq (t.get F.timRefRstate) 1 then (t.moveTo F.timRefRstate 2 7 4 0 4 0).refreshFreq else t
  | none => s

def execRefInQualified (s : State) : Host.Outcome State Fault Refusal := .next s.refQualified

/-- REF_IN is disqualified (R128); the steer it gave is held (R129). -/
def State.refDisqualify (s : State) : State :=
  if Nat.beq (s.get F.timRefRstate) 1 || Nat.beq (s.get F.timRefRstate) 2 then
    let was := Nat.beq (s.get F.timRefRstate) 2
    let s1 := (s.moveTo F.timRefRstate 3 7 4 0 4 0).disarm Timer.refQual
    let s2 : State := { s1 with tim := { s1.tim with refBad := 0 } }
    let s3 := s2.cond was (fun s => let f := s.fresh; { f.2 with tim := { f.2.tim with steer := (f.1 : Int) } })
    s3.refreshFreq
  else s

/-- REF_IN_STOP (R128): no edge for 1 µs. -/
def execRefInStop (s : State) : Host.Outcome State Fault Refusal := .next s.refDisqualify

/-- REF_IN_RATE_GATE (R128): a 100 ms gate counts `periods` of REF_IN, 1,000,000 at 10 MHz; the second consecutive gate
outside FMON_PPM disqualifies it. -/
def State.refGate (s : State) (periods : Nat) : State :=
  let off := ((periods : Int) - 1000000).natAbs
  if Nat.blt (s.get F.timRefFmonPpm) off then
    if Nat.beq s.tim.refBad 0 then { s with tim := { s.tim with refBad := 1 } } else s.refDisqualify
  else { s with tim := { s.tim with refBad := 0 } }

def execRefInRateGate (periods : Nat) (s : State) : Host.Outcome State Fault Refusal := .next (s.refGate periods)

/-- REF_IN_GLITCH (R128): an excursion inside the lock window is counted; REF_IN stays as it is. -/
def execRefInGlitch (s : State) : Host.Outcome State Fault Refusal := .next (s.sat F.timRefGlitch 1)

/-- REF_IN_RESUME (R128): the next edge after a disqualification restarts the 10 s count. -/
def State.refResume (s : State) : State :=
  if Nat.beq (s.get F.timRefRstate) 3 then
    let s1 := (s.moveTo F.timRefRstate 1 7 4 0 4 0).arm Timer.refQual (10 * 1000000000)
    { s1 with tim := { s1.tim with refSince := s1.now, refBad := 0 } }
  else s

def execRefInResume (s : State) : Host.Outcome State Fault Refusal := .next s.refResume

/-- The signed distance of an LTC instant from the nearest whole second (R131). -/
def ppsErr (t : Int) : Int := if t % 1000000000 ≤ 500000000 then t % 1000000000 else t % 1000000000 - 1000000000

/-- PPS_IN_EDGE (R131): the edge is stamped at the LTC. -/
def State.ppsIn (s : State) : State :=
  (s.put64 R.timPpsinLo R.timPpsinHi (unsignedOf 64 s.ltc)).put F.timPpsinErrErr (unsignedOf 32 (ppsErr s.ltc))

def execPpsInEdge (s : State) : Host.Outcome State Fault Refusal := .next s.ppsIn

/-- May PPS_OUT rise (R132): driven, not in HOLD or LOAD, and with PPS_QUAL not in FREERUN or HOLDOVER? -/
def State.ppsMay (s : State) : Bool :=
  s.is F.timPpsOutEn && s.writesAct
    && (!s.is F.timCtlPpsQual || Nat.beq s.tstate TState.locked || Nat.beq s.tstate TState.slewing)

/-- The instant of the next whole LTC second: off moves by at most SLEW_MAX while it slews (R117). -/
def State.nextSecond (s : State) : Nat :=
  let d := (1000000000 - s.ltc % 1000000000).toNat
  let m := s.get F.timCtlSlewMax
  if s.tim.rem = 0 || !(Nat.beq s.tstate TState.locked || Nat.beq s.tstate TState.slewing) then s.now + d
  else if 0 < s.tim.rem then s.now + d - min (s.tim.rem.natAbs) ((d * m + s.tim.slewAcc) / (1000000000 + m))
  else s.now + d + min (s.tim.rem.natAbs) ((d * m + s.tim.slewAcc) / (1000000000 - m))

/-- PPS_OUT_SECOND (R132): PPS_OUT rises at a whole LTC second, where it may. -/
def State.ppsOutRise (s : State) : State :=
  let t := s.advance s.nextSecond
  if t.ppsMay then
    { t with tim := { t.tim with ppsOut := true } }.arm Timer.ppsFall (t.get F.timPpsWidth * 1000000)
  else t

def execPpsOutSecond (s : State) : Host.Outcome State Fault Refusal := .next s.ppsOutRise

/-- PPS_OUT_FALL (R132): WIDTH ms after its rise. -/
def State.ppsOutFall (s : State) : State :=
  match s.fire Timer.ppsFall with
  | some t => { t with tim := { t.tim with ppsOut := false } }
  | none => s

def execPpsOutFall (s : State) : Host.Outcome State Fault Refusal := .next s.ppsOutFall

/-- ARM_WAIT seconds in ARM have passed (R133): ARM_READY is set without time. -/
def State.armWaitOver (s : State) : State :=
  match s.fire Timer.armWait with
  | some t => if Nat.beq t.mode Mode.arm then t.flag F.timStatArmReady true else t
  | none => s

/-- HOLDOVER_LONG_EXPIRY (R139): HOLDOVER has lasted 3,600 s. -/
def State.holdoverLong (s : State) : State :=
  match s.fire Timer.holdoverLong with
  | some t => if Nat.beq t.tstate TState.holdover then t.raiseLevel Src.holdoverLong else t
  | none => s

def execHoldoverLongExpiry (s : State) : Host.Outcome State Fault Refusal := .next s.holdoverLong

/-- SLEW_FAR_EXPIRY (R139): FAR has been set for 60 s. -/
def State.slewFarLong (s : State) : State :=
  match s.fire Timer.slewFar with
  | some t => if t.is F.timStatFar then t.raiseLevel Src.slewFar else t
  | none => s

def execSlewFarExpiry (s : State) : Host.Outcome State Fault Refusal := .next s.slewFarLong

end Sys2Proof.Machine
end

