-- ==== Sys2Proof/Machine/Modes.lean ====
section
/-!
DEFINITION. Sys2Proof/Machine/Modes.lean: the mode controller (chapter 23, R549 to R563): module reset and entry to HOLD
(R17), what each mode starts with, ARM (R537, R538, R610, R614), the evaluation of mode requests, and the ends of
DEGRADED, RECOVER, DRAIN and SELFTEST. Mode causes: 0 POWER, 1 ENABLE, 2 HOST, 3 SEL, 4 AUTO, 5 REMOVE, 6 CAPACITY,
7 QUIET.
-/

namespace Sys2Proof.Machine

/-- Timers: the limit of CALIBRATE, the source wait of ARM, RECOVER's 250 ms, DRAIN's 1,500 ms. -/
def Timer.calibrate : Nat := timerKey 26 0
def Timer.srcWait : Nat := timerKey 27 0
def Timer.recover : Nat := timerKey 28 0
def Timer.drain : Nat := timerKey 29 0

/-! Module reset -/

/-- The engines recorded when HOLD is entered (R614); a record that ARM has not used yet stands. -/
def State.recordEngines (s : State) : List Nat :=
  if s.sys.engRec.isEmpty then
    (List.range 128).flatMap (fun e =>
      if Nat.beq (s.estate e) 5 || (Nat.beq (s.estate e) 4 && (s.eng e).cond) then [e]
      else if Nat.beq (s.estate e) 4 then [if (s.eng e).sig then e + 512 else e + 256] else [])
  else s.sys.engRec

/-- What a host port keeps through module reset: posted writes, the MSI-X table and the last reply. -/
def keptPort (p : Port) : Port := { posted := p.posted, msiMask := p.msiMask, reply := p.reply }

/-- Module reset (R7, R17): what power-on alone resets stays, with the arbiter and the journal, the posted writes, the
pins and the non-volatile memory; everything else returns to its reset value. Engines read OFF (R614). -/
def State.moduleReset (s : State) : State :=
  let t : State := {
    pending := s.pending
    now := s.now
    free := s.free
    regs := s.regs.filter (fun p => powerOnReg p.1)
    latch := s.latch.filter (fun p => powerOnReg p.1)
    arb := { s.arb with eq := [] }
    sel := { unnum := s.sel.unnum }
    ports := (s.ports.map (fun p => (p.1, keptPort p.2))).filter (fun p => p.2 != {})
    round := s.round
    sys := { reqs := s.sys.reqs.filter (fun r => !Nat.beq r.who 6), enable := s.sys.enable, removeN := s.sys.removeN,
             slotId := s.sys.slotId, supply := s.sys.supply, trip := s.sys.trip, hotSince := s.sys.hotSince,
             engRec := s.recordEngines, booted := s.sys.booted, powerOn := s.sys.powerOn }
    clk := { cleaner := s.clk.cleaner, since := s.clk.since }
    nvm := { slots := s.nvm.slots, bad := s.nvm.bad } }
  (t.each (List.range 128) (fun s e => s.put (F.encHealthEstate e) 0)).flag F.selStatHandling false

/-! The change of mode -/

/-- SYS_MODE changes with its MODE event (R550). -/
def State.setMode (s : State) (m cause : Nat) : State :=
  let code := m + s.mode * 2 ^ 4 + cause * 2 ^ 8
  let s1 := ((s.put F.sysModePrev s.mode).put F.sysModeMode m).put F.sysModeCause cause
  ({ s1 with sys := { s1.sys with since := s1.now } } : State).emit ⟨1, 2, code, 0, code, s.now, 0, 0⟩

/-- Entry to HOLD (R17, R551). -/
def State.enterHold (s : State) (cause : Nat) : State := s.moduleReset.setMode Mode.hold cause

/-- What ends with the mode in force. -/
def State.leaveMode (s : State) : State :=
  if Nat.beq s.mode Mode.safe then
    ({ s with sel := { s.sel with standing := false, quiet := false } } : State).disarm Timer.quiet
  else if Nat.beq s.mode Mode.loopback then s.endTests
  else if Nat.beq s.mode Mode.load then
    ({ s with sys := { s.sys with svcWait := none } } : State).flag F.sysReqStatPending false
  else if Nat.beq s.mode Mode.calibrate then s.disarm Timer.calibrate
  else if Nat.beq s.mode Mode.arm then (s.disarm Timer.srcWait).disarm Timer.armWait
  else if Nat.beq s.mode Mode.degraded then { s with sys := { s.sys with fullSince := none } }
  else if Nat.beq s.mode Mode.recover then s.disarm Timer.recover
  else s

/-- Entry to LOAD: the slots and the journal are scanned (R541, R542). -/
def State.enterLoad (s : State) : State := (s.put F.nvmStatLstate 1).scanJournal

/-- Entry to CALIBRATE (R534, R535): the cleaner's output is looked for, and the system PLL acquires. -/
def State.enterCalibrate (s : State) : State :=
  let s1 := (s.flag F.clkStatCleanerOk s.clk.cleaner).cond (!s.clk.cleaner) (fun s => s.raiseLevel Src.clkCleaner)
  let s2 := s1.cond (Nat.beq (s1.pstate 11) PState.off) (fun s => s.acquire 11 false (!s.clk.cleaner))
  s2.arm Timer.calibrate (s2.get F.nvmCfgCalMs * 1000000)

/-- One engine at entry to ARM (R614): a recorded one is repaired or stays condemned, any other is SPARE. -/
def State.armEngine (s : State) (r : List Nat) (e : Nat) : State :=
  if r.contains e then
    (if Nat.blt (s.get (F.encHealthRepairs e)) (s.get F.sysRedCfgRepairMax) then (s.engineReset e).toTesting e true false
    else s.setEstate e 5)
  else if r.contains (e + 512) then s.toTesting e false true
  else if r.contains (e + 256) then s.toTesting e false false
  else s.setEstate e 2

/-- Does an enabled source still stand in WAIT (R538)? -/
def State.srcWaiting (s : State) : Bool :=
  (List.range 512).any (fun i => s.is (F.ingSrcCfgEn i) && Nat.ble (s.sstate i) 1)

/-- The channel is started at ARM (R537, R88). -/
def State.armStart (s : State) (n : Nat) : State := (s.updChan n (fun c => { c with startReq := true })).admitStart n

/-- Entry to ARM (R537, R610, R614): engines, the enables of sources and inputs, egress configurations, channels; then the
waits of R133 and R538. -/
def State.enterArm (s : State) : State :=
  let r := s.sys.engRec
  let s1 := (({ s with sys := { s.sys with engRec := [], srcWaitOver := Nat.beq (s.get F.nvmCfgSrcWaitS) 0 } } : State).each
    (List.range 128) (fun s e => s.armEngine r e)).showEngines
  let s2 := s1.each (List.range 512) (fun s i => if s.is (F.ingSrcCfgEn i) then s.srcCheck i else s)
  let s3 := s2.each (List.range 48) (fun s i => if s.is (F.audInCfgEn i) then s.inputCheck i else s)
  let s4 := s3.armEgress.each ((List.range 256).filter (fun n => s.nvm.starts.contains n)) State.armStart
  let s5 := s4.cond (!Nat.beq (s4.get F.nvmCfgSrcWaitS) 0) (fun s =>
    s.arm Timer.srcWait (s.get F.nvmCfgSrcWaitS * 1000000000))
  s5.cond (!Nat.beq (s5.get F.timCtlArmWait) 0) (fun s => s.arm Timer.armWait (s.get F.timCtlArmWait * 1000000000))

/-- Entry to DEGRADED (R92, R555): capacity is evaluated. -/
def State.enterDegraded (s : State) : State :=
  let t := (s.bump F.sysCntDegraded 1).evalDegraded
  { t with sys := { t.sys with fullSince := if t.fullCond then some t.now else none } }

/-- A channel loses its live path to SAFE (R24, R358). -/
def State.safeChan (s : State) (n : Nat) : State :=
  if !s.admitted n || Nat.beq (s.chState n) ChState.shed then s
  else (s.losePath n Cancel.mode).cond (Nat.beq (s.chState n) ChState.closing) (fun s =>
    s.updChan n (fun c => { c with wantSafe := true }))

/-- Entry to SAFE from mode p (R425, R503, R504, R557). -/
def State.enterSafe (s : State) (p : Nat) : State :=
  let s1 := (s.bump F.sysCntSafe 1).each (List.range 256) State.safeChan
  s1.enterSafeSel.cond (Nat.beq p Mode.load || Nat.beq p Mode.calibrate) (fun s => s.flag F.sysStatPreArmSafe true)

/-- Entry to RECOVER (R558): contexts are placed, capacity is evaluated, references restart. -/
def State.enterRecover (s : State) : State :=
  let s1 := s.evaluate.showEngines
  let s2 := s1.each (List.range 256) (fun s n =>
    if Nat.beq (s.chState n) ChState.shed || Nat.beq (s.chan n).want 1 then s else s.wantRestart n)
  s2.arm Timer.recover 250000000

/-- Entry to DRAIN from mode p (R559). -/
def State.enterDrain (s : State) (p : Nat) : State :=
  let s1 := (s.each (List.range 256) (fun s n => if Nat.beq (s.chState n) ChState.starting then s.freeChan n else s)).endTests
  let s2 := s1.updateAbort.readoutAbort
  let s3 := s2.cond (Nat.beq p Mode.safe || Nat.beq p Mode.recover) (fun s => s.each (List.range 256) (fun s n =>
    if s.runs n then s.updChan n (fun c => { c with wantSafe := true }) else s))
  (s3.arm Timer.drain 1500000000).drainLast

/-- A transition of R551 other than to HOLD. -/
def State.toMode (s : State) (m cause : Nat) : State :=
  let p := s.mode
  let t := s.leaveMode.setMode m cause
  match m with
  | 1 => t.enterLoad
  | 2 => t.enterCalibrate
  | 3 => t.enterArm
  | 5 => t.enterDegraded
  | 6 => t.enterSafe p
  | 7 => t.enterRecover
  | 8 => t.enterDrain p
  | _ => t

/-! The ends of ARM, CALIBRATE, LOOPBACK, SELFTEST and RECOVER -/

/-- The load fits the capacity that survives, with the reserve of R78, as RUN counts it (R537). -/
def State.fitsRun (s : State) : Bool :=
  let t := s.put F.sysModeMode Mode.run
  t.fitsAll && t.fitsSpare []

/-- The end of ARM, once R538's conditions hold (R536, R537). -/
def State.armCheck (s : State) : State :=
  if Nat.beq s.mode Mode.arm && s.is F.timStatArmReady && (s.sys.srcWaitOver || !s.srcWaiting) then
    if s.groupsIn.isEmpty then s.toMode Mode.safe 6
    else if s.fitsRun && s.liveSet then s.toMode Mode.run 4
    else s.toMode Mode.degraded 6
  else s

/-- With CALIBRATE over and the safe set back, ARM is entered (R536). -/
def State.nosafeCheck (s : State) : State :=
  if Nat.beq s.mode Mode.calibrate && s.is F.nvmStatNosafe && s.safeSet then s.toMode Mode.arm 4 else s

/-- The exit from LOOPBACK and SELFTEST (R560, R561). -/
def State.leaveTest (s : State) (cause : Nat) : State := s.toMode (if s.fullCond then Mode.run else Mode.degraded) cause

/-- RECOVER ends (R558): channels that wait for their first picture start it, and the module enters RUN or DEGRADED. -/
def State.recoverEnd (s : State) : State :=
  let s1 := s.each (List.range 256) (fun s n =>
    if Nat.beq (s.chan n).restart 3 && !Nat.beq (s.chState n) ChState.shed then
      s.updChan n (fun c => { c with codeFrom := c.cur.k + 1 })
    else s)
  let s2 := s1.bump F.sysCntRecovered 1
  let whole := s2.fullCond && (List.range 256).all (fun n => !Nat.beq (s2.chan n).want 1)
  s2.toMode (if whole then Mode.run else Mode.degraded) 4

/-- The channels that RECOVER rebuilds: admitted and neither SHED nor about to be. -/
def State.rebuilding (s : State) : List Nat :=
  (List.range 256).filter (fun n => s.admitted n && !Nat.beq (s.chState n) ChState.shed && !Nat.beq (s.chan n).want 1)

/-- RECOVER_REBUILD_COMPLETE: every context that is not shed holds its safe reconstruction. -/
def State.recoverDone (s : State) : State :=
  if Nat.beq s.mode Mode.recover && s.rebuilding.all (fun n => (s.chan n).recon) then s.recoverEnd else s
def execRecoverRebuildComplete (s : State) : Host.Outcome State Fault Refusal := .next s.recoverDone

/-- RECOVER_TIMEOUT: 250 ms after entry; a context without its safe reconstruction is shed. -/
def State.recoverLate (s : State) : State :=
  match s.fire Timer.recover with
  | some t =>
    if Nat.beq t.mode Mode.recover then
      (t.each (t.rebuilding.filter (fun n => !(t.chan n).recon)) State.shed).recoverEnd
    else t
  | none => s
def execRecoverTimeout (s : State) : Host.Outcome State Fault Refusal := .next s.recoverLate

/-! Requests -/

/-- A request is refused (R550, R553): counted, its REFUSAL event, and for a host its result. -/
def State.refuseReq (s : State) (r : ModeReq) (result : Nat) : State :=
  let s1 := (s.bump F.sysCntRefused 1).refusalEv 1 1 r.who (r.mode + result * 2 ^ 4)
  s1.cond (Nat.blt r.who 4) (fun s =>
    ((s.put F.sysReqStatLast r.mode).put F.sysReqStatResult result).flag F.sysReqStatRefused true)

/-- A request is taken, or kept pending. -/
def State.tookReq (s : State) (r : ModeReq) : State :=
  s.cond (Nat.blt r.who 4) (fun s => (s.put F.sysReqStatLast r.mode).put F.sysReqStatResult 1)

/-- A request that needs no channel to be running (R553). -/
def State.idleOnly (s : State) (r : ModeReq) : State :=
  if s.anyAdmitted then s.refuseReq r 5 else (s.tookReq r).toMode r.mode r.cause

/-- SAFE (R494, R502, R551, R554, R559): a SEL reaction in SAFE is met, and one in DRAIN acts on the channels. -/
def State.reqSafe (s : State) (r : ModeReq) : State :=
  let self := Nat.beq r.who 4 && Nat.beq (srcType r.src) (srcType (Src.selSelf 0))
  if s.modeIn [Mode.arm, Mode.run, Mode.degraded, Mode.recover, Mode.loopback, Mode.selftest]
      || (self && s.modeIn [Mode.load, Mode.calibrate]) then (s.tookReq r).toMode Mode.safe r.cause
  else if Nat.beq r.who 6 || (Nat.beq r.who 4 && Nat.beq s.mode Mode.safe) then s
  else if Nat.beq r.who 4 && Nat.beq s.mode Mode.drain then
    ((s.each (List.range 256) (fun s n => if s.runs n && !Nat.beq (s.chState n) ChState.shed then
      (s.losePath n Cancel.mode).updChan n (fun c => { c with wantSafe := true }) else s)).refuseReq r 4)
  else s.refuseReq r 4

/-- DEGRADED (R494, R552): a reaction in DEGRADED starts the count of R555 again; a loss of capacity changes no other mode. -/
def State.reqDegraded (s : State) (r : ModeReq) : State :=
  if Nat.beq s.mode Mode.run then s.toMode Mode.degraded r.cause
  else if Nat.beq s.mode Mode.degraded then
    let t := s.evalDegraded
    if Nat.beq r.who 4 then { t with sys := { t.sys with fullSince := if t.fullCond then some t.now else none } } else t
  else if Nat.beq r.who 6 then s
  else s.refuseReq r 4

/-- The controller decides one request against the mode in force (R551 to R554). -/
def State.decide (s : State) (r : ModeReq) : State :=
  match r.mode with
  | 0 => if Nat.beq s.mode Mode.hold then s.refuseReq r 4 else s.enterHold r.cause
  | 8 =>
    if s.modeIn [Mode.hold, Mode.drain] || (Nat.blt r.who 4 && Nat.beq s.mode Mode.service) then s.refuseReq r 4
    else (s.tookReq r).toMode Mode.drain r.cause
  | 6 => s.reqSafe r
  | 5 => s.reqDegraded r
  | 4 => if Nat.beq s.mode Mode.loopback then (s.tookReq r).leaveTest r.cause else s.refuseReq r 4
  | 11 =>
    if Nat.beq s.mode Mode.load then
      if Nat.beq (s.get F.nvmStatLstate) 4 then (s.tookReq r).toMode Mode.service r.cause
      else (({ s with sys := { s.sys with svcWait := some r.who } } : State).tookReq r).flag F.sysReqStatPending true
    else if s.modeIn [Mode.run, Mode.degraded, Mode.safe] then s.idleOnly r
    else s.refuseReq r 4
  | _ => if s.modeIn [Mode.run, Mode.degraded] then s.idleOnly r else s.refuseReq r 4

/-- The precedence of R549; 5 stands for automatic transitions. -/
def ModeReq.rank (r : ModeReq) : Nat :=
  if Nat.beq r.mode 0 then 1
  else if Nat.beq r.who 5 then 2
  else if Nat.blt r.who 4 then 6
  else if Nat.beq r.mode 6 then 3
  else 4

/-- The conditions of R556; a SAFE from before ARM needs no rebuilt live path (R557). -/
def State.recoverOk (s : State) : Bool :=
  s.sel.standing && Nat.beq s.mode Mode.safe && !s.is F.selStatHeld
    && (s.is F.sysStatPreArmSafe || (s.liveSet && [0, 1, 2].all (fun p =>
      !s.is (F.sysPoolAudMismatch p) && !s.is (F.sysPoolAudStuck p))))

/-- The standing request is taken (R503, R504, R556, R557). -/
def State.takeRecover (s : State) : State :=
  let s1 := (s.sat F.selRecovCount 1).sat F.selRecovSince 1
  let s2 := ({ s1 with sel := { s1.sel with standing := false } } : State).stateEv 0 2 0 (s1.get F.selRecovCount)
  if s2.is F.sysStatPreArmSafe then s2.enterHold 7 else s2.toMode Mode.recover 7

/-- Automatic transitions of one evaluation. -/
def State.automatic (s : State) : State :=
  let s1 := if s.recoverOk then s.takeRecover else s
  let s2 := if Nat.beq s1.mode Mode.drain && s1.is F.sysStatDrained && s1.sys.removeN then s1.enterHold 4 else s1
  s2.armCheck.nosafeCheck

/-- The full condition is watched in DEGRADED (R555). -/
def State.watchFull (s : State) : State :=
  if Nat.beq s.mode Mode.degraded then
    { s with sys := { s.sys with fullSince := if s.fullCond then (match s.sys.fullSince with
      | some t => some t
      | none => some s.now) else none } }
  else s

/-- The level of REMOVE_REQ_N (R584, SYS_SLOT.REMOVE). -/
def State.setRemove (s : State) (low : Bool) : State :=
  ({ s with sys := { s.sys with removeN := !low } } : State).flag F.sysSlotRemove low

/-- MODE_EVALUATION (R549): at the next 1 µs tick the requests are taken in order of precedence. -/
def State.evaluateModes (s : State) (remove : Bool) : State :=
  let s0 := s.tick.setRemove remove
  let l := s0.sys.reqs
  let s1 : State := { s0 with sys := { s0.sys with reqs := [] } }
  let go (k : Nat) (s : State) : State := (l.filter (fun r => Nat.beq r.rank k)).foldl State.decide s
  (go 6 (go 4 (go 3 (go 2 (go 1 s1)))).automatic).watchFull
def execModeEvaluation (remove : Bool) (s : State) : Host.Outcome State Fault Refusal := .next (s.evaluateModes remove)

/-! Host requests -/

/-- A write of SYS_REQ (R553): a wrong key or code is refused at once, a request comes before the controller. Nothing has an
effect in HOLD (R570). -/
def State.writeSysReq (s : State) (h : Nat) (v : Word) : State :=
  let m := bitsAt v 0 4
  let r : ModeReq := ⟨m, h, 2, 0⟩
  if Nat.beq s.mode Mode.hold then s
  else
    let t := s.put F.sysReqStatLast m
    if !Nat.beq (bitsAt v 24 8) 0xA5 then t.refuseReq r 2
    else if !([0, 4, 6, 8, 9, 10, 11].contains m) then t.refuseReq r 3
    else t.request m h 2 0

/-- A SYS_REQ word with the key and mode m. -/
def reqWord (v : Word) (m : Nat) : Word := setBitsAt (setBitsAt v 0 4 m) 24 8 0xA5

/-- Port h writes SYS_REQ with word v. -/
def State.takeSysReq (s : State) (h : Nat) (v : Word) : State :=
  s.takeWrite h R.sysReq v true (fun s => s.writeSysReq (h % 4) v)

/-- MODE_REQUEST_HOLD and the other keyed requests (R553). -/
def execModeRequestHold (h : Nat) (v : Word) (s : State) : Host.Outcome State Fault Refusal :=
  .next (s.takeSysReq h (reqWord v Mode.hold))
def execModeRequestRun (h : Nat) (v : Word) (s : State) : Host.Outcome State Fault Refusal :=
  .next (s.takeSysReq h (reqWord v Mode.run))
def execModeRequestSafe (h : Nat) (v : Word) (s : State) : Host.Outcome State Fault Refusal :=
  .next (s.takeSysReq h (reqWord v Mode.safe))
def execModeRequestDrain (h : Nat) (v : Word) (s : State) : Host.Outcome State Fault Refusal :=
  .next (s.takeSysReq h (reqWord v Mode.drain))
def execModeRequestLoopback (h : Nat) (v : Word) (s : State) : Host.Outcome State Fault Refusal :=
  .next (s.takeSysReq h (reqWord v Mode.loopback))
def execModeRequestSelftest (h : Nat) (v : Word) (s : State) : Host.Outcome State Fault Refusal :=
  .next (s.takeSysReq h (reqWord v Mode.selftest))
def execModeRequestService (h : Nat) (v : Word) (s : State) : Host.Outcome State Fault Refusal :=
  .next (s.takeSysReq h (reqWord v Mode.service))

/-- MODE_REQUEST_INVALID: a SYS_REQ word as it stands; its key or code is refused. -/
def execModeRequestInvalid (h : Nat) (v : Word) (s : State) : Host.Outcome State Fault Refusal := .next (s.takeSysReq h v)

/-! Events of the controller -/

/-- MOD_ENABLE_LOW (R551, R584): MOD_ENABLE falls. -/
def State.enableLow (s : State) : State :=
  let t := ({ s with sys := { s.sys with enable := false } } : State).flag F.sysSlotEnable false
  if Nat.beq t.mode Mode.hold then t else t.enterHold 1
def execModEnableLow (s : State) : Host.Outcome State Fault Refusal := .next s.enableLow

/-- REMOVE_REQUEST (R551): REMOVE_REQ_N has been low for 1 ms, and the pins request DRAIN. -/
def execRemoveRequest (s : State) : Host.Outcome State Fault Refusal := .next ((s.setRemove true).request Mode.drain 5 5 0)

/-- SOURCE_WAIT_EXPIRY (R538): the source wait of ARM is over. -/
def State.srcWaitEnd (s : State) : State :=
  match s.fire Timer.srcWait with
  | some t => ({ t with sys := { t.sys with srcWaitOver := true } } : State).armCheck
  | none => s
def execSourceWaitExpiry (s : State) : Host.Outcome State Fault Refusal := .next s.srcWaitEnd

/-- ARM_WAIT_EXPIRY (R133, R538): ARM_READY is set without time, and ARM may end. -/
def execArmWaitExpiry (s : State) : Host.Outcome State Fault Refusal := .next s.armWaitOver.armCheck

/-- PTP_QUALIFICATION_COMPLETE (R124, R133, R538): the domain is QUALIFIED, and ARM may end. -/
def execPtpQualificationComplete (d : Nat) (s : State) : Host.Outcome State Fault Refusal :=
  .next (s.ptpQualified (d % 2)).armCheck

/-- DEGRADED_HOLD_EXPIRY (R555): the full condition has held for DEG_HOLD_S without a break. -/
def State.degradedEnd (s : State) : State :=
  match s.sys.fullSince with
  | some t =>
    if Nat.beq s.mode Mode.degraded && s.fullCond then
      (s.advance (t + s.get F.sysCfgDegHoldS * 1000000000)).toMode Mode.run 6
    else s
  | none => s
def execDegradedHoldExpiry (s : State) : Host.Outcome State Fault Refusal := .next s.degradedEnd

/-- DRAIN_CLOSE_TIMEOUT (R559): a channel still CLOSING closes with its safe picture. -/
def State.drainLate (s : State) : State :=
  match s.fire Timer.drain with
  | some t => if Nat.beq t.mode Mode.drain then t.each (List.range 256) (fun s n =>
      if Nat.beq (s.chState n) ChState.closing then s.updChan n (fun c => { c with wantSafe := true }) else s) else t
  | none => s
def execDrainCloseTimeout (s : State) : Host.Outcome State Fault Refusal := .next s.drainLate

/-- DRAIN_SUMMARY_WRITTEN (R559): the ring's summary is in the journal: DRAINED; with REMOVE_REQ_N high the module passes to
HOLD. -/
def State.drained (s : State) (remove : Bool) : State :=
  let s1 := s.setRemove remove
  if Nat.beq s1.mode Mode.drain && s1.sys.summary && !s1.arb.jbuf.any isRingRecord then
    let s2 := s1.flag F.sysStatDrained true
    if remove then s2 else s2.enterHold 4
  else s1
def execDrainSummaryWritten (remove : Bool) (s : State) : Host.Outcome State Fault Refusal := .next (s.drained remove)

/-- SELFTEST_COMPLETE (R561): the engines `cond` failed, the compositors of mask `cmp` composed wrong rows, and the egress store
held `ce` corrected and `ue` uncorrectable words. -/
def State.selftestDone (s : State) (cond : List Nat) (cmp ce ue : Nat) : State :=
  if Nat.beq s.mode Mode.selftest then
    let l := (List.range 128).filter (fun e => cond.contains e && !Nat.beq (s.estate e) 5)
    let s1 := s.each l (fun s e => s.condemn e ECause.selftest)
    let s2 := ((s1.put F.sysSelftestEngCond (min 255 l.length)).put F.sysSelftestCmpFail
      (s1.get F.sysSelftestCmpFail ||| cmp % 2 ^ 16)).flag F.sysSelftestDone true
    ((s2.put F.sysSelftestEccCe (min 0xFFFF ce)).put F.sysSelftestEccUe (min 0xFFFF ue)).leaveTest 4
  else s
def execSelftestComplete (cond : List Nat) (cmp ce ue : Nat) (s : State) : Host.Outcome State Fault Refusal :=
  .next (s.selftestDone cond cmp ce ue)

end Sys2Proof.Machine
end

