-- ==== Sys2Proof/Machine/Startup.lean ====
section
/-!
DEFINITION. Sys2Proof/Machine/Startup.lean: what LOAD applies (R530 to R533, R540, R611), calibration (R534 to R536, R467),
and what the lock of a PLL starts.
-/

namespace Sys2Proof.Machine

/-! Applying the image -/

/-- The compositors that a COEF or LUT section names. -/
def sectCmps (e : Sect) : List Nat := (List.range 16).filter (fun c => Nat.beq e.inst c || Nat.beq e.inst 0xFFFF)

/-- One REGS record sets the img fields of its register (R526). -/
def State.applyRecord (s : State) (p : Nat × Word) : State :=
  s.setWord p.1 (maskWrite (fieldMask (imgFields p.1)) (s.word p.1) p.2)

/-- The shadow registers whose active values REGS sets too (R526). -/
def shadowAddrs : List Nat :=
  (List.range 256).flatMap (fun n => chnAddrs n ++ egrAddrs n ++ [R.cmpChlBg (n / 16) (n % 16), R.cmpChlOut (n / 16) (n % 16)])
    ++ (List.range 16).flatMap (fun c => (List.range 64).flatMap (fun i => layerAddrs c i))

/-- The layers after REGS: ACTIVE where enabled, else OFF (R611). -/
def State.imageLayers (s : State) : State :=
  s.each (List.range 16) (fun s c => s.each (List.range 64) (fun s i =>
    s.put (F.cmpLyrStatLstate c i) (if s.ais (F.cmpLyrCtlEn c i) then 1 else 2)))

/-- One coefficient set of a COEF section enters compositor c: set, tap code, words. -/
def State.imageCoef (s : State) (c : Nat) (x : Nat × Nat × List Word) : State :=
  let v := x.1 % 16
  if Nat.ble v 1 then s
  else
    ((s.setCmp c { s.cmpr c with coef := Tab.put [] (s.cmpr c).coef v (phasesOf (2 * (x.2.1 + 1)) x.2.2) }).put
      (F.cmpCoefValidValid c) (s.get (F.cmpCoefValidValid c) ||| 2 ^ v)).setWord (R.cmpCoefTaps c)
        (setBitsAt (s.word (R.cmpCoefTaps c)) (2 * v) 2 x.2.1)

/-- One table slot of a LUT section enters compositor c: slot, type (1 post-blend), points. -/
def State.imageLut (s : State) (c : Nat) (x : Nat × Nat × List Nat) : State :=
  let t := x.1 % 32
  ((s.setCmp c { s.cmpr c with lut := Tab.put [] (s.cmpr c).lut t x.2.2 }).put (F.cmpLutValidValid c)
    (s.get (F.cmpLutValidValid c) ||| 2 ^ t)).setWord (R.cmpLutType c) (setBitsAt (s.word (R.cmpLutType c)) t 1 x.2.1)

/-- The sections in the order of R532: SELTYPE, REGS, BANDS, UCODE, COEF and LUT, SAFE, DRAMFW. -/
def applyOrder (x : Img) : List (Nat × Sect) :=
  let l := (List.range x.sects.length).zip x.sects
  let of (ts : List Nat) : List (Nat × Sect) := l.filter (fun p => ts.contains p.2.typ)
  of [2] ++ of [1] ++ of [5] ++ of [3] ++ of [6, 7] ++ of [8] ++ of [4]

/-- One section is applied. -/
def State.applySect (s : State) (e : Sect) : State :=
  match e.body with
  | .regs l => ((l.foldl State.applyRecord s).activate shadowAddrs).imageLayers
  | .seltype l => s.each (List.range 256) (fun s t => match l[t]? with
    | some w => s.writeTypeCfg t w
    | none => s)
  | .ucode version crc _ => s.each (List.range 128) (fun s k =>
      (s.put (F.encIdUcodeVer k) version).put (F.encUcodeCrc k) crc)
  | .coef l => s.each (sectCmps e) (fun s c => s.each l (fun s x => s.imageCoef c x))
  | .lut l => s.each (sectCmps e) (fun s c => s.each l (fun s x => s.imageLut c x))
  | .safe l _ =>
    let t := s.each ((List.range l.length).zip l) (fun s x => { s with est := Tab.put {} s.est (e.inst + x.1) x.2 })
    if Nat.beq (e.flags % 2) 1 then { t with nvm := { t.nvm with starts := e.inst :: t.nvm.starts } } else t
  | _ => s

/-- The blocks take what the image set: PTP domains and REF_IN, audio ports, the egress store's use, and the credits of BOB,
which are all free (R427, notes/assumptions/87). -/
def State.imageTaken (s : State) (x : Img) : State :=
  let s1 := (((s.domCfgEffect 0).domCfgEffect 1).refUse).each (List.range 16) (fun s a =>
    if s.is (F.audPortCfgEn a) then s.portOn a else s)
  let s2 := s1.put F.egrMemSafeUsed ((((imgSafes x).map (fun p => p.2.len)).sum + 65535) / 65536)
  let s3 := s2.each (List.range 7) (fun s t => s.put (F.bobCredFree t) (s.get (F.bobCredPool t)))
  { s3 with sys := { s3.sys with cfgGroups := List.range 8 } }

/-- LOAD ends (R531, R542): its duration, the BOOT record, and a SERVICE request that waits. -/
def State.loadEnd (s : State) (lstate slot : Nat) : State :=
  let first := s.sys.powerOn
  let s1 := ((s.put F.nvmStatLstate lstate).put F.nvmStatLoadMs (min 0xFFFF ((s.now - s.sys.since) / 1000000))).bootRecord
    slot first
  let s2 : State := { s1 with sys := { s1.sys with powerOn := false } }
  if s2.sys.svcWait.isSome then s2.toMode Mode.service 2
  else if Nat.beq lstate 3 then s2.toMode Mode.calibrate 4
  else s2.acquire 11 false (!s2.clk.cleaner)

/-- LOAD_COMPLETE (R528 to R533): both slots are checked, the selected image is applied; `fail` is the index of a section that
fails as it is read again, `ecc` the words corrected. -/
def State.loadDone (s : State) (fail : Option Nat) (ecc : Nat) : State :=
  if !Nat.beq s.mode Mode.load || !Nat.beq (s.get F.nvmStatLstate) 1 then s
  else
    let s1 := ((s.bump F.nvmCntEccCe ecc).showSlot 0 true).showSlot 1 true
    match s1.selectSlot with
    | none => ({ s1 with nvm := { s1.nvm with bad := [] } } : State).loadEnd 4 0
    | some k =>
      match s1.image k with
      | none => s1
      | some x =>
        let l := applyOrder x
        let s2 : State := { s1 with nvm := { s1.nvm with bad := [] } }
        match l.find? (fun p => some p.1 == fail) with
        | some p =>
          let s3 := (l.takeWhile (fun q => !Nat.beq q.1 p.1)).foldl (fun s q => s.applySect q.2) s2
          let s4 := ((s3.flag (F.nvmImgStatValid k) false).put (F.nvmImgStatFail k) 5).put (F.nvmImgStatSection k) p.1
          ({ s4 with nvm := { s4.nvm with bad := [k], starts := [] } } : State).loadEnd 4 k
        | none =>
          let s3 := l.foldl (fun s q => s.applySect q.2) s2
          ((s3.flag F.nvmStatLoaded (Nat.beq k 1)).imageTaken x).loadEnd 3 k
def execLoadComplete (fail : Option Nat) (ecc : Nat) (s : State) : Host.Outcome State Fault Refusal :=
  .next (s.loadDone fail ecc)

/-- SELTYPE_REREAD_COMPLETE (R502, R540): the section of the loaded slot is read again, or the defaults are taken. -/
def State.rereadDone (s : State) (good : Bool) : State :=
  if !s.sel.reread then s
  else
    let s1 : State := { s with sel := { s.sel with reread := false } }
    let e := match s1.image (s1.get F.nvmStatLoaded) with
      | some x => imgSection x 2
      | none => none
    match good, e with
    | true, some p => s1.typeDefaults.applySect p.2
    | _, _ => s1.typeDefaults.flag F.nvmStatSeltypeBad true
def execSeltypeRereadComplete (good : Bool) (s : State) : Host.Outcome State Fault Refusal := .next (s.rereadDone good)

/-! Calibration -/

/-- Quads with an enabled lane (R534). -/
def State.quadUsed (s : State) (q : Nat) : Bool := [0, 1, 2, 3].any (fun i => s.is (F.lnkCfgEn (4 * q + i)))

/-- The PLLs of steps 1 to 5 (R534). -/
def State.calPlls (s : State) : List Nat := (List.range 12) ++ ((List.range 64).filter s.quadUsed).map (12 + ·)

/-- A PLL that has not started yet acquires. -/
def State.startPll (s : State) (p : Nat) : State :=
  if Nat.beq (s.pstate p) PState.off then s.acquire p false (!s.clk.cleaner) else s

/-- A DRAM channel starts training (R467, R534). -/
def State.startTraining (s : State) (d : Nat) : State :=
  if Nat.beq (s.cstate d) CState.off && Nat.beq s.mode Mode.calibrate then
    (s.setCstate d CState.training).arm (Timer.train d) 200000000
  else s

/-- A lane that the image enables is checked when its quad's PLL first locks (R610). -/
def State.imageLane (s : State) (l : Nat) : State :=
  if s.is (F.lnkCfgEn l) && !(s.lane l).checked && (s.lane l).enWait.isNone then s.laneAdmit l else s

/-- What the lock of PLL p starts (R379, R434, R534, R610). -/
def State.afterLock (s : State) (p : Nat) : State :=
  if !Nat.beq (s.get F.nvmStatLstate) 3 then s
  else if Nat.beq p 11 then s.each [4, 5, 6, 7, 8] State.startPll
  else if Nat.beq p 4 then
    s.each ([0, 1, 2, 3, 9, 10] ++ ((List.range 64).filter s.quadUsed).map (12 + ·)) State.startPll
  else if Nat.ble 5 p && Nat.ble p 8 then
    s.each ((List.range 8).map (fun i => 8 * (p - 5) + i)) State.startTraining
  else if Nat.beq p 9 || Nat.beq p 10 then
    s.each ((List.range 8).map (fun i => 8 * (p - 9) + i)) (fun s a => if s.ownClock a then s.clockOk a else s)
  else if Nat.ble 12 p then
    (s.flag (F.lnkQStatPllLock (p - 12)) true).each ((List.range 4).map (fun i => 4 * (p - 12) + i)) State.imageLane
  else s

/-- CALIBRATE ends (R452, R470, R535, R536): channels without a locked memory PLL fail, the groups whose channels are all
ACTIVE enter the map, the pools and the ring are divided among them, and ARM follows where the safe set is present. -/
def State.calibrateEnd (s : State) : State :=
  let s1 := s.each (List.range 32) (fun s d =>
    if s.pllUp (5 + d / 8) || Nat.beq (s.cstate d) CState.failed then s else s.failGroup d 3)
  let up := (List.range 8).filter (fun g => [0, 1, 2, 3].all (fun i => Nat.beq (s1.cstate (4 * g + i)) CState.active))
  let s2 := s1.each up (fun s g => s.flag (F.drcGrpStatInMap g) true)
  let per := match s2.get F.sysIdCode with
    | 0 => 114688
    | 1 => 49152
    | _ => 16384
  let s3 := ((s2.dividePools up).ringInit up per).disarm Timer.calibrate
  if s3.safeSet then s3.toMode Mode.arm 4 else (s3.flag F.nvmStatNosafe true).stateEv 8 2 0 0

/-- The first instant of R535: every PLL of steps 1 to 5 is LOCKED and every channel is ACTIVE or FAILED. -/
def State.calibrateCheck (s : State) : State :=
  if Nat.beq s.mode Mode.calibrate && !s.is F.nvmStatNosafe && s.calPlls.all (fun p => Nat.beq (s.pstate p) PState.locked)
      && (List.range 32).all (fun d => Nat.beq (s.cstate d) CState.active || Nat.beq (s.cstate d) CState.failed) then
    s.calibrateEnd
  else s

/-- CALIBRATE_TIMEOUT (R535): CAL_MS after entry. -/
def State.calibrateLate (s : State) : State :=
  match s.fire Timer.calibrate with
  | some t => if Nat.beq t.mode Mode.calibrate && !t.is F.nvmStatNosafe then t.calibrateEnd else t
  | none => s
def execCalibrateTimeout (s : State) : Host.Outcome State Fault Refusal := .next s.calibrateLate

/-- DRAM_TRAINING_COMPLETE (R467, R470): the eyes in 1/64 UI, the reference voltages, and a clean check or not. -/
def State.trained (s : State) (d rd wr vrd vwr : Nat) (clean : Bool) : State :=
  if Nat.beq (s.cstate d) CState.training then
    let t := (s.disarm (Timer.train d)).trainSet d rd wr vrd vwr
    (if trainPass rd wr clean then t.channelUp d else t.failGroup d 1).calibrateCheck
  else s
def execDramTrainingComplete (d rd wr vrd vwr : Nat) (clean : Bool) (s : State) : Host.Outcome State Fault Refusal :=
  .next (s.trained (d % 32) rd wr vrd vwr clean)

/-- DRAM_TRAINING_TIMEOUT (R467): 200 ms after its memory PLL's lock the channel fails. -/
def State.trainLate (s : State) (d : Nat) : State :=
  match s.fire (Timer.train d) with
  | some t => if Nat.beq (t.cstate d) CState.training then (t.failGroup d 1).calibrateCheck else t
  | none => s
def execDramTrainingTimeout (d : Nat) (s : State) : Host.Outcome State Fault Refusal := .next (s.trainLate (d % 32))

end Sys2Proof.Machine
end

