-- ==== Sys2Proof/Machine/PllEvents.lean ====
section
/-!
DEFINITION. Sys2Proof/Machine/PllEvents.lean: lock and loss of a PLL with what they bring about in the blocks its output feeds,
the cleaner, REF_RESTORE, the clock monitors and the check of a target write (chapter 19, R474 to R483).
-/

namespace Sys2Proof.Machine

/-- What the loss of PLL p's output does (R379, R434, R470): the quad's lanes leave UP; the memory channels fail; master audio
ports leave RUN, with `cut.got` samples of their frames in progress received. -/
def State.pllGone (s : State) (p : Nat) (cut : Cut) : State :=
  if Nat.ble 12 p then s.quadPllLost (p - 12)
  else if Nat.ble 5 p && Nat.ble p 8 then
    s.each ((List.range 8).map (fun i => 8 * (p - 5) + i)) (fun s d =>
      if Nat.ble CState.active (s.cstate d) && Nat.ble (s.cstate d) CState.retrain then s.loseGroup d 3 else s)
  else if Nat.beq p 9 || Nat.beq p 10 then
    s.each ((List.range 8).map (fun i => 8 * (p - 9) + i)) (fun s a =>
      if s.is (F.audPortCfgMaster a) && !s.isAes3 a && !Nat.ble (s.audState a) 1 then
        (s.flag (F.audPortStatLock a) false).clockLost a (cut.got.getD a 0)
      else s)
  else s

/-- PLL p loses lock on the reference that follows (R475, R477, R479). -/
def State.pllLost (s : State) (p : Nat) (alt : Bool) (cut : Cut) : State := (s.pllLoss p alt).pllGone p cut

/-- PLL_LOCK_LOSS (R475): the phase error of a LOCKED or RAMP PLL leaves its window. -/
def execPllLockLoss (p : Nat) (cut : Cut) (s : State) : Host.Outcome State Fault Refusal :=
  .next (if s.pllUp (p % 76) then s.pllLost (p % 76) (s.is (F.clkPllStatAltRef (p % 76))) cut else s)

/-- REF_RESTORE's turn passes to the next PLL of its list (R474). -/
def State.restoreNext (s : State) (cut : Cut) : State :=
  match s.clk.restore with
  | [] => s
  | p :: _ => if s.pllUp p then s.pllLost p false cut else s.acquire p false false

/-- PLL_LOCK_DECLARED (R475, R477, R479, R534): the output returns, what waits for it starts, capacity returns, and REF_RESTORE
passes on. -/
def State.pllLocked (s : State) (p band : Nat) (cut : Cut) : State :=
  if Nat.beq (s.pstate p) PState.acquire && Nat.beq (s.pll p).steps 0 then
    let s1 := (s.pllLock p band).afterLock p
    let s2 := match s1.clk.restore with
      | q :: rest => if Nat.beq q p then ({ s1 with clk := { s1.clk with restore := rest } } : State).restoreNext cut else s1
      | [] => s1
    (s2.evalDegraded.nosafeCheck).calibrateCheck
  else s
def execPllLockDeclared (p band : Nat) (cut : Cut) (s : State) : Host.Outcome State Fault Refusal :=
  .next (s.pllLocked (p % 76) (band % 16) cut)

/-- A write of CLK_CTL (R474): its rw fields, then REF_RESTORE, accepted while CLEANER_OK has been 1 for 10 s. -/
def State.writeClkCtl (s : State) (v : Word) (cut : Cut) : State :=
  let s1 := s.store R.clkCtl v allBits
  if Nat.beq (bitsAt v 12 1) 1 && s1.is F.clkStatCleanerOk && Nat.ble (s1.clk.since + 10000000000) s1.now then
    let l := (List.range 76).filter (fun p => !(Nat.ble 5 p && Nat.ble p 8) && !Nat.beq (s1.pstate p) PState.off)
    ({ s1 with clk := { s1.clk with restore := l } } : State).restoreNext cut
  else s1

/-- REF_RESTORE: port h writes CLK_CTL with REF_RESTORE = 1. -/
def execRefRestore (h : Nat) (v : Word) (cut : Cut) (s : State) : Host.Outcome State Fault Refusal :=
  .next (s.takeWrite h R.clkCtl (setBitsAt v 12 1 1) false (fun s => s.writeClkCtl (setBitsAt v 12 1 1) cut))

/-- CLOCK_MONITOR_WINDOW (R481): a window counted `khz`; beyond 1.03 × the instantaneous target the output is forced to bypass,
OVER counts and CLK_OVER is raised. -/
def State.monitorWindow (s : State) (p khz : Nat) (cut : Cut) : State :=
  let s1 := s.put (F.clkPllFreqMeas p) (khz / 1000)
  if s.pllUp p && Nat.blt (103 * s.instTarget p) (100 * khz) then
    ((s1.bump (F.clkPllCntOver p) 1).raise (Src.clkOver p)).pllLost p (s1.is (F.clkPllStatAltRef p)) cut
  else s1
def execClockMonitorWindow (p khz : Nat) (cut : Cut) (s : State) : Host.Outcome State Fault Refusal :=
  .next (s.monitorWindow (p % 76) khz cut)

/-- CLEANER_LOSS (R474, R483): every PLL that runs acquires again on the bypass oscillator. -/
def State.cleanerLost (s : State) (cut : Cut) : State :=
  if !s.clk.cleaner then s
  else
    let s1 : State := { s with clk := { s.clk with cleaner := false, restore := [] } }
    if !s1.writesAct then s1
    else
      let s2 := (s1.flag F.clkStatCleanerOk false).raiseLevel Src.clkCleaner
      s2.each (List.range 76) (fun s p =>
        if s.pllUp p then s.pllLost p true cut
        else if Nat.beq (s.pstate p) PState.off then s
        else s.acquire p (s.pll p).byWrite true)
def execCleanerLoss (cut : Cut) (s : State) : Host.Outcome State Fault Refusal := .next (s.cleanerLost cut)

/-- The first failing check of a target write, with PLL p counted at the lower of its current and new targets (R480): 1 R76,
2 R77, 3 R78, which DEGRADED does not apply (R79); 0 none. -/
def State.targetReason (s : State) (p khz : Nat) : Nat :=
  let k := min (s.pllKhz p) khz
  let t := ((s.put (F.clkPllTgtTgt p) k).put (F.clkPllStatPstate p) PState.locked)
  let under (e : Nat) : Bool := Nat.beq (e / 32) p
  let heavy (n : Nat) : Bool := (s.chan n).placed
    && (under (s.leadEng n) || (match s.stbyEng n with
      | some e => under e
      | none => false))
    && Nat.blt (unitLoad * k) (s.ctxLoad [] (s.leadOf n) * 1700000)
  if (List.range 256).any heavy then 1
  else if !t.fitsEngines [] then 2
  else if !Nat.beq s.mode Mode.degraded && !t.fitsSpare [] then 3
  else 0

/-- PLL_TARGET_CHECK (R480): at the next tick; `inBand` says that the new target lies in the band of the running lock. -/
def State.targetCheck (s : State) (p : Nat) (inBand : Bool) : State :=
  match (s.pll p).pend with
  | none => s
  | some khz =>
    let t := s.tick.setPll p { s.pll p with pend := none }
    let r := t.targetReason p khz
    if Nat.beq r 0 then (t.acceptTarget p khz inBand).evalDegraded else t.refuseTarget p r
def execPllTargetCheck (p : Nat) (inBand : Bool) (s : State) : Host.Outcome State Fault Refusal :=
  .next (s.targetCheck (p % 76) inBand)

end Sys2Proof.Machine
end

