-- ==== Sys2Proof/Machine/Ckv.lean ====
section
/-!
DEFINITION. Sys2Proof/Machine/Ckv.lean: the check-value units (chapter 21, R512 to R522). The bytes that a unit reads come with
the command (notes/assumptions/22).
-/

namespace Sys2Proof.Machine

/-! The algorithms (R512, R513) -/

def crcWidth (p : Nat) : Nat := match p with
  | 0 | 1 => 32
  | 2 => 16
  | _ => 64

/-- The polynomial in the algorithm's own bit order. -/
def crcPoly (p : Nat) : Nat := match p with
  | 0 => 0xEDB88320
  | 1 => 0x82F63B78
  | 2 => 0x1021
  | _ => 0x42F0E1EBA9EA3693

def crcInit (p : Nat) : Nat := match p with
  | 0 | 1 => 0xFFFFFFFF
  | 2 => 0xFFFF
  | _ => 0

def crcFinal (p : Nat) : Nat := match p with
  | 0 | 1 => 0xFFFFFFFF
  | _ => 0

/-- One bit of a reflected algorithm, of one that is not. -/
def crcBitR (poly v : Nat) : Nat := if Nat.beq (v % 2) 1 then (v / 2) ^^^ poly else v / 2
def crcBitN (w poly v : Nat) : Nat := if Nat.beq (v / 2 ^ (w - 1) % 2) 1 then (v * 2 % 2 ^ w) ^^^ poly else v * 2 % 2 ^ w

/-- A step taken n times. -/
def times (n : Nat) (f : Nat → Nat) (v : Nat) : Nat := match n with
  | 0 => v
  | k + 1 => times k f (f v)

/-- One byte of algorithm p. -/
def crcByte (p v : Nat) (b : BitVec 8) : Nat :=
  if Nat.ble p 1 then times 8 (crcBitR (crcPoly p)) (v ^^^ b.toNat)
  else times 8 (crcBitN (crcWidth p) (crcPoly p)) (v ^^^ (b.toNat * 2 ^ (crcWidth p - 8)))

/-- The running value after these bytes. -/
def crcRun (p v : Nat) (l : List (BitVec 8)) : Nat := l.foldl (crcByte p) v

/-! Units -/

def State.ckvBusy (s : State) (u : Nat) : Bool := Nat.beq (s.get (F.ckvStatUstate u)) 1
def State.ckvPoly (s : State) (u : Nat) : Nat := s.get (F.ckvCfgPoly u)
def State.ckvVal (s : State) (u : Nat) : Nat := s.get64 (R.ckvValLo u) (R.ckvValHi u) % 2 ^ crcWidth (s.ckvPoly u)

/-- The unit ends DONE or HALTED with its cause (0 none, 1 DESC, 2 FETCH, 3 ABORT, 4 RESET), its event and the host cause. -/
def State.ckvEnd (s : State) (u state cause : Nat) : State :=
  let s1 := ((s.put (F.ckvStatUstate u) state).put (F.ckvStatCause u) cause).flag (F.ckvCtlGo u) false
  (s1.stateEv 20 2 u (state + cause * 2 ^ 4)).irqAll 6

/-- Bytes of a descriptor enter the running value (R514, R515): INIT, the CRC over the first range, the comparison of two. -/
def State.ckvFeed (s : State) (u : Nat) (d : Desc) (bytes second : List (BitVec 8)) : State :=
  let v := if d.init then crcInit (s.ckvPoly u) else s.ckvVal u
  let r := crcRun (s.ckvPoly u) v bytes
  let s1 := s.put64 (R.ckvValLo u) (R.ckvValHi u) r
  let s2 := s1.put64 (R.ckvCntBytesLo u) (R.ckvCntBytesHi u)
    (s1.get64 (R.ckvCntBytesLo u) (R.ckvCntBytesHi u) + bytes.length)
  match (if d.dual then (List.range bytes.length).find? (fun i => bytes[i]? != second[i]?) else none) with
  | some i => (s2.flag (F.ckvStatDiff u) true).put (F.ckvDiffOffset u) i
  | none => s2

/-- A descriptor that halts the chain before step 1 (R514). -/
def descBad (d : Desc) : Bool := (d.cmp && !d.fin) || (d.cmp && d.dual) || !d.clear || Nat.ble 6 d.space

/-- A mismatch under CMP (R516); CKV_MIS keeps the first one until MISMATCH is cleared. -/
def State.ckvMismatch (s : State) (u aux : Nat) : State :=
  let da := Tab.get 0 s.ckv u
  let s1 := s.cond (!s.is (F.ckvStatMismatch u)) (fun s =>
    (s.put64 (R.ckvMisExpLo u) (R.ckvMisExpHi u) aux).put64 (R.ckvMisDescLo u) (R.ckvMisDescHi u) da)
  ((s1.flag (F.ckvStatMismatch u) true).bump (F.ckvCntMis u) 1).stateEv 20 1 u da

/-- CKV_DESCRIPTOR_DONE (R514 to R516): the descriptor in work, the bytes of its range, and those of the second one. -/
def State.ckvDesc (s : State) (u : Nat) (d : Desc) (bytes second : List (BitVec 8)) : State :=
  if !s.ckvBusy u then s
  else if descBad d then s.ckvEnd u 3 1
  else
    let s1 := s.ckvFeed u d bytes second
    let fv := s1.ckvVal u ^^^ crcFinal (s1.ckvPoly u)
    let s2 := s1.cond d.fin (fun s => s.put64 (R.ckvResLo u) (R.ckvResHi u) fv)
    let miss := d.cmp && !Nat.beq fv (d.aux % 2 ^ 64)
    let s3 := (s2.cond miss (fun s => s.ckvMismatch u (d.aux % 2 ^ 64))).bump (F.ckvCntDesc u) 1
    if miss && s3.is (F.ckvCfgStopMis u) then s3.ckvEnd u 3 0
    else if Nat.beq d.next 0 then s3.ckvEnd u 2 0
    else { s3 with ckv := Tab.put 0 s3.ckv u d.next }
def execCkvDescriptorDone (u : Nat) (d : Desc) (bytes second : List (BitVec 8)) (s : State) :
    Host.Outcome State Fault Refusal := .next (s.ckvDesc (u % 8) d bytes second)

/-- A BUSY chain halts at a byte boundary: what is processed of the descriptor in work stays in the running value (R518). -/
def State.ckvHalt (s : State) (u cause : Nat) (cut : Cut) : State :=
  if !s.ckvBusy u then s
  else match cut.desc with
    | some d => if descBad d then s.ckvEnd u 3 cause else (s.ckvFeed u d cut.bytes cut.second).ckvEnd u 3 cause
    | none => s.ckvEnd u 3 cause

/-- CKV_FETCH_ERROR (R518): a fetch completes with an error. -/
def execCkvFetchError (u : Nat) (cut : Cut) (s : State) : Host.Outcome State Fault Refusal :=
  .next (if s.ckvBusy (u % 8) then (s.ckvHalt (u % 8) 2 cut).raise (Src.ckvDma (u % 8)) else s)

/-- CKV0 belongs to the AOC from LOAD to ARM and in SERVICE (R521). -/
def State.ckvOwned (s : State) (u : Nat) : Bool :=
  Nat.beq u 0 && s.modeIn [Mode.load, Mode.calibrate, Mode.arm, Mode.service]

/-- GO (R519): the chain starts from CKV_HEAD. -/
def State.ckvGo (s : State) (u : Nat) : State :=
  let s1 := ((s.put (F.ckvStatUstate u) 1).put (F.ckvStatCause u) 0).flag (F.ckvCtlGo u) true
  { s1 with ckv := Tab.put 0 s1.ckv u (s1.get64 (R.ckvHeadLo u) (R.ckvHeadHi u)) }

/-- A write of CKV_CTL (R519): ABORT wins over GO; GO of a BUSY unit has no effect. -/
def State.writeCkvCtl (s : State) (u : Nat) (v : Word) (cut : Cut) : State :=
  if s.ckvOwned u then s
  else if Nat.beq (bitsAt v 1 1) 1 then s.ckvHalt u 3 cut
  else if Nat.beq (bitsAt v 0 1) 1 && !s.ckvBusy u then s.ckvGo u
  else s

/-- A write of another register of unit u (R513, R519, R521); CKV_VAL reads 0 above the width of its algorithm. -/
def State.writeCkv (s : State) (u a : Nat) (v : Word) : State :=
  if s.ckvOwned u || (s.ckvBusy u && !Nat.beq a (R.ckvStat u)) then s
  else
    let t := s.store a v allBits
    t.put64 (R.ckvValLo u) (R.ckvValHi u) (t.ckvVal u)

/-- CKV_GO, CKV_ABORT: port h writes CKV_CTL of unit u. -/
def execCkvGo (h u : Nat) (v : Word) (s : State) : Host.Outcome State Fault Refusal :=
  .next (s.takeWrite h (R.ckvCtl (u % 8)) (setBitsAt v 0 1 1) false
    (fun s => s.writeCkvCtl (u % 8) (setBitsAt v 0 1 1) ⟨[], none, [], []⟩))
def execCkvAbort (h u : Nat) (v : Word) (cut : Cut) (s : State) : Host.Outcome State Fault Refusal :=
  .next (s.takeWrite h (R.ckvCtl (u % 8)) (setBitsAt v 1 1 1) false
    (fun s => s.writeCkvCtl (u % 8) (setBitsAt v 1 1 1) cut))

end Sys2Proof.Machine
end

