-- ==== Sys2Proof/Machine/Faults.lean ====
section
/-!
DEFINITION. Sys2Proof/Machine/Faults.lean: an occurrence of a fault source as SEL takes it, what a lasting fault does, and the
end of its reaction (chapter 20, R489 to R497).
-/

namespace Sys2Proof.Machine

/-! What a lasting fault does in its block (R492) -/

/-- The engine's cause of condemnation by the type of its source (R493): RESIDUE, PARITY, SELFTEST, HANG, NOSPARE. -/
def engCause (code : Nat) : Nat :=
  match code % 16 with
  | 0 => ECause.residue
  | 1 => ECause.parity
  | 2 => ECause.selftest
  | 3 => ECause.hang
  | _ => ECause.nospare

/-- The engine is condemned unless it is already TESTING or CONDEMNED (R493). -/
def State.condemnUp (s : State) (e cause : Nat) : State :=
  if Nat.beq (s.estate e) 4 || Nat.beq (s.estate e) 5 then s else s.condemn e cause

/-- The action that a chapter ties to the lasting source (R492): DRC_CE retrains the channel and DRC_UE fails it (R466),
ENG_RESIDUE and ENG_PARITY condemn the engine (R412), ENG_SIGMIS sends the pair to TESTING (R408). -/
def State.blockAction (s : State) (code : Nat) : State :=
  let i := srcInst code
  match srcType code with
  | 0x90 => s.startRetrain i
  | 0x91 => s.loseGroup i 2
  | 0xD0 => s.condemnUp i ECause.residue
  | 0xD1 => s.condemnUp i ECause.parity
  | 0xE3 => s.updChan i (fun c => { c with sigLast := true })
  | _ => s

/-! Reactions (R493 to R497) -/

/-- The classes whose instances RESET acts on: BOB, CKV, AUD, LNK, ING, ENC (R493). -/
def resettable (code : Nat) : Bool := [2, 7, 8, 10, 11, 13].contains (code / 4096 % 16)

/-- EN of source i passes through 0 and back to 1, which waits for its check (R145, R493). -/
def State.resetSource (s : State) (i : Nat) : State :=
  if s.is (F.ingSrcCfgEn i) then
    (((s.flag (F.ingSrcCfgEn i) false).srcDisable i).flag (F.ingSrcCfgEn i) true).updSrc i (fun x => { x with enWait := true })
  else s

/-- A block reset of BOB cancels every pending task (R424): slices are lost (R182), rows are found not coded (R324), and
reference rows whose repair is gone are poisoned (notes/assumptions/89). -/
def State.bobReset (s : State) : State :=
  let t := (s.bob.tasks.filter (fun x => Nat.beq x.typ 1)).foldl State.sliceGone s.resetBob
  let u := (s.bob.tasks.filter (fun x => Nat.beq x.typ 3 && Nat.beq x.which 0)).foldl
    (fun s x => s.notCoded x.own x.frame x.row) t
  (s.bob.tasks.filter (fun x => Nat.beq x.typ 6 && Nat.ble 1 x.which)).foldl
    (fun s x => s.repairLost x.own x.frame x.row) u

/-- The block reset of the source's instance (R493); `cut` says what is in work in it. -/
def State.blockReset (s : State) (code : Nat) (cut : Cut) : State :=
  let i := srcInst code
  match code / 4096 % 16 with
  | 2 => (s.openShadow 2 0 false).bobReset.endShadow 2 0
  | 7 => s.ckvHalt (i % 8) 4 cut
  | 8 => s.resetAudPort (i % 16) (cut.got.getD (i % 16) 0)
  | 10 => s.resetLane i
  | 11 => s.resetSource i
  | 13 => s.condemnUp (i % 128) (engCause code)
  | _ => s

/-- SEL handles a reaction until it completes (R495). -/
def State.setHandling (s : State) (l : List React) : State :=
  ({ s with sel := { s.sel with handling := l } } : State).flag F.selStatHandling (!l.isEmpty)

/-- A reaction starts (R493 to R495). LOG, NOTIFY and a RESET that acts as NOTIFY are complete at once; a mode request that
the mode in force refuses is recorded only, but SAFE in DRAIN acts on the channels (R559); SAFE in SAFE is met. -/
def State.startReaction (s : State) (r : React) (cut : Cut) : State :=
  if Nat.beq s.mode Mode.hold then s
  else match r.react with
    | 2 => if resettable r.code then (s.setHandling (s.sel.handling ++ [r])).blockReset r.code cut else s
    | 3 => if s.reqRefused 3 then s else (s.setHandling (s.sel.handling ++ [r])).request Mode.degraded 4 3 r.code
    | 4 =>
      if Nat.beq s.mode Mode.safe then s
      else if s.reqRefused 4 && !Nat.beq s.mode Mode.drain then s
      else (s.setHandling (s.sel.handling ++ [r])).request Mode.safe 4 3 r.code
    | _ => s

/-- FAULT_OCCURRENCE (R489, R491, R492): SEL takes an occurrence of a listed source; a forced one never reaches its block
(R510). -/
def State.faultOccurs (s : State) (code : Nat) (cut : Cut) : State :=
  if !listedSource code then s
  else
    let o := s.takeOcc code
    if Nat.beq (srcType code) 0x10 then o.1.selSelf (srcInst code) o.2
    else
      let j := o.1.judge code o.2
      let act := j.2.lasting && !o.2 && !Nat.beq s.mode Mode.hold
      let t := j.1.cond act (fun s => s.blockAction code)
      t.cond j.2.start (fun s => s.startReaction ⟨code, j.2.react⟩ cut)
def execFaultOccurrence (code : Nat) (cut : Cut) (s : State) : Host.Outcome State Fault Refusal :=
  .next (s.faultOccurs code cut)

/-- A pending reaction that is already carried out when its turn comes (R497): a request for the mode in force, a RESET of the
instance that `done` has just reset. -/
def State.carriedOut (s : State) (done r : React) : Bool :=
  (Nat.beq r.react 4 && Nat.beq s.mode Mode.safe) || (Nat.beq r.react 3 && Nat.beq s.mode Mode.degraded)
    || (Nat.beq r.react 2 && Nat.beq done.react 2 && Nat.beq (r.code / 4096) (done.code / 4096)
      && Nat.beq (srcInst r.code) (srcInst done.code))

/-- With nothing being handled, the pending reactions start in order, until one takes time (R497). -/
def State.startPending (s : State) (done : React) (cut : Cut) : List React → State
  | [] => { s with sel := { s.sel with pend := [] } }
  | r :: rest =>
    if !s.sel.handling.isEmpty then { s with sel := { s.sel with pend := r :: rest } }
    else if s.carriedOut done r then s.startPending done cut rest
    else (s.startReaction r cut).startPending done cut rest

/-- Has the reaction ended (R495)? A mode request has once the controller has decided it. -/
def State.reactionEnded (s : State) (r : React) : Bool :=
  Nat.blt r.react 3 || !s.sys.reqs.any (fun q => Nat.beq q.who 4 && Nat.beq q.src r.code)

/-- REACTION_COMPLETE (R495, R497): the handling of `code` ends; `cut` says what is in work in an instance that a pending
RESET acts on. -/
def State.reactionDone (s : State) (code : Nat) (cut : Cut) : State :=
  match s.sel.handling.find? (fun r => Nat.beq r.code code) with
  | some r =>
    if s.reactionEnded r then
      let t := s.setHandling (s.sel.handling.erase r)
      if t.sel.handling.isEmpty then t.startPending r cut t.sel.pend else t
    else s
  | none => s
def execReactionComplete (code : Nat) (cut : Cut) (s : State) : Host.Outcome State Fault Refusal :=
  .next (s.reactionDone code cut)

end Sys2Proof.Machine
end

