-- ==== Sys2Proof/Machine/Hardware.lean ====
section
/-!
DEFINITION. Sys2Proof/Machine/Hardware.lean: the module's supply, slot contacts and sensors (chapter 25, R583 to R602):
power-on, the exit from HOLD, the loss of supply good, and the readings of SYS_PWR and SYS_THERM.
-/

namespace Sys2Proof.Machine

/-- POWER_ON (R7, R54, R551): every register and everything behind it returns to its value after power-on, sequence
numbers restart at 0, and the module is in HOLD with cause POWER. The Ecotte images and the journal's cells are
non-volatile, and the chassis goes on driving the contacts. -/
def State.powerOn (s : State) : State :=
  let t : State := {
    pending := s.pending
    free := s.free
    arb := { journal := s.arb.journal, jidx := s.arb.jidx, jpage := s.arb.jpage }
    sys := { enable := s.sys.enable, removeN := s.sys.removeN, slotId := s.sys.slotId }
    nvm := { slots := s.nvm.slots } }
  ((t.flag F.sysSlotEnable s.sys.enable).flag F.sysSlotRemove (!s.sys.removeN)).setMode Mode.hold 0
def execPowerOn (s : State) : Host.Outcome State Fault Refusal := .next s.powerOn

/-- HOLD_EXIT (R551, R585, R595): supply good and MOD_ENABLE have both been high for 1 ms; SLOT_ID is sampled and the module
enters LOAD. Supply good cannot be asserted while a thermal trip is in force (R591, R599). -/
def State.holdExit (s : State) (slot : Nat) : State :=
  if Nat.beq s.mode Mode.hold && !s.sys.trip then
    let t : State := { s with sys := { s.sys with enable := true, supply := true, slotId := slot % 64 } }
    ((t.flag F.sysSlotEnable true).put F.sysSlotSlotId slot).toMode Mode.load 4
  else s
def execHoldExit (slot : Nat) (s : State) : Host.Outcome State Fault Refusal := .next (s.holdExit slot)

/-- Supply good is deasserted (R591): outside HOLD the module enters HOLD with cause ENABLE, and SYS_PWR_STAT records the
condition. -/
def State.supplyLost (s : State) (f : Fld) : State :=
  let t : State := { s with sys := { s.sys with supply := false } }
  if Nat.beq t.mode Mode.hold then t else (t.flag f true).enterHold 1

/-- SUPPLY_GOOD_LOSS (R591): the input is below its range (cause 0) or above it (1), or a rail leaves regulation. -/
def execSupplyGoodLoss (cause : Nat) (s : State) : Host.Outcome State Fault Refusal :=
  .next (s.supplyLost (match cause with
    | 0 => F.sysPwrStatUv
    | 1 => F.sysPwrStatOv
    | _ => F.sysPwrStatRail))

/-- The hottest of the sensors, −128 °C where none is given. -/
def hottestSensor (l : List Int) : Int := l.foldl max (-128)

/-- TJ and TJ_PEAK take the hottest reading. -/
def State.showTemps (s : State) (tj : Int) : State :=
  (s.put F.sysThermTj (unsignedOf 8 tj)).put F.sysPwrStatTjPeak (unsignedOf 8 (max tj (s.getInt F.sysPwrStatTjPeak)))

/-- WARN is set at 100 °C and cleared when every sensor is below 95 °C (R599); each change is one STATE event. -/
def State.warnTemps (s : State) (tj : Int) : State :=
  let w := if (100 : Int) ≤ tj then true else if tj < 95 then false else s.is F.sysThermWarn
  if w == s.is F.sysThermWarn then s
  else (s.flag F.sysThermWarn w).stateEv 1 2 0 ((if w then 1 else 0) + unsignedOf 8 tj * 2 ^ 8)

/-- The trip (R599): at 110 °C or above for 1 ms supply good is deasserted; it may return once every sensor is below 85 °C. -/
def State.tripTemps (s : State) (tj : Int) : State :=
  if (110 : Int) ≤ tj then
    match s.sys.hotSince with
    | some t =>
      if Nat.ble (t + 1000000) s.now && !s.sys.trip then
        ({ s with sys := { s.sys with trip := true } } : State).supplyLost F.sysPwrStatTrip
      else s
    | none => { s with sys := { s.sys with hotSince := some s.now } }
  else
    let t : State := { s with sys := { s.sys with hotSince := none } }
    if tj < 85 then { t with sys := { t.sys with trip := false } } else t

/-- JUNCTION_SENSOR_READ (R599): the eight junction sensors are read at the next 1 ms instant. -/
def State.readSensors (s : State) (temps : List Int) : State :=
  let tj := hottestSensor temps
  (((s.advance ((s.now / 1000000 + 1) * 1000000)).showTemps tj).warnTemps tj).tripTemps tj
def execJunctionSensorRead (temps : List Int) (s : State) : Host.Outcome State Fault Refusal := .next (s.readSensors temps)

/-- POWER_MONITOR_UPDATE (R602): every 100 ms, the input voltage in 0.1 V and power in W, and the coolant temperatures. -/
def State.readPower (s : State) (vin watt : Nat) (inlet outlet : Int) : State :=
  let t := s.advance ((s.now / 100000000 + 1) * 100000000)
  (((t.put F.sysPwrVin vin).put F.sysPwrPin watt).put F.sysThermInlet (unsignedOf 8 inlet)).put F.sysThermOutlet
    (unsignedOf 8 outlet)
def execPowerMonitorUpdate (vin watt : Nat) (inlet outlet : Int) (s : State) : Host.Outcome State Fault Refusal :=
  .next (s.readPower vin watt inlet outlet)

end Sys2Proof.Machine
end

