-- ==== Sys2Proof/Machine/Hosts.lean ====
section
/-!
DEFINITION. Sys2Proof/Machine/Hosts.lean: the host ports (chapter 24, R564 to R582): accesses, the writes whose register
has no row of its own, port resets, the link and the event queue.
-/

namespace Sys2Proof.Machine

/-! Registers that a host write leaves alone for a time -/

/-- Context n is one of the contexts n + 1 to n + 3 of a span in existence (R68). -/
def State.inSpan (s : State) (n : Nat) : Bool :=
  !Nat.beq (n % 4) 0 && s.admitted (n / 4 * 4) && s.ais (F.chnFmtSpan4 (n / 4 * 4))

/-- The CHN registers that a span locks (R68). -/
def State.lockedChn (s : State) (a : Nat) : Bool :=
  (isInst a (R.chnFmt 0) 0x4000 256 || isInst a (R.chnCodec 0) 0x4000 256 || isInst a (R.chnClass 0) 0x4000 256
    || isInst a (R.chnDfix 0) 0x4000 256) && s.inSpan ((a - 0x00C00000) / 0x4000)

/-- The ingest registers that an enabled source or flow locks (R144, R167, R174). -/
def State.lockedIng (s : State) (a : Nat) : Bool :=
  if Nat.ble (R.ingSrcCfg 0) a && Nat.blt a (R.ingSrcCfg 512) then
    let o := (a - R.ingSrcCfg 0) % 0x400
    (Nat.beq o 0x4 || Nat.beq o 0x8 || (Nat.ble 0x10 o && Nat.blt o 0x30) || Nat.beq o 0x30)
      && s.is (F.ingSrcCfgEn ((a - R.ingSrcCfg 0) / 0x400))
  else if isInst a (R.decSrcCfg 0) (R.decSrcCfg 1 - R.decSrcCfg 0) 512 then
    s.is (F.ingSrcCfgEn ((a - R.decSrcCfg 0) / (R.decSrcCfg 1 - R.decSrcCfg 0)))
  else Nat.ble (R.ingAflCfg 0) a && Nat.blt a (R.ingAflCfg 32) && s.is (F.ingAflCfgEn ((a - R.ingAflCfg 0) / 0x20))

/-- The lane registers that an enabled lane locks: LNK_Q_CFG (R433). -/
def State.lockedLnk (s : State) (a : Nat) : Bool :=
  isInst a (R.lnkQCfg 0) 0x8000 64 && [0, 1, 2, 3].any (fun k => s.is (F.lnkCfgEn ((a - R.lnkQCfg 0) / 0x8000 * 4 + k)))

/-- The host registers that a queue or tap which is on locks: HST_EQ_BASE (R575), HST_TAP_BASE (R577). -/
def State.lockedHst (s : State) (a : Nat) : Bool :=
  let h := (a - 0x00061000) / 0x1000
  let o := (a - 0x00061000) % 0x1000
  if Nat.beq o 0x10 || Nat.beq o 0x14 then s.is (F.hstEqCfgEn h)
  else Nat.ble 0x100 o && (Nat.beq (o % 0x20) 4 || Nat.beq (o % 0x20) 8) && s.is (F.hstTapCfgEn h ((o - 0x100) / 0x20))

/-- Does a host write to this register have no effect now, being journalled only? -/
def State.locked (s : State) (a : Nat) : Bool :=
  if Nat.ble 0x00C00000 a && Nat.blt a 0x01000000 then s.lockedChn a
  else if Nat.ble 0x00400000 a && Nat.blt a 0x00600000 then s.lockedIng a
  else if Nat.ble 0x00200000 a && Nat.blt a 0x00400000 then s.lockedLnk a
  else if Nat.ble 0x00061000 a && Nat.blt a 0x00065000 then s.lockedHst a
  else isInst a (R.drcTrnCtl 0) 0x8000 32

/-! The effect of a write, by register -/

/-- A write of HST_EQ_CFG of port p (R575): the other fields are locked while the queue is on; EN = 1 sets the head to the
tail and starts with the next numbered event, EN = 0 stops the queue. -/
def State.writeEqCfg (s : State) (p : Nat) (v : Word) : State :=
  let t := s.store (R.hstEqCfg p) v (if s.is (F.hstEqCfgEn p) then 0x20 else allBits)
  let u : State := { t with arb := { t.arb with eq := Tab.del t.arb.eq p } }
  u.cond (u.is (F.hstEqCfgEn p)) (fun s => s.put (F.hstEqHeadIdx p) (s.get (F.hstEqTailIdx p)))

/-- A write of RPL_CTL or RPL_CH_CFG (R367, R369). -/
def State.writeRpl (s : State) (a : Nat) (v : Word) : State :=
  let t := s.store a v allBits
  if Nat.beq a R.rplCtl then t.setRing { t.ring with quota := true }
  else t.ringChange ((a - R.rplChCfg 0) / 0x40)

/-- A write that has no effect beyond its fields. -/
def State.writePlainReg (s : State) (a : Nat) (v : Word) : State := if s.locked a then s else s.store a v allBits

/-- The instance whose register lies at `a`. -/
def instOf (a base stride : Nat) : Nat := (a - base) / stride

/-- Blocks below 0x0010_0000: SYS, SEL, BOB, CLK, TIM, NVM, HST, CKV, AUD. -/
def State.writeLow (s : State) (a : Nat) (v : Word) : State :=
  if Nat.beq a R.selClr then s.selClear v
  else if isInst a (R.selTypeCfg 0) 4 256 then s.writeTypeCfg (instOf a (R.selTypeCfg 0) 4) v
  else if isInst a (R.selForce 0) 4 2048 then s.selForce (instOf a (R.selForce 0) 4) v
  else if isInst a (R.bobExHclr 0) 0x80 148 then s.writeHclr (instOf a (R.bobExHclr 0) 0x80) v
  else if Nat.beq a R.clkCtl then s.writeClkCtl v ⟨[], none, [], []⟩
  else if isInst a (R.clkPllTgt 0) 0x40 76 then s.writeTarget (instOf a (R.clkPllTgt 0) 0x40) v
  else if Nat.beq a R.timCtl then s.writeTimCtl v
  else if isInst a (R.timDomCfg 0) 0x100 2 then s.writeDomCfg (instOf a (R.timDomCfg 0) 0x100) v
  else if Nat.beq a R.nvmUpdCtl then s.writeUpdCtl v
  else if Nat.ble R.nvmUpdSrcLo a && Nat.ble a R.nvmUpdLen then s.writeUpd a v
  else if Nat.beq a R.nvmRdCtl then s.writeRdCtl v
  else if isInst a (R.hstEqCfg 0) 0x1000 4 then s.writeEqCfg (instOf a (R.hstEqCfg 0) 0x1000) v
  else if isInst a (R.hstRdCfg 0) 0x1000 4 then s.writeRdCfg (instOf a (R.hstRdCfg 0) 0x1000) v
  else if Nat.ble 0x00061000 a && Nat.blt a 0x00065000 && Nat.ble 0x100 (a % 0x1000) && Nat.blt (a % 0x1000) 0x300
      && Nat.beq (a % 0x20) 0 then
    s.writeTapCfg (instOf a 0x00061000 0x1000) ((a % 0x1000 - 0x100) / 0x20) v
  else if isInst a (R.ckvCtl 0) 0x100 8 then s.writeCkvCtl (instOf a (R.ckvCtl 0) 0x100) v ⟨[], none, [], []⟩
  else if Nat.ble (R.ckvCfg 0) a && Nat.blt a (R.ckvCfg 8) then s.writeCkv (instOf a (R.ckvCfg 0) 0x100) a v
  else if isInst a (R.audPortCfg 0) 0x100 16 then s.writeAudPort (instOf a (R.audPortCfg 0) 0x100) v
  else if isInst a (R.audInCfg 0) 0x40 48 then s.writeAudIn (instOf a (R.audInCfg 0) 0x40) v
  else s.writePlainReg a v

/-- Blocks DRC, LNK, ING and DEC. -/
def State.writeMid (s : State) (a : Nat) (v : Word) : State :=
  if isInst a (R.drcCtl 0) 0x8000 32 then s.writeDrcCtl (instOf a (R.drcCtl 0) 0x8000) v
  else if isInst a (R.drcInj 0) 0x8000 32 then s.writeDrcInj (instOf a (R.drcInj 0) 0x8000) v
  else if isInst a (R.lnkCfg 0) 0x2000 256 then s.writeLnkCfg (instOf a (R.lnkCfg 0) 0x2000) v
  else if isInst a (R.lnkTest 0) 0x2000 256 then s.writeLnkTest (instOf a (R.lnkTest 0) 0x2000) v
  else if isInst a (R.lnkInj 0) 0x2000 256 then s.writeLnkInj (instOf a (R.lnkInj 0) 0x2000) v
  else if isInst a (R.ingSrcCfg 0) 0x400 512 then s.writeSrcCfg (instOf a (R.ingSrcCfg 0) 0x400) v
  else if isInst a (R.ingAflCfg 0) 0x20 32 then s.writeAfl (instOf a (R.ingAflCfg 0) 0x20) v
  else s.writePlainReg a v

/-- Blocks CMP, ENC, CHN, EGR and RPL. -/
def State.writeHigh (s : State) (a : Nat) (v : Word) : State :=
  if isInst a (R.cmpCoefSel 0) 0x10000 16 then s.writeCoefSel (instOf a (R.cmpCoefSel 0) 0x10000) v
  else if isInst a (R.cmpCoefData 0) 0x10000 16 then s.writeCoefData (instOf a (R.cmpCoefData 0) 0x10000) v
  else if isInst a (R.cmpCoefLoad 0) 0x10000 16 then s.writeCoefLoad (instOf a (R.cmpCoefLoad 0) 0x10000) v
  else if isInst a (R.cmpLutSel 0) 0x10000 16 then s.writeLutSel (instOf a (R.cmpLutSel 0) 0x10000) v
  else if isInst a (R.cmpLutData 0) 0x10000 16 then s.writeLutData (instOf a (R.cmpLutData 0) 0x10000) v
  else if isInst a (R.cmpLutLoad 0) 0x10000 16 then s.writeLutLoad (instOf a (R.cmpLutLoad 0) 0x10000) v
  else if Nat.ble 0x00600000 a && Nat.blt a 0x00700000 && isInst (a % 0x10000) 0x108 0x10 16 then
    s.writeChlOut (instOf a 0x00600000 0x10000) (instOf (a % 0x10000) 0x108 0x10) v
  else if isInst a (R.encRedCmd 0) 0x8000 128 then s.writeRedCmd (instOf a (R.encRedCmd 0) 0x8000) v
  else if isInst a (R.encInj 0) 0x8000 128 then s.writeEncInj (instOf a (R.encInj 0) 0x8000) v
  else if isInst a (R.chnCtl 0) 0x4000 256 then s.writeChnCtl (instOf a (R.chnCtl 0) 0x4000) v
  else if isInst a (R.chnDupCmd 0) 0x4000 256 then s.writeDupCmd (instOf a (R.chnDupCmd 0) 0x4000) v
  else if Nat.beq a R.rplCtl || isInst a (R.rplChCfg 0) 0x40 256 then s.writeRpl a v
  else if isInst a (R.rplRqCfg 0) 0x40 4 then s.writeRqCfg (instOf a (R.rplRqCfg 0) 0x40) v
  else s.writePlainReg a v

/-- The effect of a taken host write to any register but SYS_REQ. -/
def State.writeReg (s : State) (a : Nat) (v : Word) : State :=
  if Nat.blt a 0x00100000 then s.writeLow a v
  else if Nat.blt a 0x00600000 then s.writeMid a v
  else s.writeHigh a v

/-! Commands -/

/-- HOST_WRITE_POSTED (R568): a write of `v` to `a` joins port h's queue; with 64 waiting, the host waits. -/
def execHostWritePosted (h a : Nat) (v : Word) (s : State) : Host.Outcome State Fault Refusal := .next (s.post (h % 4) a v)

/-- HOST_REGISTER_WRITE (R568, R569): the register arbiter takes port h's write of `v` to `a`. -/
def execHostRegisterWrite (h a : Nat) (v : Word) (s : State) : Host.Outcome State Fault Refusal :=
  .next (if Nat.beq a R.sysReq then s.takeSysReq h v else s.takeWrite h a v false (fun s => s.writeReg a v))

/-- ACCESS_ERROR (R6): an access that is not an aligned word is counted; a read returns 0. -/
def execAccessError (h : Nat) (rd : Bool) (s : State) : Host.Outcome State Fault Refusal :=
  .next ((s.bump (F.hstCntAccerr (h % 4)) 1).cond rd (fun s => s.setPort (h % 4) { s.port (h % 4) with reply := 0 }))

/-- A read of `a` by port h, served once every write of that port before it is taken (R569). -/
def State.servedRead (s : State) (h a : Nat) : State := if (s.port h).posted.isEmpty then s.hostRead h a else s

/-- READ_AND_CLEAR (R10) and LATCHING_READ (R12). -/
def execReadAndClear (h a : Nat) (s : State) : Host.Outcome State Fault Refusal := .next (s.servedRead (h % 4) a)
def execLatchingRead (h a : Nat) (s : State) : Host.Outcome State Fault Refusal := .next (s.servedRead (h % 4) a)

/-- EVENT_QUEUE_ENABLE (R575): port h writes HST_EQ_CFG of port p with EN = 1. -/
def execEventQueueEnable (h p : Nat) (v : Word) (s : State) : Host.Outcome State Fault Refusal :=
  .next (s.takeWrite h (R.hstEqCfg (p % 4)) (setBitsAt v 5 1 1) false
    (fun s => s.writeEqCfg (p % 4) (setBitsAt v 5 1 1)))

/-! Port resets and the link -/

/-- Port h's queue, taps and retrieval ring are switched off and its retrieval request ends (R567). -/
def State.portOff (s : State) (h : Nat) : State :=
  let s1 := (s.flag (F.hstEqCfgEn h) false).flag (F.hstRdCfgEn h) false
  let s2 := s1.each (List.range 16) (fun s k => s.flag (F.hstTapCfgEn h k) false)
  ({ s2 with arb := { s2.arb with eq := Tab.del s2.arb.eq h } } : State).reqAbort h

/-- A port reset of port h (R567); a port whose waiting write is discarded leaves the round (R568). -/
def State.portReset (s : State) (h : Nat) : State :=
  let n := (s.port h).posted.length
  let s1 := ((s.portOff h).bump (F.hstCntWlost h) n).put (F.hstIrqStatStat h) 0
  let s2 := s1.setPort h { s1.port h with posted := [], msiWait := [], taps := [] }
  { s2 with round := { s2.round with left := s2.round.left.filter (fun p => !Nat.beq p h) } }

/-- HST_LINK shows a link (R564); down, it has no speed and no width. -/
def State.setLink (s : State) (h lstate speed width : Nat) (bme : Bool) : State :=
  ((((s.put (F.hstLinkLstate h) (min lstate 2))).put (F.hstLinkSpeed h) (if Nat.beq lstate 0 then 0 else speed)).put
    (F.hstLinkWidth h) (if Nat.beq lstate 0 then 0 else width)).flag (F.hstLinkBme h) bme

/-- PORT_RESET (R567): a hot reset, an FLR, PERST_N low, or, with `down`, a link-down; one that no host initiated raises
HST_LINK. -/
def State.resetPort (s : State) (h : Nat) (byHost down : Bool) : State :=
  (s.portReset h).cond down (fun s => (s.setLink h 0 0 0 false).cond (!byHost) (fun s => s.raise (Src.hstLink h)))
def execPortReset (h : Nat) (byHost down : Bool) (s : State) : Host.Outcome State Fault Refusal :=
  .next (s.resetPort (h % 4) byHost down)

/-- HOST_LINK_STATE_CHANGE (R487, R564): the link's state, speed, width and bus-master enable; leaving L0 other than by the
host raises HST_LINK, and a link that goes down resets its port (R567). -/
def State.linkChange (s : State) (h lstate speed width : Nat) (bme byHost : Bool) : State :=
  let was := s.get (F.hstLinkLstate h)
  let s1 := s.setLink h lstate speed width bme
  let s2 := s1.cond (Nat.beq was 2 && !Nat.beq (s1.get (F.hstLinkLstate h)) 2 && !byHost) (fun s => s.raise (Src.hstLink h))
  s2.cond (!Nat.beq was 0 && Nat.beq lstate 0) (fun s => s.portReset h)
def execHostLinkStateChange (h lstate speed width : Nat) (bme byHost : Bool) (s : State) :
    Host.Outcome State Fault Refusal := .next (s.linkChange (h % 4) lstate speed width bme byHost)

end Sys2Proof.Machine
end

