-- ==== Sys2Proof/Machine/Dispatch.lean ====
section
/-!
DEFINITION. Sys2Proof/Machine/Dispatch.lean: one arm per command.
-/

namespace Sys2Proof.Machine

/-- The effect of a command on everything but the queue. -/
def exec (i : Instr) (s : State) : Host.Outcome State Fault Refusal :=
  match i with
  | .powerOn => Sys2Proof.Machine.execPowerOn s
  | .modEnableLow => Sys2Proof.Machine.execModEnableLow s
  | .holdExit slot => Sys2Proof.Machine.execHoldExit slot s
  | .supplyGoodLoss cause => Sys2Proof.Machine.execSupplyGoodLoss cause s
  | .junctionSensorRead temps => Sys2Proof.Machine.execJunctionSensorRead temps s
  | .removeRequest => Sys2Proof.Machine.execRemoveRequest s
  | .portReset h byHost down => Sys2Proof.Machine.execPortReset h byHost down s
  | .hostLinkStateChange h lstate speed width bme byHost => Sys2Proof.Machine.execHostLinkStateChange h lstate speed width bme byHost s
  | .hostWritePosted h a v => Sys2Proof.Machine.execHostWritePosted h a v s
  | .hostRegisterWrite h a v => Sys2Proof.Machine.execHostRegisterWrite h a v s
  | .accessError h rd => Sys2Proof.Machine.execAccessError h rd s
  | .readAndClear h a => Sys2Proof.Machine.execReadAndClear h a s
  | .latchingRead h a => Sys2Proof.Machine.execLatchingRead h a s
  | .chnStart h n v => Sys2Proof.Machine.execChnStart h n v s
  | .chnRelease h n v => Sys2Proof.Machine.execChnRelease h n v s
  | .chnCommit h n => Sys2Proof.Machine.execChnCommit h n s
  | .chnGroupCommit h n => Sys2Proof.Machine.execChnGroupCommit h n s
  | .layerCommit h c k v => Sys2Proof.Machine.execLayerCommit h c k v s
  | .setCommit h n v => Sys2Proof.Machine.execSetCommit h n v s
  | .coefSelect h c v => Sys2Proof.Machine.execCoefSelect h c v s
  | .coefDataWrite h c v => Sys2Proof.Machine.execCoefDataWrite h c v s
  | .coefLoad h c v => Sys2Proof.Machine.execCoefLoad h c v s
  | .coefLoadCheck c => Sys2Proof.Machine.execCoefLoadCheck c s
  | .lutSelect h c v => Sys2Proof.Machine.execLutSelect h c v s
  | .lutDataWrite h c v => Sys2Proof.Machine.execLutDataWrite h c v s
  | .lutLoad h c v => Sys2Proof.Machine.execLutLoad h c v s
  | .lutLoadCheck c => Sys2Proof.Machine.execLutLoadCheck c s
  | .sourceEnable h k v => Sys2Proof.Machine.execSourceEnable h k v s
  | .sourceEnableCheck k => Sys2Proof.Machine.execSourceEnableCheck k s
  | .sourceDisable h k v => Sys2Proof.Machine.execSourceDisable h k v s
  | .audioFlowEnable h f v => Sys2Proof.Machine.execAudioFlowEnable h f v s
  | .audPortEnable h a v => Sys2Proof.Machine.execAudPortEnable h a v s
  | .audPortDisable h a v => Sys2Proof.Machine.execAudPortDisable h a v s
  | .audInputEnable h k v => Sys2Proof.Machine.execAudInputEnable h k v s
  | .audInputDisable h k v => Sys2Proof.Machine.execAudInputDisable h k v s
  | .laneEnable h l v => Sys2Proof.Machine.execLaneEnable h l v s
  | .laneEnableCheck l => Sys2Proof.Machine.execLaneEnableCheck l s
  | .laneDisable h l v => Sys2Proof.Machine.execLaneDisable h l v s
  | .laneTestEnable h l v => Sys2Proof.Machine.execLaneTestEnable h l v s
  | .laneTestAccept l => Sys2Proof.Machine.execLaneTestAccept l s
  | .laneTestDisable h l v => Sys2Proof.Machine.execLaneTestDisable h l v s
  | .prbsInjectSingle h l v => Sys2Proof.Machine.execPrbsInjectSingle h l v s
  | .prbsInjectBurst h l v => Sys2Proof.Machine.execPrbsInjectBurst h l v s
  | .timForce h v => Sys2Proof.Machine.execTimForce h v s
  | .ptpDomainEnable h d v => Sys2Proof.Machine.execPtpDomainEnable h d v s
  | .ptpDomainDisable h d v => Sys2Proof.Machine.execPtpDomainDisable h d v s
  | .egrCommit h n v => Sys2Proof.Machine.execEgrCommit h n v s
  | .egrCommitCheck n => Sys2Proof.Machine.execEgrCommitCheck n s
  | .rplRequestStart h p v => Sys2Proof.Machine.execRplRequestStart h p v s
  | .rplRequestAbort h p v => Sys2Proof.Machine.execRplRequestAbort h p v s
  | .selClearFirst h v => Sys2Proof.Machine.execSelClearFirst h v s
  | .selClearSecond h v => Sys2Proof.Machine.execSelClearSecond h v s
  | .selClearRecov h v => Sys2Proof.Machine.execSelClearRecov h v s
  | .selForce h w v => Sys2Proof.Machine.execSelForce h w v s
  | .selTypeCfgWrite h t v => Sys2Proof.Machine.execSelTypeCfgWrite h t v s
  | .ckvGo h u v => Sys2Proof.Machine.execCkvGo h u v s
  | .ckvAbort h u v cut => Sys2Proof.Machine.execCkvAbort h u v cut s
  | .nvmUpdateGo h v => Sys2Proof.Machine.execNvmUpdateGo h v s
  | .nvmUpdateAbort h v => Sys2Proof.Machine.execNvmUpdateAbort h v s
  | .nvmReadoutGo h v => Sys2Proof.Machine.execNvmReadoutGo h v s
  | .nvmReadoutAbort h v => Sys2Proof.Machine.execNvmReadoutAbort h v s
  | .modeRequestHold h v => Sys2Proof.Machine.execModeRequestHold h v s
  | .modeRequestRun h v => Sys2Proof.Machine.execModeRequestRun h v s
  | .modeRequestSafe h v => Sys2Proof.Machine.execModeRequestSafe h v s
  | .modeRequestDrain h v => Sys2Proof.Machine.execModeRequestDrain h v s
  | .modeRequestLoopback h v => Sys2Proof.Machine.execModeRequestLoopback h v s
  | .modeRequestSelftest h v => Sys2Proof.Machine.execModeRequestSelftest h v s
  | .modeRequestService h v => Sys2Proof.Machine.execModeRequestService h v s
  | .modeRequestInvalid h v => Sys2Proof.Machine.execModeRequestInvalid h v s
  | .refRestore h v cut => Sys2Proof.Machine.execRefRestore h v cut s
  | .pllTargetWrite h p v => Sys2Proof.Machine.execPllTargetWrite h p v s
  | .pllTargetCheck p inBand => Sys2Proof.Machine.execPllTargetCheck p inBand s
  | .dramRetrainRequest h d v => Sys2Proof.Machine.execDramRetrainRequest h d v s
  | .dramInjectSingle h d v => Sys2Proof.Machine.execDramInjectSingle h d v s
  | .dramInjectDouble h d v => Sys2Proof.Machine.execDramInjectDouble h d v s
  | .engineCondemnCmd h e v => Sys2Proof.Machine.execEngineCondemnCmd h e v s
  | .engineRetestCmd h e v => Sys2Proof.Machine.execEngineRetestCmd h e v s
  | .engineInjectResidue h e v => Sys2Proof.Machine.execEngineInjectResidue h e v s
  | .engineInjectParity h e v => Sys2Proof.Machine.execEngineInjectParity h e v s
  | .engineInjectSig h e v => Sys2Proof.Machine.execEngineInjectSig h e v s
  | .duplexSwap h n v => Sys2Proof.Machine.execDuplexSwap h n v s
  | .bobHistogramClear h x v => Sys2Proof.Machine.execBobHistogramClear h x v s
  | .eventQueueEnable h p v => Sys2Proof.Machine.execEventQueueEnable h p v s
  | .tapEnable h p k v => Sys2Proof.Machine.execTapEnable h p k v s
  | .retrievalRingEnable h p v => Sys2Proof.Machine.execRetrievalRingEnable h p v s
  | .captureFrameStart n => Sys2Proof.Machine.execCaptureFrameStart n s
  | .rowDeadline n k j => Sys2Proof.Machine.execRowDeadline n k j s
  | .releaseDecision m k j => Sys2Proof.Machine.execReleaseDecision m k j s
  | .rowRelease m k j dev => Sys2Proof.Machine.execRowRelease m k j dev s
  | .packetDeparture n x => Sys2Proof.Machine.execPacketDeparture n x s
  | .auditPoint n units l => Sys2Proof.Machine.execAuditPoint n units l s
  | .idleAuditTick l => Sys2Proof.Machine.execIdleAuditTick l s
  | .st2110PacketReceived k p => Sys2Proof.Machine.execSt2110PacketReceived k p s
  | .morvolosPacketReceived k p => Sys2Proof.Machine.execMorvolosPacketReceived k p s
  | .cameraPacketReceived k p => Sys2Proof.Machine.execCameraPacketReceived k p s
  | .audioFlowPacketReceived f p => Sys2Proof.Machine.execAudioFlowPacketReceived f p s
  | .pathLossTimeout k x => Sys2Proof.Machine.execPathLossTimeout k x s
  | .carryForwardComplete e => Sys2Proof.Machine.execCarryForwardComplete e s
  | .decodeSliceComplete e result => Sys2Proof.Machine.execDecodeSliceComplete e result s
  | .bobTick => Sys2Proof.Machine.execBobTick s
  | .taskDispatch e pre => Sys2Proof.Machine.execTaskDispatch e pre s
  | .taskExpiry => Sys2Proof.Machine.execTaskExpiry s
  | .ingestRowComplete e mask hints => Sys2Proof.Machine.execIngestRowComplete e mask hints s
  | .composeRowComplete c => Sys2Proof.Machine.execComposeRowComplete c s
  | .frontEndComplete m k j w x => Sys2Proof.Machine.execFrontEndComplete m k j w x s
  | .backEndComplete m k j w size sig => Sys2Proof.Machine.execBackEndComplete m k j w size sig s
  | .packRowComplete p => Sys2Proof.Machine.execPackRowComplete p s
  | .referenceRepairComplete e => Sys2Proof.Machine.execReferenceRepairComplete e s
  | .checkerFiring e parity => Sys2Proof.Machine.execCheckerFiring e parity s
  | .taskTimeLimit e => Sys2Proof.Machine.execTaskTimeLimit e s
  | .selftestIntervalStart e => Sys2Proof.Machine.execSelftestIntervalStart e s
  | .selftestOverdue e => Sys2Proof.Machine.execSelftestOverdue e s
  | .selftestSliceComplete e clean => Sys2Proof.Machine.execSelftestSliceComplete e clean s
  | .laneFrameReceived l f => Sys2Proof.Machine.execLaneFrameReceived l f s
  | .igmpReportTimer k => Sys2Proof.Machine.execIgmpReportTimer k s
  | .laneBlockLock l fec => Sys2Proof.Machine.execLaneBlockLock l fec s
  | .laneLockLoss l align bad => Sys2Proof.Machine.execLaneLockLoss l align bad s
  | .remoteFaultReceived l => Sys2Proof.Machine.execRemoteFaultReceived l s
  | .lockTimeExpiry l => Sys2Proof.Machine.execLockTimeExpiry l s
  | .trainingComplete l pre main post inv => Sys2Proof.Machine.execTrainingComplete l pre main post inv s
  | .trainingTimeout l frames => Sys2Proof.Machine.execTrainingTimeout l frames s
  | .backoffExpiry l => Sys2Proof.Machine.execBackoffExpiry l s
  | .upStableReset l => Sys2Proof.Machine.execUpStableReset l s
  | .bondAlignment q map skew => Sys2Proof.Machine.execBondAlignment q map skew s
  | .fecUncorrectable l corrected => Sys2Proof.Machine.execFecUncorrectable l corrected s
  | .morvolosAlignment l => Sys2Proof.Machine.execMorvolosAlignment l s
  | .morvolosAlignLoss l bad => Sys2Proof.Machine.execMorvolosAlignLoss l bad s
  | .morvolosPolarityFlip l => Sys2Proof.Machine.execMorvolosPolarityFlip l s
  | .prbsCheckerLock l => Sys2Proof.Machine.execPrbsCheckerLock l s
  | .prbsCheckerLoss l errs bits => Sys2Proof.Machine.execPrbsCheckerLoss l errs bits s
  | .refreshDue d u busy => Sys2Proof.Machine.execRefreshDue d u busy s
  | .dramTempRead d temps => Sys2Proof.Machine.execDramTempRead d temps s
  | .neighbourRefresh d => Sys2Proof.Machine.execNeighbourRefresh d s
  | .agePromotion d cls waited => Sys2Proof.Machine.execAgePromotion d cls waited s
  | .dramReadComplete a r => Sys2Proof.Machine.execDramReadComplete a r s
  | .scrubRead d result lane bank row cancelled => Sys2Proof.Machine.execScrubRead d result lane bank row cancelled s
  | .dqsTracking d beyond => Sys2Proof.Machine.execDqsTracking d beyond s
  | .dramRetrainComplete d rd wr vrd vwr clean => Sys2Proof.Machine.execDramRetrainComplete d rd wr vrd vwr clean s
  | .dramTrainingComplete d rd wr vrd vwr clean => Sys2Proof.Machine.execDramTrainingComplete d rd wr vrd vwr clean s
  | .dramTrainingTimeout d => Sys2Proof.Machine.execDramTrainingTimeout d s
  | .pllLockDeclared p band cut => Sys2Proof.Machine.execPllLockDeclared p band cut s
  | .pllLockLoss p cut => Sys2Proof.Machine.execPllLockLoss p cut s
  | .pllBandSearchStep p => Sys2Proof.Machine.execPllBandSearchStep p s
  | .pllTableBandTimeout p => Sys2Proof.Machine.execPllTableBandTimeout p s
  | .pllAcquireTimeout p => Sys2Proof.Machine.execPllAcquireTimeout p s
  | .pllRetryExpiry p => Sys2Proof.Machine.execPllRetryExpiry p s
  | .pllRampComplete p => Sys2Proof.Machine.execPllRampComplete p s
  | .clockMonitorWindow p khz cut => Sys2Proof.Machine.execClockMonitorWindow p khz cut s
  | .cleanerLoss cut => Sys2Proof.Machine.execCleanerLoss cut s
  | .ptpSyncReceived d port t1 corr t2 logInt => Sys2Proof.Machine.execPtpSyncReceived d port t1 corr t2 logInt s
  | .ptpAnnounceReceived d a => Sys2Proof.Machine.execPtpAnnounceReceived d a s
  | .ptpDelayRespReceived d t4 corr logInt => Sys2Proof.Machine.execPtpDelayRespReceived d t4 corr logInt s
  | .ptpDelayReqSend d => Sys2Proof.Machine.execPtpDelayReqSend d s
  | .ptpQualificationComplete d => Sys2Proof.Machine.execPtpQualificationComplete d s
  | .ptpAnnounceTimeout d => Sys2Proof.Machine.execPtpAnnounceTimeout d s
  | .ptpSyncTimeout d => Sys2Proof.Machine.execPtpSyncTimeout d s
  | .acquisitionStep => Sys2Proof.Machine.execAcquisitionStep s
  | .slewComplete => Sys2Proof.Machine.execSlewComplete s
  | .refInQualified => Sys2Proof.Machine.execRefInQualified s
  | .refInStop => Sys2Proof.Machine.execRefInStop s
  | .refInRateGate periods => Sys2Proof.Machine.execRefInRateGate periods s
  | .refInGlitch => Sys2Proof.Machine.execRefInGlitch s
  | .ppsInEdge => Sys2Proof.Machine.execPpsInEdge s
  | .ppsOutSecond => Sys2Proof.Machine.execPpsOutSecond s
  | .armWaitExpiry => Sys2Proof.Machine.execArmWaitExpiry s
  | .holdoverLongExpiry => Sys2Proof.Machine.execHoldoverLongExpiry s
  | .slewFarExpiry => Sys2Proof.Machine.execSlewFarExpiry s
  | .audioPortFrame a f => Sys2Proof.Machine.execAudioPortFrame a f s
  | .portPrimeDone a => Sys2Proof.Machine.execPortPrimeDone a s
  | .portStopDone a => Sys2Proof.Machine.execPortStopDone a s
  | .portClockValid a => Sys2Proof.Machine.execPortClockValid a s
  | .portClockLoss a got => Sys2Proof.Machine.execPortClockLoss a got s
  | .portRateGate a ppm got => Sys2Proof.Machine.execPortRateGate a ppm got s
  | .ringQuotaRecompute => Sys2Proof.Machine.execRingQuotaRecompute s
  | .retrievalSearchDone h => Sys2Proof.Machine.execRetrievalSearchDone h s
  | .retrievalSegmentRead h => Sys2Proof.Machine.execRetrievalSegmentRead h s
  | .retrievalRecordDelivery h bad => Sys2Proof.Machine.execRetrievalRecordDelivery h bad s
  | .faultOccurrence code cut => Sys2Proof.Machine.execFaultOccurrence code cut s
  | .shadowClose opener inst => Sys2Proof.Machine.execShadowClose opener inst s
  | .reactionComplete code cut => Sys2Proof.Machine.execReactionComplete code cut s
  | .quietPeriodExpiry => Sys2Proof.Machine.execQuietPeriodExpiry s
  | .selSelfError k => Sys2Proof.Machine.execSelSelfError k s
  | .seltypeRereadComplete good => Sys2Proof.Machine.execSeltypeRereadComplete good s
  | .eventArbiterArrival k => Sys2Proof.Machine.execEventArbiterArrival k s
  | .eventNumbering => Sys2Proof.Machine.execEventNumbering s
  | .modeEvaluation remove => Sys2Proof.Machine.execModeEvaluation remove s
  | .loadComplete fail ecc => Sys2Proof.Machine.execLoadComplete fail ecc s
  | .calibrateTimeout => Sys2Proof.Machine.execCalibrateTimeout s
  | .sourceWaitExpiry => Sys2Proof.Machine.execSourceWaitExpiry s
  | .degradedHoldExpiry => Sys2Proof.Machine.execDegradedHoldExpiry s
  | .recoverRebuildComplete => Sys2Proof.Machine.execRecoverRebuildComplete s
  | .recoverTimeout => Sys2Proof.Machine.execRecoverTimeout s
  | .drainCloseTimeout => Sys2Proof.Machine.execDrainCloseTimeout s
  | .drainSummaryWritten remove => Sys2Proof.Machine.execDrainSummaryWritten remove s
  | .selftestComplete cond cmp ce ue => Sys2Proof.Machine.execSelftestComplete cond cmp ce ue s
  | .journalWrite good => Sys2Proof.Machine.execJournalWrite good s
  | .nvmUpdateWriteDone x units => Sys2Proof.Machine.execNvmUpdateWriteDone x units s
  | .nvmUpdateVerifyDone same => Sys2Proof.Machine.execNvmUpdateVerifyDone same s
  | .nvmReadoutDone good => Sys2Proof.Machine.execNvmReadoutDone good s
  | .ckvDescriptorDone u d bytes second => Sys2Proof.Machine.execCkvDescriptorDone u d bytes second s
  | .ckvFetchError u cut => Sys2Proof.Machine.execCkvFetchError u cut s
  | .eventQueueWrite h => Sys2Proof.Machine.execEventQueueWrite h s
  | .msixModerationExpiry h v => Sys2Proof.Machine.execMsixModerationExpiry h v s
  | .lostHandover k returning => Sys2Proof.Machine.execLostHandover k returning s
  | .cleanerReturn => Sys2Proof.Machine.execCleanerReturn s
  | .ppsOutFall => Sys2Proof.Machine.execPpsOutFall s
  | .refInResume => Sys2Proof.Machine.execRefInResume s
  | .remoteFaultClear l => Sys2Proof.Machine.execRemoteFaultClear l s
  | .dramWriteComplete a => Sys2Proof.Machine.execDramWriteComplete a s
  | .safeReconstructionDecoded n => Sys2Proof.Machine.execSafeReconstructionDecoded n s
  | .ringRecordComplete n reused => Sys2Proof.Machine.execRingRecordComplete n reused s
  | .tapRecordComplete h k reused => Sys2Proof.Machine.execTapRecordComplete h k reused s
  | .farClear => Sys2Proof.Machine.execFarClear s
  | .powerMonitorUpdate vin watt inlet outlet => Sys2Proof.Machine.execPowerMonitorUpdate vin watt inlet outlet s

end Sys2Proof.Machine
end

