-- ==== Sys2Proof/WellFormed.lean ====
section
/-!
DEFINITION. Sys2Proof/WellFormed.lean: the ranges of a command's operands: port numbers, instances, and what a sensor or a
packet can report. A meaning takes a number outside its range modulo the range.
-/

namespace Sys2Proof

/-- An aligned word address of BAR0, 64 MiB (R6, R564). -/
def wordAddr (a : Nat) : Bool := Nat.beq (a % 4) 0 && Nat.blt a 0x04000000

/-- A SYS_REQ word whose key is wrong or whose code is no request (R553). -/
def badReq (v : Word) : Bool :=
  !Nat.beq (v.toNat / 0x1000000) 0xA5 || !([0, 4, 6, 8, 9, 10, 11].contains (v.toNat % 16))

/-- The command's operands lie in their ranges. -/
def Instr.wellFormed (i : Instr) : Bool :=
  match i with
  | .powerOn => true
  | .modEnableLow => true
  | .holdExit slot => Nat.blt slot 64
  | .supplyGoodLoss cause => Nat.blt cause 3
  | .junctionSensorRead temps => Nat.beq temps.length 8
  | .removeRequest => true
  | .portReset h _ _ => Nat.blt h 4
  | .hostLinkStateChange h lstate speed width _ _ => Nat.blt h 4 && Nat.blt lstate 3 && Nat.ble speed 5 && [0, 1, 2, 4].contains width
  | .hostWritePosted h a _ => Nat.blt h 4 && wordAddr a
  | .hostRegisterWrite h a _ => Nat.blt h 4 && wordAddr a
  | .accessError h _ => Nat.blt h 4
  | .readAndClear h a => Nat.blt h 4 && wordAddr a
  | .latchingRead h a => Nat.blt h 4 && wordAddr a
  | .chnStart h n _ => Nat.blt h 4 && Nat.blt n 256
  | .chnRelease h n _ => Nat.blt h 4 && Nat.blt n 256
  | .chnCommit h n => Nat.blt h 4 && Nat.blt n 256
  | .chnGroupCommit h n => Nat.blt h 4 && Nat.blt n 256
  | .layerCommit h c i _ => Nat.blt h 4 && Nat.blt c 16 && Nat.blt i 64
  | .setCommit h n _ => Nat.blt h 4 && Nat.blt n 256
  | .coefSelect h c _ => Nat.blt h 4 && Nat.blt c 16
  | .coefDataWrite h c _ => Nat.blt h 4 && Nat.blt c 16
  | .coefLoad h c _ => Nat.blt h 4 && Nat.blt c 16
  | .coefLoadCheck c => Nat.blt c 16
  | .lutSelect h c _ => Nat.blt h 4 && Nat.blt c 16
  | .lutDataWrite h c _ => Nat.blt h 4 && Nat.blt c 16
  | .lutLoad h c _ => Nat.blt h 4 && Nat.blt c 16
  | .lutLoadCheck c => Nat.blt c 16
  | .sourceEnable h i _ => Nat.blt h 4 && Nat.blt i 512
  | .sourceEnableCheck i => Nat.blt i 512
  | .sourceDisable h i _ => Nat.blt h 4 && Nat.blt i 512
  | .audioFlowEnable h f _ => Nat.blt h 4 && Nat.blt f 32
  | .audPortEnable h a _ => Nat.blt h 4 && Nat.blt a 16
  | .audPortDisable h a _ => Nat.blt h 4 && Nat.blt a 16
  | .audInputEnable h i _ => Nat.blt h 4 && Nat.blt i 48
  | .audInputDisable h i _ => Nat.blt h 4 && Nat.blt i 48
  | .laneEnable h l _ => Nat.blt h 4 && Nat.blt l 256
  | .laneEnableCheck l => Nat.blt l 256
  | .laneDisable h l _ => Nat.blt h 4 && Nat.blt l 256
  | .laneTestEnable h l _ => Nat.blt h 4 && Nat.blt l 256
  | .laneTestAccept l => Nat.blt l 256
  | .laneTestDisable h l _ => Nat.blt h 4 && Nat.blt l 256
  | .prbsInjectSingle h l _ => Nat.blt h 4 && Nat.blt l 256
  | .prbsInjectBurst h l _ => Nat.blt h 4 && Nat.blt l 256
  | .timForce h _ => Nat.blt h 4
  | .ptpDomainEnable h d _ => Nat.blt h 4 && Nat.blt d 2
  | .ptpDomainDisable h d _ => Nat.blt h 4 && Nat.blt d 2
  | .egrCommit h n _ => Nat.blt h 4 && Nat.blt n 256
  | .egrCommitCheck n => Nat.blt n 256
  | .rplRequestStart h p _ => Nat.blt h 4 && Nat.blt p 4
  | .rplRequestAbort h p _ => Nat.blt h 4 && Nat.blt p 4
  | .selClearFirst h _ => Nat.blt h 4
  | .selClearSecond h _ => Nat.blt h 4
  | .selClearRecov h _ => Nat.blt h 4
  | .selForce h w _ => Nat.blt h 4 && Nat.blt w 2048
  | .selTypeCfgWrite h t _ => Nat.blt h 4 && Nat.blt t 256
  | .ckvGo h u _ => Nat.blt h 4 && Nat.blt u 8
  | .ckvAbort h u _ _ => Nat.blt h 4 && Nat.blt u 8
  | .nvmUpdateGo h _ => Nat.blt h 4
  | .nvmUpdateAbort h _ => Nat.blt h 4
  | .nvmReadoutGo h _ => Nat.blt h 4
  | .nvmReadoutAbort h _ => Nat.blt h 4
  | .modeRequestHold h _ => Nat.blt h 4
  | .modeRequestRun h _ => Nat.blt h 4
  | .modeRequestSafe h _ => Nat.blt h 4
  | .modeRequestDrain h _ => Nat.blt h 4
  | .modeRequestLoopback h _ => Nat.blt h 4
  | .modeRequestSelftest h _ => Nat.blt h 4
  | .modeRequestService h _ => Nat.blt h 4
  | .modeRequestInvalid h v => Nat.blt h 4 && badReq v
  | .refRestore h _ _ => Nat.blt h 4
  | .pllTargetWrite h p _ => Nat.blt h 4 && Nat.blt p 76
  | .pllTargetCheck p _ => Nat.blt p 76
  | .dramRetrainRequest h d _ => Nat.blt h 4 && Nat.blt d 32
  | .dramInjectSingle h d _ => Nat.blt h 4 && Nat.blt d 32
  | .dramInjectDouble h d _ => Nat.blt h 4 && Nat.blt d 32
  | .engineCondemnCmd h e _ => Nat.blt h 4 && Nat.blt e 128
  | .engineRetestCmd h e _ => Nat.blt h 4 && Nat.blt e 128
  | .engineInjectResidue h e _ => Nat.blt h 4 && Nat.blt e 128
  | .engineInjectParity h e _ => Nat.blt h 4 && Nat.blt e 128
  | .engineInjectSig h e _ => Nat.blt h 4 && Nat.blt e 128
  | .duplexSwap h n _ => Nat.blt h 4 && Nat.blt n 256
  | .bobHistogramClear h x _ => Nat.blt h 4 && Nat.blt x 148
  | .eventQueueEnable h p _ => Nat.blt h 4 && Nat.blt p 4
  | .tapEnable h p k _ => Nat.blt h 4 && Nat.blt p 4 && Nat.blt k 16
  | .retrievalRingEnable h p _ => Nat.blt h 4 && Nat.blt p 4
  | .captureFrameStart n => Nat.blt n 256
  | .rowDeadline n _ _ => Nat.blt n 256
  | .releaseDecision m _ _ => Nat.blt m 256
  | .rowRelease m _ _ _ => Nat.blt m 256
  | .packetDeparture n x => Nat.blt n 256 && Nat.blt x 2
  | .auditPoint n _ _ => Nat.blt n 256
  | .idleAuditTick _ => true
  | .st2110PacketReceived i _ => Nat.blt i 512
  | .morvolosPacketReceived i _ => Nat.blt i 512
  | .cameraPacketReceived i _ => Nat.blt i 512
  | .audioFlowPacketReceived f _ => Nat.blt f 32
  | .pathLossTimeout i x => Nat.blt i 512 && Nat.blt x 2
  | .carryForwardComplete e => Nat.blt e 4
  | .decodeSliceComplete e result => Nat.blt e 128 && Nat.blt result 3
  | .bobTick => true
  | .taskDispatch e _ => Nat.blt e 172
  | .taskExpiry => true
  | .ingestRowComplete e _ _ => Nat.blt e 16
  | .composeRowComplete c => Nat.blt c 16
  | .frontEndComplete m _ _ w _ => Nat.blt m 256 && Nat.blt w 2
  | .backEndComplete m _ _ w _ sig => Nat.blt m 256 && Nat.blt w 2 && Nat.blt sig 0x100000000
  | .packRowComplete p => Nat.blt p 8
  | .referenceRepairComplete e => Nat.blt e 4
  | .checkerFiring e _ => Nat.blt e 128
  | .taskTimeLimit e => Nat.blt e 128
  | .selftestIntervalStart e => Nat.blt e 128
  | .selftestOverdue e => Nat.blt e 128
  | .selftestSliceComplete e _ => Nat.blt e 128
  | .laneFrameReceived l _ => Nat.blt l 256
  | .igmpReportTimer _ => true
  | .laneBlockLock l _ => Nat.blt l 256
  | .laneLockLoss l _ _ => Nat.blt l 256
  | .remoteFaultReceived l => Nat.blt l 256
  | .lockTimeExpiry l => Nat.blt l 256
  | .trainingComplete l _ _ _ _ => Nat.blt l 256
  | .trainingTimeout l _ => Nat.blt l 256
  | .backoffExpiry l => Nat.blt l 256
  | .upStableReset l => Nat.blt l 256
  | .bondAlignment q map _ => Nat.blt q 64 && Nat.blt map 256
  | .fecUncorrectable l _ => Nat.blt l 256
  | .morvolosAlignment l => Nat.blt l 256
  | .morvolosAlignLoss l _ => Nat.blt l 256
  | .morvolosPolarityFlip l => Nat.blt l 256
  | .prbsCheckerLock l => Nat.blt l 256
  | .prbsCheckerLoss l _ _ => Nat.blt l 256
  | .refreshDue d u _ => Nat.blt d 32 && Nat.blt u 2
  | .dramTempRead d _ => Nat.blt d 32
  | .neighbourRefresh d => Nat.blt d 32
  | .agePromotion d cls _ => Nat.blt d 32 && Nat.blt cls 7
  | .dramReadComplete _ _ => true
  | .scrubRead d result _ _ _ _ => Nat.blt d 32 && Nat.blt result 3
  | .dqsTracking d _ => Nat.blt d 32
  | .dramRetrainComplete d _ _ _ _ _ => Nat.blt d 32
  | .dramTrainingComplete d _ _ _ _ _ => Nat.blt d 32
  | .dramTrainingTimeout d => Nat.blt d 32
  | .pllLockDeclared p band _ => Nat.blt p 76 && Nat.blt band 16
  | .pllLockLoss p _ => Nat.blt p 76
  | .pllBandSearchStep p => Nat.blt p 76
  | .pllTableBandTimeout p => Nat.blt p 76
  | .pllAcquireTimeout p => Nat.blt p 76
  | .pllRetryExpiry p => Nat.blt p 76
  | .pllRampComplete p => Nat.blt p 76
  | .clockMonitorWindow p _ _ => Nat.blt p 76
  | .cleanerLoss _ => true
  | .ptpSyncReceived d _ _ _ _ _ => Nat.blt d 2
  | .ptpAnnounceReceived d _ => Nat.blt d 2
  | .ptpDelayRespReceived d _ _ _ => Nat.blt d 2
  | .ptpDelayReqSend d => Nat.blt d 2
  | .ptpQualificationComplete d => Nat.blt d 2
  | .ptpAnnounceTimeout d => Nat.blt d 2
  | .ptpSyncTimeout d => Nat.blt d 2
  | .acquisitionStep => true
  | .slewComplete => true
  | .refInQualified => true
  | .refInStop => true
  | .refInRateGate _ => true
  | .refInGlitch => true
  | .ppsInEdge => true
  | .ppsOutSecond => true
  | .armWaitExpiry => true
  | .holdoverLongExpiry => true
  | .slewFarExpiry => true
  | .audioPortFrame a _ => Nat.blt a 16
  | .portPrimeDone a => Nat.blt a 16
  | .portStopDone a => Nat.blt a 16
  | .portClockValid a => Nat.blt a 16
  | .portClockLoss a _ => Nat.blt a 16
  | .portRateGate a _ _ => Nat.blt a 16
  | .ringQuotaRecompute => true
  | .retrievalSearchDone h => Nat.blt h 4
  | .retrievalSegmentRead h => Nat.blt h 4
  | .retrievalRecordDelivery h _ => Nat.blt h 4
  | .faultOccurrence code _ => Nat.blt code 0x10000
  | .shadowClose opener inst => Nat.blt opener 9 && Nat.blt inst 0x1000
  | .reactionComplete code _ => Nat.blt code 0x10000
  | .quietPeriodExpiry => true
  | .selSelfError k => Nat.blt k 5
  | .seltypeRereadComplete _ => true
  | .eventArbiterArrival _ => true
  | .eventNumbering => true
  | .modeEvaluation _ => true
  | .loadComplete _ _ => true
  | .calibrateTimeout => true
  | .sourceWaitExpiry => true
  | .degradedHoldExpiry => true
  | .recoverRebuildComplete => true
  | .recoverTimeout => true
  | .drainCloseTimeout => true
  | .drainSummaryWritten _ => true
  | .selftestComplete cond cmp _ _ => cond.all (Nat.blt · 128) && Nat.blt cmp 65536
  | .journalWrite _ => true
  | .nvmUpdateWriteDone _ units => Nat.ble units 256
  | .nvmUpdateVerifyDone _ => true
  | .nvmReadoutDone _ => true
  | .ckvDescriptorDone u _ _ _ => Nat.blt u 8
  | .ckvFetchError u _ => Nat.blt u 8
  | .eventQueueWrite h => Nat.blt h 4
  | .msixModerationExpiry h v => Nat.blt h 4 && Nat.blt v 8
  | .lostHandover _ _ => true
  | .cleanerReturn => true
  | .ppsOutFall => true
  | .refInResume => true
  | .remoteFaultClear l => Nat.blt l 256
  | .dramWriteComplete _ => true
  | .safeReconstructionDecoded n => Nat.blt n 256
  | .ringRecordComplete n _ => Nat.blt n 256
  | .tapRecordComplete h k _ => Nat.blt h 4 && Nat.blt k 16
  | .farClear => true
  | .powerMonitorUpdate vin watt _ _ => Nat.blt vin 4096 && Nat.blt watt 1024

/-- A well-formed command. -/
abbrev Instr.WellFormed (i : Instr) : Prop := i.wellFormed = true

end Sys2Proof
end

