-- ==== Sys2Proof/Safety.lean ====
section
/-!
DEFINITION. Sys2Proof/Safety.lean: the terms that claims about the block are stated in: the canonical form of the registers,
the parts of the state a command leaves alone, and when the register arbiter takes a write at once.
-/

namespace Sys2Proof.Machine

/-- The register table is in its canonical form: addresses strictly rising, no word listed that equals the reset word of
its address. -/
def State.Canon (s : State) : Prop := Tab.canon resetWord s.regs = true

/-- The parts of the state beside the registers. -/
inductive Part where
  | pending | now | free | act | latch | arb | sel | ports | round | sys | tim | clk | dram | lanes | igmp | bufs | poolFree
  | bob | chans | srcs | engs | cmps | lyrs | est | ring | ains | aports | nvm | ckv | timers
deriving DecidableEq, Repr

/-- States s and t hold the same in part p. -/
def State.Same (s t : State) : Part → Prop
  | .pending => t.pending = s.pending
  | .now => t.now = s.now
  | .free => t.free = s.free
  | .act => t.act = s.act
  | .latch => t.latch = s.latch
  | .arb => t.arb = s.arb
  | .sel => t.sel = s.sel
  | .ports => t.ports = s.ports
  | .round => t.round = s.round
  | .sys => t.sys = s.sys
  | .tim => t.tim = s.tim
  | .clk => t.clk = s.clk
  | .dram => t.dram = s.dram
  | .lanes => t.lanes = s.lanes
  | .igmp => t.igmp = s.igmp
  | .bufs => t.bufs = s.bufs
  | .poolFree => t.poolFree = s.poolFree
  | .bob => t.bob = s.bob
  | .chans => t.chans = s.chans
  | .srcs => t.srcs = s.srcs
  | .engs => t.engs = s.engs
  | .cmps => t.cmps = s.cmps
  | .lyrs => t.lyrs = s.lyrs
  | .est => t.est = s.est
  | .ring => t.ring = s.ring
  | .ains => t.ains = s.ains
  | .aports => t.aports = s.aports
  | .nvm => t.nvm = s.nvm
  | .ckv => t.ckv = s.ckv
  | .timers => t.timers = s.timers

/-- From s to t, no register outside `regs` and no part outside `parts` changes: the frame of a command. -/
def State.Frame (s t : State) (regs : List Nat) (parts : List Part) : Prop :=
  (∀ a, a ∉ regs → t.word a = s.word a) ∧ (∀ p, p ∉ parts → s.Same t p)

/-- The parts that taking a host write changes: time, the event arbiter and the round; time passes for TIM too. -/
def takingParts : List Part := [.now, .tim, .arb, .ports, .round]

/-- In state s, command c answers a next state t in which P holds, with no register outside `regs` and no part outside `parts`
changed. -/
def State.Does (s : State) (c : Instr) (regs : List Nat) (parts : List Part) (P : State → Prop) : Prop :=
  ∃ t, exec c s = .next t ∧ s.Frame t regs parts ∧ P t

/-- The same for a command that is a write of port h and is taken at once: taking it counts the write and lets time pass. -/
def State.Writes (s : State) (h : Nat) (c : Instr) (regs : List Nat) (parts : List Part) (P : State → Prop) : Prop :=
  s.Does c (R.hstCntWrites h :: regs) (takingParts ++ parts) P

/-- The event source of port h's WRITE events (R56). -/
def writeSource (h : Nat) : Nat := 0x100000 + ((2 + h) * 8 + 1) * 0x10000

/-- No host write waits anywhere: in a port's queue, in a round, or for its number. -/
def State.Idle (s : State) : Prop :=
  (∀ p, p < 4 → (s.port p).posted = []) ∧ s.round.left = []
    ∧ (∀ e ∈ s.arb.queue, e.2.kind ≠ 1 ∧ ∀ p, p < 4 → e.2.source ≠ writeSource p)
    ∧ (∀ e ∈ s.arb.wait, ∀ p, p < 4 → e.source ≠ writeSource p)

/-- The register arbiter takes port h's next write as it arrives, and the write has its effect (R568, R570). -/
def State.Ready (s : State) (h : Nat) : Prop := s.Idle ∧ h < 4 ∧ s.writesAct = true

/-- What a write taken at once has changed before its effect (R568, R571). -/
structure State.Taken (s t : State) (h a : Nat) (v : Word) : Prop where
  frame : s.Frame t [R.hstCntWrites h] takingParts
  count : t.get (F.hstCntWrites h) = (s.get (F.hstCntWrites h) + 1) % 2 ^ 32
  port  : ∀ p, t.port p = s.port p
  event : ∃ e : Ev, e.input = 2 + h ∧ e.kind = 1 ∧ e.data = writeData h a v ∧ t.arb.queue = s.arb.queue ++ [(t.now / 10, e)]
  wait  : t.arb.wait = s.arb.wait

end Sys2Proof.Machine
end

