-- ==== Sys2Proof/Certificates/Slice0/Obligations.lean ====
section
/-!
DEFINITION. Sys2Proof/Certificates/Slice0/Obligations.lean: the statements about the model that are to be proved, each a
proposition; its docstring says what it states, and OBLIGATIONS.json the rules it rests on.
-/

open Sys2Proof Sys2Proof.Machine

/-- A step at a state whose queue is c followed by rest is exec of c on that state with the queue rest; with an empty queue
one nanosecond of the system counter passes (the model's choice, assumption log 5). -/
def Obligations.StepTakesFront : Prop :=
  ∀ (s : State) (c : Instr) (rest : List Instr), step { s with pending := c :: rest } = exec c { s with pending := rest }
    ∧ step { s with pending := [] } = .next (State.advance { s with pending := [] } (s.now + 1))

/-- For every state whose register table is in canonical form (addresses strictly rising, no word listed that equals its
reset word), every next state of a step has it too: equal registers are equal data, whatever command runs. -/
def Obligations.StepKeepsCanon : Prop :=
  ∀ s t : State, s.Canon → step s = .next t → t.Canon

/-- State.reset has a canonical register table, an empty queue and no host write waiting, its mode is HOLD, and every
register reads its reset word (R7). -/
def Obligations.ResetIsCanon : Prop :=
  State.reset.Canon ∧ State.reset.pending = [] ∧ State.reset.Idle ∧ State.reset.mode = Mode.hold
    ∧ ∀ a, State.reset.word a = resetWord a

/-- For every command and state, exec answers a next state whose queue of waiting commands is the one it was given: only
step takes commands from the queue, and no meaning puts one into it (the queue is the model's form, as the task fixes it).
-/
def Obligations.QueueUntouched : Prop :=
  ∀ (c : Instr) (s : State), ∃ t, exec c s = .next t ∧ t.pending = s.pending

/-- With no host write waiting (the port index h below 4, the register not SYS_REQ), HOST_REGISTER_WRITE is taken as it
arrives: HST_CNT_WRITES of the port rises by one modulo 2^32, one event of kind WRITE enters the event arbiter at input 2 +
h with the data of R571, no port queue changes, and then the register takes the effect of the write; in HOLD and LOAD there
is no effect. Frame: no register but the write count, and no part but time, the arbiter, the ports and the round, changes
before the effect. -/
def Obligations.HostWriteTaken : Prop :=
  ∀ (s : State) (h a : Nat) (v : Word), s.Idle → h < 4 → a ≠ R.sysReq →
    ∃ t, s.Taken t h a v ∧ exec (.hostRegisterWrite h a v) s = .next (if s.writesAct then t.writeReg a v else t)

/-- ACCESS_ERROR of port h, for every state: HST_CNT_ACCERR of the port rises by one modulo 2^32; a read returns 0; no other
register and nothing else changes, but that a read sets the reply of the port. -/
def Obligations.AccessErrorCounted : Prop :=
  ∀ (s : State) (h : Nat) (rd : Bool), h < 4 →
    s.Does (.accessError h rd) [R.hstCntAccerr h] (if rd then [.ports] else []) (fun t =>
      t.get (F.hstCntAccerr h) = (s.get (F.hstCntAccerr h) + 1) % 2 ^ 32 ∧ (rd = true → (t.port h).reply = 0)
        ∧ ∀ p, (t.port p).posted = (s.port p).posted)

/-- A read by port h with no write of that port waiting. READ_AND_CLEAR of SYS_POOL_MINFREE of pool p (access code rsc)
returns the word held and leaves the field at its Reset value 0xFFFFF; READ_AND_CLEAR of CHN_DLY of channel n returns the
word held and leaves both fields 0; LATCHING_READ of CHN_SLOT_LO returns the low word and latches the high word, so that a
later read of CHN_SLOT_HI returns the value latched. Frame: the read register and the reply of the port; for a latching read
no register. -/
def Obligations.HostReads : Prop :=
  ∀ (s : State) (h n p : Nat), h < 4 → n < 256 → p < 3 → (s.port h).posted = [] →
    s.Does (.readAndClear h (R.sysPoolMinfree p)) [R.sysPoolMinfree p] [.ports] (fun t =>
      (t.port h).reply = s.word (R.sysPoolMinfree p) ∧ t.get (F.sysPoolMinfreePages p) = 0xFFFFF)
    ∧ s.Does (.readAndClear h (R.chnDly n)) [R.chnDly n] [.ports] (fun t =>
      (t.port h).reply = s.word (R.chnDly n) ∧ bitsAt (t.word (R.chnDly n)) 0 32 = 0)
    ∧ s.Does (.latchingRead h (R.chnSlotLo n)) [] [.ports, .latch] (fun t =>
      (t.port h).reply = s.word (R.chnSlotLo n) ∧ t.readWord h (R.chnSlotHi n) = s.word (R.chnSlotHi n))

/-- HOST_WRITE_POSTED of port h puts the write behind those that wait in the queue of the port while fewer than 64 wait, and
changes no register and nothing but the ports; with 64 waiting the host waits and nothing changes. -/
def Obligations.PostedWritesWait : Prop :=
  ∀ (s : State) (h a : Nat) (v : Word), h < 4 →
    ((s.port h).posted.length < 64 → s.Does (.hostWritePosted h a v) [] [.ports] (fun t =>
      (t.port h).posted = (s.port h).posted ++ [⟨a, v⟩] ∧ ∀ p, p ≠ h → t.port p = s.port p))
    ∧ ((s.port h).posted.length = 64 → exec (.hostWritePosted h a v) s = .next s)

/-- EVENT_QUEUE_ENABLE of port p by port h, taken at once: EN becomes 1, the head becomes the tail and no record waits.
EVENT_QUEUE_WRITE with a record waiting: with the queue not full, the link in L0 and bus mastering enabled, the head
advances by one modulo 2^SIZE, otherwise HST_CNT_EQ_DROP rises by one modulo 2^32; either way the record leaves the writer,
and the status bit of cause 0 or 5 is set where it is enabled. MSIX_MODERATION_EXPIRY of a vector that waits: it waits no
longer (the first entry of it goes) and is sent where its status bit is set and it is not masked. Frames name the registers
and parts that change. -/
def Obligations.EventQueueAndInterrupts : Prop :=
  ∀ (s : State) (h p v : Nat) (w : Word), h < 4 → p < 4 → v < 8 →
    (s.Ready h → s.Writes h (.eventQueueEnable h p w) [R.hstEqCfg p, R.hstEqHead p] [] (fun t =>
      t.is (F.hstEqCfgEn p) = true ∧ t.get (F.hstEqHeadIdx p) = s.get (F.hstEqTailIdx p) ∧ Tab.get [] t.arb.eq p = []))
    ∧ (∀ r rest, Tab.get [] s.arb.eq h = r :: rest → s.get (F.hstEqCfgSize h) ≤ 19 →
        s.Does (.eventQueueWrite h) [R.hstEqHead h, R.hstCntEqDrop h, R.hstIrqStat h] [.arb, .ports] (fun t =>
          Tab.get [] t.arb.eq h = rest ∧
          if (s.get (F.hstEqHeadIdx h) + 1) % 2 ^ s.get (F.hstEqCfgSize h) = s.get (F.hstEqTailIdx h) % 2 ^ s.get (F.hstEqCfgSize h)
              ∨ s.linkUp h = false then
            t.get (F.hstEqHeadIdx h) = s.get (F.hstEqHeadIdx h) ∧ t.get (F.hstCntEqDrop h) = (s.get (F.hstCntEqDrop h) + 1) % 2 ^ 32
              ∧ t.get (F.hstIrqStatStat h) = (if Nat.testBit (s.get (F.hstIrqEnEn h)) 5 then s.get (F.hstIrqStatStat h) ||| 2 ^ 5
                else s.get (F.hstIrqStatStat h))
          else t.get (F.hstEqHeadIdx h) = (s.get (F.hstEqHeadIdx h) + 1) % 2 ^ s.get (F.hstEqCfgSize h)
            ∧ t.get (F.hstCntEqDrop h) = s.get (F.hstCntEqDrop h)
            ∧ t.get (F.hstIrqStatStat h) = (if Nat.testBit (s.get (F.hstIrqEnEn h)) 0 then s.get (F.hstIrqStatStat h) ||| 2 ^ 0
                else s.get (F.hstIrqStatStat h))))
    ∧ (v ∈ (s.port h).msiWait → s.Does (.msixModerationExpiry h v) [] [.now, .tim, .ports] (fun t =>
        (t.port h).msiWait = (s.port h).msiWait.erase v
          ∧ (Nat.testBit (s.get (F.hstIrqStatStat h)) v = true ∧ Nat.testBit (s.port h).msiMask v = false →
            Tab.get 0 (t.port h).msiSent v = t.now + 1)))

/-- PORT_RESET of port h with no retrieval request of it searching or delivering and no link-down: EN of its event queue,
its retrieval ring and its sixteen taps become 0, HST_IRQ_STAT becomes 0, the waiting writes are discarded and counted in
HST_CNT_WLOST modulo 2^32, the port leaves the round; no register of another port changes. HOST_LINK_STATE_CHANGE to
recovery or L0 (1 or 2) of a port that was not in L0: HST_LINK shows the new state, speed, width and bus-master enable and
nothing else changes. -/
def Obligations.PortResetAndLink : Prop :=
  ∀ (s : State) (h speed width lstate : Nat) (bme byHost : Bool), h < 4 → speed < 8 → width < 8 →
    (s.rstate h = 0 → s.Does (.portReset h byHost false)
      ([R.hstEqCfg h, R.hstRdCfg h, R.hstCntWlost h, R.hstIrqStat h] ++ (List.range 16).map (R.hstTapCfg h))
      [.arb, .ports, .round] (fun t =>
        t.is (F.hstEqCfgEn h) = false ∧ t.is (F.hstRdCfgEn h) = false ∧ (∀ k, k < 16 → t.is (F.hstTapCfgEn h k) = false)
          ∧ t.get (F.hstIrqStatStat h) = 0 ∧ (t.port h).posted = [] ∧ h ∉ t.round.left
          ∧ t.get (F.hstCntWlost h) = (s.get (F.hstCntWlost h) + (s.port h).posted.length) % 2 ^ 32
          ∧ ∀ p, p ≠ h → t.port p = s.port p))
    ∧ (1 ≤ lstate → lstate ≤ 2 → s.get (F.hstLinkLstate h) ≠ 2 →
      s.Does (.hostLinkStateChange h lstate speed width bme byHost) [R.hstLink h] [] (fun t =>
        t.get (F.hstLinkLstate h) = lstate ∧ t.get (F.hstLinkSpeed h) = speed ∧ t.get (F.hstLinkWidth h) = width
          ∧ t.is (F.hstLinkBme h) = bme))

/-- POWER_ON: the mode is HOLD, every register whose reset source is power-on or module reset reads its reset word but
SYS_MODE and SYS_SLOT, the images and the journal stay. HOLD_EXIT in HOLD without a thermal trip: the mode is LOAD and
SYS_SLOT shows the slot number modulo 64 with ENABLE. SUPPLY_GOOD_LOSS and MOD_ENABLE_LOW in HOLD leave the mode HOLD and
change no register but SYS_SLOT; outside HOLD they enter HOLD. In HOLD the loss of supply good changes the supply only. -/
def Obligations.PowerAndHold : Prop :=
  ∀ (s : State) (slot cause : Nat),
    (∃ t, exec .powerOn s = .next t ∧ t.mode = Mode.hold ∧ (∀ a, a ≠ R.sysMode → a ≠ R.sysSlot → t.word a = resetWord a)
      ∧ t.nvm.slots = s.nvm.slots ∧ t.arb.journal = s.arb.journal ∧ t.pending = s.pending)
    ∧ (s.mode = Mode.hold → s.sys.trip = false → ∃ t, exec (.holdExit slot) s = .next t ∧ t.mode = Mode.load
      ∧ t.get F.sysSlotSlotId = slot % 64 ∧ t.is F.sysSlotEnable = true)
    ∧ (s.mode = Mode.hold → s.Does (.supplyGoodLoss cause) [] [.sys] (fun t => t.sys.supply = false))
    ∧ (s.mode ≠ Mode.hold → ∃ t, exec (.supplyGoodLoss cause) s = .next t ∧ t.mode = Mode.hold ∧ t.sys.supply = false)
    ∧ (∃ t, exec .modEnableLow s = .next t ∧ t.mode = Mode.hold ∧ t.is F.sysSlotEnable = false)

/-- JUNCTION_SENSOR_READ of readings whose maximum tj lies from -128 to 94 degrees: SYS_THERM.TJ holds tj,
SYS_PWR_STAT.TJ_PEAK the larger of tj and the old peak, WARN is 0; at 100 to 109 degrees with WARN 1 before, WARN stays 1;
the read falls on the next millisecond of the system counter. POWER_MONITOR_UPDATE shows voltage, power and both coolant
temperatures, on the next 100 ms. REMOVE_REQUEST: SYS_SLOT.REMOVE is 1. Frames name what changes; no mode changes. -/
def Obligations.SensorsAndPower : Prop :=
  ∀ (s : State) (temps : List Int) (vin watt : Nat) (inlet outlet : Int),
    ((∀ x ∈ temps, -128 ≤ x ∧ x < 95) → s.is F.sysThermWarn = false →
      s.Does (.junctionSensorRead temps) [R.sysTherm, R.sysPwrStat] [.now, .tim, .sys] (fun t =>
        t.getInt F.sysThermTj = hottestSensor temps ∧ t.is F.sysThermWarn = false
          ∧ t.getInt F.sysPwrStatTjPeak = max (hottestSensor temps) (s.getInt F.sysPwrStatTjPeak) ∧ t.now % 1000000 = 0))
    ∧ (100 ≤ hottestSensor temps → hottestSensor temps < 110 → s.is F.sysThermWarn = true →
      s.Does (.junctionSensorRead temps) [R.sysTherm, R.sysPwrStat] [.now, .tim, .sys] (fun t =>
        t.getInt F.sysThermTj = hottestSensor temps ∧ t.is F.sysThermWarn = true))
    ∧ (vin < 2 ^ 12 → watt < 2 ^ 10 → -128 ≤ inlet → inlet < 128 → -128 ≤ outlet → outlet < 128 →
      s.Does (.powerMonitorUpdate vin watt inlet outlet) [R.sysPwr, R.sysTherm] [.now, .tim] (fun t =>
        t.get F.sysPwrVin = vin ∧ t.get F.sysPwrPin = watt ∧ t.getInt F.sysThermInlet = inlet
          ∧ t.getInt F.sysThermOutlet = outlet ∧ t.now % 100000000 = 0))
    ∧ s.Does .removeRequest [R.sysSlot] [.sys] (fun t => t.is F.sysSlotRemove = true ∧ t.mode = s.mode)

/-- A write of SYS_REQ by port h, taken at once outside HOLD, with the key 0xA5 and the code of HOLD, RUN, SAFE, DRAIN,
LOOPBACK, SELFTEST or SERVICE: SYS_REQ_STAT.LAST shows the code and the request stands last before the mode controller, and
nothing is decided yet. A wrong key is refused at once: result 2, REFUSED set, SYS_CNT_REFUSED one higher modulo 2^32, and
no request stands. Frame: SYS_REQ_STAT, for a refusal also the refusal counter, a possible count of an event that is not
numbered, and what taking a write changes. -/
def Obligations.ModeRequests : Prop :=
  ∀ (s : State) (h : Nat) (v : Word), s.Idle → h < 4 → s.mode ≠ Mode.hold →
    (∀ cm ∈ [(Instr.modeRequestHold h v, Mode.hold), (.modeRequestRun h v, Mode.run), (.modeRequestSafe h v, Mode.safe),
        (.modeRequestDrain h v, Mode.drain), (.modeRequestLoopback h v, Mode.loopback),
        (.modeRequestSelftest h v, Mode.selftest), (.modeRequestService h v, Mode.service)],
      s.Writes h cm.1 [R.sysReqStat] [.sys] (fun t => t.get F.sysReqStatLast = cm.2
        ∧ t.sys.reqs = s.sys.reqs ++ [⟨cm.2, h, 2, 0⟩] ∧ t.mode = s.mode))
    ∧ (bitsAt v 24 8 ≠ 0xA5 → s.Writes h (.modeRequestInvalid h v) [R.sysReqStat, R.sysCntRefused, R.selEvtOvf] [.sys]
      (fun t => t.get F.sysReqStatLast = bitsAt v 0 4 ∧ t.get F.sysReqStatResult = 2 ∧ t.is F.sysReqStatRefused = true
        ∧ t.get F.sysCntRefused = (s.get F.sysCntRefused + 1) % 2 ^ 32 ∧ t.sys.reqs = s.sys.reqs))

/-- MODE_EVALUATION with no request waiting, in RUN: the mode stays RUN, SYS_SLOT.REMOVE shows the contact, and time stands
at a multiple of 1 µs; nothing else changes. With one request of a host for HOLD waiting, outside HOLD, the module enters
HOLD, with the previous mode and cause HOST in SYS_MODE. With one request of a host for SAFE waiting in RUN, the module
enters SAFE and SYS_CNT_SAFE is one higher modulo 2^32. -/
def Obligations.ModeEvaluation : Prop :=
  ∀ (s : State) (h : Nat) (remove : Bool), h < 4 →
    (s.mode = Mode.run → s.sys.reqs = [] → s.Does (.modeEvaluation remove) [R.sysSlot] [.now, .tim, .sys] (fun t =>
      t.mode = Mode.run ∧ t.is F.sysSlotRemove = remove ∧ t.now % 1000 = 0 ∧ t.sys.reqs = []))
    ∧ (s.mode ≠ Mode.hold → s.sys.reqs = [⟨Mode.hold, h, 2, 0⟩] → ∃ t, exec (.modeEvaluation remove) s = .next t
      ∧ t.mode = Mode.hold ∧ t.get F.sysModePrev = s.mode ∧ t.get F.sysModeCause = 2 ∧ t.sys.reqs = [])
    ∧ (s.mode = Mode.run → s.sys.reqs = [⟨Mode.safe, h, 2, 0⟩] → ∃ t, exec (.modeEvaluation remove) s = .next t
      ∧ t.mode = Mode.safe ∧ t.get F.sysModePrev = Mode.run ∧ t.get F.sysCntSafe = (s.get F.sysCntSafe + 1) % 2 ^ 32)

/-- SOURCE_WAIT_EXPIRY while ARM cannot end: the wait is over. DEGRADED_HOLD_EXPIRY with the full condition standing: RUN.
RECOVER_REBUILD_COMPLETE and RECOVER_TIMEOUT in RECOVER with no admitted channel, no channel about to be shed and the full
condition standing: RUN, and SYS_CNT_RECOVERED one higher modulo 2^32. DRAIN_CLOSE_TIMEOUT in DRAIN: every CLOSING channel
needs its safe picture. DRAIN_SUMMARY_WRITTEN with the summary in the journal: DRAINED, and with REMOVE_REQ_N high, HOLD.
SELFTEST_COMPLETE with no failed engine: SYS_SELFTEST shows the result and the module returns to RUN with the full condition
standing. Frames name what changes; an expiry is of a running timer. -/
def Obligations.ModeEnds : Prop :=
  ∀ (s : State) (cmp ce ue : Nat),
    (s.armed Timer.srcWait = true → (s.mode ≠ Mode.arm ∨ s.is F.timStatArmReady = false) →
      s.Does .sourceWaitExpiry [] [.now, .tim, .timers, .sys] (fun t => t.sys.srcWaitOver = true ∧ t.armed Timer.srcWait = false))
    ∧ (s.mode = Mode.degraded → s.fullCond = true → s.sys.fullSince ≠ none →
      s.Does .degradedHoldExpiry [R.sysMode, R.selEvtOvf] [.now, .tim, .sys, .arb] (fun t => t.mode = Mode.run
        ∧ t.get F.sysModePrev = Mode.degraded ∧ t.sys.fullSince = none))
    ∧ (s.mode = Mode.recover → s.fullCond = true → s.anyAdmitted = false → (∀ n, (s.chan n).want ≠ 1) →
      s.Does .recoverRebuildComplete [R.sysCntRecovered, R.sysMode, R.selEvtOvf] [.chans, .timers, .sys, .arb] (fun t =>
        t.mode = Mode.run ∧ t.get F.sysCntRecovered = (s.get F.sysCntRecovered + 1) % 2 ^ 32)
      ∧ (s.armed Timer.recover = true →
        s.Does .recoverTimeout [R.sysCntRecovered, R.sysMode, R.selEvtOvf] [.now, .tim, .chans, .timers, .sys, .arb] (fun t =>
          t.mode = Mode.run ∧ t.get F.sysCntRecovered = (s.get F.sysCntRecovered + 1) % 2 ^ 32)))
    ∧ (s.mode = Mode.drain → s.armed Timer.drain = true →
      s.Does .drainCloseTimeout [] [.now, .tim, .timers, .chans] (fun t => t.armed Timer.drain = false
        ∧ ∀ n, n < 256 → s.chState n = ChState.closing → (t.chan n).wantSafe = true))
    ∧ (s.mode = Mode.drain → s.sys.summary = true → (∀ r ∈ s.arb.jbuf, isRingRecord r = false) →
      s.Does (.drainSummaryWritten true) [R.sysSlot, R.sysStat] [.sys] (fun t => t.is F.sysStatDrained = true ∧ t.mode = Mode.drain)
      ∧ ∃ t, exec (.drainSummaryWritten false) s = .next t ∧ t.mode = Mode.hold)
    ∧ (s.mode = Mode.selftest → s.fullCond = true → ce < 2 ^ 16 → ue < 2 ^ 16 →
      s.Does (.selftestComplete [] cmp ce ue) [R.sysSelftest, R.sysSelftestEcc, R.sysMode, R.selEvtOvf] [.sys, .arb] (fun t =>
        t.is F.sysSelftestDone = true ∧ t.get F.sysSelftestEngCond = 0 ∧ t.get F.sysSelftestEccCe = ce
          ∧ t.get F.sysSelftestEccUe = ue ∧ t.get F.sysSelftestCmpFail = (s.get F.sysSelftestCmpFail ||| cmp % 2 ^ 16)
          ∧ t.mode = Mode.run))

/-- FAULT_OCCURRENCE of a listed source that waits unforced, outside class SEL_SELF, with no shadow open. With T of at least
2 and an empty window: the total rises by one, the sticky bit is set, the window holds the instant, the event enters the
arbiter and nothing reacts. With T of 1 and the reaction LOG, for a type without a block action, nothing being handled and
the first-cause slot empty: the slot holds the code and reaction 0, FIRST_VALID is 1 and the window is empty. SEL_SELF_ERROR
of part k in RUN with the first-cause slot empty: SELF and FIRST_VALID are 1, the slot holds the code of the part, a request
for SAFE stands, the windows are empty and the type configuration is to be read again. Frames name what changes. -/
def Obligations.FaultOccurrences : Prop :=
  ∀ (s : State) (code k : Nat) (cut : Cut), code < 2 ^ 16 → k < 5 → s.sel.shadows = [] →
    (listedSource code = true → srcType code ≠ 0x10 → s.sel.occ.find? (fun o => Nat.beq o.1 code) = some (code, false) →
      (2 ≤ s.get (F.selTypeCfgT (srcType code)) → Tab.get [] s.sel.win code = [] →
        s.Does (.faultOccurrence code cut) [R.selSticky (code / 32), R.selEvtOvf] [.sel, .arb] (fun t =>
          Tab.get 0 t.sel.total code = Tab.get 0 s.sel.total code + 1 ∧ t.is (selBit F.selStickySticky code) = true
            ∧ Tab.get [] t.sel.win code = [s.now] ∧ t.sel.pend = s.sel.pend ∧ t.sel.handling = s.sel.handling
            ∧ t.sel.occ = s.sel.occ.erase (code, false)))
      ∧ (s.get (F.selTypeCfgT (srcType code)) = 1 → s.get (F.selTypeCfgReact (srcType code)) = 0 →
        srcType code ∉ [0x90, 0x91, 0xD0, 0xD1, 0xE3] → s.sel.handling = [] → s.is F.selStatFirstValid = false →
        s.Does (.faultOccurrence code cut) [R.selSticky (code / 32), R.selEvtOvf, R.selStat, R.selCapCode 0, R.selCapSeqLo 0,
            R.selCapSeqHi 0, R.selCapTsLo 0, R.selCapTsHi 0] [.sel, .arb] (fun t =>
          t.is F.selStatFirstValid = true ∧ t.get (F.selCapCodeCode 0) = code ∧ t.get (F.selCapCodeReact 0) = 0
            ∧ t.is (F.selCapCodeForced 0) = false ∧ t.is (selBit F.selStickySticky code) = true
            ∧ Tab.get [] t.sel.win code = [] ∧ t.sel.pend = s.sel.pend)))
    ∧ (s.mode = Mode.run → s.is F.selStatFirstValid = false →
      s.Does (.selSelfError k) [R.selSticky (Src.selSelf k / 32), R.selEvtOvf, R.selStat, R.selCapCode 0, R.selCapSeqLo 0,
          R.selCapSeqHi 0, R.selCapTsLo 0, R.selCapTsHi 0] [.sel, .arb, .sys] (fun t =>
        t.is F.selStatSelf = true ∧ t.is F.selStatFirstValid = true ∧ t.get (F.selCapCodeCode 0) = Src.selSelf k
          ∧ t.sys.reqs = s.sys.reqs ++ [⟨Mode.safe, 4, 3, Src.selSelf k⟩] ∧ t.sel.win = [] ∧ t.sel.reread = true))

/-- SHADOW_CLOSE of a shadow whose length has passed: no ended shadow of that opener and instance stays open, and every
other one does. REACTION_COMPLETE of a reaction that has ended, with nothing pending: it is handled no longer and
SEL_STAT.HANDLING says whether any other is. QUIET_PERIOD_EXPIRY in SAFE without the recovery hold: a standing request for
RECOVER is made. Frames name what changes. -/
def Obligations.SelCounts : Prop :=
  ∀ (s : State) (o i : Nat) (r : React) (cut : Cut),
    (s.armed (Timer.shadow o i) = true → s.Does (.shadowClose o i) [] [.now, .tim, .timers, .sel] (fun t =>
      t.sel.shadows = s.sel.shadows.filter (fun x => !(Nat.beq x.opener o && Nat.beq x.inst i && x.ended))
        ∧ t.armed (Timer.shadow o i) = false ∧ t.sel.occ = s.sel.occ))
    ∧ (s.sel.handling.find? (fun x => Nat.beq x.code r.code) = some r → s.reactionEnded r = true → s.sel.pend = [] →
      s.Does (.reactionComplete r.code cut) [R.selStat] [.sel] (fun t => t.sel.handling = s.sel.handling.erase r
        ∧ t.is F.selStatHandling = !(s.sel.handling.erase r).isEmpty ∧ t.sel.pend = []))
    ∧ (s.armed Timer.quiet = true → s.mode = Mode.safe → s.is F.selStatHeld = false →
      s.Does .quietPeriodExpiry [] [.now, .tim, .timers, .sel] (fun t => t.sel.standing = true ∧ t.armed Timer.quiet = false))

/-- Writes of port h taken at once. SEL_CLEAR_FIRST and SEL_CLEAR_SECOND, with the other bits of the word 0, empty their
capture slot: its VALID bit and its word are 0. SEL_CLEAR_RECOV, with the other bits 0: SINCE is 0 and HELD is clear, and in
SAFE with no standing request the quiet period runs. SEL_FORCE of word w: every bit written 1 for a listed source reads 1,
and with its bit 0 before, one forced occurrence waits; every other bit of the word is unchanged. SEL_TYPE_CFG_WRITE of type
t: T outside 1 to 15 (0) or W = 0, or an unlisted type, changes nothing; a fixed type takes W only; any other type takes T,
W and a listed reaction code. Frames name what changes. -/
def Obligations.SelWrites : Prop :=
  ∀ (s : State) (h w n : Nat) (v : Word), s.Ready h → w < 2048 → n < 256 →
    (bitsAt v 1 1 = 0 → bitsAt v 2 1 = 0 → s.Writes h (.selClearFirst h v) [R.selCapCode 0, R.selCapSeqLo 0, R.selCapSeqHi 0,
        R.selCapTsLo 0, R.selCapTsHi 0, R.selStat] [.sel] (fun t => t.is F.selStatFirstValid = false ∧ t.word (R.selCapCode 0) = 0
          ∧ t.is F.selStatSecondValid = s.is F.selStatSecondValid))
    ∧ (bitsAt v 0 1 = 0 → bitsAt v 2 1 = 0 → s.Writes h (.selClearSecond h v) [R.selCapCode 1, R.selCapSeqLo 1, R.selCapSeqHi 1,
        R.selCapTsLo 1, R.selCapTsHi 1, R.selStat] [.sel] (fun t => t.is F.selStatSecondValid = false ∧ t.word (R.selCapCode 1) = 0
          ∧ t.is F.selStatFirstValid = s.is F.selStatFirstValid))
    ∧ (bitsAt v 0 1 = 0 → bitsAt v 1 1 = 0 → s.Writes h (.selClearRecov h v) [R.selRecov, R.selStat] [.sel, .timers] (fun t =>
        t.get F.selRecovSince = 0 ∧ t.is F.selStatHeld = false ∧ t.get F.selRecovCount = s.get F.selRecovCount
          ∧ (s.mode = Mode.safe → s.sel.standing = false → t.armed Timer.quiet = true)))
    ∧ s.Writes h (.selForce h w v) [R.selForce w] [.sel] (fun t => ∀ b, b < 32 →
        if Nat.testBit v.toNat b = true ∧ listedSource (32 * w + b) = true then t.is (selBit F.selForceForce (32 * w + b)) = true
          ∧ (s.is (selBit F.selForceForce (32 * w + b)) = false → (32 * w + b, true) ∈ t.sel.occ)
        else t.is (selBit F.selForceForce (32 * w + b)) = s.is (selBit F.selForceForce (32 * w + b)))
    ∧ s.Writes h (.selTypeCfgWrite h n v) [R.selTypeCfg n] [] (fun t =>
        if typeReset n = 0 ∨ bitsAt v 0 4 = 0 ∨ bitsAt v 4 16 = 0 then t.word (R.selTypeCfg n) = s.word (R.selTypeCfg n)
        else if s.is (F.selTypeCfgFixed n) = true then t.get (F.selTypeCfgT n) = s.get (F.selTypeCfgT n)
          ∧ t.get (F.selTypeCfgReact n) = s.get (F.selTypeCfgReact n) ∧ t.get (F.selTypeCfgW n) = bitsAt v 4 16
        else t.get (F.selTypeCfgT n) = bitsAt v 0 4 ∧ t.get (F.selTypeCfgW n) = bitsAt v 4 16
          ∧ t.get (F.selTypeCfgReact n) = (if bitsAt v 20 3 ≤ 4 then bitsAt v 20 3 else s.get (F.selTypeCfgReact n)))

/-- EVENT_ARBITER_ARRIVAL of a waiting event that opens no shadow, with at most four of its source waiting: it leaves the
way and stands last at the arbiter with the present always-on cycle. EVENT_NUMBERING with one event of kind STATE, REFUSAL
or WRITE at the arbiter and room in the journal buffer: it takes the next sequence number, SEL_SEQ holds that number, its
record stands in the event ring at SEL_EVT_HEAD, which advances by one modulo 1,024, and in the journal buffer.
JOURNAL_WRITE inside a page, with no loss to report: a record that reads back right stands in its cell and leaves the buffer
and the index advances modulo 2^20; one that reads back wrong stays in the buffer, its cell is invalid, NVM_CNT_VERIFY is
one higher modulo 2^32 and NVM_WRITE occurs. Frames name what changes. -/
def Obligations.EventNumbering : Prop :=
  ∀ (s : State) (i : Nat) (e : Ev) (c : Nat) (r : List Word) (rest : List (List Word)),
    (s.arb.wait[i]? = some e → e.opens = 0 →
      (s.arb.wait.filter (fun x => Nat.beq x.source e.source)).length
        + (s.arb.queue.filter (fun x => Nat.beq x.2.source e.source)).length ≤ 4 →
      s.Does (.eventArbiterArrival i) [] [.arb] (fun t => t.arb.wait = s.arb.wait.eraseIdx i
        ∧ t.arb.queue = s.arb.queue ++ [(s.now / 10, e)] ∧ t.arb.next = s.arb.next))
    ∧ (s.arb.queue = [(c, e)] → e.kind ∈ [1, 3, 4] → s.arb.jbuf.length < 65536 →
      s.Does .eventNumbering ([R.selSeqLo, R.selSeqHi, R.selEvtHead]
          ++ (List.range 8).map (fun k => R.selEvt (s.get F.selEvtHeadIdx * 8 + k))) [.now, .tim, .arb] (fun t =>
        t.arb.queue = [] ∧ t.arb.next = (s.arb.next + 1) % 2 ^ 48
          ∧ t.word R.selSeqLo = BitVec.ofNat 32 s.arb.next ∧ t.word R.selSeqHi = BitVec.ofNat 32 (s.arb.next / 2 ^ 32)
          ∧ t.get F.selEvtHeadIdx = (s.get F.selEvtHeadIdx + 1) % 1024
          ∧ (∀ k, k < 8 → t.word (R.selEvt (s.get F.selEvtHeadIdx * 8 + k))
              = (e.words s.arb.next (Tab.get 0 s.arb.ovf e.source) false).getD k 0)
          ∧ t.arb.jbuf = s.arb.jbuf ++ [e.words s.arb.next (Tab.get 0 s.arb.ovf e.source) true]))
    ∧ (s.arb.jbuf = r :: rest → s.journalOpen = true → s.arb.jidx < 2 ^ 20 → s.arb.jidx % 128 ≠ 0 → s.arb.jgap = 0 →
      s.Does (.journalWrite true) [R.nvmJrnHead, R.nvmCntWrap] [.arb] (fun t => t.arb.jbuf = rest
          ∧ Tab.get [] t.arb.journal s.arb.jidx = r ∧ t.arb.jidx = (s.arb.jidx + 1) % 2 ^ 20
          ∧ t.get F.nvmJrnHeadIdx = (s.arb.jidx + 1) % 2 ^ 20)
      ∧ s.Does (.journalWrite false) [R.nvmJrnHead, R.nvmCntWrap, R.nvmCntVerify] [.arb, .sel] (fun t =>
          t.arb.jbuf = r :: rest ∧ Tab.get [] t.arb.journal s.arb.jidx = [] ∧ t.arb.jidx = (s.arb.jidx + 1) % 2 ^ 20
          ∧ t.get F.nvmCntVerify = (s.get F.nvmCntVerify + 1) % 2 ^ 32
          ∧ t.sel.occ = s.sel.occ ++ [(Src.nvmWrite, false)]))

/-- For domain d. PTP_SYNC_RECEIVED of the selected master in the first Sync of a tracking domain while TSTATE is FREERUN:
TIM_DOM_OFS holds x = t1 + correction + asymmetry + mean path delay - (t2 - ING_LAT + off), clamped to 32 bits, SYNC counts,
saturating, and the Sync timer runs. PTP_ANNOUNCE_RECEIVED, the first of a sender, in LISTENING: the sender is listed and
nothing else changes; the second within four intervals selects it: UNCALIBRATED, with its class and grandmaster shown.
PTP_DELAY_RESP_RECEIVED after a Sync and a Delay_Req: the mean path delay moves by a sixteenth of the difference.
PTP_DELAY_REQ_SEND: t3 is the stamp plus EGR_LAT and the interval runs again. Frames name what changes. That an Announce
selects by the IEEE comparison is assumption 4; with one sender nothing rests on it. -/
def Obligations.PtpMessages : Prop :=
  ∀ (s : State) (d port t2 l : Nat) (t1 corr logInt t4 t3 u1 u2 : Int) (a : Announce), d < 2 →
    (s.tracking d = true → (s.dom d).master = some port → (s.dom d).lastX = none → -7 ≤ logInt → logInt ≤ 0 →
      s.tstate = TState.freerun →
      s.Does (.ptpSyncReceived d port t1 corr t2 logInt) [R.timDomOfs d, R.timDomCnt d] [.now, .tim, .timers] (fun t =>
        t.domOfs d = clampSigned 32 (t1 + corr + s.getInt (F.timDomAsymAsym d) + (s.dom d).mpd
            - ((t2 : Int) - (s.get (F.timDomLatIngLat d) : Int) + s.tim.off))
          ∧ t.get (F.timDomCntSync d) = min (s.get (F.timDomCntSync d) + 1) (2 ^ 16 - 1)
          ∧ t.armed (Timer.domSync d) = true ∧ t.tim.off = s.tim.off))
    ∧ (s.dstate d = DState.listening → -3 ≤ a.logInt → a.logInt ≤ 1 →
      ((s.dom d).foreign = [] → s.Does (.ptpAnnounceReceived d a) [] [.tim] (fun t =>
        (t.dom d).foreign = [⟨a, 1, s.now⟩] ∧ (t.dom d).master = (s.dom d).master))
      ∧ ((s.dom d).foreign = [⟨a, 1, l⟩] → s.now - l ≤ 4 * logNs a.logInt →
        s.Does (.ptpAnnounceReceived d a) [R.timDomStat d, R.timDomGmLo d, R.timDomGmHi d, R.timStat, R.selEvtOvf]
          [.tim, .timers, .arb] (fun t => t.dstate d = DState.uncalibrated ∧ (t.dom d).master = some a.port
            ∧ t.get (F.timDomStatClass d) = a.cls % 256 ∧ t.get64 (R.timDomGmLo d) (R.timDomGmHi d) = a.gm % 2 ^ 64
            ∧ t.armed (Timer.domAnnounce d) = true ∧ t.armed (Timer.domSync d) = true)))
    ∧ (s.tracking d = true → (s.dom d).sync = some (u1, u2) → (s.dom d).t3 = some t3 →
      s.Does (.ptpDelayRespReceived d t4 corr logInt) [R.timDomMpd d] [.tim] (fun t =>
        (t.dom d).mpd = (s.dom d).mpd + (((u2 - u1) + (t4 - corr - t3)) / 2 - (s.dom d).mpd) / 16
          ∧ t.getInt (F.timDomMpdMpd d) = clampSigned 32 ((t.dom d).mpd) ∧ (t.dom d).t3 = none))
    ∧ (s.tracking d = true → s.armed (Timer.domDreq d) = true →
      s.Does (.ptpDelayReqSend d) [] [.now, .tim, .timers] (fun t =>
        (t.dom d).t3 = some ((t.now : Int) + (s.get (F.timDomLatEgrLat d) : Int)) ∧ t.armed (Timer.domDreq d) = true))

/-- For domain d. PTP_QUALIFICATION_COMPLETE of an UNCALIBRATED domain with a Sync in every interval of the count, outside
ARM, in FREERUN before the acquisition: QUALIFIED, ARM_READY set, the domain selected and the acquisition step due.
PTP_ANNOUNCE_TIMEOUT of an UNCALIBRATED domain: LISTENING, no master, TIMEOUT counted, saturating. PTP_SYNC_TIMEOUT of a
QUALIFIED domain that is not selected: UNCALIBRATED, TIMEOUT counted. PTP_DOMAIN_ENABLE of a DISABLED domain, taken at once:
EN is 1 and the domain LISTENING. PTP_DOMAIN_DISABLE of a domain LISTENING or UNCALIBRATED: EN is 0 and the domain DISABLED.
Frames name what changes. -/
def Obligations.PtpDomainStates : Prop :=
  ∀ (s : State) (h d : Nat) (v : Word), d < 2 →
    (s.armed (Timer.domQual d) = true → s.dstate d = DState.uncalibrated → s.mode ≠ Mode.arm →
      10000000000 / max 1 (s.dom d).syncNs ≤ (s.dom d).qNext → s.tstate = TState.freerun → s.tim.acq = false →
      s.Does (.ptpQualificationComplete d) [R.timDomStat d, R.timStat, R.selEvtOvf] [.now, .tim, .timers, .arb] (fun t =>
        t.dstate d = DState.qualified ∧ t.is F.timStatArmReady = true ∧ t.selected = d ∧ t.tim.acq = true
          ∧ t.tstate = TState.freerun))
    ∧ (s.armed (Timer.domAnnounce d) = true → s.dstate d = DState.uncalibrated →
      s.Does (.ptpAnnounceTimeout d) [R.timDomCnt d, R.timDomStat d, R.timStat, R.selEvtOvf] [.now, .tim, .timers, .arb]
        (fun t => t.dstate d = DState.listening ∧ (t.dom d).master = none
          ∧ t.get (F.timDomCntTimeout d) = min (s.get (F.timDomCntTimeout d) + 1) 255 ∧ t.tstate = s.tstate))
    ∧ (s.armed (Timer.domSync d) = true → s.dstate d = DState.qualified → s.selected ≠ d →
      s.Does (.ptpSyncTimeout d) [R.timDomCnt d, R.timDomStat d, R.timStat, R.selEvtOvf] [.now, .tim, .timers, .arb] (fun t =>
        t.dstate d = DState.uncalibrated ∧ t.get (F.timDomCntTimeout d) = min (s.get (F.timDomCntTimeout d) + 1) 255
          ∧ t.armed (Timer.domSync d) = true ∧ t.selected = s.selected ∧ t.tstate = s.tstate))
    ∧ (s.Ready h → s.dstate d = DState.disabled →
      s.Writes h (.ptpDomainEnable h d v) [R.timDomCfg d, R.timDomStat d, R.timStat, R.selEvtOvf] [.timers] (fun t =>
        t.is (F.timDomCfgEn d) = true ∧ t.dstate d = DState.listening))
    ∧ (s.Ready h → s.dstate d = DState.listening ∨ s.dstate d = DState.uncalibrated →
      s.Writes h (.ptpDomainDisable h d v) [R.timDomCfg d, R.timDomStat d, R.timStat, R.selEvtOvf] [.timers] (fun t =>
        t.is (F.timDomCfgEn d) = false ∧ t.dstate d = DState.disabled))

/-- ACQUISITION_STEP in FREERUN with the step due: off moves by the offset of the selected domain (TIM_DOM_OFS, and at an
end of that saturating register the whole last accepted x, assumption 91), so that it becomes the time of that domain,
nothing remains to slew, and TSTATE is LOCKED. SLEW_COMPLETE in SLEWING with SLEW_MAX not 0: at most 10 ns remain, TSTATE is
LOCKED and FAR is 0. FAR_CLEAR in SLEWING with FAR set: at most 1,000,000 ns remain and FAR is 0. TIM_FORCE of port h, taken
at once: with the other domain QUALIFIED it is selected, and the time state is LOCKED with its TIM_DOM_OFS within 10 ns,
else SLEWING; with it not QUALIFIED the selection stays and FORCE_NQ counts, saturating. The part of a nanosecond slewed is
below one in every state of a run (a premise here). Frames name what changes. -/
def Obligations.TimeSelection : Prop :=
  ∀ (s : State) (h : Nat) (v : Word), s.tim.slewAcc < 1000000000 →
    (s.tim.acq = true → s.tstate = TState.freerun →
      s.Does .acquisitionStep [R.timStat, R.selEvtOvf] [.now, .tim, .arb] (fun t => t.tstate = TState.locked
        ∧ t.tim.off = s.tim.off + s.offsetOf s.selected ∧ t.tim.rem = 0 ∧ t.tim.acq = false ∧ t.selected = s.selected
        ∧ (∀ y n, (s.dom s.selected).lastX = some (y, n) → s.domOfs s.selected = clampSigned 32 (y - s.tim.off) → t.tim.off = y)))
    ∧ (s.tstate = TState.slewing → s.get F.timCtlSlewMax ≠ 0 →
      s.Does .slewComplete [R.timStat, R.selEvtOvf, R.selLive (Src.slewFar / 32)] [.now, .tim, .timers, .arb] (fun t =>
        t.tstate = TState.locked ∧ t.tim.rem.natAbs ≤ 10 ∧ t.is F.timStatFar = false))
    ∧ (s.tstate = TState.slewing → s.is F.timStatFar = true → s.get F.timCtlSlewMax ≠ 0 →
      s.Does .farClear [R.timStat, R.selLive (Src.slewFar / 32)] [.now, .tim, .timers] (fun t =>
        t.tim.rem.natAbs ≤ 1000000 ∧ t.is F.timStatFar = false ∧ t.tstate = TState.slewing))
    ∧ (s.Ready h → s.qualified (1 - s.selected) = true →
      s.Writes h (.timForce h v) [R.timCtl, R.timStat, R.timRef, R.selEvtOvf, R.selLive (Src.slewFar / 32)] [.timers] (fun t =>
        t.selected = 1 - s.selected
          ∧ t.tstate = if (s.domOfs (1 - s.selected)).natAbs ≤ 10 then TState.locked else TState.slewing))
    ∧ (s.Ready h → s.qualified (1 - s.selected) = false →
      s.Writes h (.timForce h v) [R.timCtl, R.timStat, R.timRef, R.selEvtOvf] [.timers] (fun t =>
        t.selected = s.selected ∧ t.tstate = s.tstate ∧ t.get F.timStatForceNq = min (s.get F.timStatForceNq + 1) 255))

/-- REF_IN_QUALIFIED while QUALIFYING: RSTATE is QUALIFIED (2). REF_IN_STOP while QUALIFYING or QUALIFIED: DISQUALIFIED (3).
REF_IN_RATE_GATE outside FMON_PPM: the first only counts, the second in a row disqualifies; a gate inside clears the count.
REF_IN_GLITCH is counted, saturating, and REF_IN stays as it is. REF_IN_RESUME after a disqualification: QUALIFYING again.
PPS_IN_EDGE: TIM_PPSIN holds the LTC modulo 2^64 and its error the signed distance from the nearest second. PPS_OUT_SECOND
where the output may rise and nothing remains to slew: it is high, time stands at a whole LTC second and its fall is timed.
PPS_OUT_FALL: it is low. Frames name what changes. -/
def Obligations.TimeReferences : Prop :=
  ∀ (s : State) (periods : Nat),
    (s.armed Timer.refQual = true → s.get F.timRefRstate = 1 →
      s.Does .refInQualified [R.timRef, R.timStat, R.selEvtOvf] [.now, .tim, .timers, .arb] (fun t => t.get F.timRefRstate = 2))
    ∧ (s.get F.timRefRstate = 1 ∨ s.get F.timRefRstate = 2 →
      s.Does .refInStop [R.timRef, R.timStat, R.selEvtOvf] [.free, .tim, .timers, .arb] (fun t => t.get F.timRefRstate = 3
          ∧ t.get F.timRefGlitch = s.get F.timRefGlitch)
      ∧ (s.get F.timRefFmonPpm < ((periods : Int) - 1000000).natAbs → s.tim.refBad ≠ 0 →
        s.Does (.refInRateGate periods) [R.timRef, R.timStat, R.selEvtOvf] [.free, .tim, .timers, .arb] (fun t =>
          t.get F.timRefRstate = 3)))
    ∧ (s.get F.timRefFmonPpm < ((periods : Int) - 1000000).natAbs → s.tim.refBad = 0 →
      s.Does (.refInRateGate periods) [] [.tim] (fun t => t.tim.refBad = 1))
    ∧ (((periods : Int) - 1000000).natAbs ≤ s.get F.timRefFmonPpm →
      s.Does (.refInRateGate periods) [] [.tim] (fun t => t.tim.refBad = 0))
    ∧ s.Does .refInGlitch [R.timRef] [] (fun t => t.get F.timRefGlitch = min (s.get F.timRefGlitch + 1) 255
        ∧ t.get F.timRefRstate = s.get F.timRefRstate)
    ∧ (s.get F.timRefRstate = 3 → s.Does .refInResume [R.timRef, R.selEvtOvf] [.tim, .timers, .arb] (fun t =>
        t.get F.timRefRstate = 1 ∧ t.armed Timer.refQual = true))
    ∧ s.Does .ppsInEdge [R.timPpsinLo, R.timPpsinHi, R.timPpsinErr] [] (fun t =>
        (t.get64 R.timPpsinLo R.timPpsinHi : Int) = s.ltc % 2 ^ 64 ∧ t.getInt F.timPpsinErrErr = ppsErr s.ltc)
    ∧ (s.ppsMay = true → s.tim.rem = 0 → s.Does .ppsOutSecond [] [.now, .tim, .timers] (fun t => t.tim.ppsOut = true
        ∧ t.ltc % 1000000000 = 0 ∧ t.armed Timer.ppsFall = true))
    ∧ (s.armed Timer.ppsFall = true → s.Does .ppsOutFall [] [.now, .tim, .timers] (fun t => t.tim.ppsOut = false
        ∧ t.armed Timer.ppsFall = false))

/-- Expiries of running timers. ARM_WAIT_EXPIRY in ARM while a source is waited for: ARM_READY is set and the mode stays
ARM. HOLDOVER_LONG_EXPIRY in HOLDOVER and SLEW_FAR_EXPIRY with FAR set: the live bit of the source is 1 and one occurrence
of it waits for SEL. Frames name what changes. -/
def Obligations.TimeLimits : Prop :=
  ∀ s : State,
    (s.armed Timer.armWait = true → s.mode = Mode.arm → s.sys.srcWaitOver = false → s.srcWaiting = true →
      s.Does .armWaitExpiry [R.timStat] [.now, .tim, .timers] (fun t => t.is F.timStatArmReady = true ∧ t.mode = Mode.arm))
    ∧ (s.armed Timer.holdoverLong = true → s.tstate = TState.holdover →
      s.Does .holdoverLongExpiry [R.selLive (Src.holdoverLong / 32)] [.now, .tim, .timers, .sel] (fun t =>
        t.is (selBit F.selLiveLive Src.holdoverLong) = true ∧ t.sel.occ = s.sel.occ ++ [(Src.holdoverLong, false)]))
    ∧ (s.armed Timer.slewFar = true → s.is F.timStatFar = true →
      s.Does .slewFarExpiry [R.selLive (Src.slewFar / 32)] [.now, .tim, .timers, .sel] (fun t =>
        t.is (selBit F.selLiveLive Src.slewFar) = true ∧ t.sel.occ = s.sel.occ ++ [(Src.slewFar, false)]))

/-- For PLL p. PLL_BAND_SEARCH_STEP: one step fewer is to come. PLL_TABLE_BAND_TIMEOUT: TBL_MISS is set and a search of four
steps begins. PLL_ACQUIRE_TIMEOUT: PSTATE is RETRY, FAILS counts, saturating, and the retry is timed. PLL_RETRY_EXPIRY in
RETRY: PSTATE is ACQUIRE with its 2 ms limit. PLL_RAMP_COMPLETE in RAMP: LOCKED. PLL_LOCK_DECLARED of a core PLL in ACQUIRE
outside a search, in RUN, with no shadow open and no restore under way: LOCKED in the band given, off bypass, FAILS 0 and
ACQ one higher modulo 2^32. Expiries are of running timers. Frames name what changes. -/
def Obligations.PllAcquisition : Prop :=
  ∀ (s : State) (p band : Nat) (cut : Cut), p < 76 →
    (s.armed (Timer.pllStep p) = true → s.Does (.pllBandSearchStep p) [] [.now, .tim, .timers, .clk] (fun t =>
        (t.pll p).steps = (s.pll p).steps - 1 ∧ t.armed (Timer.pllStep p) = !Nat.beq ((s.pll p).steps - 1) 0))
    ∧ (s.armed (Timer.pllTable p) = true → s.Does (.pllTableBandTimeout p) [R.clkPllStat p] [.now, .tim, .timers, .clk] (fun t =>
        t.is (F.clkPllStatTblMiss p) = true ∧ (t.pll p).steps = 4 ∧ t.armed (Timer.pllStep p) = true ∧ t.pstate p = s.pstate p))
    ∧ (s.armed (Timer.pllAcquire p) = true →
      s.Does (.pllAcquireTimeout p) [R.clkPllStat p, R.selEvtOvf] [.now, .tim, .timers, .clk, .arb, .sel, .sys] (fun t =>
        t.pstate p = PState.retry ∧ t.get (F.clkPllStatFails p) = min (s.get (F.clkPllStatFails p) + 1) 255
          ∧ t.armed (Timer.pllRetry p) = true ∧ t.armed (Timer.pllAcquire p) = false))
    ∧ (s.armed (Timer.pllRetry p) = true → s.pstate p = PState.retry →
      s.Does (.pllRetryExpiry p) [R.clkPllStat p, R.selEvtOvf] [.now, .tim, .timers, .clk, .arb] (fun t =>
        t.pstate p = PState.acquire ∧ t.is (F.clkPllStatOnByp p) = true ∧ t.armed (Timer.pllAcquire p) = true))
    ∧ (s.armed (Timer.pllRamp p) = true → s.pstate p = PState.ramp →
      s.Does (.pllRampComplete p) [R.clkPllStat p, R.selEvtOvf] [.now, .tim, .timers, .arb] (fun t =>
        t.pstate p = PState.locked ∧ t.armed (Timer.pllRamp p) = false))
    ∧ (p < 4 → band < 16 → s.mode = Mode.run → s.pstate p = PState.acquire → (s.pll p).steps = 0 → s.sel.shadows = [] →
        s.clk.restore = [] →
      s.Does (.pllLockDeclared p band cut) [R.clkPllStat p, R.clkPllCntBypMs p, R.clkPllCntAcq p, R.selEvtOvf]
        [.timers, .clk, .arb] (fun t => t.pstate p = PState.locked ∧ t.is (F.clkPllStatOnByp p) = false
          ∧ t.get (F.clkPllStatBand p) = band ∧ t.get (F.clkPllStatFails p) = 0
          ∧ t.get (F.clkPllCntAcq p) = (s.get (F.clkPllCntAcq p) + 1) % 2 ^ 32))

/-- For PLL p. PLL_LOCK_LOSS of a core, fabric or system PLL that is LOCKED or in RAMP: PSTATE is ACQUIRE on bypass, LOL one
higher modulo 2^32, CLK_LOL occurs and a loss of capacity is put to the mode controller. CLOCK_MONITOR_WINDOW: the
measurement is shown; of such a PLL above 1.03 of its target, OVER counts and CLK_OVER occurs before the loss.
PLL_TARGET_WRITE, taken at once in RUN with a value in range: it waits for its check on PLLs 0 to 3 and is refused with
FIXED (5) on the others. PLL_TARGET_CHECK in RUN that finds no reason, in the band of the running lock of PLL 0 to 3: the
target is the new one and PSTATE is RAMP. CLEANER_LOSS with every PLL OFF outside HOLD and LOAD: CLEANER_OK is 0 and
CLK_CLEANER occurs. CLEANER_RETURN: CLEANER_OK is 1. REF_RESTORE taken at once, CLEANER_OK being 1 for 10 s, where the first
PLL to return is not LOCKED: it acquires on the cleaner. Frames name what changes. -/
def Obligations.PllLossAndTarget : Prop :=
  ∀ (s : State) (h p khz : Nat) (v : Word) (cut : Cut) (rest : List Nat), p < 76 →
    (p ≤ 4 ∨ p = 11 → s.pllUp p = true →
      s.Does (.pllLockLoss p cut) [R.clkPllStat p, R.clkPllCntLol p, R.selEvtOvf] [.timers, .clk, .arb, .sel, .sys] (fun t =>
        t.pstate p = PState.acquire ∧ t.is (F.clkPllStatOnByp p) = true
          ∧ t.get (F.clkPllCntLol p) = (s.get (F.clkPllCntLol p) + 1) % 2 ^ 32
          ∧ t.sel.occ = s.sel.occ ++ [(Src.clkLol p, false)] ∧ t.sys.reqs = s.sys.reqs ++ [⟨Mode.degraded, 6, 6, 0⟩])
      ∧ (103 * s.instTarget p < 100 * khz →
        s.Does (.clockMonitorWindow p khz cut) [R.clkPllStat p, R.clkPllCntLol p, R.clkPllCntOver p, R.clkPllFreq p, R.selEvtOvf]
          [.timers, .clk, .arb, .sel, .sys] (fun t => t.get (F.clkPllFreqMeas p) = khz / 1000 % 2 ^ 16
            ∧ t.get (F.clkPllCntOver p) = (s.get (F.clkPllCntOver p) + 1) % 2 ^ 32 ∧ t.pstate p = PState.acquire
            ∧ t.sel.occ = s.sel.occ ++ [(Src.clkOver p, false), (Src.clkLol p, false)])))
    ∧ (100 * khz ≤ 103 * s.instTarget p → s.Does (.clockMonitorWindow p khz cut) [R.clkPllFreq p] [] (fun t =>
        t.get (F.clkPllFreqMeas p) = khz / 1000 % 2 ^ 16))
    ∧ (s.Ready h → s.mode = Mode.run →
      (p < 4 → 1200000 ≤ v.toNat → v.toNat ≤ 1700000 → s.Writes h (.pllTargetWrite h p v) [] [.clk] (fun t =>
        (t.pll p).pend = some v.toNat))
      ∧ (4 ≤ p → s.Writes h (.pllTargetWrite h p v) [R.clkPllStat p, R.selEvtOvf] [] (fun t =>
        t.is (F.clkPllStatRefused p) = true ∧ t.get (F.clkPllStatRefuse p) = 5)))
    ∧ (p < 4 → s.mode = Mode.run → s.pllUp p = true → (s.pll p).pend = some khz → khz < 2 ^ 32 →
      (s.tick.setPll p { s.pll p with pend := none }).targetReason p khz = 0 →
      s.Does (.pllTargetCheck p true) [R.clkPllTgt p, R.clkPllStat p, R.selEvtOvf] [.now, .tim, .timers, .clk, .arb] (fun t =>
        t.get (F.clkPllTgtTgt p) = khz ∧ t.pstate p = PState.ramp ∧ (t.pll p).pend = none ∧ t.armed (Timer.pllRamp p) = true))
    ∧ (s.clk.cleaner = true → s.writesAct = true → (∀ q, q < 76 → s.pstate q = PState.off) →
      s.Does (.cleanerLoss cut) [R.clkStat, R.selLive (Src.clkCleaner / 32)] [.clk, .sel] (fun t => t.clk.cleaner = false
        ∧ t.is F.clkStatCleanerOk = false ∧ t.is (selBit F.selLiveLive Src.clkCleaner) = true
        ∧ t.sel.occ = s.sel.occ ++ [(Src.clkCleaner, false)]))
    ∧ (s.clk.cleaner = false → s.writesAct = true →
      s.Does .cleanerReturn [R.clkStat, R.selLive (Src.clkCleaner / 32)] [.clk] (fun t => t.clk.cleaner = true
        ∧ t.is F.clkStatCleanerOk = true ∧ t.is (selBit F.selLiveLive Src.clkCleaner) = false ∧ t.clk.since = s.now))
    ∧ (s.Ready h → s.is F.clkStatCleanerOk = true → s.clk.since + 10000000000 ≤ s.now → s.pllUp p = false →
      (List.range 76).filter (fun q => !(Nat.ble 5 q && Nat.ble q 8) && !Nat.beq (s.pstate q) PState.off) = p :: rest →
      s.Writes h (.refRestore h v cut) [R.clkCtl, R.clkPllStat p, R.selEvtOvf] [.clk, .timers] (fun t =>
        t.clk.restore = p :: rest ∧ t.pstate p = PState.acquire ∧ t.is (F.clkPllStatAltRef p) = false))

/-- For channel d. REFRESH_DUE with no rate change pending: with requests waiting the subchannel has one refresh more
outstanding up to its limit, without them none, and the grid goes on. DRAM_TEMP_READ of an ACTIVE channel: below 83 degrees
with the normal rate TEMP shows the hottest reading; above 95 degrees with the doubled rate the channel is HOT and DRC_HOT
occurs with its live bit. NEIGHBOUR_REFRESH and AGE_PROMOTION beyond the limit count modulo 2^32. DRAM_RETRAIN_REQUEST taken
at once and DQS_TRACKING beyond its range: an ACTIVE channel is in RETRAIN and RETRAIN counts; within its range nothing
changes. DRAM_INJECT_SINGLE (bit DOUBLE 0) and DRAM_INJECT_DOUBLE: the injection waits. Frames name what changes. -/
def Obligations.DramUpkeep : Prop :=
  ∀ (s : State) (h d u cls waited n : Nat) (x : Int) (busy : Bool) (v : Word), d < 32 →
    (u < 2 → s.armed (Timer.refresh d u) = true → (s.dch d).cooled = false →
      s.Does (.refreshDue d u busy) [R.drcStat d] [.now, .tim, .timers, .dram] (fun t =>
        (if u = 0 then (t.dch d).outA else (t.dch d).outB) = (if busy then
            (if (if u = 0 then (s.dch d).outA else (s.dch d).outB) < s.postLimit d then
              (if u = 0 then (s.dch d).outA else (s.dch d).outB) + 1 else (if u = 0 then (s.dch d).outA else (s.dch d).outB))
            else 0)
          ∧ (if u = 0 then (t.dch d).outB = (s.dch d).outB else (t.dch d).outA = (s.dch d).outA)
          ∧ t.armed (Timer.refresh d u) = true ∧ t.cstate d = s.cstate d))
    ∧ (s.cstate d = CState.active → -128 ≤ x → x < 83 → s.is (F.drcStatRef2x d) = false →
      s.Does (.dramTempRead d [x]) [R.drcStat d] [.dram] (fun t => t.getInt (F.drcStatTemp d) = x ∧ t.cstate d = CState.active))
    ∧ (s.cstate d = CState.active → 95 < x → x < 128 → s.is (F.drcStatRef2x d) = true →
      s.Does (.dramTempRead d [x, 0]) [R.drcStat d, R.selEvtOvf, R.selLive (Src.drcHot d / 32)] [.dram, .arb, .sel] (fun t =>
        t.getInt (F.drcStatTemp d) = x ∧ t.cstate d = CState.hot ∧ t.is (selBit F.selLiveLive (Src.drcHot d)) = true
          ∧ t.sel.occ = s.sel.occ ++ [(Src.drcHot d, false)]))
    ∧ (s.cstate d = CState.active → s.Does (.neighbourRefresh d) [R.drcCntNref d] [] (fun t =>
        t.get (F.drcCntNref d) = (s.get (F.drcCntNref d) + 1) % 2 ^ 32))
    ∧ (s.ageLimit d cls = some n → n < waited → s.Does (.agePromotion d cls waited) [R.drcCntPromote d] [] (fun t =>
        t.get (F.drcCntPromote d) = (s.get (F.drcCntPromote d) + 1) % 2 ^ 32))
    ∧ (s.cstate d = CState.active →
      (s.Ready h → s.Writes h (.dramRetrainRequest h d v) [R.drcCtl d, R.drcStat d, R.drcCntRetrain d, R.selEvtOvf] [.sel] (fun t =>
        t.cstate d = CState.retrain ∧ t.get (F.drcCntRetrain d) = (s.get (F.drcCntRetrain d) + 1) % 2 ^ 32))
      ∧ s.Does (.dqsTracking d true) [R.drcStat d, R.drcCntRetrain d, R.selEvtOvf] [.arb, .sel] (fun t =>
        t.cstate d = CState.retrain ∧ t.get (F.drcCntRetrain d) = (s.get (F.drcCntRetrain d) + 1) % 2 ^ 32))
    ∧ exec (.dqsTracking d false) s = .next s
    ∧ (s.Ready h → (bitsAt v 1 1 = 0 → s.Writes h (.dramInjectSingle h d v) [] [.dram] (fun t => (t.dch d).inj = 1))
      ∧ s.Writes h (.dramInjectDouble h d v) [] [.dram] (fun t => (t.dch d).inj = 2))

/-- For the channel d of the address. DRAM_READ_COMPLETE, d not FAILED, for a replay delivery of port q: a clean read of a
clean block changes retries, the longest wait and bandwidth only; a corrected read of a clean block counts in CE modulo
2^32, occurs as DRC_CE and leaves its error record with UE 0; an uncorrectable one counts in UE, occurs as DRC_UE, leaves
its record with UE 1 and counts at its reader. DRAM_WRITE_COMPLETE that got through: the block holds what a waiting
injection makes of it, and the injection is used up; one that did not: the block is unknown and DRC_LINK occurs. SCRUB_READ
of a clean block on an ACTIVE channel with the scrub on: the next block is due, and a completed pass counts. Frames name
what changes. -/
def Obligations.DramAccesses : Prop :=
  ∀ (s : State) (a : Access) (q d lane bank row : Nat) (c : Bool), q < 4 →
    (s.cstate (s.daChannel a.da) ≠ CState.failed → a.dead = false →
      (Tab.get 0 (s.dch (s.daChannel a.da)).bad (a.da / 64) = 0 →
        (a.result = 0 → s.Does (.dramReadComplete a (.replay q)) [R.drcCntLinkRetry (s.daChannel a.da),
            R.drcWait (s.daChannel a.da) (min 3 a.cls), R.drcBw (s.daChannel a.da)] [.dram] (fun t => t.get (F.drcCntLinkRetry (s.daChannel a.da))
              = (s.get (F.drcCntLinkRetry (s.daChannel a.da)) + min 3 a.retries) % 2 ^ 32))
        ∧ (a.result = 1 → s.Does (.dramReadComplete a (.replay q)) [R.drcCntLinkRetry (s.daChannel a.da),
            R.drcWait (s.daChannel a.da) (min 3 a.cls), R.drcBw (s.daChannel a.da), R.drcErrLo (s.daChannel a.da),
            R.drcErrHi (s.daChannel a.da), R.drcErrInfo (s.daChannel a.da), R.drcCntCe (s.daChannel a.da)] [.dram, .sel] (fun t =>
              t.get (F.drcCntCe (s.daChannel a.da)) = (s.get (F.drcCntCe (s.daChannel a.da)) + 1) % 2 ^ 32
              ∧ t.is (F.drcErrInfoUe (s.daChannel a.da)) = false
              ∧ t.get64 (R.drcErrLo (s.daChannel a.da)) (R.drcErrHi (s.daChannel a.da)) = a.da % 2 ^ 41
              ∧ t.sel.occ = s.sel.occ ++ [(Src.drcCe (s.daChannel a.da), false)]))
        ∧ (a.result = 2 → s.Does (.dramReadComplete a (.replay q)) [R.drcCntLinkRetry (s.daChannel a.da),
            R.drcWait (s.daChannel a.da) (min 3 a.cls), R.drcBw (s.daChannel a.da), R.drcErrLo (s.daChannel a.da),
            R.drcErrHi (s.daChannel a.da), R.drcErrInfo (s.daChannel a.da), R.drcCntUe (s.daChannel a.da), R.rplRqCntCrc q]
            [.dram, .sel] (fun t =>
              t.get (F.drcCntUe (s.daChannel a.da)) = (s.get (F.drcCntUe (s.daChannel a.da)) + 1) % 2 ^ 32
              ∧ t.is (F.drcErrInfoUe (s.daChannel a.da)) = true
              ∧ t.get (F.rplRqCntCrc q) = (s.get (F.rplRqCntCrc q) + 1) % 2 ^ (F.rplRqCntCrc q).width
              ∧ t.sel.occ = s.sel.occ ++ [(Src.drcUe (s.daChannel a.da), false)])))
      ∧ s.Does (.dramWriteComplete a) [R.drcCntLinkRetry (s.daChannel a.da), R.drcWait (s.daChannel a.da) (min 3 a.cls),
          R.drcBw (s.daChannel a.da)] [.dram] (fun t => (t.dch (s.daChannel a.da)).inj = 0
            ∧ Tab.get 0 (t.dch (s.daChannel a.da)).bad (a.da / 64) = (s.dch (s.daChannel a.da)).inj))
    ∧ (s.cstate (s.daChannel a.da) ≠ CState.failed → a.dead = true →
      s.Does (.dramWriteComplete a) [R.drcCntLinkRetry (s.daChannel a.da), R.drcWait (s.daChannel a.da) (min 3 a.cls),
          R.drcBw (s.daChannel a.da)] [.dram, .sel] (fun t => Tab.get 0 (t.dch (s.daChannel a.da)).bad (a.da / 64) = 2
            ∧ t.sel.occ = s.sel.occ ++ [(Src.drcLink (s.daChannel a.da), false)]))
    ∧ (d < 32 → s.is (F.drcCtlScrubEn d) = true → s.cstate d = CState.active →
      Tab.get 0 (s.dch d).bad (s.blockDa d (s.dch d).scrub / 64) = 0 →
      s.Does (.scrubRead d 0 lane bank row c) [R.drcCntScrubPass d] [.dram] (fun t =>
        (t.dch d).scrub = ((s.dch d).scrub + 1) % s.chanBlocks
          ∧ (((s.dch d).scrub + 1) % s.chanBlocks = 0 →
            t.get (F.drcCntScrubPass d) = (s.get (F.drcCntScrubPass d) + 1) % 2 ^ 32)))

/-- For channel d. DRAM_RETRAIN_COMPLETE in RETRAIN with both eyes at least 13/64 UI and a clean check: ACTIVE with the new
settings in DRC_TRN_SET. DRAM_TRAINING_COMPLETE of a TRAINING channel that passes, while another channel still trains:
ACTIVE, with its refresh grid running. DRAM_TRAINING_TIMEOUT of a TRAINING channel in a group that has not failed, while a
channel of another group still trains: every channel of the group is FAILED with reason TRAIN, the group is out of the map,
and the states of the other channels stay. Frames name what changes (for the failure: the channel states of the other
groups). -/
def Obligations.DramTraining : Prop :=
  ∀ (s : State) (d d' rd wr vrd vwr : Nat), d < 32 → d' < 32 → 13 ≤ rd → rd < 256 → 13 ≤ wr → wr < 256 → vrd < 256 → vwr < 256 →
    (s.cstate d = CState.retrain → s.Does (.dramRetrainComplete d rd wr vrd vwr true) [R.drcTrnSet d, R.drcStat d, R.selEvtOvf]
      [.sel, .timers, .arb] (fun t => t.cstate d = CState.active ∧ t.get (F.drcTrnSetRdEye d) = rd ∧ t.get (F.drcTrnSetWrEye d) = wr
        ∧ t.get (F.drcTrnSetVrefRd d) = vrd ∧ t.get (F.drcTrnSetVrefWr d) = vwr))
    ∧ (s.cstate d = CState.training → s.cstate d' = CState.training → d ≠ d' →
      s.Does (.dramTrainingComplete d rd wr vrd vwr true) [R.drcTrnSet d, R.drcStat d, R.selEvtOvf] [.timers, .arb] (fun t =>
        t.cstate d = CState.active ∧ t.get (F.drcTrnSetRdEye d) = rd ∧ t.armed (Timer.refresh d 0) = true
          ∧ t.armed (Timer.refresh d 1) = true ∧ t.armed (Timer.train d) = false))
    ∧ (s.armed (Timer.train d) = true → s.cstate d = CState.training → s.cstate d' = CState.training → d / 4 ≠ d' / 4 →
      s.get (F.drcGrpStatReason (d / 4)) = 0 → ∃ t, exec (.dramTrainingTimeout d) s = .next t
        ∧ (∀ c, c < 32 → c / 4 = d / 4 → t.cstate c = CState.failed) ∧ (∀ c, c < 32 → c / 4 ≠ d / 4 → t.cstate c = s.cstate c)
        ∧ t.is (F.drcGrpStatInMap (d / 4)) = false ∧ t.get (F.drcGrpStatReason (d / 4)) = 1
        ∧ t.get (F.drcGrpStatChan (d / 4)) = d % 4)

/-- LOAD_COMPLETE in LOAD while the images are examined: with a slot selected and no section failing as it is applied,
NVM_STAT shows the load as done (3) and the module is in CALIBRATE, or in SERVICE where a request for it waits; with no slot
to select, the state of LOAD is NO IMAGE (4), the mode stays LOAD unless a request for SERVICE waits, and the system PLL
acquires. SELTYPE_REREAD_COMPLETE after a bad re-read: every SEL_TYPE_CFG holds its default and SELTYPE_BAD is set.
CALIBRATE_TIMEOUT of a running limit in CALIBRATE with NOSAFE clear: ARM where the safe set is present, otherwise NOSAFE is
set and the mode stays. -/
def Obligations.LoadAndCalibrate : Prop :=
  ∀ (s : State) (ecc : Nat),
    (s.mode = Mode.load → s.get F.nvmStatLstate = 1 →
      ∃ t, exec (.loadComplete none ecc) s = .next t
        ∧ match (((s.bump F.nvmCntEccCe ecc).showSlot 0 true).showSlot 1 true).selectSlot with
          | some _ => t.get F.nvmStatLstate = 3 ∧ (t.mode = Mode.calibrate ∨ t.mode = Mode.service)
          | none => t.get F.nvmStatLstate = 4 ∧ (s.sys.svcWait = none → t.mode = Mode.load ∧ t.pstate 11 = PState.acquire))
    ∧ (s.sel.reread = true → s.Does (.seltypeRereadComplete false) (R.nvmStat :: (List.range 256).map R.selTypeCfg) [.sel] (fun t =>
        (∀ n, n < 256 → t.word (R.selTypeCfg n) = resetWord (R.selTypeCfg n)) ∧ t.is F.nvmStatSeltypeBad = true
          ∧ t.sel.reread = false ∧ t.sel.occ = s.sel.occ))
    ∧ (s.armed Timer.calibrate = true → s.mode = Mode.calibrate → s.is F.nvmStatNosafe = false →
      ∃ t, exec .calibrateTimeout s = .next t ∧ (s.safeSet = true → t.mode = Mode.arm)
        ∧ (s.safeSet = false → t.mode = Mode.calibrate ∧ t.is F.nvmStatNosafe = true))

/-- For an unbonded lane l. LANE_ENABLE of a lane with EN = 0 and nothing waiting, taken at once: EN reads 1 and the enable
waits for its check. LANE_DISABLE of a lane with EN = 1 and nothing waiting: EN reads 0, the other fields stay and the
disable waits. LANE_ENABLE_CHECK of an enable that no rule refuses, on an OFF lane whose quad's PLL has started: the
eighteen counters are 0 and LSTATE is TRAIN for an Ethernet lane with TRAIN = 1, else LOCKING, with EN kept; of a disable of
a lane that nothing names: OFF. The check falls on a 1 µs tick. Frames name what changes. -/
def Obligations.LaneEnables : Prop :=
  ∀ (s : State) (h l : Nat) (v : Word), l < 256 → s.bonded l = false →
    ((s.lane l).enWait = none → s.Ready h →
      (s.is (F.lnkCfgEn l) = false → s.Writes h (.laneEnable h l v) [R.lnkCfg l] [.lanes] (fun t =>
        t.is (F.lnkCfgEn l) = true ∧ (t.lane l).enWait = some true))
      ∧ (s.is (F.lnkCfgEn l) = true → s.Writes h (.laneDisable h l v) [R.lnkCfg l] [.lanes] (fun t =>
        t.is (F.lnkCfgEn l) = false ∧ (t.lane l).enWait = some false ∧ t.get (F.lnkCfgMode l) = s.get (F.lnkCfgMode l)
          ∧ t.is (F.lnkCfgTrain l) = s.is (F.lnkCfgTrain l) ∧ t.lstate l = s.lstate l)))
    ∧ ((s.lane l).enWait = some true → s.laneErr l = 0 → s.lstate l = LState.off → s.pstate (12 + l / 4) ≠ PState.off →
      s.Does (.laneEnableCheck l) ([R.lnkStat l, R.selEvtOvf] ++ (List.range 18).map (fun k => R.lnkCntRxFrames l + 4 * k))
        [.now, .tim, .timers, .lanes, .arb] (fun t =>
          t.lstate l = (if s.is (F.lnkCfgTrain l) && s.laneEthernet l then LState.train else LState.locking)
          ∧ (∀ k, k < 18 → t.word (R.lnkCntRxFrames l + 4 * k) = 0) ∧ (t.lane l).enWait = none ∧ t.now % 1000 = 0))
    ∧ ((s.lane l).enWait = some false → s.laneInUse l = false →
      s.Does (.laneEnableCheck l) [R.lnkStat l, R.lnkCntLockLoss l, R.selLive (Src.lnkDown l / 32), R.selEvtOvf]
        [.now, .tim, .timers, .lanes, .arb, .sel] (fun t => t.lstate l = LState.off ∧ (t.lane l).enWait = none ∧ t.now % 1000 = 0))

/-- For an unbonded lane l. LANE_TEST_ENABLE of a lane not in TEST with no enable waiting, taken at once: LNK_TEST.EN reads
1 and the enable waits with the word before it. LANE_TEST_ACCEPT in LOOPBACK of a lane not OFF: LSTATE is TEST with cause 7.
LANE_TEST_DISABLE of a lane in TEST: EN reads 0, the checker is unlocked and the lane starts as from OFF. PRBS_INJECT_SINGLE
(BURST = 0) and PRBS_INJECT_BURST while the generator does not send and no injection waits: one bit, or BLEN bits, wait.
PRBS_CHECKER_LOCK in TEST with CHK = 1: CHK_LOCK is 1. PRBS_CHECKER_LOSS of a locked checker: its errors count, saturating,
its bits count modulo 2^64, CHK_LOCK is 0 and LOSS 1. Frames name what changes. -/
def Obligations.LaneTests : Prop :=
  ∀ (s : State) (h l errs bits : Nat) (v w : Word), l < 256 → s.bonded l = false →
    (s.Ready h →
      (s.lstate l ≠ LState.test → (s.lane l).testWait = none →
        s.Writes h (.laneTestEnable h l v) [R.lnkTest l, R.lnkPrbsBitsLo l, R.lnkPrbsBitsHi l] [.lanes] (fun t =>
          t.is (F.lnkTestEn l) = true ∧ (t.lane l).testWait = some (s.word (R.lnkTest l)) ∧ t.lstate l = s.lstate l))
      ∧ (s.lstate l = LState.test →
        s.Writes h (.laneTestDisable h l v) [R.lnkTest l, R.lnkPrbsBitsLo l, R.lnkPrbsBitsHi l, R.lnkPrbs l, R.lnkStat l, R.selEvtOvf]
          [.lanes, .timers] (fun t => t.is (F.lnkTestEn l) = false ∧ t.is (F.lnkPrbsChkLock l) = false
            ∧ t.lstate l = (if s.is (F.lnkCfgTrain l) && s.laneEthernet l then LState.train else LState.locking)))
      ∧ (s.generating l = false → (s.lane l).inj = 0 →
        (bitsAt v 1 1 = 0 → s.Writes h (.prbsInjectSingle h l v) [R.lnkInj l] [.lanes] (fun t => (t.lane l).inj = 1))
        ∧ s.Writes h (.prbsInjectBurst h l v) [R.lnkInj l] [.lanes] (fun t => (t.lane l).inj = t.get (F.lnkInjBlen l))))
    ∧ ((s.lane l).testWait = some w → s.lstate l ≠ LState.off → s.mode = Mode.loopback → s.lstate l ≠ LState.test →
      s.Does (.laneTestAccept l) [R.lnkStat l, R.lnkCntLockLoss l, R.selLive (Src.lnkDown l / 32), R.selEvtOvf, R.lnkPrbs l,
        R.lnkPrbsErr l, R.lnkPrbsBitsLo l, R.lnkPrbsBitsHi l] [.now, .tim, .timers, .lanes, .arb, .sel] (fun t => t.lstate l = LState.test
          ∧ t.get (F.lnkStatDcause l) = 7 ∧ (t.lane l).testWait = none))
    ∧ (s.lstate l = LState.test → s.is (F.lnkTestChk l) = true → s.Does (.prbsCheckerLock l) [R.lnkPrbs l] [.lanes] (fun t =>
        t.is (F.lnkPrbsChkLock l) = true ∧ t.is (F.lnkPrbsLoss l) = s.is (F.lnkPrbsLoss l)))
    ∧ (s.is (F.lnkPrbsChkLock l) = true →
      s.Does (.prbsCheckerLoss l errs bits) [R.lnkPrbs l, R.lnkPrbsErr l, R.lnkPrbsBitsLo l, R.lnkPrbsBitsHi l] [] (fun t =>
        t.is (F.lnkPrbsChkLock l) = false ∧ t.is (F.lnkPrbsLoss l) = true
          ∧ t.get (F.lnkPrbsErr l) = min (s.get (F.lnkPrbsErr l) + errs) (2 ^ 32 - 1)
          ∧ t.get64 (R.lnkPrbsBitsLo l) (R.lnkPrbsBitsHi l)
            = (s.get64 (R.lnkPrbsBitsLo l) (R.lnkPrbsBitsHi l) + bits) % 2 ^ 64))

/-- For an unbonded Ethernet lane l. LANE_BLOCK_LOCK in LOCKING: RXLOCK is 1 and the lane is UP where the PLL is locked, no
remote fault stands and the RS-FEC, where it runs, is locked; else it stays LOCKING. LANE_LOCK_LOSS in UP: LOCKING with
cause 1 or 2, LOCK_LOSS and the invalid headers count modulo 2^32, and LNK_DOWN occurs with its live bit.
REMOTE_FAULT_RECEIVED in UP: the same with cause 3. REMOTE_FAULT_CLEAR: RF is 0 and a LOCKING lane that now meets every
condition is UP. LOCK_TIME_EXPIRY in LOCKING: TRAIN, timed. TRAINING_COMPLETE: LOCKING with the coefficients shown and an
inversion counted. TRAINING_TIMEOUT: BACKOFF with its cause, the failure and the attempt counted, the back-off timed.
BACKOFF_EXPIRY: TRAIN. UP_STABLE_RESET in UP: the attempts are 0. Expiries are of running timers. Frames name what changes.
-/
def Obligations.EthernetLaneStates : Prop :=
  ∀ (s : State) (l bad pre main post : Nat) (b : Bool), l < 256 → s.bonded l = false → s.laneEthernet l = true →
    (s.lstate l = LState.locking →
      s.Does (.laneBlockLock l b) [R.lnkStat l, R.selLive (Src.lnkDown l / 32), R.selEvtOvf] [.lanes, .timers, .arb, .igmp] (fun t =>
        t.is (F.lnkStatRxlock l) = true ∧ t.lstate l = (if s.is (F.lnkQStatPllLock (l / 4)) = true ∧ s.is (F.lnkStatRf l) = false
          ∧ (s.is (F.lnkCfgFec l) = true → s.get (F.lnkCfgMode l) = 2 → b = true) then LState.up else LState.locking)))
    ∧ (s.lstate l = LState.up →
      s.Does (.laneLockLoss l b bad) [R.lnkStat l, R.lnkQStat (l / 4), R.lnkCntBlkErr l, R.lnkCntLockLoss l,
          R.selLive (Src.lnkDown l / 32), R.selEvtOvf] [.lanes, .timers, .arb, .sel] (fun t => t.lstate l = LState.locking
        ∧ t.get (F.lnkStatDcause l) = (if b then 2 else 1) ∧ t.get (F.lnkCntBlkErr l) = (s.get (F.lnkCntBlkErr l) + bad) % 2 ^ 32
        ∧ t.get (F.lnkCntLockLoss l) = (s.get (F.lnkCntLockLoss l) + 1) % 2 ^ 32
        ∧ t.is (selBit F.selLiveLive (Src.lnkDown l)) = true ∧ t.sel.occ = s.sel.occ ++ [(Src.lnkDown l, false)])
      ∧ s.Does (.remoteFaultReceived l) [R.lnkStat l, R.lnkCntLockLoss l, R.selLive (Src.lnkDown l / 32), R.selEvtOvf]
          [.timers, .arb, .sel] (fun t => t.lstate l = LState.locking ∧ t.is (F.lnkStatRf l) = true ∧ t.get (F.lnkStatDcause l) = 3
        ∧ t.sel.occ = s.sel.occ ++ [(Src.lnkDown l, false)])
      ∧ (s.armed (Timer.laneUp l) = true → s.Does (.upStableReset l) [R.lnkTrnStat l] [.now, .tim, .timers] (fun t =>
        t.get (F.lnkTrnStatAttempt l) = 0 ∧ t.lstate l = LState.up)))
    ∧ s.Does (.remoteFaultClear l) [R.lnkStat l, R.selLive (Src.lnkDown l / 32), R.selEvtOvf] [.timers, .arb, .igmp] (fun t =>
        t.is (F.lnkStatRf l) = false ∧ t.lstate l = (if s.lstate l = LState.locking ∧ s.is (F.lnkQStatPllLock (l / 4)) = true
          ∧ s.is (F.lnkStatRxlock l) = true ∧ (s.is (F.lnkCfgFec l) = true → s.get (F.lnkCfgMode l) = 2 → (s.lane l).fec = true)
          then LState.up else s.lstate l))
    ∧ (s.armed (Timer.laneLock l) = true → s.lstate l = LState.locking →
      s.Does (.lockTimeExpiry l) [R.lnkStat l, R.selEvtOvf] [.now, .tim, .timers, .arb] (fun t => t.lstate l = LState.train
        ∧ t.armed (Timer.laneTrain l) = true))
    ∧ (s.lstate l = LState.train →
      (pre < 64 → main < 64 → post < 64 →
        s.Does (.trainingComplete l pre main post b) [R.lnkStat l, R.lnkTrnStat l, R.lnkCntPolFlip l, R.selEvtOvf]
          [.lanes, .timers, .arb] (fun t => t.lstate l = LState.locking ∧ t.get (F.lnkTrnStatCPre l) = pre
            ∧ t.get (F.lnkTrnStatCMain l) = main ∧ t.get (F.lnkTrnStatCPost l) = post
            ∧ t.get (F.lnkCntPolFlip l) = (s.get (F.lnkCntPolFlip l) + (if b then 1 else 0)) % 2 ^ 32
            ∧ t.is (F.lnkStatRxInvAct l) = (if b then !s.is (F.lnkStatRxInvAct l) else s.is (F.lnkStatRxInvAct l))))
      ∧ (s.armed (Timer.laneTrain l) = true →
        s.Does (.trainingTimeout l b) [R.lnkStat l, R.lnkTrnStat l, R.lnkCntTrainFail l, R.selEvtOvf]
          [.now, .tim, .timers, .lanes, .arb, .sel] (fun t => t.lstate l = LState.backoff
            ∧ t.get (F.lnkStatDcause l) = (if b then 5 else 4)
            ∧ t.get (F.lnkCntTrainFail l) = (s.get (F.lnkCntTrainFail l) + 1) % 2 ^ 32
            ∧ t.get (F.lnkTrnStatAttempt l) = min (s.get (F.lnkTrnStatAttempt l) + 1) 255
            ∧ t.armed (Timer.laneBackoff l) = true)))
    ∧ (s.armed (Timer.laneBackoff l) = true → s.lstate l = LState.backoff →
      s.Does (.backoffExpiry l) [R.lnkStat l, R.selEvtOvf] [.now, .tim, .timers, .arb] (fun t => t.lstate l = LState.train
        ∧ t.armed (Timer.laneTrain l) = true))

/-- BOND_ALIGNMENT of a bonded quad whose first lane is not LOCKING: SKEW shows the skew up to 255, and ALIGN is 1 where it
is at most 180 ns, else unchanged. FEC_UNCORRECTABLE of an unbonded lane: the corrected codewords and one uncorrectable
count modulo 2^32 and LNK_FEC occurs. For an unbonded Morvolos lane: MORVOLOS_ALIGNMENT in LOCKING with the PLL locked: UP,
with the initial credits; MORVOLOS_ALIGN_LOSS in UP: LOCKING with cause 1, no credits, errors and loss counted, LNK_DOWN
occurs; MORVOLOS_POLARITY_FLIP in LOCKING: the receive polarity is the other one and the flip counts. Frames name what
changes. -/
def Obligations.BondsAndMorvolos : Prop :=
  ∀ (s : State) (l q map skew bad corrected : Nat), l < 256 → q < 64 →
    (s.is (F.lnkQCfgBond q) = true → s.lstate (4 * q) ≠ LState.locking →
      s.Does (.bondAlignment q map skew) [R.lnkQStat q] [] (fun t => t.get (F.lnkQStatSkew q) = min skew 255
        ∧ t.is (F.lnkQStatAlign q) = (if skew ≤ 180 then true else s.is (F.lnkQStatAlign q))))
    ∧ (s.bonded l = false →
      s.Does (.fecUncorrectable l corrected) [R.lnkCntFecCorr l, R.lnkCntFecUncorr l] [.sel] (fun t =>
        t.get (F.lnkCntFecCorr l) = (s.get (F.lnkCntFecCorr l) + corrected) % 2 ^ 32
          ∧ t.get (F.lnkCntFecUncorr l) = (s.get (F.lnkCntFecUncorr l) + 1) % 2 ^ 32
          ∧ t.sel.occ = s.sel.occ ++ [(Src.lnkFec l, false)])
      ∧ (s.laneMorvolos l = true →
        (s.lstate l = LState.locking → s.is (F.lnkQStatPllLock (l / 4)) = true →
          s.Does (.morvolosAlignment l) [R.lnkStat l, R.selLive (Src.lnkDown l / 32), R.selEvtOvf] [.lanes, .timers, .arb, .igmp]
            (fun t => t.lstate l = LState.up ∧ t.is (F.lnkStatUp l) = true ∧ (t.lane l).cred = s.get F.ingCtlMvInitCred))
        ∧ (s.lstate l = LState.up →
          s.Does (.morvolosAlignLoss l bad) [R.lnkStat l, R.lnkCntBlkErr l, R.lnkCntLockLoss l, R.selLive (Src.lnkDown l / 32),
              R.selEvtOvf] [.lanes, .timers, .arb, .sel] (fun t => t.lstate l = LState.locking ∧ t.get (F.lnkStatDcause l) = 1
            ∧ (t.lane l).cred = 0 ∧ t.get (F.lnkCntBlkErr l) = (s.get (F.lnkCntBlkErr l) + bad) % 2 ^ 32
            ∧ t.get (F.lnkCntLockLoss l) = (s.get (F.lnkCntLockLoss l) + 1) % 2 ^ 32
            ∧ t.sel.occ = s.sel.occ ++ [(Src.lnkDown l, false)]))
        ∧ (s.lstate l = LState.locking → s.Does (.morvolosPolarityFlip l) [R.lnkStat l, R.lnkCntPolFlip l] [.lanes] (fun t =>
            t.is (F.lnkStatRxInvAct l) = !s.is (F.lnkStatRxInvAct l) ∧ t.lstate l = LState.locking
              ∧ t.get (F.lnkCntPolFlip l) = (s.get (F.lnkCntPolFlip l) + 1) % 2 ^ 32))))

/-- For an unbonded lane in UP. LANE_FRAME_RECEIVED: a frame with a bad FCS counts in RX_FCS only; else one shorter than 64
or longer than 9,022 bytes counts in RX_LEN only; else one to another MAC address, neither broadcast nor IPv4 multicast, in
RX_MAC only; an unfragmented IPv4 UDP frame with a good header to the broadcast address counts in RX_FRAMES where a flow
entry of the lane matches and in RX_NOFLOW where none does; each modulo 2^32, and nothing else changes. IGMP_REPORT_TIMER of
a scheduled report on such a lane: it is sent and counted, saturating, and leaves the schedule after its last sending, else
it falls due 1 s later. Frames name what changes. -/
def Obligations.FramesOnALane : Prop :=
  ∀ (s : State) (l i : Nat) (f : Frame) (g : Igmp), l < 256 → s.bonded l = false → s.lstate l = LState.up →
    (f.fcs = false → s.Does (.laneFrameReceived l f) [R.lnkCntRxFcs l] [] (fun t =>
        t.get (F.lnkCntRxFcs l) = (s.get (F.lnkCntRxFcs l) + 1) % 2 ^ 32))
    ∧ (f.fcs = true → f.len < 64 ∨ 9022 < f.len → s.Does (.laneFrameReceived l f) [R.lnkCntRxLen l] [] (fun t =>
        t.get (F.lnkCntRxLen l) = (s.get (F.lnkCntRxLen l) + 1) % 2 ^ 32))
    ∧ (f.fcs = true → 64 ≤ f.len → f.len ≤ 9022 →
      (f.dst ≠ s.get (F.egrLnMacLoMac l) + s.get (F.egrLnMacHiMac l) * 2 ^ 32 → f.dst ≠ 0xFFFFFFFFFFFF → f.dst / 2 ^ 24 ≠ 0x01005E →
        s.Does (.laneFrameReceived l f) [R.lnkCntRxMac l] [] (fun t =>
          t.get (F.lnkCntRxMac l) = (s.get (F.lnkCntRxMac l) + 1) % 2 ^ 32))
      ∧ (f.dst = 0xFFFFFFFFFFFF → f.ety = 0x0800 → f.ipOk = true → f.frag = false → f.proto = 17 →
        (s.flowMatch l f = true → s.Does (.laneFrameReceived l f) [R.lnkCntRxFrames l] [] (fun t =>
          t.get (F.lnkCntRxFrames l) = (s.get (F.lnkCntRxFrames l) + 1) % 2 ^ 32))
        ∧ (s.flowMatch l f = false → s.Does (.laneFrameReceived l f) [R.lnkCntRxNoflow l] [] (fun t =>
          t.get (F.lnkCntRxNoflow l) = (s.get (F.lnkCntRxNoflow l) + 1) % 2 ^ 32))))
    ∧ (s.igmp[i]? = some g → g.lane = l →
      s.Does (.igmpReportTimer i) [R.lnkCntTxFrames l, R.egrLnCnt l] [.now, .tim, .igmp] (fun t =>
        t.get (F.lnkCntTxFrames l) = (s.get (F.lnkCntTxFrames l) + 1) % 2 ^ 32
          ∧ t.igmp = (if g.left ≤ 1 then s.igmp.eraseIdx i else s.igmp.set i { g with left := g.left - 1, due := g.due + 1000000000 })))

/-- For a source i. SOURCE_ENABLE with EN = 0, taken at once: EN reads 1 and the enable waits for its check.
SOURCE_ENABLE_CHECK of a waiting enable of a source that is not a camera: where a rule of R145 refuses it, EN reads 0 and
REFUSED and ERR say which; where none does, EN is 1, SSTATE is WAIT, both paths are down, the frame number and the thirteen
counters are 0; the check falls on a 1 µs tick. SOURCE_DISABLE of an enabled source with EN = 1, no open frame, no decode
task and no buffer: EN reads 0 and SSTATE is IDLE. Frames name what changes. -/
def Obligations.SourceEnables : Prop :=
  ∀ (s : State) (h i : Nat) (v : Word), i < 512 →
    (s.Ready h → s.is (F.ingSrcCfgEn i) = false →
      s.Writes h (.sourceEnable h i v) [R.ingSrcCfg i] [.srcs] (fun t =>
        t.is (F.ingSrcCfgEn i) = true ∧ (t.src i).enWait = true ∧ t.sstate i = s.sstate i))
    ∧ ((s.src i).enWait = true → s.skind i ≠ 2 →
      (s.srcRefuse i ≠ 0 →
        s.Does (.sourceEnableCheck i) [R.ingSrcCfg i, R.ingSrcStat i, R.selEvtOvf] [.now, .tim, .timers, .srcs, .arb] (fun t =>
          t.is (F.ingSrcCfgEn i) = false ∧ t.is (F.ingSrcStatRefused i) = true ∧ t.get (F.ingSrcStatErr i) = s.srcRefuse i
            ∧ (t.src i).enWait = false ∧ t.now % 1000 = 0))
      ∧ (s.srcRefuse i = 0 →
        s.Does (.sourceEnableCheck i) ([R.ingSrcCfg i, R.ingSrcStat i, R.selEvtOvf]
            ++ (List.range 13).map (fun k => R.ingSrcCntFrames i + 4 * k) ++ (List.range 13).map (fun k => R.decSrcCntAuRx i + 4 * k))
          [.now, .tim, .timers, .srcs, .arb, .igmp] (fun t =>
            t.is (F.ingSrcCfgEn i) = true ∧ t.sstate i = SState.wait ∧ t.is (F.ingSrcStatPathAUp i) = false
              ∧ t.is (F.ingSrcStatPathBUp i) = false ∧ t.get (F.ingSrcStatFrame i) = 0 ∧ (t.src i).enWait = false
              ∧ (∀ k, k < 13 → t.word (R.ingSrcCntFrames i + 4 * k) = 0) ∧ t.now % 1000 = 0)))
    ∧ (s.Ready h → s.is (F.ingSrcCfgEn i) = true → s.srcOn i = true → (s.src i).isOpen = false →
      (∀ k, k ∈ s.bob.tasks → k.typ = 1 → k.own ≠ i) → s.bufs = [] →
      s.Writes h (.sourceDisable h i v) [R.ingSrcCfg i, R.ingSrcStat i, R.decSrcStat i, R.decLoad, R.selLive (Src.srcLost i / 32),
          R.selEvtOvf] [.srcs, .igmp, .timers] (fun t =>
        t.is (F.ingSrcCfgEn i) = false ∧ t.sstate i = SState.idle ∧ t.is (F.ingSrcStatPathAUp i) = false
          ∧ t.is (F.ingSrcStatPathBUp i) = false ∧ t.armed (Timer.path i 0) = false ∧ t.armed (Timer.path i 1) = false))

/-- For an enabled ST 2110-20 source i whose path A is enabled. ST2110_PACKET_RECEIVED on path A: in WAIT with the right
payload type and no marker packet seen, the packet counts as late, path A is up and the source waits on, now knowing whether
a marker packet came; outside WAIT another payload type counts in BAD_HDR and changes nothing else; a packet whose sequence
number was accepted before counts as a duplicate, with path A up; a packet of the open frame with a new number, higher than
every other, whose segments pass R148 and complete no row, is accepted: PATH_FIRST_A counts it and its samples join the
frame. Frames name what changes. -/
def Obligations.VideoPackets : Prop :=
  ∀ (s : State) (i : Nat) (p : VideoPkt), i < 512 → s.srcOn i = true → s.skind i = 1 → s.is (F.ingSrcPathEn i 0) = true → p.path = 0 →
    (s.sstate i = SState.wait → p.pt = s.get (F.ingSrcFmtPt i) → (s.src i).marked = false →
      s.Does (.st2110PacketReceived i p) [R.ingSrcStat i, R.ingSrcCntPktLate i, R.selEvtOvf] [.srcs, .arb, .timers] (fun t =>
        t.get (F.ingSrcCntPktLate i) = (s.get (F.ingSrcCntPktLate i) + 1) % 2 ^ 32 ∧ (t.src i).marked = p.marker
          ∧ t.sstate i = SState.wait ∧ t.is (F.ingSrcStatPathAUp i) = true))
    ∧ (s.sstate i ≠ SState.wait →
      (p.pt ≠ s.get (F.ingSrcFmtPt i) → s.Does (.st2110PacketReceived i p) [R.ingSrcCntBadHdr i] [] (fun t =>
        t.get (F.ingSrcCntBadHdr i) = (s.get (F.ingSrcCntBadHdr i) + 1) % 2 ^ 32))
      ∧ (p.pt = s.get (F.ingSrcFmtPt i) → (s.src i).seqs.contains p.seq = true →
        s.Does (.st2110PacketReceived i p) [R.ingSrcStat i, R.ingSrcCntPktDup i, R.selEvtOvf] [.arb, .timers] (fun t =>
          t.get (F.ingSrcCntPktDup i) = (s.get (F.ingSrcCntPktDup i) + 1) % 2 ^ 32 ∧ t.is (F.ingSrcStatPathAUp i) = true
            ∧ t.sstate i = s.sstate i)))
    ∧ (s.sstate i = SState.receiving → p.pt = s.get (F.ingSrcFmtPt i) → (s.src i).isOpen = true → (s.src i).nobuf = false →
      (s.src i).fts = p.ts → (s.src i).seqs.contains p.seq = false → (∀ n, (s.src i).hi = some n → seqLess n p.seq = true ∧ seqLess p.seq n = false) →
      (∀ g, g ∈ p.segs → s.segBad i g = false) → (s.src i).fRows = [] → 0 < s.srcRows i →
      (∀ r, r < s.srcRows i →
        Src.lineFull { s.src i with got := (s.src i).got ++ p.segs } (s.get (F.ingSrcSizeW i)) (64 * r) = false) →
      s.Does (.st2110PacketReceived i p) [R.ingSrcStat i, R.ingSrcCntPathFirstA i, R.selEvtOvf] [.srcs, .arb, .timers] (fun t =>
        t.get (F.ingSrcCntPathFirstA i) = (s.get (F.ingSrcCntPathFirstA i) + 1) % 2 ^ 32
          ∧ (t.src i).got = (s.src i).got ++ p.segs ∧ (t.src i).hi = some p.seq ∧ (t.src i).seqs.contains p.seq = true
          ∧ t.is (F.ingSrcStatPathAUp i) = true ∧ t.sstate i = SState.receiving))

/-- For an enabled Morvolos-link source i whose lane is UP. MORVOLOS_PACKET_RECEIVED without a credit: discarded, CREDIT_OVF
counts it and nothing else changes. With a credit, outside WAIT: a packet whose CRC-32C fails counts in CRC_ERR; a LINE or
FRAME_END of a frame that is not open counts as late; a well-formed LINE of the open frame that completes no row counts as
accepted and its samples, two for every five bytes, join the frame. The credit returns: the credits of the lane do not
change. Frames name what changes. -/
def Obligations.MorvolosPackets : Prop :=
  ∀ (s : State) (i : Nat) (p : MvPkt), i < 512 → s.srcOn i = true → s.skind i = 3 → s.laneUp (s.get (F.ingSrcPathLane i 0)) = true →
    ((s.lane (s.get (F.ingSrcPathLane i 0))).cred = 0 →
      s.Does (.morvolosPacketReceived i p) [R.ingSrcCntCreditOvf i] [] (fun t =>
        t.get (F.ingSrcCntCreditOvf i) = (s.get (F.ingSrcCntCreditOvf i) + 1) % 2 ^ 32))
    ∧ ((s.lane (s.get (F.ingSrcPathLane i 0))).cred ≠ 0 → s.sstate i ≠ SState.wait →
      (p.crc = false →
        s.Does (.morvolosPacketReceived i p) [R.ingSrcStat i, R.ingSrcCntCrcErr i, R.selEvtOvf] [.arb, .timers] (fun t =>
          t.get (F.ingSrcCntCrcErr i) = (s.get (F.ingSrcCntCrcErr i) + 1) % 2 ^ 32 ∧ t.is (F.ingSrcStatPathAUp i) = true))
      ∧ (p.crc = true → p.typ = 2 ∨ p.typ = 3 → (s.src i).nobuf = false → (s.src i).isOpen = false ∨ (s.src i).fts ≠ p.frame →
        s.Does (.morvolosPacketReceived i p) [R.ingSrcStat i, R.ingSrcCntPktLate i, R.selEvtOvf] [.arb, .timers] (fun t =>
          t.get (F.ingSrcCntPktLate i) = (s.get (F.ingSrcCntPktLate i) + 1) % 2 ^ 32 ∧ t.is (F.ingSrcStatPathAUp i) = true))
      ∧ (p.crc = true → p.typ = 2 → s.sstate i = SState.receiving → (s.src i).nobuf = false → (s.src i).isOpen = true →
        (s.src i).fts = p.frame → p.b % 2 = 0 → p.c % 5 = 0 → 5 ≤ p.c → p.c ≤ 2000 → s.segBad i (p.a, p.b, p.c / 5 * 2) = false →
        (s.src i).fRows = [] → 0 < s.srcRows i →
        (∀ r, r < s.srcRows i → Src.lineFull { s.src i with got := (s.src i).got ++ [(p.a, p.b, p.c / 5 * 2)] }
          (s.get (F.ingSrcSizeW i)) (64 * r) = false) →
        s.Does (.morvolosPacketReceived i p) [R.ingSrcStat i, R.ingSrcCntPathFirstA i, R.selEvtOvf] [.srcs, .arb, .timers] (fun t =>
          t.get (F.ingSrcCntPathFirstA i) = (s.get (F.ingSrcCntPathFirstA i) + 1) % 2 ^ 32
            ∧ (t.src i).got = (s.src i).got ++ [(p.a, p.b, p.c / 5 * 2)] ∧ t.is (F.ingSrcStatPathAUp i) = true)))

/-- INGEST_ROW_COMPLETE of a running task of a source without scroll hints: the unit is free and the change bits of the row
are kept; of the open frame no register changes. CARRY_FORWARD_COMPLETE of a running copy into the last frame L: the helper
is free and the absent row of L is carried, no other row changes. PATH_LOSS_TIMEOUT of the running timer of an up path x of
a receiving source: the path is down; where the other path is up and feeds the source it stays RECEIVING; where the other
path is down and no frame is open it is LOST, and SRC_LOST occurs with its live bit. Frames name what changes. -/
def Obligations.SourceRowsAndLoss : Prop :=
  ∀ (s : State) (e i x mask : Nat) (hints : List (Nat × Int × Int × Nat)) (k : Task), i < 512 → x < 2 →
    (s.running (144 + e % 16) = some k → k.own = i → s.is (F.ingSrcCfgScrlEn i) = false →
      s.Does (.ingestRowComplete e mask hints) [R.ingSrcChg i] [.bob, .srcs] (fun t =>
        t.running (144 + e % 16) = none ∧ t.bob.tasks = s.bob.tasks
          ∧ (t.src i).chg.find? (fun c => Nat.beq c.1 k.row) = some (k.row, mask)
          ∧ (t.src i).chgF.find? (fun c => Nat.beq c.1 k.row) = some (k.row, k.frame)
          ∧ ((s.src i).lno ≠ k.frame → t.word (R.ingSrcChg i) = s.word (R.ingSrcChg i))))
    ∧ (s.running (168 + e % 4) = some k → k.own = i → k.typ = 6 → k.which = 0 → (s.src i).lno = k.frame →
      s.Does (.carryForwardComplete e) [] [.bob, .srcs] (fun t =>
        t.running (168 + e % 4) = none ∧ t.bob.tasks = s.bob.tasks ∧ (t.src i).lRows.length = (s.src i).lRows.length
          ∧ ∀ v, v ∈ (s.src i).lRows → (if v.1 = k.row ∧ v.2.absent = true then (v.1, { v.2 with carried := true, absent := false })
              else v) ∈ (t.src i).lRows))
    ∧ (s.armed (Timer.path i x) = true → s.sstate i = SState.receiving → s.is (pathUpFld i x) = true →
      (s.is (pathUpFld i (1 - x)) = true → x = 1 ∨ s.is (F.ingSrcCfgMerge i) = true →
        s.Does (.pathLossTimeout i x) [R.ingSrcStat i, R.selEvtOvf] [.now, .tim, .timers, .arb] (fun t =>
          t.is (pathUpFld i x) = false ∧ t.is (pathUpFld i (1 - x)) = true ∧ t.sstate i = SState.receiving))
      ∧ (s.is (pathUpFld i (1 - x)) = false → (s.src i).isOpen = false →
        s.Does (.pathLossTimeout i x) [R.ingSrcStat i, R.selLive (Src.srcLost i / 32), R.selEvtOvf]
          [.now, .tim, .timers, .arb, .sel] (fun t => t.is (pathUpFld i x) = false ∧ t.sstate i = SState.lost
            ∧ t.is (selBit F.selLiveLive (Src.srcLost i)) = true ∧ t.sel.occ = s.sel.occ ++ [(Src.srcLost i, false)])))

/-- For an enabled camera source i. CAMERA_PACKET_RECEIVED on an enabled path A: another payload type outside WAIT counts in
BAD_HDR and changes nothing else; the packet that ends the access unit begun with its timestamp, new and higher than every
number accepted, while DSTATE is PARKED: AU_RX and PARKED_AU count it, the size of its sequence set is shown and nothing is
queued. DECODE_SLICE_COMPLETE of a slice of the first access unit while more of its slices are left: one slice fewer is
left; in DECODING a slice with a missing reference counts in REF_MISSING and DEC conceals with cause 1 from its first row
on, an intact one keeps DECODING. Frames name what changes. -/
def Obligations.CameraStreams : Prop :=
  ∀ (s : State) (e i : Nat) (p : CamPkt) (au : CamAu) (k : Task) (q : Queued) (rest : List Queued), i < 512 → s.isCamera i = true →
    (s.srcOn i = true → s.is (F.ingSrcPathEn i 0) = true → p.path = 0 →
      (s.sstate i ≠ SState.wait → p.pt ≠ s.get (F.ingSrcFmtPt i) →
        s.Does (.cameraPacketReceived i p) [R.ingSrcCntBadHdr i] [] (fun t =>
          t.get (F.ingSrcCntBadHdr i) = (s.get (F.ingSrcCntBadHdr i) + 1) % 2 ^ 32))
      ∧ (s.sstate i = SState.receiving → p.pt = s.get (F.ingSrcFmtPt i) → s.decState i = DState.parked →
        (s.src i).seqs.contains p.seq = false → (∀ n, (s.src i).hi = some n → seqLess n p.seq = true ∧ seqLess p.seq n = false) →
        (s.src i).auOpen = true → (s.src i).fts = p.ts → p.before = none → p.ends = some au → p.known = true →
        s.Does (.cameraPacketReceived i p) [R.ingSrcStat i, R.ingSrcCntPathFirstA i, R.decSrcCntAuRx i, R.decSrcCntParkedAu i,
            R.decSrcSps i, R.selEvtOvf] [.srcs, .arb, .timers] (fun t =>
          t.get (F.decSrcCntAuRx i) = (s.get (F.decSrcCntAuRx i) + 1) % 2 ^ 32
            ∧ t.get (F.decSrcCntParkedAu i) = (s.get (F.decSrcCntParkedAu i) + 1) % 2 ^ 32
            ∧ (au.w < 2 ^ 16 → t.get (F.decSrcSpsW i) = au.w) ∧ (au.h < 2 ^ 16 → t.get (F.decSrcSpsH i) = au.h)
            ∧ (t.src i).queue = (s.src i).queue ∧ (t.src i).auOpen = false)))
    ∧ (e < 128 → s.running e = some k → k.typ = 1 → k.own = i → (s.src i).queue = q :: rest → q.no = k.frame → 2 ≤ q.left →
        s.decState i = DState.decoding →
      s.Does (.decodeSliceComplete e 0) [] [.bob, .srcs] (fun t => t.running e = none
        ∧ (t.src i).queue = { q with left := q.left - 1 } :: rest ∧ t.decState i = DState.decoding
        ∧ (t.src i).damage = (s.src i).damage)
      ∧ s.Does (.decodeSliceComplete e 1) [R.decSrcCntRefMissing i, R.decSrcCntConcEnter i, R.decSrcConc i, R.decSrcStat i, R.selEvtOvf]
          [.bob, .srcs, .arb] (fun t => t.running e = none ∧ (t.src i).queue = { q with left := q.left - 1, lost := true } :: rest
        ∧ t.decState i = DState.concealing ∧ t.get (F.decSrcConcCause i) = 1 ∧ t.get (F.decSrcConcPics i) = 0
        ∧ t.get (F.decSrcCntRefMissing i) = (s.get (F.decSrcCntRefMissing i) + 1) % 2 ^ 32
        ∧ t.get (F.decSrcCntConcEnter i) = (s.get (F.decSrcCntConcEnter i) + 1) % 2 ^ 32
        ∧ ∃ d, (t.src i).damage = some d ∧ d ≤ (q.au.slices.getD k.row ⟨true, 0, 0⟩).row))

/-- Taken at once by port h. LAYER_COMMIT and SET_COMMIT: COMMIT, or SET, reads 1. COEF_SELECT, LUT_SELECT: the selection is
stored and the staging buffer is empty. COEF_DATA_WRITE, LUT_DATA_WRITE: the word, or the 14-bit point, joins the staging
buffer. COEF_LOAD, LUT_LOAD: LOAD reads 1. Nothing is loaded or applied by these writes. Frames name what changes. -/
def Obligations.LayerAndTableWrites : Prop :=
  ∀ (s : State) (h c i n : Nat) (v : Word), s.Ready h → c < 16 → i < 64 → n < 256 →
    s.Writes h (.layerCommit h c i v) [R.cmpLyrCommit c i] [] (fun t => t.is (F.cmpLyrCommitCommit c i) = true)
    ∧ s.Writes h (.setCommit h n v) [R.cmpChlCommit (n / 16) (n % 16)] [] (fun t =>
        t.is (F.cmpChlCommitSet (n / 16) (n % 16)) = true)
    ∧ s.Writes h (.coefSelect h c v) [R.cmpCoefSel c] [.cmps] (fun t => t.get (F.cmpCoefSelSet c) = bitsAt v 0 4
        ∧ t.get (F.cmpCoefSelTaps c) = bitsAt v 4 2 ∧ (t.cmpr c).stage = [] ∧ (t.cmpr c).coef = (s.cmpr c).coef)
    ∧ s.Writes h (.coefDataWrite h c v) [] [.cmps] (fun t => (t.cmpr c).stage = (s.cmpr c).stage ++ [v]
        ∧ (t.cmpr c).coef = (s.cmpr c).coef ∧ ∀ d, d ≠ c → t.cmpr d = s.cmpr d)
    ∧ s.Writes h (.coefLoad h c v) [R.cmpCoefLoad c] [] (fun t => t.is (F.cmpCoefLoadLoad c) = true)
    ∧ s.Writes h (.lutSelect h c v) [R.cmpLutSel c] [.cmps] (fun t => t.get (F.cmpLutSelSlot c) = bitsAt v 0 5
        ∧ t.get (F.cmpLutSelPost c) = bitsAt v 5 1 ∧ (t.cmpr c).lstage = [] ∧ (t.cmpr c).lut = (s.cmpr c).lut)
    ∧ s.Writes h (.lutDataWrite h c v) [] [.cmps] (fun t => (t.cmpr c).lstage = (s.cmpr c).lstage ++ [bitsAt v 0 14]
        ∧ (t.cmpr c).lut = (s.cmpr c).lut ∧ ∀ d, d ≠ c → t.cmpr d = s.cmpr d)
    ∧ s.Writes h (.lutLoad h c v) [R.cmpLutLoad c] [] (fun t => t.is (F.cmpLutLoadLoad c) = true)

/-- With LOAD = 1, at the next 1 µs tick. COEF_LOAD_CHECK: set 0 or 1 gives FIXED; else a busy set gives BUSY; else a count
of staged words other than 32 times the taps gives COUNT; else, with the 64 phases each summing to 1,024, RESULT is 0, the
set holds the staged phases, its VALID bit is 1 and its taps code is shown. LUT_LOAD_CHECK: a busy slot gives BUSY; else a
count other than 771 gives COUNT; else a post-blend table with a point above 1,023 gives RANGE; else the slot holds the
points and its VALID and type bits are set. LOAD reads 0; a refused load leaves every set and table as it was. Frames name
what changes. -/
def Obligations.CoefficientAndTableLoads : Prop :=
  ∀ (s : State) (c : Nat), c < 16 →
    (s.is (F.cmpCoefLoadLoad c) = true →
      s.Does (.coefLoadCheck c) [R.cmpCoefLoad c, R.cmpCoefValid c, R.cmpCoefTaps c, R.selEvtOvf] [.now, .tim, .timers, .arb, .cmps]
        (fun t => t.is (F.cmpCoefLoadLoad c) = false ∧ t.now % 1000 = 0
          ∧ (let v := s.get (F.cmpCoefSelSet c)
             let n := 2 * (s.get (F.cmpCoefSelTaps c) + 1)
             let ph := phasesOf n (s.cmpr c).stage
             let kept := t.cmpr c = s.cmpr c ∧ t.word (R.cmpCoefValid c) = s.word (R.cmpCoefValid c)
               ∧ t.word (R.cmpCoefTaps c) = s.word (R.cmpCoefTaps c)
             if v ≤ 1 then t.get (F.cmpCoefLoadResult c) = 1 ∧ kept
             else if s.coefBusy c v = true then t.get (F.cmpCoefLoadResult c) = 2 ∧ kept
             else if (s.cmpr c).stage.length ≠ 32 * n then t.get (F.cmpCoefLoadResult c) = 3 ∧ kept
             else if (List.range 64).all (fun p => decide ((ph.getD p []).sum = 1024)) = true then
               t.get (F.cmpCoefLoadResult c) = 0 ∧ Tab.get [] (t.cmpr c).coef v = ph
                 ∧ Nat.testBit (t.get (F.cmpCoefValidValid c)) v = true
                 ∧ bitsAt (t.word (R.cmpCoefTaps c)) (2 * v) 2 = s.get (F.cmpCoefSelTaps c)
                 ∧ ∀ w, w ≠ v → Tab.get [] (t.cmpr c).coef w = Tab.get [] (s.cmpr c).coef w
             else t.get (F.cmpCoefLoadResult c) = 4 ∧ kept ∧ (ph.getD (t.get (F.cmpCoefLoadPhase c)) []).sum ≠ 1024)))
    ∧ (s.is (F.cmpLutLoadLoad c) = true →
      s.Does (.lutLoadCheck c) [R.cmpLutLoad c, R.cmpLutValid c, R.cmpLutType c, R.selEvtOvf] [.now, .tim, .timers, .arb, .cmps]
        (fun t => t.is (F.cmpLutLoadLoad c) = false ∧ t.now % 1000 = 0
          ∧ (let v := s.get (F.cmpLutSelSlot c)
             let l := (s.cmpr c).lstage
             let kept := t.cmpr c = s.cmpr c ∧ t.word (R.cmpLutValid c) = s.word (R.cmpLutValid c)
               ∧ t.word (R.cmpLutType c) = s.word (R.cmpLutType c)
             if s.lutBusy c v = true then t.get (F.cmpLutLoadResult c) = 2 ∧ kept
             else if l.length ≠ 771 then t.get (F.cmpLutLoadResult c) = 3 ∧ kept
             else if s.is (F.cmpLutSelPost c) = true ∧ ∃ x, x ∈ l ∧ 1023 < x then t.get (F.cmpLutLoadResult c) = 5 ∧ kept
             else t.get (F.cmpLutLoadResult c) = 0 ∧ Tab.get [] (t.cmpr c).lut v = l
               ∧ Nat.testBit (t.get (F.cmpLutValidValid c)) v = true
               ∧ Nat.testBit (t.get (F.cmpLutTypePost c)) v = s.is (F.cmpLutSelPost c))))

/-- Taken at once by port h. CHN_START of an IDLE channel with no START waiting, RELEASE written 0: it waits for the next
frame start; in SAFE, RECOVER and DRAIN it is refused with reason MODE and nothing waits. CHN_RELEASE of an admitted
channel: the release waits for the audit point; of an IDLE channel: a START that waits is withdrawn. CHN_COMMIT and
CHN_GROUP_COMMIT: COMMIT reads 1 and GROUP 0, or both 1; nothing else is done before the frame start. Frames name what
changes. -/
def Obligations.ChannelRequests : Prop :=
  ∀ (s : State) (h n : Nat) (v : Word), s.Ready h → n < 256 →
    (s.admitted n = false → (s.chan n).startReq = false → bitsAt v 1 1 = 0 →
      (s.noCommits = false → s.Writes h (.chnStart h n v) [] [.chans] (fun t =>
        (t.chan n).startReq = true ∧ t.chState n = ChState.idle ∧ ∀ m, m ≠ n → t.chan m = s.chan m))
      ∧ (s.noCommits = true → s.Writes h (.chnStart h n v) [R.chnStat n, R.selEvtOvf] [] (fun t =>
        t.is (F.chnStatRefused n) = true ∧ t.get (F.chnStatRefuse n) = Refuse.mode ∧ t.chState n = ChState.idle)))
    ∧ s.Writes h (.chnRelease h n v) [] [.chans] (fun t =>
        (s.admitted n = true → (t.chan n).relReq = true ∧ (t.chan n).startReq = (s.chan n).startReq)
          ∧ (s.admitted n = false → (t.chan n).startReq = false) ∧ t.chState n = s.chState n ∧ ∀ m, m ≠ n → t.chan m = s.chan m)
    ∧ s.Writes h (.chnCommit h n) [R.chnCommit n] [] (fun t =>
        t.is (F.chnCommitCommit n) = true ∧ t.is (F.chnCommitGroup n) = false)
    ∧ s.Writes h (.chnGroupCommit h n) [R.chnCommit n] [] (fun t =>
        t.is (F.chnCommitCommit n) = true ∧ t.is (F.chnCommitGroup n) = true)

/-- Outside HOLD, LOAD, CALIBRATE and DEGRADED, for a channel n whose grid runs, while no channel is admitted, no START,
channel commit, layer commit or set commit waits, no camera source is enabled and no other grid starts a frame at the same
instant: CAPTURE_FRAME_START of n takes time to the start of the next frame; that frame is in force, from the start
foreseen, at the frame number its grid gives it; the frame before is kept; the timing registers of n show the start, number
and length. Frame: the timing registers of n, time and the channel contexts, of which no other one changes. -/
def Obligations.CaptureFrames : Prop :=
  ∀ (s : State) (n : Nat), n < 256 → s.mode ≠ Mode.hold → s.mode ≠ Mode.load → s.mode ≠ Mode.calibrate → s.mode ≠ Mode.degraded →
    (s.chan n).on = true →
    (∀ m, m < 260 → s.chState m = 0 ∧ (s.chan m).startReq = false ∧ s.is (F.chnCommitCommit m) = false) →
    (∀ m, m < 256 → s.is (F.cmpChlCommitSet (m / 16) (m % 16)) = false
      ∧ (m ≠ n → (s.chan m).on = true ∧ (s.chan m).next ≠ (s.chan n).next)) →
    (∀ c i, c < 16 → i < 64 → s.is (F.cmpLyrCommitCommit c i) = false) →
    (∀ i, i < 512 → s.isCamera i = true → s.srcOn i = false) →
    s.Does (.captureFrameStart n) [R.chnFstartLo n, R.chnFstartHi n, R.chnFnumLo n, R.chnFnumHi n, R.chnFlen n, R.chnRowtime n, R.chnRowdl n]
      [.now, .tim, .timers, .chans] (fun t =>
        t.now = max s.now (s.chan n).next ∧ (t.chan n).on = true ∧ (t.chan n).cur.start = (s.chan n).next
          ∧ (t.chan n).past = ((s.chan n).cur :: (s.chan n).past).take 8
          ∧ (t.chan n).cur.len = (t.chan n).next - (t.chan n).cur.start
          ∧ t.get64 (R.chnFstartLo n) (R.chnFstartHi n) = (t.chan n).cur.start % 2 ^ 64
          ∧ t.get64 (R.chnFnumLo n) (R.chnFnumHi n) = (t.chan n).cur.k % 2 ^ 64
          ∧ t.get (F.chnRowtimeT n) = rowTime (rowsOf (s.height n)) % 2 ^ 16
          ∧ ∀ m, m ≠ n → t.chan m = s.chan m)

/-- For an admitted channel n that is its own only context. ROW_DEADLINE of row j > 0 of the frame in force, not yet begun,
with no layer to read, outside SHED, SAFE and RECOVER: time reaches d_j, and the row begins with background entries.
RELEASE_DECISION of a due row of a slot that carries the safe picture whole, no audio taken, its safe row in store: time
reaches the decision instant and the row is decided as its safe row. ROW_RELEASE of that row, decided, with a deviation of
at most 1,000 ns, neither the last row nor the one that completes its picture: it leaves; its tiles are in state 5 and one
more safe row counts. PACKET_DEPARTURE on an enabled path A: counted, and on its lane where that is UP. Frames name what
changes. -/
def Obligations.SlotsAndPackets : Prop :=
  ∀ (s : State) (n k j dev : Nat) (r : Row), n < 256 → s.strips n = [n] → s.leadOf n = n →
    (s.admitted n = true → s.chState n ≠ ChState.shed → s.modeIn [Mode.safe, Mode.recover] = false → (s.chan n).cur.k = k → j ≠ 0 →
      j < s.rows n → s.row n k j = none → (s.chan n).slot ≠ some k → s.shotOf n k = [] →
      s.Does (.rowDeadline n k j) [] [.now, .tim, .timers, .chans] (fun t => t.now = max s.now (s.deadlineInstant n k j)
        ∧ ∃ x, (t.chan n).rows = (s.chan n).rows ++ [x] ∧ x.k = k ∧ x.j = j ∧ x.dec = 0
          ∧ ∀ e, e ∈ x.cands → entryState e = 0 ∧ entryOwner e = 0xFE ∧ entryAge e = 0))
    ∧ (s.rowDue n k j = true → s.row n k j = some r → s.slotKind n k = 2 →
      (r.dec = 0 → (s.store_ n).bad.contains j = false → s.ais (F.egrChCfgAudEn n) = false →
        s.Does (.releaseDecision n k j) [] [.now, .tim, .timers, .chans] (fun t => t.now = max s.now (s.decisionInstant n k j)
          ∧ t.row n k j = some { r with dec := 3 } ∧ t.slotKind n k = 2 ∧ ∀ m, m ≠ n → t.chan m = s.chan m))
      ∧ (r.dec = 3 → (s.chan n).slot = some k → dev ≤ 1000 → j + 1 ≠ s.rows n →
        ((s.chan n).rows.filter (fun x => Nat.beq x.k k)).length ≠ s.rows n →
        s.Does (.rowRelease n k j dev) [R.chnDly n] [.now, .tim, .timers, .chans] (fun t =>
          t.now = max s.now (s.releaseInstant n k j) ∧ t.released n j = true ∧ (t.chan n).nSafe = (s.chan n).nSafe + 1
            ∧ (∀ e, e ∈ t.oldEntries n j → entryState e = 5) ∧ t.row n k j = some { r with rel := true, fin := true }
            ∧ ∀ m, m ≠ n → t.chan m = s.chan m)))
    ∧ (s.runs n = true → (s.chan n).slot = some k → s.ais (F.egrPathCfgEn n 0) = true →
      s.Does (.packetDeparture n 0) [R.egrChCntPktA n, R.lnkCntTxFrames (s.portLane (s.aget (F.egrPathCfgLane n 0))),
          R.lnkCntTxDisc (s.portLane (s.aget (F.egrPathCfgLane n 0)))] [.now, .tim, .timers, .chans] (fun t =>
        t.get (F.egrChCntPktA n) = (s.get (F.egrChCntPktA n) + 1) % 2 ^ 32 ∧ (t.chan n).pktA = (s.chan n).pktA + 1
          ∧ (t.chan n).rtpSeq = ((s.chan n).rtpSeq + 1) % 65536
          ∧ t.now = max s.now ((s.chan n).txAt + (s.chan n).pktA * s.gap n)
          ∧ (s.laneUp (s.aget (F.egrPathCfgLane n 0)) = true →
            t.get (F.lnkCntTxFrames (s.portLane (s.aget (F.egrPathCfgLane n 0))))
              = (s.get (F.lnkCntTxFrames (s.portLane (s.aget (F.egrPathCfgLane n 0)))) + 1) % 2 ^ 32)))

/-- AUDIT_POINT of a RUNNING channel n, its own only context, whose slot k carried the safe picture whole with every row
released, nothing requested, filed or tapped and the shared audits of the tick done: time reaches the end of the slot; one
slot, one access unit and one safe access unit more are counted and shown together; slot k + 1 begins with no row released.
IDLE_AUDIT_TICK outside HOLD with no channel running, no buffer in use, and free pages only in groups in the map: time
reaches the next 1 ms boundary and FREE of each pool shows its free pages. SAFE_RECONSTRUCTION_DECODED of an admitted
channel: it is there. LOST_HANDOVER of a buffer: it stays ISSUED or RETURN, STUCK is set and POOL_STUCK occurs. Frames name
what changes. -/
def Obligations.AuditPoints : Prop :=
  ∀ (s : State) (n k u i : Nat) (l : List Snap) (b : Buf) (back : Bool), n < 256 →
    (s.chState n = ChState.running → s.strips n = [n] → s.leadOf n = n → (s.chan n).slot = some k → s.slotKind n k = 2 →
      s.mode ≠ Mode.drain → (∀ j, j < s.rows n → s.released n j = true) → (s.chan n).slots = (s.chan n).aus →
      (s.chan n).relReq = false → (s.chan n).want = 0 → (s.chan n).restart ≠ 1 → (s.chan n).gdrX = [] →
      s.is (F.egrChCommitCommit n) = false → s.filing n = false → (∀ h x, h < 4 → x < 16 → s.is (F.hstTapCfgEn h x) = false) →
      s.sys.auditAt = max s.now (s.auditInstant n k) / 1000 + 1 →
      s.Does (.auditPoint n u l) ((List.range 14).map (fun x => R.chnSlotLo n + 4 * x) ++ [R.chnRcCntBytesLo n, R.chnRcCntBytesHi n, R.chnFsum n])
        [.now, .tim, .timers, .chans] (fun t => t.now = max s.now (s.auditInstant n k)
          ∧ (t.chan n).slots = (s.chan n).slots + 1 ∧ (t.chan n).aus = (s.chan n).aus + 1
          ∧ (t.chan n).safeAu = (s.chan n).safeAu + 1 ∧ (t.chan n).skipAu = (s.chan n).skipAu
          ∧ t.get64 (R.chnSlotLo n) (R.chnSlotHi n) = ((s.chan n).slots + 1) % 2 ^ 64
          ∧ t.get64 (R.chnAuLo n) (R.chnAuHi n) = ((s.chan n).aus + 1) % 2 ^ 64
          ∧ t.get64 (R.chnSafeauLo n) (R.chnSafeauHi n) = ((s.chan n).safeAu + 1) % 2 ^ 64
          ∧ (t.chan n).slot = some (k + 1) ∧ (t.chan n).nRel = 0 ∧ t.chState n = ChState.running))
    ∧ (s.mode ≠ Mode.hold → s.anyRuns = false → s.bufs = [] →
      (∀ p g, p < 3 → g < 8 → s.is (F.drcGrpStatInMap g) = false → s.freeIn p g = 0) →
      s.sys.auditAt ≠ (s.now / 1000000 + 1) * 1000 + 1 →
      s.Does (.idleAuditTick l) ((List.range 3).flatMap (fun p => [R.sysPoolFree p, R.sysPoolIng p, R.sysPoolRef p, R.sysPoolCmp p,
            R.sysPoolFlt p, R.sysPoolAud p, R.sysPoolMinfree p]) ++ (List.range 582).map R.clkXqStat
          ++ [R.bobCreatedLo, R.bobCreatedHi, R.bobDispatchedLo, R.bobDispatchedHi, R.bobCancelledLo, R.bobCancelledHi, R.bobPending, R.bobAud])
        [.now, .tim, .timers, .sys, .sel] (fun t => t.now = (s.now / 1000000 + 1) * 1000000
          ∧ t.sys = { s.sys with auditAt := (s.now / 1000000 + 1) * 1000 + 1 }
          ∧ ∀ p, p < 3 → t.get (F.sysPoolFreePages p) = s.freePages p % 2 ^ 20
            ∧ t.get (F.sysPoolMinfreePages p) = min (s.get (F.sysPoolMinfreePages p)) (s.freePages p)))
    ∧ (s.admitted n = true → (s.chan n).recon = false → s.strips n = [n] →
      s.Does (.safeReconstructionDecoded n) [] [.bufs, .poolFree, .chans] (fun t => (t.chan n).recon = true
        ∧ (∀ m, m ≠ n → t.chan m = s.chan m)))
    ∧ (s.bufs[i]? = some b →
      s.Does (.lostHandover i back) [R.sysPoolAud b.pool] [.bufs, .sel] (fun t =>
        t.is (F.sysPoolAudStuck b.pool) = true ∧ t.bufs = s.bufs.set i { b with st := if back then 3 else 1 }
          ∧ t.sel.occ = s.sel.occ ++ [(Src.poolStuck b.pool, false)]))

/-- Taken at once, EGR_COMMIT of channel n by port h: COMMIT reads 1 and nothing is checked yet. EGR_COMMIT_CHECK of an IDLE
channel with COMMIT = 1, at the next 1 µs tick: where a check fails, COMMIT is 0, REFUSED is 1, REFUSE gives its reason and
the active configuration stays; where none does, COMMIT is 0, ADM is 1 and every shadow register of the channel is active.
Frames name what changes. -/
def Obligations.EgressCommits : Prop :=
  ∀ (s : State) (h n : Nat) (v : Word), n < 256 →
    (s.Ready h → s.Writes h (.egrCommit h n v) [R.egrChCommit n] [] (fun t => t.is (F.egrChCommitCommit n) = true))
    ∧ (s.is (F.egrChCommitCommit n) = true → s.admitted n = false →
      (s.tick.egrReason n ≠ 0 →
        s.Does (.egrCommitCheck n) [R.egrChCommit n, R.egrChStat n, R.selEvtOvf] [.now, .tim, .timers, .arb] (fun t =>
          t.is (F.egrChCommitCommit n) = false ∧ t.is (F.egrChStatRefused n) = true
            ∧ t.get (F.egrChStatRefuse n) = s.tick.egrReason n ∧ t.is (F.egrChStatAdm n) = s.is (F.egrChStatAdm n) ∧ t.now % 1000 = 0))
      ∧ (s.tick.egrReason n = 0 →
        s.Does (.egrCommitCheck n) ([R.egrChCommit n, R.egrChStat n, R.egrMem] ++ (List.range 256).map R.egrLnLoad)
          [.now, .tim, .timers, .act] (fun t =>
            t.is (F.egrChCommitCommit n) = false ∧ t.is (F.egrChStatAdm n) = true ∧ (∀ a, a ∈ egrAddrs n → t.actWord a = s.word a)
              ∧ (∀ a, a ∉ egrAddrs n → t.actWord a = s.actWord a) ∧ t.now % 1000 = 0)))

/-- Taken at once by port h for engine e. ENGINE_INJECT_RESIDUE, PARITY and SIG: the injection waits. DUPLEX_SWAP with SWAP
= 1 of a pair IN_STEP: the swap waits for the frame start. ENGINE_CONDEMN_CMD with RETEST = 0: in CALIBRATE, CAUSE is 6 and
the engine is recorded; in another mode, for an engine that is neither absent nor CONDEMNED, holds no context and no task,
with REPAIRS at REPAIR_MAX or above and NSPARE 0, the engine is CONDEMNED with CAUSE 6 and its cut-off work is gone.
ENGINE_RETEST_CMD with CONDEMN = 0 of a CONDEMNED engine: it is TESTING with no pass completed. Frames name what changes. -/
def Obligations.EngineCommands : Prop :=
  ∀ (s : State) (h e n : Nat) (v : Word), s.Ready h → e < 128 → n < 256 →
    s.Writes h (.engineInjectResidue h e v) [] [.engs] (fun t => (t.eng e).injRes = true ∧ ∀ f, f ≠ e → t.eng f = s.eng f)
    ∧ s.Writes h (.engineInjectParity h e v) [] [.engs] (fun t => (t.eng e).injPar = true ∧ ∀ f, f ≠ e → t.eng f = s.eng f)
    ∧ s.Writes h (.engineInjectSig h e v) [] [.engs] (fun t => (t.eng e).injSig = true ∧ ∀ f, f ≠ e → t.eng f = s.eng f)
    ∧ (bitsAt v 0 1 = 1 → s.get (F.chnDupStatDstate n) = 1 →
        s.Writes h (.duplexSwap h n v) [] [.chans] (fun t => (t.chan n).swapReq = true ∧ ∀ m, m ≠ n → t.chan m = s.chan m))
    ∧ (bitsAt v 1 1 = 0 →
      (s.mode = Mode.calibrate →
        s.Writes h (.engineCondemnCmd h e v) [R.encHealth e] [.sys] (fun t => t.get (F.encHealthCause e) = ECause.host
          ∧ t.estate e = s.estate e ∧ e ∈ t.sys.engRec))
      ∧ (s.mode ≠ Mode.calibrate → s.estate e ≠ 0 → s.estate e ≠ 5 → s.placedOn e = [] → s.running e = none →
        (∀ k, k ∈ s.bob.tasks → k.list ≠ e) → s.get F.sysRedCfgRepairMax ≤ s.get (F.encHealthRepairs e) → s.get F.sysRedCfgNspare = 0 →
        s.Writes h (.engineCondemnCmd h e v) ((List.range 128).map R.encHealth ++ (List.range 4).map R.sysRedCond
            ++ [R.sysRedStat, R.selEvtOvf]) [.engs, .sys] (fun t => t.estate e = 5 ∧ t.get (F.encHealthCause e) = ECause.host
          ∧ t.bob = s.bob ∧ (t.eng e).slices = 0)))
    ∧ (bitsAt v 0 1 = 0 → s.estate e = 5 →
        s.Writes h (.engineRetestCmd h e v) ((List.range 128).map R.encHealth ++ (List.range 4).map R.sysRedCond
            ++ [R.sysRedStat, R.selEvtOvf, R.bobCred 5, R.bobCreateFail, R.bobExQ e]) [.engs, .bob, .sel, .timers] (fun t =>
          t.estate e = 4 ∧ (t.eng e).passes = 0 ∧ (t.eng e).cond = true))

/-- CHECKER_FIRING of engine e: the source of the checker occurs, the flagged rows count modulo 2^32, and only contexts
placed on e change. TASK_TIME_LIMIT of an engine that runs a task and holds no context and no other task, REPAIRS at
REPAIR_MAX or above, NSPARE 0: ENG_HANG occurs and the engine is CONDEMNED with CAUSE 5. SELFTEST_INTERVAL_START of a SPARE
engine at the end of an interval: the next interval runs and no pass is done in it. SELFTEST_OVERDUE of an unfinished pass:
its slices go at SUSP_PRIO. SELFTEST_SLICE_COMPLETE outside a rerun: a clean slice before the 32nd counts and frees the
engine; a failed one counts in FAIL, is rerun twice and ENG_SELFTEST occurs. Frames name what changes. -/
def Obligations.EngineChecks : Prop :=
  ∀ (s : State) (e : Nat) (par : Bool) (k : Task), e < 128 →
    s.Does (.checkerFiring e par) [R.encRedCntFlag e] [.chans, .sel] (fun t =>
      t.sel.occ = s.sel.occ ++ [(if par then Src.engParity e else Src.engResidue e, false)]
        ∧ (∀ m, m ∉ s.placedOn e → t.chan m = s.chan m) ∧ (s.placedOn e = [] → t.word (R.encRedCntFlag e) = s.word (R.encRedCntFlag e)))
    ∧ (s.running e = some k → k.typ ≠ 1 → s.estate e ≠ 0 → s.estate e ≠ 5 → s.placedOn e = [] →
      (∀ k, k ∈ s.bob.tasks → k.list ≠ e) → s.get F.sysRedCfgRepairMax ≤ s.get (F.encHealthRepairs e) → s.get F.sysRedCfgNspare = 0 →
      s.Does (.taskTimeLimit e) ((List.range 128).map R.encHealth ++ (List.range 4).map R.sysRedCond
          ++ [R.encLoad e, R.sysRedStat, R.selEvtOvf]) [.now, .tim, .timers, .engs, .bob, .sel, .sys, .arb] (fun t =>
        t.estate e = 5 ∧ t.get (F.encHealthCause e) = ECause.hang ∧ t.running e = none ∧ t.bob.tasks = s.bob.tasks
          ∧ t.sel.occ = s.sel.occ ++ [(Src.engHang e, false)]))
    ∧ (s.modeIn [Mode.hold, Mode.load, Mode.calibrate] = false → s.armed (Timer.selftest e) = true → s.estate e = 2 →
      s.Does (.selftestIntervalStart e) [] [.now, .tim, .timers, .engs] (fun t => t.armed (Timer.selftest e) = true
        ∧ t.armed (Timer.selftestLate e) = true ∧ (t.eng e).passed = false ∧ t.now = max s.now (s.dueAt (Timer.selftest e))))
    ∧ (s.armed (Timer.selftestLate e) = true → (s.eng e).passed = false →
      s.Does (.selftestOverdue e) [] [.now, .tim, .timers, .bob] (fun t => t.bob.tasks = s.bob.tasks.map (fun x =>
        if x.typ = 5 ∧ x.own = e then { x with level := s.get F.sysRedCfgSuspPrio } else x)))
    ∧ (s.running e = some k → k.typ = 5 → (s.eng e).rerun = 0 →
      ((s.eng e).slices < 31 → s.Does (.selftestSliceComplete e true) [R.encLoad e] [.bob, .engs] (fun t =>
        (t.eng e).slices = (s.eng e).slices + 1 ∧ t.running e = none ∧ t.bob.tasks = s.bob.tasks))
      ∧ s.Does (.selftestSliceComplete e false) [R.encRedCntFail e] [.engs, .sel] (fun t =>
        t.get (F.encRedCntFail e) = (s.get (F.encRedCntFail e) + 1) % 2 ^ 32 ∧ (t.eng e).rerun = 2
          ∧ t.running e = some k ∧ t.sel.occ = s.sel.occ ++ [(Src.engSelftest e, false)]))

/-- BOB_TICK with moves off, no channel admitted and no ENCODE_ROW task: at the next 1 µs tick the delayed tasks whose ready
tick has come are ready and no other task changes. TASK_DISPATCH of a free executor: with no task to take nothing changes;
else it takes the first task of R422 (here not DECODE_SLICE or ENCODE_ROW): it leaves the lists, a credit of its type
returns, and one more dispatch counts. TASK_EXPIRY with no ENCODE_ROW task: at the earliest expiry or later every expired
task is cancelled, counted, and no other one. BOB_HISTOGRAM_CLEAR with CLR = 1, taken at once: the 16 bins of the list read
0. Frames name what changes. -/
def Obligations.TasksOfBob : Prop :=
  ∀ (s : State) (h e p x : Nat) (v : Word) (k : Task), e < 172 → x < 148 → (∀ y, y ∈ s.bob.tasks → y.typ < 7 ∧ y.list < 148 ∧ y.typ ≠ 3) →
    (s.is F.bobCtlMoveEn = false → (∀ m, m < 256 → s.admitted m = false) →
      s.Does .bobTick ((List.range 148).map R.bobExQ) [.now, .tim, .timers, .bob] (fun t => t.now % 1000 = 0 ∧ s.now < t.now
        ∧ t.bob.tasks = s.bob.tasks.map (fun y => if y.stage = 0 ∧ tickUp y.ready ≤ t.now then { y with stage := 2 } else y)
        ∧ t.bob.run = s.bob.run))
    ∧ (s.running e = none →
      (firstTask (s.bob.tasks.filter (s.takes e)) = none → exec (.taskDispatch e p) s = .next s)
      ∧ (firstTask (s.bob.tasks.filter (s.takes e)) = some k → k.typ ≠ 1 →
        s.Does (.taskDispatch e p) ([R.bobCred k.typ, R.bobExQ k.list, R.bobExLate k.list]
            ++ (List.range 16).map (R.bobExHist k.list)) [.bob] (fun t => t.running e = some k
          ∧ t.bob.tasks = s.bob.tasks.filter (fun y => !Nat.beq y.seq k.seq) ∧ t.bob.dispatched = s.bob.dispatched + 1
          ∧ t.get (F.bobCredFree k.typ) = (s.get (F.bobCredFree k.typ) + 1) % 2 ^ 16)))
    ∧ ((∃ y, y ∈ s.bob.tasks ∧ y.expiry ≠ 0) →
      s.Does .taskExpiry ((List.range 7).map R.bobCred ++ (List.range 148).map R.bobExQ ++ [R.bobCancel Cancel.expired])
        [.now, .tim, .timers, .bob] (fun t => (∃ y, y ∈ s.bob.tasks ∧ y.expiry ≠ 0 ∧ y.expiry ≤ t.now)
          ∧ t.bob.tasks = s.bob.tasks.filter (fun y => Nat.beq y.expiry 0 || Nat.blt t.now y.expiry)
          ∧ t.bob.cancelled + t.bob.tasks.length = s.bob.cancelled + s.bob.tasks.length))
    ∧ (s.Ready h → bitsAt v 0 1 = 1 →
      s.Writes h (.bobHistogramClear h x v) ((List.range 16).map (R.bobExHist x)) [] (fun t =>
        ∀ b, b < 16 → t.get (F.bobExHist x b) = 0))

/-- For a channel n that is its own only context, row j of picture k with entry r, its rate control on an earlier picture.
COMPOSE_ROW_COMPLETE of its running task, the row not yet decided or released, on a coding channel without a standby, a
credit free, outside SAFE and RECOVER: the compositor is free, the row is composed, and its ENCODE_ROW task is created on
the home engine. FRONT_END_COMPLETE while the lead codes it: the front end is done and what motion search reports is
counted. BACK_END_COMPLETE of an unpaired lead, unflagged, a credit free: size and signature are kept and shown, one more
row counts, a PACK_ROW task is created. PACK_ROW_COMPLETE of an undecided row: it is ready from now on.
REFERENCE_REPAIR_COMPLETE with no poison: the row is final. Frames name what changes. -/
def Obligations.EncodedRows : Prop :=
  ∀ (s : State) (c n k j e p size sig : Nat) (x : Search) (q : Task) (r : Row), n < 256 → c < 16 → s.strips n = [n] → s.leadOf n = n →
    s.row n k j = some r → (s.rc n).pic < k → (∀ f m, ∀ y, y ∈ (s.chan m).rows → m ∈ s.placedOn f → s.finalOf (s.leadOf m) y.k y.j = none) →
    (s.running (128 + c) = some q → q.own = n → q.frame = k → q.row = j → r.rel = false → r.dec = 0 → s.codes n k = true →
      s.stbyEng n = none → s.modeIn [Mode.safe, Mode.recover] = false → s.get (F.bobCredFree 3) ≠ 0 →
      s.Does (.composeRowComplete c) [R.cmpLoad c, R.cmpLatecmp c, R.bobCred 3, R.bobExQ (s.leadEng n)] [.bob, .engs, .chans] (fun t =>
        t.running (128 + c) = none ∧ t.row n k j = some { r with comp := true }
          ∧ (∃ y, t.bob.tasks = s.bob.tasks ++ [y] ∧ y.typ = 3 ∧ y.own = n ∧ y.frame = k ∧ y.row = j ∧ y.which = 0 ∧ y.list = s.leadEng n)
          ∧ t.get (F.bobCredFree 3) = s.get (F.bobCredFree 3) - 1))
    ∧ (r.lead.st = 1 → r.lead.eng = e → j + 1 ≠ s.rows n →
      s.Does (.frontEndComplete n k j 0 x) [R.encLoad e, R.encMeCntHint e, R.encMeCntHash e, R.encMeCntHfalse e, R.encMeCntDrop e,
          R.chnRefRatio n] [.bob, .engs, .chans] (fun t => t.row n k j = some { r with lead := { r.lead with st := 2 } }
        ∧ t.get (F.encMeCntHint e) = (s.get (F.encMeCntHint e) + x.hint) % 2 ^ 32
        ∧ t.get (F.encMeCntHash e) = (s.get (F.encMeCntHash e) + x.hash) % 2 ^ 32
        ∧ t.get (F.encMeCntDrop e) = (s.get (F.encMeCntDrop e) + x.drop) % 2 ^ 32))
    ∧ (r.lead.st = 3 → r.lead.eng = e → r.lead.res = false → r.lead.par = false → r.lead.marker = false → (s.eng e).injSig = false →
      s.paired n = false → s.get (F.bobCredFree 4) ≠ 0 → s.modeIn [Mode.safe, Mode.recover] = false → j + 1 ≠ s.rows n → sig < 2 ^ 32 →
      s.Does (.backEndComplete n k j 0 size sig) [R.encRowsLo e, R.encRowsHi e, R.encSig e, R.encSigtag e, R.bobCred 4, R.bobExQ 145]
        [.bob, .engs, .chans] (fun t => t.row n k j = some { r with lead := { r.lead with st := 4, size := size, sig := sig } }
          ∧ t.get64 (R.encRowsLo e) (R.encRowsHi e) = (s.get64 (R.encRowsLo e) (R.encRowsHi e) + 1) % 2 ^ 64
          ∧ t.get (F.encSigSig e) = sig ∧ t.get (F.encSigtagCtx e) = n
          ∧ ∃ y, t.bob.tasks = s.bob.tasks ++ [y] ∧ y.typ = 4 ∧ y.own = n ∧ y.frame = k ∧ y.row = j))
    ∧ (p < 8 → s.running (160 + p) = some q → q.own = n → q.frame = k → q.row = j → r.dec = 0 →
      s.Does (.packRowComplete p) [] [.bob, .chans] (fun t => t.running (160 + p) = none ∧ t.bob.tasks = s.bob.tasks
        ∧ t.row n k j = some { r with ready := some s.now }))
    ∧ (p < 4 → s.running (168 + p) = some q → q.own = n → q.frame = k → q.row = j → q.typ = 6 → q.which = 1 → (s.chan n).poison = [] →
      ((s.chan n).rows.filter (fun y => Nat.beq y.k k)).length ≠ s.rows n →
      s.Does (.referenceRepairComplete p) [] [.bob, .chans] (fun t => t.running (168 + p) = none ∧ t.bob.tasks = s.bob.tasks
        ∧ t.row n k j = some { r with fin := true }))

/-- NVM_UPDATE_GO, taken at once, ABORT written 0, no update at work: in SERVICE, for a slot that is not the loaded one and
a legal length, the unit is WRITING with GO = 1 and the slot holds no image; outside SERVICE it is DONE with result 2.
NVM_UPDATE_ABORT at work: DONE with result 8. NVM_UPDATE_WRITE_DONE while WRITING: the image stands in the slot and the unit
is VERIFYING, or without one it is DONE with result 5. NVM_UPDATE_VERIFY_DONE while VERIFYING: other data gives result 6 and
NVM_WRITE occurs, equal data 1 or 7 as R528 finds the image. NVM_READOUT_GO: BUSY in SERVICE with a legal range, else result
2 or 3; ABORT of a BUSY one: HALTED, 5; NVM_READOUT_DONE of a BUSY one, no write at work: 1 or 4. Frames name what changes.
-/
def Obligations.NvmUnits : Prop :=
  ∀ (s : State) (h units : Nat) (v : Word) (y : Img) (good : Bool),
    (s.Ready h →
      (s.updating = false → bitsAt v 1 1 = 0 →
        (s.mode = Mode.service → (s.get F.nvmStatLstate ≠ 3 ∨ s.get F.nvmStatLoaded ≠ bitsAt v 2 1) → s.get F.nvmUpdLenLen % 4096 = 0 →
          4096 ≤ s.get F.nvmUpdLenLen → s.get F.nvmUpdLenLen ≤ 0x01000000 →
          s.Writes h (.nvmUpdateGo h v) [R.nvmUpdCtl, R.nvmUpdStat] [.nvm] (fun t => t.get F.nvmUpdStatUstate = 1
            ∧ t.is F.nvmUpdCtlGo = true ∧ t.get F.nvmUpdCtlSlot = bitsAt v 2 1 ∧ t.image (bitsAt v 2 1) = none
            ∧ t.get F.nvmUpdStatDone64k = 0))
        ∧ (s.mode ≠ Mode.service → s.Writes h (.nvmUpdateGo h v) ([R.nvmUpdCtl, R.nvmUpdStat, R.selEvtOvf] ++ (List.range 4).map R.hstIrqStat) [] (fun t =>
            t.get F.nvmUpdStatUstate = 3 ∧ t.get F.nvmUpdStatResult = 2 ∧ t.is F.nvmUpdCtlGo = false)))
      ∧ (s.updating = true → s.Writes h (.nvmUpdateAbort h v) ([R.nvmUpdCtl, R.nvmUpdStat, R.selEvtOvf] ++ (List.range 4).map R.hstIrqStat) [] (fun t =>
            t.get F.nvmUpdStatUstate = 3 ∧ t.get F.nvmUpdStatResult = 8 ∧ t.is F.nvmUpdCtlGo = false))
      ∧ (s.reading = false → bitsAt v 1 1 = 0 →
        s.Writes h (.nvmReadoutGo h v) ([R.nvmRdCtl, R.nvmRdStat, R.selEvtOvf] ++ (List.range 4).map R.hstIrqStat) [] (fun t =>
          if s.mode ≠ Mode.service then t.get F.nvmRdStatRstate = 2 ∧ t.get F.nvmRdStatResult = 2
          else if s.get F.nvmRdSrcOffset % 32 ≠ 0 ∨ s.get F.nvmRdLenLen % 32 ≠ 0
              ∨ 0x04000000 < s.get F.nvmRdSrcOffset + s.get F.nvmRdLenLen then
            t.get F.nvmRdStatRstate = 2 ∧ t.get F.nvmRdStatResult = 3
          else t.reading = true ∧ t.is F.nvmRdCtlGo = true))
      ∧ (s.reading = true → s.Writes h (.nvmReadoutAbort h v) ([R.nvmRdCtl, R.nvmRdStat, R.selEvtOvf] ++ (List.range 4).map R.hstIrqStat) [] (fun t =>
            t.get F.nvmRdStatRstate = 3 ∧ t.get F.nvmRdStatResult = 5 ∧ t.is F.nvmRdCtlGo = false)))
    ∧ (s.get F.nvmUpdStatUstate = 1 →
      s.Does (.nvmUpdateWriteDone (some y) units) [R.nvmUpdStat] [.nvm] (fun t => t.get F.nvmUpdStatUstate = 2
        ∧ t.get F.nvmUpdStatDone64k = min 256 units ∧ t.image (s.get F.nvmUpdCtlSlot) = some y)
      ∧ s.Does (.nvmUpdateWriteDone none units) ([R.nvmUpdCtl, R.nvmUpdStat, R.selEvtOvf] ++ (List.range 4).map R.hstIrqStat) [.arb, .ports] (fun t =>
        t.get F.nvmUpdStatUstate = 3 ∧ t.get F.nvmUpdStatResult = 5 ∧ t.get F.nvmUpdStatDone64k = min 256 units))
    ∧ (s.get F.nvmUpdStatUstate = 2 →
      s.Does (.nvmUpdateVerifyDone false) ([R.nvmUpdCtl, R.nvmUpdStat, R.selEvtOvf] ++ (List.range 4).map R.hstIrqStat) [.arb, .ports, .sel] (fun t =>
        t.get F.nvmUpdStatUstate = 3 ∧ t.get F.nvmUpdStatResult = 6 ∧ t.sel.occ = s.sel.occ ++ [(Src.nvmWrite, false)])
      ∧ s.Does (.nvmUpdateVerifyDone true) ([R.nvmUpdCtl, R.nvmUpdStat, R.selEvtOvf, R.nvmImgStat (s.get F.nvmUpdCtlSlot),
            R.nvmImgGen (s.get F.nvmUpdCtlSlot), R.nvmImgLen (s.get F.nvmUpdCtlSlot)] ++ (List.range 4).map R.hstIrqStat) [.arb, .ports] (fun t =>
        t.get F.nvmUpdStatUstate = 3
          ∧ t.get F.nvmUpdStatResult = (if t.is (F.nvmImgStatValid (s.get F.nvmUpdCtlSlot)) then 1 else 7)
          ∧ (t.is (F.nvmImgStatValid (s.get F.nvmUpdCtlSlot)) = true ↔
            (s.checkSlot (s.get F.nvmUpdCtlSlot)).1 = 0 ∧ s.nvm.bad.contains (s.get F.nvmUpdCtlSlot) = false)))
    ∧ (s.reading = true → s.get F.nvmUpdStatUstate ≠ 1 →
      s.Does (.nvmReadoutDone good) ([R.nvmRdCtl, R.nvmRdStat, R.selEvtOvf] ++ (List.range 4).map R.hstIrqStat) [.arb, .ports] (fun t =>
        t.get F.nvmRdStatRstate = (if good then 2 else 3) ∧ t.get F.nvmRdStatResult = (if good then 1 else 4) ∧ t.is F.nvmRdCtlGo = false))

/-- For unit u. CKV_GO, taken at once, ABORT written 0, the unit free and the host's: BUSY without a cause, and the chain
starts at CKV_HEAD. CKV_ABORT of a BUSY unit before a descriptor is read: HALTED with cause ABORT. CKV_DESCRIPTOR_DONE of a
BUSY unit: a bad descriptor halts it with cause DESC; a good one of one range runs its bytes through the algorithm, from the
preset or the running value, counts them and itself, and goes on to NEXT; the last one, FIN without CMP, gives the result
and DONE; under CMP an unequal value sets MISMATCH, counts, keeps the first expected value and, with STOP_MIS, halts.
CKV_FETCH_ERROR of a BUSY unit before a descriptor is read: HALTED with cause FETCH, and CKV_DMA occurs. Frames name what
changes. -/
def Obligations.CheckValueUnits : Prop :=
  ∀ (s : State) (h u : Nat) (v : Word) (d : Desc) (bytes second : List (BitVec 8)) (cut : Cut), u < 8 →
    let r := crcRun (s.ckvPoly u) (if d.init then crcInit (s.ckvPoly u) else s.ckvVal u) bytes
    let fv := r % 2 ^ crcWidth (s.ckvPoly u) ^^^ crcFinal (s.ckvPoly u)
    (s.Ready h → s.ckvOwned u = false →
      (s.ckvBusy u = false → bitsAt v 1 1 = 0 → s.Writes h (.ckvGo h u v) [R.ckvStat u, R.ckvCtl u] [.ckv] (fun t =>
        t.ckvBusy u = true ∧ t.get (F.ckvStatCause u) = 0 ∧ t.is (F.ckvCtlGo u) = true
          ∧ Tab.get 0 t.ckv u = s.get64 (R.ckvHeadLo u) (R.ckvHeadHi u)))
      ∧ (s.ckvBusy u = true → cut.desc = none →
        s.Writes h (.ckvAbort h u v cut) ([R.ckvStat u, R.ckvCtl u, R.selEvtOvf] ++ (List.range 4).map R.hstIrqStat) [] (fun t =>
          t.get (F.ckvStatUstate u) = 3 ∧ t.get (F.ckvStatCause u) = 3 ∧ t.is (F.ckvCtlGo u) = false)))
    ∧ (s.ckvBusy u = true →
      (descBad d = true → s.Does (.ckvDescriptorDone u d bytes second) ([R.ckvStat u, R.ckvCtl u, R.selEvtOvf] ++ (List.range 4).map R.hstIrqStat) [.arb, .ports]
        (fun t => t.get (F.ckvStatUstate u) = 3 ∧ t.get (F.ckvStatCause u) = 1))
      ∧ (descBad d = false → d.dual = false →
        (d.fin = false → d.next ≠ 0 → s.Does (.ckvDescriptorDone u d bytes second)
            [R.ckvValLo u, R.ckvValHi u, R.ckvCntBytesLo u, R.ckvCntBytesHi u, R.ckvCntDesc u] [.ckv] (fun t =>
          t.get64 (R.ckvValLo u) (R.ckvValHi u) = r % 2 ^ 64
            ∧ t.get64 (R.ckvCntBytesLo u) (R.ckvCntBytesHi u)
              = (s.get64 (R.ckvCntBytesLo u) (R.ckvCntBytesHi u) + bytes.length) % 2 ^ 64
            ∧ t.get (F.ckvCntDesc u) = (s.get (F.ckvCntDesc u) + 1) % 2 ^ 32 ∧ t.ckvBusy u = true ∧ Tab.get 0 t.ckv u = d.next))
        ∧ (d.fin = true → d.cmp = false → d.next = 0 → s.Does (.ckvDescriptorDone u d bytes second)
            ([R.ckvValLo u, R.ckvValHi u, R.ckvCntBytesLo u, R.ckvCntBytesHi u, R.ckvCntDesc u, R.ckvResLo u, R.ckvResHi u,
              R.ckvStat u, R.ckvCtl u, R.selEvtOvf] ++ (List.range 4).map R.hstIrqStat) [.arb, .ports] (fun t =>
          t.get64 (R.ckvResLo u) (R.ckvResHi u) = fv % 2 ^ 64 ∧ t.get (F.ckvStatUstate u) = 2 ∧ t.get (F.ckvStatCause u) = 0))
        ∧ (d.fin = true → d.cmp = true → fv ≠ d.aux % 2 ^ 64 → s.is (F.ckvStatMismatch u) = false → s.is (F.ckvCfgStopMis u) = true →
          s.Does (.ckvDescriptorDone u d bytes second)
            ([R.ckvValLo u, R.ckvValHi u, R.ckvCntBytesLo u, R.ckvCntBytesHi u, R.ckvCntDesc u, R.ckvResLo u, R.ckvResHi u,
              R.ckvMisExpLo u, R.ckvMisExpHi u, R.ckvMisDescLo u, R.ckvMisDescHi u, R.ckvCntMis u,
              R.ckvStat u, R.ckvCtl u, R.selEvtOvf] ++ (List.range 4).map R.hstIrqStat) [.arb, .ports] (fun t =>
            t.is (F.ckvStatMismatch u) = true ∧ t.get (F.ckvCntMis u) = (s.get (F.ckvCntMis u) + 1) % 2 ^ 32
              ∧ t.get64 (R.ckvMisExpLo u) (R.ckvMisExpHi u) = d.aux % 2 ^ 64
              ∧ t.get (F.ckvStatUstate u) = 3 ∧ t.get (F.ckvStatCause u) = 0)))
      ∧ (cut.desc = none → s.Does (.ckvFetchError u cut) ([R.ckvStat u, R.ckvCtl u, R.selEvtOvf] ++ (List.range 4).map R.hstIrqStat) [.arb, .ports, .sel] (fun t =>
        t.get (F.ckvStatUstate u) = 3 ∧ t.get (F.ckvStatCause u) = 2 ∧ t.sel.occ = s.sel.occ ++ [(Src.ckvDma u, false)])))

/-- RING_RECORD_COMPLETE of the oldest record in work of channel n: it joins its segment, or where its space was reused or
the segment is gone it counts as dropped. RING_QUOTA_RECOMPUTE that is due: at the next 1 µs tick every quota is the share
of its weight. Taken at once: TAP_ENABLE with EN = 1 of a tap: its head is its tail; RETRIEVAL_RING_ENABLE: EN and SIZE are
as written. TAP_RECORD_COMPLETE of the oldest record r in work of a tap: with its space kept, the link up and room in the
ring the head moves past it and it counts; else it counts as dropped; it is in work no longer. Frames name what changes. -/
def Obligations.RingAndTaps : Prop :=
  ∀ (s : State) (h n p k seq : Nat) (v : Word) (r : Rec) (reused : Bool), n < 256 → p < 4 → k < 16 →
    (s.ring.pend.find? (fun x => Nat.beq x.1 n) = some (n, seq, r) →
      s.Does (.ringRecordComplete n reused) [R.rplChCntDrop n, R.rplChSegs n, R.rplChOldLo n, R.rplChOldHi n, R.rplChNewLo n, R.rplChNewHi n]
        [.ring] (fun t => t.ring.pend = s.ring.pend.eraseP (fun x => Nat.beq x.1 n) ∧
          if reused = true ∨ s.ring.segs.any (fun g => g.is n (s.epoch n) seq) = false then
            t.get (F.rplChCntDrop n) = (s.get (F.rplChCntDrop n) + 1) % 2 ^ 32 ∧ t.ring.segs = s.ring.segs
          else t.get (F.rplChCntDrop n) = s.get (F.rplChCntDrop n)
            ∧ t.ring.segs = s.ring.segs.map (fun g => if g.is n (s.epoch n) seq then { g with recs := g.recs ++ [r] } else g)))
    ∧ (s.ring.quota = true →
      s.Does .ringQuotaRecompute ((List.range 256).map R.rplChQuota) [.now, .tim, .timers, .ring] (fun t =>
        t.ring = { s.ring with quota := false } ∧ t.now % 1000 = 0 ∧ ∀ m, m < 256 → t.get (F.rplChQuotaQ m)
          = (if ((List.range 256).map s.ringWeight).sum = 0 then 0
            else (s.get F.rplPagesN - s.ringReserve) * s.ringWeight m / ((List.range 256).map s.ringWeight).sum) % 2 ^ 20))
    ∧ (s.Ready h →
      (bitsAt v 8 1 = 1 → s.Writes h (.tapEnable h p k v) [R.hstTapCfg p k, R.hstTapHead p k] [] (fun t =>
        t.is (F.hstTapCfgEn p k) = true ∧ t.get (F.hstTapHeadOfs p k) = s.get (F.hstTapTailOfs p k)))
      ∧ s.Writes h (.retrievalRingEnable h p v) [R.hstRdCfg p] [] (fun t =>
        t.get (F.hstRdCfgEn p) = bitsAt v 5 1 ∧ t.get (F.hstRdCfgSize p) = bitsAt v 0 5))
    ∧ ((s.port p).taps.find? (fun x => Nat.beq x.1 k) = some (k, r) →
      s.Does (.tapRecordComplete p k reused) [R.hstTapHead p k, R.hstTapCntRec p k, R.hstTapCntDrop p k, R.hstIrqStat p] [.ports] (fun t =>
        (t.port p).taps = (s.port p).taps.eraseP (fun x => Nat.beq x.1 k) ∧
          match ringPlace (s.get (F.hstTapCfgSize p k)) (s.get (F.hstTapHeadOfs p k)) (s.get (F.hstTapTailOfs p k)) r.len with
          | some head => if reused = false ∧ s.linkUp p = true then
              t.get (F.hstTapHeadOfs p k) = head % 2 ^ 30 ∧ t.get (F.hstTapCntRec p k) = (s.get (F.hstTapCntRec p k) + 1) % 2 ^ 32
            else t.get (F.hstTapCntDrop p k) = (s.get (F.hstTapCntDrop p k) + 1) % 2 ^ 32
          | none => t.get (F.hstTapCntDrop p k) = (s.get (F.hstTapCntDrop p k) + 1) % 2 ^ 32))

/-- For the request of port p. RPL_REQUEST_START, taken at once, START 1 and ABORT 0, with the retrieval ring on and no
request at work: SEARCHING with its counters 0. RPL_REQUEST_ABORT with ABORT = 1 of one at work: DONE.
RETRIEVAL_SEARCH_DONE: EMPTY where no record is selected, else READING the segments that hold what it gives.
RETRIEVAL_SEGMENT_READ with none open: the next segment that still is there is open with the records that the request gives.
RETRIEVAL_RECORD_DELIVERY of a record that is not the last, with the ring on, the link up and room: the head moves past it
and it counts, also in CRC where its check values do not match. Frames name what changes. -/
def Obligations.Retrievals : Prop :=
  ∀ (s : State) (h p x head : Nat) (v : Word) (g : Seg) (r r2 : Rec) (rest : List Nat) (more : List Rec) (f : Rec) (bad : Bool), p < 4 →
    let shown := [R.rplFree, R.rplHeld]
    (s.Ready h →
      (bitsAt v 10 1 = 1 → bitsAt v 11 1 = 0 → s.is (F.hstRdCfgEn p) = true → s.rstate p ≠ 1 → s.rstate p ≠ 2 →
        s.Writes h (.rplRequestStart h p v) ([R.rplRqCfg p, R.rplRqStat p, R.rplRqCntRec p, R.rplRqCntGap p, R.rplRqCntCrc p,
            R.rplRqCntKbytes p, R.selEvtOvf] ++ shown) [.ring] (fun t => t.rstate p = 1 ∧ t.get (F.rplRqCntRec p) = 0
          ∧ t.get (F.rplRqCntGap p) = 0 ∧ t.get (F.rplRqCntCrc p) = 0 ∧ t.get (F.rplRqCntKbytes p) = 0
          ∧ t.is (F.rplRqCfgStart p) = false ∧ (t.req p).chan = bitsAt v 0 8
          ∧ (t.req p).t0 = s.get64 (R.rplRqT0Lo p) (R.rplRqT0Hi p) ∧ (t.req p).t1 = s.get64 (R.rplRqT1Lo p) (R.rplRqT1Hi p)))
      ∧ (bitsAt v 11 1 = 1 → s.rstate p = 1 ∨ s.rstate p = 2 →
        s.Writes h (.rplRequestAbort h p v) ([R.rplRqCfg p, R.rplRqStat p, R.hstIrqStat p, R.selEvtOvf] ++ shown) [.ring] (fun t =>
          t.rstate p = 3 ∧ t.req p = {})))
    ∧ (s.rstate p = 1 →
      (((s.ring.segs.filter (fun y => Nat.beq y.chan (s.req p).chan && Nat.beq y.epoch (s.req p).epoch)).flatMap Seg.recs).find?
          (s.req p).selects = none →
        s.Does (.retrievalSearchDone p) ([R.rplRqStat p, R.hstIrqStat p, R.selEvtOvf] ++ shown) [.arb, .ports] (fun t => t.rstate p = 4))
      ∧ (((s.ring.segs.filter (fun y => Nat.beq y.chan (s.req p).chan && Nat.beq y.epoch (s.req p).epoch)).flatMap Seg.recs).find?
          (s.req p).selects = some f →
        s.Does (.retrievalSearchDone p) ([R.rplRqStat p, R.selEvtOvf] ++ shown) [.arb, .ring] (fun t => t.rstate p = 2
          ∧ (t.req p).hi = f.k ∧ ((s.req p).rap = false → (t.req p).lo = f.k)
          ∧ (t.req p).todo = ((s.ring.segs.filter (fun y => Nat.beq y.chan (s.req p).chan && Nat.beq y.epoch (s.req p).epoch)).filter
              (fun y => y.recs.any (t.req p).gives)).map Seg.seq)))
    ∧ (s.rstate p = 2 →
      ((s.req p).open_ = none → (s.req p).todo = x :: rest →
        s.ring.segs.find? (fun y => y.is (s.req p).chan (s.req p).epoch x) = some g →
        s.Does (.retrievalSegmentRead p) shown [.ring] (fun t => (t.req p).open_ = some x ∧ (t.req p).todo = rest
          ∧ (t.req p).recs = g.recs.filter (s.req p).gives ∧ t.ring.segs = s.ring.segs))
      ∧ (s.is (F.hstRdCfgEn p) = true → s.linkUp p = true → (s.req p).recs = r :: r2 :: more → (s.req p).open_ = some x →
        ringPlace (s.get (F.hstRdCfgSize p)) (s.get (F.hstRdHeadOfs p)) (s.get (F.hstRdTailOfs p)) r.len = some head →
        s.Does (.retrievalRecordDelivery p bad) ([R.hstRdHead p, R.rplRqCntRec p, R.rplRqCntKbytes p, R.rplRqCntCrc p] ++ shown) [.ring]
          (fun t => t.get (F.hstRdHeadOfs p) = head % 2 ^ 30 ∧ t.get (F.rplRqCntRec p) = (s.get (F.rplRqCntRec p) + 1) % 2 ^ 32
            ∧ t.get (F.rplRqCntCrc p) = (s.get (F.rplRqCntCrc p) + (if bad then 1 else 0)) % 2 ^ 32
            ∧ (t.req p).recs = r2 :: more ∧ (t.req p).bytes = (s.req p).bytes + 32 + r.len ∧ t.rstate p = 2)))

/-- Taken at once: AUD_PORT_ENABLE of an OFF port with EN = 0: CLK_WAIT, or PRIME where it drives its own clock.
AUD_PORT_DISABLE of a port in RUN: STOPPING. AUD_INPUT_ENABLE of an input with EN = 0: where R387 allows it EN is 1 and its
eleven counters are 0, else EN is 0 with REFUSED and the reason. AUD_INPUT_DISABLE with EN = 1: EN is 0. PORT_CLOCK_VALID in
CLK_WAIT: PRIME with LOCK. PORT_PRIME_DONE: RUN. PORT_STOP_DONE with EN = 0: OFF. PORT_CLOCK_LOSS in RUN: CLK_WAIT without
LOCK, and AUD_CLK occurs. PORT_RATE_GATE within 1,000 ppm of a port that is not OFF: the offset is shown and PSTATE stays.
Frames name what changes. -/
def Obligations.AudioPorts : Prop :=
  ∀ (s : State) (h a i got : Nat) (v : Word) (ppm : Int), a < 16 → i < 48 →
    (s.Ready h →
      (s.is (F.audPortCfgEn a) = false → s.audState a = AState.off →
        s.Writes h (.audPortEnable h a v) [R.audPortCfg a, R.audPortStat a, R.selEvtOvf] [] (fun t => t.is (F.audPortCfgEn a) = true
          ∧ t.audState a = (if t.ownClock a then AState.prime else AState.clkWait)))
      ∧ (s.audState a = AState.run →
        s.Writes h (.audPortDisable h a v) [R.audPortCfg a, R.audPortStat a, R.selEvtOvf] [.ains] (fun t =>
          t.is (F.audPortCfgEn a) = false ∧ t.audState a = AState.stopping))
      ∧ (s.is (F.audInCfgEn i) = false →
        s.Writes h (.audInputEnable h i v) ([R.audInCfg i, R.audInStat i, R.selEvtOvf] ++ (List.range 11).map (fun k => R.audInCntRecv i + 4 * k))
          [.ains] (fun t => t.get (F.audInCfgMask i) = bitsAt v 0 16 ∧ t.get (F.audInCfgChan i) = bitsAt v 20 8 ∧
            if t.inputErr i = 0 then t.is (F.audInCfgEn i) = true ∧ ∀ k, k < 11 → t.word (R.audInCntRecv i + 4 * k) = 0
            else t.is (F.audInCfgEn i) = false ∧ t.is (F.audInStatRefused i) = true ∧ t.get (F.audInStatErr i) = t.inputErr i))
      ∧ (s.is (F.audInCfgEn i) = true → s.Writes h (.audInputDisable h i v) [R.audInCfg i] [.ains] (fun t =>
          t.is (F.audInCfgEn i) = false ∧ t.get (F.audInCfgMask i) = s.get (F.audInCfgMask i)
            ∧ t.get (F.audInCfgChan i) = s.get (F.audInCfgChan i))))
    ∧ (s.audState a = AState.clkWait → s.Does (.portClockValid a) [R.audPortStat a, R.selEvtOvf] [.arb] (fun t =>
        t.audState a = AState.prime ∧ t.is (F.audPortStatLock a) = true))
    ∧ (s.audState a = AState.prime → s.Does (.portPrimeDone a) [R.audPortStat a, R.selEvtOvf] [.arb, .ains] (fun t =>
        t.audState a = AState.run ∧ (t.ain a).data = (if s.is (F.audInCfgEn a) then 2 else 0)))
    ∧ (s.audState a = AState.stopping → s.is (F.audPortCfgEn a) = false →
      s.Does (.portStopDone a) [R.audPortStat a, R.selEvtOvf] [.arb, .ains] (fun t =>
        t.audState a = AState.off ∧ (t.ain a).data = 0))
    ∧ (s.audState a = AState.run →
      s.Does (.portClockLoss a got) [R.audPortStat a, R.audInCntRecv a, R.audInCntPartial a, R.selEvtOvf] [.arb, .ains, .sel] (fun t =>
        t.audState a = AState.clkWait ∧ t.is (F.audPortStatLock a) = false ∧ (t.ain a).data = 0
          ∧ t.sel.occ = s.sel.occ ++ [(Src.audClk a, false)]))
    ∧ (s.audState a ≠ AState.off → -10000 ≤ ppm → ppm ≤ 10000 →
      s.Does (.portRateGate a ppm got) [R.audPortStat a] [.aports] (fun t => t.getInt (F.audPortStatPpm a) = ppm
        ∧ t.audState a = s.audState a ∧ (t.aport a).bad = 0))

/-- AUDIO_FLOW_ENABLE, taken at once, with EN = 1 of a flow with EN = 0: EN is 1 and the merge starts empty.
AUDIO_PORT_FRAME of a TDM or I2S port in RUN whose data is enabled, none of its slots bad, its channel admitted and its
buffer not full: as many samples as the mask selects count as received and as stored, and one frame joins the buffer.
AUDIO_FLOW_PACKET_RECEIVED of an accepted packet of one sample frame on an enabled flow, its input enabled, its channel
admitted and its buffer not full: the same. Frames name what changes. -/
def Obligations.AudioSamples : Prop :=
  ∀ (s : State) (h a f : Nat) (v : Word) (fr : AudFrame) (p : AudPkt) (d : List Nat), a < 16 → f < 32 →
    (s.Ready h → s.is (F.ingAflCfgEn f) = false → bitsAt v 23 1 = 1 →
      s.Writes h (.audioFlowEnable h f v) [R.ingAflCfg f] [.igmp, .ains] (fun t => t.is (F.ingAflCfgEn f) = true
        ∧ t.get (F.ingAflCfgCh f) = bitsAt v 16 4 ∧ (t.ain (16 + f)).seqs = [] ∧ (t.ain (16 + f)).hi = none
        ∧ (t.ain (16 + f)).frames = (s.ain (16 + f)).frames))
    ∧ (s.audState a = AState.run → s.isAes3 a = false → (s.ain a).data = 3 → (∀ x, x ∈ fr.slots → x.bad = false) →
      s.chState (s.get (F.audInCfgChan a)) ≠ 0 → (s.ain a).frames.length < 8192 →
      s.Does (.audioPortFrame a fr) [R.audInCntRecv a, R.audInCntParity a, R.audInCntStored a, R.audInCntValidity a, R.audPortBlkLo a,
          R.audPortBlkHi a] [.ains, .aports] (fun t =>
        t.get (F.audInCntRecv a) = (s.get (F.audInCntRecv a) + (s.maskSlots a).length) % 2 ^ 32
          ∧ t.get (F.audInCntStored a) = (s.get (F.audInCntStored a) + (s.maskSlots a).length) % 2 ^ 32
          ∧ t.get (F.audInCntParity a) = s.get (F.audInCntParity a)
          ∧ ∃ x, (t.ain a).frames = (s.ain a).frames ++ [x] ∧ x.words.length = (s.maskSlots a).length))
    ∧ (s.is (F.ingAflCfgEn f) = true → s.flowAccepts f p = true → s.is (F.audInCfgEn (16 + f)) = true → p.frames = [d] →
      s.chState (s.get (F.audInCfgChan (16 + f))) ≠ 0 → (s.ain (16 + f)).frames.length < 8192 →
      s.Does (.audioFlowPacketReceived f p) [R.audInCntRecv (16 + f), R.audInCntStored (16 + f), R.audInCntValidity (16 + f)] [.ains] (fun t =>
        t.get (F.audInCntRecv (16 + f)) = (s.get (F.audInCntRecv (16 + f)) + (s.maskSlots (16 + f)).length) % 2 ^ 32
          ∧ t.get (F.audInCntStored (16 + f)) = (s.get (F.audInCntStored (16 + f)) + (s.maskSlots (16 + f)).length) % 2 ^ 32
          ∧ (t.ain (16 + f)).seqs.contains p.seq = true
          ∧ ∃ x, (t.ain (16 + f)).frames = (s.ain (16 + f)).frames ++ [x] ∧ x.words.length = (s.maskSlots (16 + f)).length))

/-- HOST_REGISTER_WRITE by a port whose write is taken at once, to ING_SRC_FMT, ING_SRC_SIZE, ING_SRC_MERGE or a path
register (PATH, GRP, FLT, UDP of path A or B) of source n. With ING_SRC_CFG.EN = 1: nothing changes but what taking any
write changes (the write count of the port, time and the WRITE event that journals it). With EN = 0: the write is taken and
its fields are stored, so the fields are rewritten while the source is off. -/
def Obligations.SourceFieldsLocked : Prop :=
  ∀ (s : State) (h n x a : Nat) (v : Word), s.Ready h → n < 512 → x < 2 →
    a ∈ [R.ingSrcFmt n, R.ingSrcSize n, R.ingSrcMerge n, R.ingSrcPath n x, R.ingSrcGrp n x, R.ingSrcFlt n x, R.ingSrcUdp n x] →
    (s.is (F.ingSrcCfgEn n) = true →
      ∃ t, exec (.hostRegisterWrite h a v) s = .next t ∧ s.Taken t h a v)
    ∧ (s.is (F.ingSrcCfgEn n) = false →
      ∃ t, s.Taken t h a v ∧ exec (.hostRegisterWrite h a v) s = .next (t.store a v allBits))

/-- Taken at once, every v. HOST_REGISTER_WRITE of AUD_IN_CFG of an input with EN = 1: the write is taken and journalled as
a WRITE event, EN follows the write, and every other bit of the register keeps its value; with EN written 1 nothing else
changes. The same for AUD_PORT_CFG of a port whose input has EN = 1. AUD_INPUT_ENABLE, AUD_INPUT_DISABLE, AUD_PORT_ENABLE
and AUD_PORT_DISABLE are these writes with EN set to 1 or 0. Frames name what an EN that changes may change. -/
def Obligations.AudioFieldsLocked : Prop :=
  ∀ (s : State) (h i : Nat) (v : Word), s.Ready h →
    (i < 48 → s.is (F.audInCfgEn i) = true →
      (∃ t u, s.Taken t h (R.audInCfg i) v ∧ exec (.hostRegisterWrite h (R.audInCfg i) v) s = .next u
        ∧ t.Frame u [R.audInCfg i] [.ains] ∧ (bitsAt v 16 1 = 1 → t.Frame u [] [])
        ∧ u.get (F.audInCfgEn i) = bitsAt v 16 1
        ∧ ∀ k, k < 32 → k ≠ 16 → bitsAt (u.word (R.audInCfg i)) k 1 = bitsAt (s.word (R.audInCfg i)) k 1)
      ∧ exec (.audInputEnable h i v) s = exec (.hostRegisterWrite h (R.audInCfg i) (setBitsAt v 16 1 1)) s
      ∧ exec (.audInputDisable h i v) s = exec (.hostRegisterWrite h (R.audInCfg i) (setBitsAt v 16 1 0)) s)
    ∧ (i < 16 → s.is (F.audInCfgEn i) = true →
      (∃ t u, s.Taken t h (R.audPortCfg i) v ∧ exec (.hostRegisterWrite h (R.audPortCfg i) v) s = .next u
        ∧ t.Frame u [R.audPortCfg i, R.audPortStat i, R.selEvtOvf] [.arb, .ains]
        ∧ (bitsAt v 5 1 = 1 → s.is (F.audPortCfgEn i) = true → t.Frame u [] [])
        ∧ u.get (F.audPortCfgEn i) = bitsAt v 5 1
        ∧ ∀ k, k < 32 → k ≠ 5 → bitsAt (u.word (R.audPortCfg i)) k 1 = bitsAt (s.word (R.audPortCfg i)) k 1)
      ∧ exec (.audPortEnable h i v) s = exec (.hostRegisterWrite h (R.audPortCfg i) (setBitsAt v 5 1 1)) s
      ∧ exec (.audPortDisable h i v) s = exec (.hostRegisterWrite h (R.audPortCfg i) (setBitsAt v 5 1 0)) s)

/-- The helper registers DRC_TRN_CTL, DRC_TRN_RES_LO, DRC_TRN_RES_HI and DRC_TRN_SET of a DRAM channel d.
HOST_REGISTER_WRITE to one of them, taken at once: nothing changes but what taking any write changes (the write count of the
port, time and the WRITE event that journals it). A read of one of them by port h, with no write of that port waiting, in
every mode: the reply of the port is the word the register holds and nothing else changes. -/
def Obligations.HelperRegistersOfDram : Prop :=
  ∀ (s : State) (h d a : Nat) (v : Word), h < 4 → d < 32 →
    a ∈ [R.drcTrnCtl d, R.drcTrnResLo d, R.drcTrnResHi d, R.drcTrnSet d] →
    (s.Ready h → ∃ t, exec (.hostRegisterWrite h a v) s = .next t ∧ s.Taken t h a v)
    ∧ ((s.port h).posted = [] → s.Does (.readAndClear h a) [] [.ports] (fun t =>
        t.port h = { s.port h with reply := s.word a } ∧ ∀ p, p ≠ h → t.port p = s.port p))
end

