-- ==== Sys2Proof/Laws/Tab.lean ====
section
/-!
SUPPORT. Sys2Proof/Laws/Tab.lean: what a sparse table holds after a write, its canonical form, and what a bit field reads
after a field of the same word is set.
-/

namespace Sys2Proof.Machine

theorem nat_beq_eq (a b : Nat) : Nat.beq a b = decide (a = b) := by
  by_cases h : a = b
  · subst h; simp
  · rw [decide_eq_false h]; exact Bool.eq_false_iff.mpr (fun e => h (Nat.eq_of_beq_eq_true e))

/-! Tables -/

@[simp] theorem Tab.get_nil {α : Type} (d : α) (k : Nat) : Tab.get d [] k = d := rfl

@[simp] theorem Tab.get_ins_same {α : Type} (d : α) (t : List (Nat × α)) (k : Nat) (v : α) :
    Tab.get d (Tab.ins t k v) k = v := by
  induction t with
  | nil => simp [Tab.ins, Tab.get]
  | cons e t ih =>
    obtain ⟨i, w⟩ := e
    simp only [Tab.ins]
    split
    · simp [Tab.get]
    · split
      · simp [Tab.get]
      · rename_i h; simp [Tab.get, h, ih]

theorem Tab.get_ins_ne {α : Type} (d : α) (t : List (Nat × α)) {j k : Nat} (v : α) (h : j ≠ k) :
    Tab.get d (Tab.ins t j v) k = Tab.get d t k := by
  induction t with
  | nil => simp [Tab.ins, Tab.get, h]
  | cons e t ih =>
    obtain ⟨i, w⟩ := e
    simp only [Tab.ins]
    split
    · simp [Tab.get, h]
    · split
      · rename_i h2; have := Nat.eq_of_beq_eq_true h2; subst this; simp [Tab.get, h]
      · simp [Tab.get, ih]

@[simp] theorem Tab.get_del_same {α : Type} (d : α) (t : List (Nat × α)) (k : Nat) : Tab.get d (Tab.del t k) k = d := by
  induction t with
  | nil => rfl
  | cons e t ih =>
    obtain ⟨i, w⟩ := e
    simp only [Tab.del]
    split
    · exact ih
    · rename_i h; simp [Tab.get, h, ih]

theorem Tab.get_del_ne {α : Type} (d : α) (t : List (Nat × α)) {j k : Nat} (h : j ≠ k) :
    Tab.get d (Tab.del t j) k = Tab.get d t k := by
  induction t with
  | nil => rfl
  | cons e t ih =>
    obtain ⟨i, w⟩ := e
    simp only [Tab.del]
    split
    · rename_i h2; have := Nat.eq_of_beq_eq_true h2; subst this; simp [Tab.get, h, ih]
    · simp [Tab.get, ih]

/-- Reading an index after writing it gives the value written. -/
@[simp] theorem Tab.get_put_same {α : Type} [DecidableEq α] (d : α) (t : List (Nat × α)) (k : Nat) (v : α) :
    Tab.get d (Tab.put d t k v) k = v := by
  unfold Tab.put; split
  · rename_i h; rw [Tab.get_del_same, h]
  · simp

/-- A write leaves every other index alone. -/
theorem Tab.get_put_ne {α : Type} [DecidableEq α] (d e : α) (t : List (Nat × α)) {j k : Nat} (v : α) (h : j ≠ k) :
    Tab.get e (Tab.put d t j v) k = Tab.get e t k := by
  unfold Tab.put; split
  · exact Tab.get_del_ne e t h
  · exact Tab.get_ins_ne e t v h

theorem Tab.risingFrom_mono {α : Type} {l m : Nat} (h : l ≤ m) {t : List (Nat × α)} (r : Tab.risingFrom m t = true) :
    Tab.risingFrom l t = true := by
  cases t with
  | nil => rfl
  | cons e t =>
    simp only [Tab.risingFrom, Bool.and_eq_true] at r ⊢
    exact ⟨Nat.ble_eq_true_of_le (Nat.le_trans h (Nat.le_of_ble_eq_true r.1)), r.2⟩

theorem Tab.risingFrom_ins {α : Type} {t : List (Nat × α)} {l k : Nat} (v : α) (h : l ≤ k)
    (r : Tab.risingFrom l t = true) : Tab.risingFrom l (Tab.ins t k v) = true := by
  induction t generalizing l with
  | nil => simp [Tab.ins, Tab.risingFrom, h]
  | cons e t ih =>
    obtain ⟨i, w⟩ := e
    simp only [Tab.risingFrom, Bool.and_eq_true] at r
    have hi := Nat.le_of_ble_eq_true r.1
    simp only [Tab.ins]
    split
    · rename_i hk
      have : k < i := by simpa [Nat.blt] using hk
      simp only [Tab.risingFrom, Bool.and_eq_true]
      exact ⟨Nat.ble_eq_true_of_le h, Nat.ble_eq_true_of_le this, r.2⟩
    · split
      · rename_i h2; have := Nat.eq_of_beq_eq_true h2; subst this
        simp only [Tab.risingFrom, Bool.and_eq_true]; exact r
      · rename_i hk h2
        have h3 : ¬ k < i := by simpa [Nat.blt] using hk
        have h4 : i ≠ k := fun e => h2 (by subst e; simp)
        simp only [Tab.risingFrom, Bool.and_eq_true]
        exact ⟨r.1, ih (by omega) r.2⟩

theorem Tab.risingFrom_del {α : Type} {t : List (Nat × α)} {l : Nat} (k : Nat) (r : Tab.risingFrom l t = true) :
    Tab.risingFrom l (Tab.del t k) = true := by
  induction t generalizing l with
  | nil => rfl
  | cons e t ih =>
    obtain ⟨i, w⟩ := e
    simp only [Tab.risingFrom, Bool.and_eq_true] at r
    have hi := Nat.le_of_ble_eq_true r.1
    simp only [Tab.del]
    split
    · exact ih (Tab.risingFrom_mono (by omega) r.2)
    · simp only [Tab.risingFrom, Bool.and_eq_true]; exact ⟨r.1, ih r.2⟩

theorem Tab.risingFrom_filter {α : Type} {t : List (Nat × α)} {l : Nat} (p : Nat × α → Bool)
    (r : Tab.risingFrom l t = true) : Tab.risingFrom l (t.filter p) = true := by
  induction t generalizing l with
  | nil => rfl
  | cons e t ih =>
    obtain ⟨i, w⟩ := e
    simp only [Tab.risingFrom, Bool.and_eq_true] at r
    have hi := Nat.le_of_ble_eq_true r.1
    simp only [List.filter_cons]
    split
    · simp only [Tab.risingFrom, Bool.and_eq_true]; exact ⟨r.1, ih r.2⟩
    · exact ih (Tab.risingFrom_mono (by omega) r.2)

theorem Tab.mem_ins {α : Type} {t : List (Nat × α)} {k : Nat} {v : α} {e : Nat × α} (h : e ∈ Tab.ins t k v) :
    e = (k, v) ∨ e ∈ t := by
  induction t with
  | nil => simpa [Tab.ins] using h
  | cons x t ih =>
    obtain ⟨i, w⟩ := x
    simp only [Tab.ins] at h
    split at h
    · simpa using h
    · split at h
      · simp only [List.mem_cons] at h ⊢; tauto
      · simp only [List.mem_cons] at h ⊢
        rcases h with h | h
        · exact .inr (.inl h)
        · rcases ih h with h | h
          · exact .inl h
          · exact .inr (.inr h)

theorem Tab.mem_del {α : Type} {t : List (Nat × α)} {k : Nat} {e : Nat × α} (h : e ∈ Tab.del t k) : e ∈ t := by
  induction t with
  | nil => simp [Tab.del] at h
  | cons x t ih =>
    obtain ⟨i, w⟩ := x
    simp only [Tab.del] at h
    split at h
    · exact List.mem_cons_of_mem _ (ih h)
    · rcases List.mem_cons.mp h with h | h
      · exact h ▸ List.mem_cons_self
      · exact List.mem_cons_of_mem _ (ih h)

/-- A write keeps the canonical form. -/
theorem Tab.canon_put {α : Type} [DecidableEq α] {d : Nat → α} {t : List (Nat × α)} (k : Nat) (v : α)
    (h : Tab.canon d t = true) : Tab.canon d (Tab.put (d k) t k v) = true := by
  simp only [Tab.canon, Bool.and_eq_true, List.all_eq_true] at h ⊢
  unfold Tab.put
  split
  · exact ⟨Tab.risingFrom_del k h.1, fun e he => h.2 e (Tab.mem_del he)⟩
  · rename_i hv
    refine ⟨Tab.risingFrom_ins v (Nat.zero_le k) h.1, fun e he => ?_⟩
    rcases Tab.mem_ins he with rfl | he
    · simpa using hv
    · exact h.2 e he

/-- Leaving entries out keeps the canonical form. -/
theorem Tab.canon_filter {α : Type} [DecidableEq α] {d : Nat → α} {t : List (Nat × α)} (p : Nat × α → Bool)
    (h : Tab.canon d t = true) : Tab.canon d (t.filter p) = true := by
  simp only [Tab.canon, Bool.and_eq_true, List.all_eq_true] at h ⊢
  exact ⟨Tab.risingFrom_filter p h.1, fun e he => h.2 e (List.mem_of_mem_filter he)⟩

/-! Bit fields -/

theorem testBit_bitsAt (w : Word) (lo width i : Nat) :
    (bitsAt w lo width).testBit i = (decide (i < width) && w.toNat.testBit (lo + i)) := by
  unfold bitsAt
  rw [Nat.testBit_mod_two_pow, Nat.testBit_div_two_pow, Nat.add_comm i lo]

theorem testBit_setBitsAt (w : Word) (lo width v i : Nat) :
    (setBitsAt w lo width v).toNat.testBit i =
      (decide (i < 32) && (if lo ≤ i ∧ i < lo + width then v.testBit (i - lo) else w.toNat.testBit i)) := by
  unfold setBitsAt
  rw [BitVec.toNat_ofNat, Nat.testBit_mod_two_pow]
  by_cases hi : i < 32
  · have h32 : (0xFFFFFFFF : Nat) = 2 ^ 32 - 1 := by norm_num
    simp only [hi, decide_true, Bool.true_and, Nat.testBit_or, Nat.testBit_and, Nat.testBit_xor, Nat.testBit_shiftLeft,
      Nat.testBit_mod_two_pow, Nat.testBit_two_pow_sub_one, h32, ge_iff_le]
    by_cases h1 : lo ≤ i
    · by_cases h2 : i < lo + width
      · have h3 : i - lo < width := by omega
        simp [h1, h2, h3]
      · have h3 : ¬ i - lo < width := by omega
        simp [h2, h3]
    · simp [h1]
  · simp [hi]

/-- A field reads what it was set to, modulo its width. -/
@[simp] theorem bitsAt_setBitsAt (w : Word) (lo width v : Nat) (h : lo + width ≤ 32) :
    bitsAt (setBitsAt w lo width v) lo width = v % 2 ^ width := by
  apply Nat.eq_of_testBit_eq
  intro i
  rw [testBit_bitsAt, testBit_setBitsAt, Nat.testBit_mod_two_pow]
  by_cases hi : i < width
  · have h1 : lo + i < 32 := by omega
    simp [hi, h1]
  · simp [hi]

/-- Setting one field leaves a disjoint one alone. -/
theorem bitsAt_setBitsAt_ne (w : Word) (lo width lo' width' v : Nat)
    (h : lo' + width' ≤ lo ∨ lo + width ≤ lo') : bitsAt (setBitsAt w lo width v) lo' width' = bitsAt w lo' width' := by
  apply Nat.eq_of_testBit_eq
  intro i
  rw [testBit_bitsAt, testBit_bitsAt, testBit_setBitsAt]
  by_cases hi : i < width'
  · have h1 : ¬ (lo ≤ lo' + i ∧ lo' + i < lo + width) := by omega
    rw [if_neg h1]
    by_cases h2 : lo' + i < 32
    · simp [h2]
    · have : w.toNat.testBit (lo' + i) = false :=
        Nat.testBit_lt_two_pow (Nat.lt_of_lt_of_le w.isLt (Nat.pow_le_pow_right (by omega) (by omega)))
      simp [h2, this]
  · simp [hi]

theorem bitsAt_lt (w : Word) (lo width : Nat) : bitsAt w lo width < 2 ^ width := Nat.mod_lt _ (Nat.two_pow_pos _)

end Sys2Proof.Machine
end

