-- ==== Sys2Proof/Laws/State.lean ====
section
/-!
SUPPORT. Sys2Proof/Laws/State.lean: what each update of the state leaves alone, one lemma per field, so that no proof unfolds
a record update; and what a register and a field read after each write.
-/

namespace Sys2Proof.Machine

/-! setWord -/

@[simp] theorem State.setWord_pending (s : State) (a : Nat) (w : Word) :
    (s.setWord a w).pending = s.pending := rfl
@[simp] theorem State.setWord_now (s : State) (a : Nat) (w : Word) :
    (s.setWord a w).now = s.now := rfl
@[simp] theorem State.setWord_free (s : State) (a : Nat) (w : Word) :
    (s.setWord a w).free = s.free := rfl
@[simp] theorem State.setWord_act (s : State) (a : Nat) (w : Word) :
    (s.setWord a w).act = s.act := rfl
@[simp] theorem State.setWord_latch (s : State) (a : Nat) (w : Word) :
    (s.setWord a w).latch = s.latch := rfl
@[simp] theorem State.setWord_arb (s : State) (a : Nat) (w : Word) :
    (s.setWord a w).arb = s.arb := rfl
@[simp] theorem State.setWord_sel (s : State) (a : Nat) (w : Word) :
    (s.setWord a w).sel = s.sel := rfl
@[simp] theorem State.setWord_ports (s : State) (a : Nat) (w : Word) :
    (s.setWord a w).ports = s.ports := rfl
@[simp] theorem State.setWord_round (s : State) (a : Nat) (w : Word) :
    (s.setWord a w).round = s.round := rfl
@[simp] theorem State.setWord_sys (s : State) (a : Nat) (w : Word) :
    (s.setWord a w).sys = s.sys := rfl
@[simp] theorem State.setWord_tim (s : State) (a : Nat) (w : Word) :
    (s.setWord a w).tim = s.tim := rfl
@[simp] theorem State.setWord_clk (s : State) (a : Nat) (w : Word) :
    (s.setWord a w).clk = s.clk := rfl
@[simp] theorem State.setWord_dram (s : State) (a : Nat) (w : Word) :
    (s.setWord a w).dram = s.dram := rfl
@[simp] theorem State.setWord_lanes (s : State) (a : Nat) (w : Word) :
    (s.setWord a w).lanes = s.lanes := rfl
@[simp] theorem State.setWord_igmp (s : State) (a : Nat) (w : Word) :
    (s.setWord a w).igmp = s.igmp := rfl
@[simp] theorem State.setWord_bufs (s : State) (a : Nat) (w : Word) :
    (s.setWord a w).bufs = s.bufs := rfl
@[simp] theorem State.setWord_poolFree (s : State) (a : Nat) (w : Word) :
    (s.setWord a w).poolFree = s.poolFree := rfl
@[simp] theorem State.setWord_bob (s : State) (a : Nat) (w : Word) :
    (s.setWord a w).bob = s.bob := rfl
@[simp] theorem State.setWord_chans (s : State) (a : Nat) (w : Word) :
    (s.setWord a w).chans = s.chans := rfl
@[simp] theorem State.setWord_srcs (s : State) (a : Nat) (w : Word) :
    (s.setWord a w).srcs = s.srcs := rfl
@[simp] theorem State.setWord_engs (s : State) (a : Nat) (w : Word) :
    (s.setWord a w).engs = s.engs := rfl
@[simp] theorem State.setWord_cmps (s : State) (a : Nat) (w : Word) :
    (s.setWord a w).cmps = s.cmps := rfl
@[simp] theorem State.setWord_lyrs (s : State) (a : Nat) (w : Word) :
    (s.setWord a w).lyrs = s.lyrs := rfl
@[simp] theorem State.setWord_est (s : State) (a : Nat) (w : Word) :
    (s.setWord a w).est = s.est := rfl
@[simp] theorem State.setWord_ring (s : State) (a : Nat) (w : Word) :
    (s.setWord a w).ring = s.ring := rfl
@[simp] theorem State.setWord_ains (s : State) (a : Nat) (w : Word) :
    (s.setWord a w).ains = s.ains := rfl
@[simp] theorem State.setWord_aports (s : State) (a : Nat) (w : Word) :
    (s.setWord a w).aports = s.aports := rfl
@[simp] theorem State.setWord_nvm (s : State) (a : Nat) (w : Word) :
    (s.setWord a w).nvm = s.nvm := rfl
@[simp] theorem State.setWord_ckv (s : State) (a : Nat) (w : Word) :
    (s.setWord a w).ckv = s.ckv := rfl
@[simp] theorem State.setWord_timers (s : State) (a : Nat) (w : Word) :
    (s.setWord a w).timers = s.timers := rfl

/-! put -/

@[simp] theorem State.put_pending (s : State) (f : Fld) (v : Nat) :
    (s.put f v).pending = s.pending := rfl
@[simp] theorem State.put_now (s : State) (f : Fld) (v : Nat) :
    (s.put f v).now = s.now := rfl
@[simp] theorem State.put_free (s : State) (f : Fld) (v : Nat) :
    (s.put f v).free = s.free := rfl
@[simp] theorem State.put_act (s : State) (f : Fld) (v : Nat) :
    (s.put f v).act = s.act := rfl
@[simp] theorem State.put_latch (s : State) (f : Fld) (v : Nat) :
    (s.put f v).latch = s.latch := rfl
@[simp] theorem State.put_arb (s : State) (f : Fld) (v : Nat) :
    (s.put f v).arb = s.arb := rfl
@[simp] theorem State.put_sel (s : State) (f : Fld) (v : Nat) :
    (s.put f v).sel = s.sel := rfl
@[simp] theorem State.put_ports (s : State) (f : Fld) (v : Nat) :
    (s.put f v).ports = s.ports := rfl
@[simp] theorem State.put_round (s : State) (f : Fld) (v : Nat) :
    (s.put f v).round = s.round := rfl
@[simp] theorem State.put_sys (s : State) (f : Fld) (v : Nat) :
    (s.put f v).sys = s.sys := rfl
@[simp] theorem State.put_tim (s : State) (f : Fld) (v : Nat) :
    (s.put f v).tim = s.tim := rfl
@[simp] theorem State.put_clk (s : State) (f : Fld) (v : Nat) :
    (s.put f v).clk = s.clk := rfl
@[simp] theorem State.put_dram (s : State) (f : Fld) (v : Nat) :
    (s.put f v).dram = s.dram := rfl
@[simp] theorem State.put_lanes (s : State) (f : Fld) (v : Nat) :
    (s.put f v).lanes = s.lanes := rfl
@[simp] theorem State.put_igmp (s : State) (f : Fld) (v : Nat) :
    (s.put f v).igmp = s.igmp := rfl
@[simp] theorem State.put_bufs (s : State) (f : Fld) (v : Nat) :
    (s.put f v).bufs = s.bufs := rfl
@[simp] theorem State.put_poolFree (s : State) (f : Fld) (v : Nat) :
    (s.put f v).poolFree = s.poolFree := rfl
@[simp] theorem State.put_bob (s : State) (f : Fld) (v : Nat) :
    (s.put f v).bob = s.bob := rfl
@[simp] theorem State.put_chans (s : State) (f : Fld) (v : Nat) :
    (s.put f v).chans = s.chans := rfl
@[simp] theorem State.put_srcs (s : State) (f : Fld) (v : Nat) :
    (s.put f v).srcs = s.srcs := rfl
@[simp] theorem State.put_engs (s : State) (f : Fld) (v : Nat) :
    (s.put f v).engs = s.engs := rfl
@[simp] theorem State.put_cmps (s : State) (f : Fld) (v : Nat) :
    (s.put f v).cmps = s.cmps := rfl
@[simp] theorem State.put_lyrs (s : State) (f : Fld) (v : Nat) :
    (s.put f v).lyrs = s.lyrs := rfl
@[simp] theorem State.put_est (s : State) (f : Fld) (v : Nat) :
    (s.put f v).est = s.est := rfl
@[simp] theorem State.put_ring (s : State) (f : Fld) (v : Nat) :
    (s.put f v).ring = s.ring := rfl
@[simp] theorem State.put_ains (s : State) (f : Fld) (v : Nat) :
    (s.put f v).ains = s.ains := rfl
@[simp] theorem State.put_aports (s : State) (f : Fld) (v : Nat) :
    (s.put f v).aports = s.aports := rfl
@[simp] theorem State.put_nvm (s : State) (f : Fld) (v : Nat) :
    (s.put f v).nvm = s.nvm := rfl
@[simp] theorem State.put_ckv (s : State) (f : Fld) (v : Nat) :
    (s.put f v).ckv = s.ckv := rfl
@[simp] theorem State.put_timers (s : State) (f : Fld) (v : Nat) :
    (s.put f v).timers = s.timers := rfl

/-! flag -/

@[simp] theorem State.flag_pending (s : State) (f : Fld) (b : Bool) :
    (s.flag f b).pending = s.pending := rfl
@[simp] theorem State.flag_now (s : State) (f : Fld) (b : Bool) :
    (s.flag f b).now = s.now := rfl
@[simp] theorem State.flag_free (s : State) (f : Fld) (b : Bool) :
    (s.flag f b).free = s.free := rfl
@[simp] theorem State.flag_act (s : State) (f : Fld) (b : Bool) :
    (s.flag f b).act = s.act := rfl
@[simp] theorem State.flag_latch (s : State) (f : Fld) (b : Bool) :
    (s.flag f b).latch = s.latch := rfl
@[simp] theorem State.flag_arb (s : State) (f : Fld) (b : Bool) :
    (s.flag f b).arb = s.arb := rfl
@[simp] theorem State.flag_sel (s : State) (f : Fld) (b : Bool) :
    (s.flag f b).sel = s.sel := rfl
@[simp] theorem State.flag_ports (s : State) (f : Fld) (b : Bool) :
    (s.flag f b).ports = s.ports := rfl
@[simp] theorem State.flag_round (s : State) (f : Fld) (b : Bool) :
    (s.flag f b).round = s.round := rfl
@[simp] theorem State.flag_sys (s : State) (f : Fld) (b : Bool) :
    (s.flag f b).sys = s.sys := rfl
@[simp] theorem State.flag_tim (s : State) (f : Fld) (b : Bool) :
    (s.flag f b).tim = s.tim := rfl
@[simp] theorem State.flag_clk (s : State) (f : Fld) (b : Bool) :
    (s.flag f b).clk = s.clk := rfl
@[simp] theorem State.flag_dram (s : State) (f : Fld) (b : Bool) :
    (s.flag f b).dram = s.dram := rfl
@[simp] theorem State.flag_lanes (s : State) (f : Fld) (b : Bool) :
    (s.flag f b).lanes = s.lanes := rfl
@[simp] theorem State.flag_igmp (s : State) (f : Fld) (b : Bool) :
    (s.flag f b).igmp = s.igmp := rfl
@[simp] theorem State.flag_bufs (s : State) (f : Fld) (b : Bool) :
    (s.flag f b).bufs = s.bufs := rfl
@[simp] theorem State.flag_poolFree (s : State) (f : Fld) (b : Bool) :
    (s.flag f b).poolFree = s.poolFree := rfl
@[simp] theorem State.flag_bob (s : State) (f : Fld) (b : Bool) :
    (s.flag f b).bob = s.bob := rfl
@[simp] theorem State.flag_chans (s : State) (f : Fld) (b : Bool) :
    (s.flag f b).chans = s.chans := rfl
@[simp] theorem State.flag_srcs (s : State) (f : Fld) (b : Bool) :
    (s.flag f b).srcs = s.srcs := rfl
@[simp] theorem State.flag_engs (s : State) (f : Fld) (b : Bool) :
    (s.flag f b).engs = s.engs := rfl
@[simp] theorem State.flag_cmps (s : State) (f : Fld) (b : Bool) :
    (s.flag f b).cmps = s.cmps := rfl
@[simp] theorem State.flag_lyrs (s : State) (f : Fld) (b : Bool) :
    (s.flag f b).lyrs = s.lyrs := rfl
@[simp] theorem State.flag_est (s : State) (f : Fld) (b : Bool) :
    (s.flag f b).est = s.est := rfl
@[simp] theorem State.flag_ring (s : State) (f : Fld) (b : Bool) :
    (s.flag f b).ring = s.ring := rfl
@[simp] theorem State.flag_ains (s : State) (f : Fld) (b : Bool) :
    (s.flag f b).ains = s.ains := rfl
@[simp] theorem State.flag_aports (s : State) (f : Fld) (b : Bool) :
    (s.flag f b).aports = s.aports := rfl
@[simp] theorem State.flag_nvm (s : State) (f : Fld) (b : Bool) :
    (s.flag f b).nvm = s.nvm := rfl
@[simp] theorem State.flag_ckv (s : State) (f : Fld) (b : Bool) :
    (s.flag f b).ckv = s.ckv := rfl
@[simp] theorem State.flag_timers (s : State) (f : Fld) (b : Bool) :
    (s.flag f b).timers = s.timers := rfl

/-! bump -/

@[simp] theorem State.bump_pending (s : State) (f : Fld) (n : Nat) :
    (s.bump f n).pending = s.pending := rfl
@[simp] theorem State.bump_now (s : State) (f : Fld) (n : Nat) :
    (s.bump f n).now = s.now := rfl
@[simp] theorem State.bump_free (s : State) (f : Fld) (n : Nat) :
    (s.bump f n).free = s.free := rfl
@[simp] theorem State.bump_act (s : State) (f : Fld) (n : Nat) :
    (s.bump f n).act = s.act := rfl
@[simp] theorem State.bump_latch (s : State) (f : Fld) (n : Nat) :
    (s.bump f n).latch = s.latch := rfl
@[simp] theorem State.bump_arb (s : State) (f : Fld) (n : Nat) :
    (s.bump f n).arb = s.arb := rfl
@[simp] theorem State.bump_sel (s : State) (f : Fld) (n : Nat) :
    (s.bump f n).sel = s.sel := rfl
@[simp] theorem State.bump_ports (s : State) (f : Fld) (n : Nat) :
    (s.bump f n).ports = s.ports := rfl
@[simp] theorem State.bump_round (s : State) (f : Fld) (n : Nat) :
    (s.bump f n).round = s.round := rfl
@[simp] theorem State.bump_sys (s : State) (f : Fld) (n : Nat) :
    (s.bump f n).sys = s.sys := rfl
@[simp] theorem State.bump_tim (s : State) (f : Fld) (n : Nat) :
    (s.bump f n).tim = s.tim := rfl
@[simp] theorem State.bump_clk (s : State) (f : Fld) (n : Nat) :
    (s.bump f n).clk = s.clk := rfl
@[simp] theorem State.bump_dram (s : State) (f : Fld) (n : Nat) :
    (s.bump f n).dram = s.dram := rfl
@[simp] theorem State.bump_lanes (s : State) (f : Fld) (n : Nat) :
    (s.bump f n).lanes = s.lanes := rfl
@[simp] theorem State.bump_igmp (s : State) (f : Fld) (n : Nat) :
    (s.bump f n).igmp = s.igmp := rfl
@[simp] theorem State.bump_bufs (s : State) (f : Fld) (n : Nat) :
    (s.bump f n).bufs = s.bufs := rfl
@[simp] theorem State.bump_poolFree (s : State) (f : Fld) (n : Nat) :
    (s.bump f n).poolFree = s.poolFree := rfl
@[simp] theorem State.bump_bob (s : State) (f : Fld) (n : Nat) :
    (s.bump f n).bob = s.bob := rfl
@[simp] theorem State.bump_chans (s : State) (f : Fld) (n : Nat) :
    (s.bump f n).chans = s.chans := rfl
@[simp] theorem State.bump_srcs (s : State) (f : Fld) (n : Nat) :
    (s.bump f n).srcs = s.srcs := rfl
@[simp] theorem State.bump_engs (s : State) (f : Fld) (n : Nat) :
    (s.bump f n).engs = s.engs := rfl
@[simp] theorem State.bump_cmps (s : State) (f : Fld) (n : Nat) :
    (s.bump f n).cmps = s.cmps := rfl
@[simp] theorem State.bump_lyrs (s : State) (f : Fld) (n : Nat) :
    (s.bump f n).lyrs = s.lyrs := rfl
@[simp] theorem State.bump_est (s : State) (f : Fld) (n : Nat) :
    (s.bump f n).est = s.est := rfl
@[simp] theorem State.bump_ring (s : State) (f : Fld) (n : Nat) :
    (s.bump f n).ring = s.ring := rfl
@[simp] theorem State.bump_ains (s : State) (f : Fld) (n : Nat) :
    (s.bump f n).ains = s.ains := rfl
@[simp] theorem State.bump_aports (s : State) (f : Fld) (n : Nat) :
    (s.bump f n).aports = s.aports := rfl
@[simp] theorem State.bump_nvm (s : State) (f : Fld) (n : Nat) :
    (s.bump f n).nvm = s.nvm := rfl
@[simp] theorem State.bump_ckv (s : State) (f : Fld) (n : Nat) :
    (s.bump f n).ckv = s.ckv := rfl
@[simp] theorem State.bump_timers (s : State) (f : Fld) (n : Nat) :
    (s.bump f n).timers = s.timers := rfl

/-! sat -/

@[simp] theorem State.sat_pending (s : State) (f : Fld) (n : Nat) :
    (s.sat f n).pending = s.pending := rfl
@[simp] theorem State.sat_now (s : State) (f : Fld) (n : Nat) :
    (s.sat f n).now = s.now := rfl
@[simp] theorem State.sat_free (s : State) (f : Fld) (n : Nat) :
    (s.sat f n).free = s.free := rfl
@[simp] theorem State.sat_act (s : State) (f : Fld) (n : Nat) :
    (s.sat f n).act = s.act := rfl
@[simp] theorem State.sat_latch (s : State) (f : Fld) (n : Nat) :
    (s.sat f n).latch = s.latch := rfl
@[simp] theorem State.sat_arb (s : State) (f : Fld) (n : Nat) :
    (s.sat f n).arb = s.arb := rfl
@[simp] theorem State.sat_sel (s : State) (f : Fld) (n : Nat) :
    (s.sat f n).sel = s.sel := rfl
@[simp] theorem State.sat_ports (s : State) (f : Fld) (n : Nat) :
    (s.sat f n).ports = s.ports := rfl
@[simp] theorem State.sat_round (s : State) (f : Fld) (n : Nat) :
    (s.sat f n).round = s.round := rfl
@[simp] theorem State.sat_sys (s : State) (f : Fld) (n : Nat) :
    (s.sat f n).sys = s.sys := rfl
@[simp] theorem State.sat_tim (s : State) (f : Fld) (n : Nat) :
    (s.sat f n).tim = s.tim := rfl
@[simp] theorem State.sat_clk (s : State) (f : Fld) (n : Nat) :
    (s.sat f n).clk = s.clk := rfl
@[simp] theorem State.sat_dram (s : State) (f : Fld) (n : Nat) :
    (s.sat f n).dram = s.dram := rfl
@[simp] theorem State.sat_lanes (s : State) (f : Fld) (n : Nat) :
    (s.sat f n).lanes = s.lanes := rfl
@[simp] theorem State.sat_igmp (s : State) (f : Fld) (n : Nat) :
    (s.sat f n).igmp = s.igmp := rfl
@[simp] theorem State.sat_bufs (s : State) (f : Fld) (n : Nat) :
    (s.sat f n).bufs = s.bufs := rfl
@[simp] theorem State.sat_poolFree (s : State) (f : Fld) (n : Nat) :
    (s.sat f n).poolFree = s.poolFree := rfl
@[simp] theorem State.sat_bob (s : State) (f : Fld) (n : Nat) :
    (s.sat f n).bob = s.bob := rfl
@[simp] theorem State.sat_chans (s : State) (f : Fld) (n : Nat) :
    (s.sat f n).chans = s.chans := rfl
@[simp] theorem State.sat_srcs (s : State) (f : Fld) (n : Nat) :
    (s.sat f n).srcs = s.srcs := rfl
@[simp] theorem State.sat_engs (s : State) (f : Fld) (n : Nat) :
    (s.sat f n).engs = s.engs := rfl
@[simp] theorem State.sat_cmps (s : State) (f : Fld) (n : Nat) :
    (s.sat f n).cmps = s.cmps := rfl
@[simp] theorem State.sat_lyrs (s : State) (f : Fld) (n : Nat) :
    (s.sat f n).lyrs = s.lyrs := rfl
@[simp] theorem State.sat_est (s : State) (f : Fld) (n : Nat) :
    (s.sat f n).est = s.est := rfl
@[simp] theorem State.sat_ring (s : State) (f : Fld) (n : Nat) :
    (s.sat f n).ring = s.ring := rfl
@[simp] theorem State.sat_ains (s : State) (f : Fld) (n : Nat) :
    (s.sat f n).ains = s.ains := rfl
@[simp] theorem State.sat_aports (s : State) (f : Fld) (n : Nat) :
    (s.sat f n).aports = s.aports := rfl
@[simp] theorem State.sat_nvm (s : State) (f : Fld) (n : Nat) :
    (s.sat f n).nvm = s.nvm := rfl
@[simp] theorem State.sat_ckv (s : State) (f : Fld) (n : Nat) :
    (s.sat f n).ckv = s.ckv := rfl
@[simp] theorem State.sat_timers (s : State) (f : Fld) (n : Nat) :
    (s.sat f n).timers = s.timers := rfl

/-! peak -/

@[simp] theorem State.peak_pending (s : State) (f : Fld) (n : Nat) :
    (s.peak f n).pending = s.pending := rfl
@[simp] theorem State.peak_now (s : State) (f : Fld) (n : Nat) :
    (s.peak f n).now = s.now := rfl
@[simp] theorem State.peak_free (s : State) (f : Fld) (n : Nat) :
    (s.peak f n).free = s.free := rfl
@[simp] theorem State.peak_act (s : State) (f : Fld) (n : Nat) :
    (s.peak f n).act = s.act := rfl
@[simp] theorem State.peak_latch (s : State) (f : Fld) (n : Nat) :
    (s.peak f n).latch = s.latch := rfl
@[simp] theorem State.peak_arb (s : State) (f : Fld) (n : Nat) :
    (s.peak f n).arb = s.arb := rfl
@[simp] theorem State.peak_sel (s : State) (f : Fld) (n : Nat) :
    (s.peak f n).sel = s.sel := rfl
@[simp] theorem State.peak_ports (s : State) (f : Fld) (n : Nat) :
    (s.peak f n).ports = s.ports := rfl
@[simp] theorem State.peak_round (s : State) (f : Fld) (n : Nat) :
    (s.peak f n).round = s.round := rfl
@[simp] theorem State.peak_sys (s : State) (f : Fld) (n : Nat) :
    (s.peak f n).sys = s.sys := rfl
@[simp] theorem State.peak_tim (s : State) (f : Fld) (n : Nat) :
    (s.peak f n).tim = s.tim := rfl
@[simp] theorem State.peak_clk (s : State) (f : Fld) (n : Nat) :
    (s.peak f n).clk = s.clk := rfl
@[simp] theorem State.peak_dram (s : State) (f : Fld) (n : Nat) :
    (s.peak f n).dram = s.dram := rfl
@[simp] theorem State.peak_lanes (s : State) (f : Fld) (n : Nat) :
    (s.peak f n).lanes = s.lanes := rfl
@[simp] theorem State.peak_igmp (s : State) (f : Fld) (n : Nat) :
    (s.peak f n).igmp = s.igmp := rfl
@[simp] theorem State.peak_bufs (s : State) (f : Fld) (n : Nat) :
    (s.peak f n).bufs = s.bufs := rfl
@[simp] theorem State.peak_poolFree (s : State) (f : Fld) (n : Nat) :
    (s.peak f n).poolFree = s.poolFree := rfl
@[simp] theorem State.peak_bob (s : State) (f : Fld) (n : Nat) :
    (s.peak f n).bob = s.bob := rfl
@[simp] theorem State.peak_chans (s : State) (f : Fld) (n : Nat) :
    (s.peak f n).chans = s.chans := rfl
@[simp] theorem State.peak_srcs (s : State) (f : Fld) (n : Nat) :
    (s.peak f n).srcs = s.srcs := rfl
@[simp] theorem State.peak_engs (s : State) (f : Fld) (n : Nat) :
    (s.peak f n).engs = s.engs := rfl
@[simp] theorem State.peak_cmps (s : State) (f : Fld) (n : Nat) :
    (s.peak f n).cmps = s.cmps := rfl
@[simp] theorem State.peak_lyrs (s : State) (f : Fld) (n : Nat) :
    (s.peak f n).lyrs = s.lyrs := rfl
@[simp] theorem State.peak_est (s : State) (f : Fld) (n : Nat) :
    (s.peak f n).est = s.est := rfl
@[simp] theorem State.peak_ring (s : State) (f : Fld) (n : Nat) :
    (s.peak f n).ring = s.ring := rfl
@[simp] theorem State.peak_ains (s : State) (f : Fld) (n : Nat) :
    (s.peak f n).ains = s.ains := rfl
@[simp] theorem State.peak_aports (s : State) (f : Fld) (n : Nat) :
    (s.peak f n).aports = s.aports := rfl
@[simp] theorem State.peak_nvm (s : State) (f : Fld) (n : Nat) :
    (s.peak f n).nvm = s.nvm := rfl
@[simp] theorem State.peak_ckv (s : State) (f : Fld) (n : Nat) :
    (s.peak f n).ckv = s.ckv := rfl
@[simp] theorem State.peak_timers (s : State) (f : Fld) (n : Nat) :
    (s.peak f n).timers = s.timers := rfl

/-! put64 -/

@[simp] theorem State.put64_pending (s : State) (lo hi v : Nat) :
    (s.put64 lo hi v).pending = s.pending := rfl
@[simp] theorem State.put64_now (s : State) (lo hi v : Nat) :
    (s.put64 lo hi v).now = s.now := rfl
@[simp] theorem State.put64_free (s : State) (lo hi v : Nat) :
    (s.put64 lo hi v).free = s.free := rfl
@[simp] theorem State.put64_act (s : State) (lo hi v : Nat) :
    (s.put64 lo hi v).act = s.act := rfl
@[simp] theorem State.put64_latch (s : State) (lo hi v : Nat) :
    (s.put64 lo hi v).latch = s.latch := rfl
@[simp] theorem State.put64_arb (s : State) (lo hi v : Nat) :
    (s.put64 lo hi v).arb = s.arb := rfl
@[simp] theorem State.put64_sel (s : State) (lo hi v : Nat) :
    (s.put64 lo hi v).sel = s.sel := rfl
@[simp] theorem State.put64_ports (s : State) (lo hi v : Nat) :
    (s.put64 lo hi v).ports = s.ports := rfl
@[simp] theorem State.put64_round (s : State) (lo hi v : Nat) :
    (s.put64 lo hi v).round = s.round := rfl
@[simp] theorem State.put64_sys (s : State) (lo hi v : Nat) :
    (s.put64 lo hi v).sys = s.sys := rfl
@[simp] theorem State.put64_tim (s : State) (lo hi v : Nat) :
    (s.put64 lo hi v).tim = s.tim := rfl
@[simp] theorem State.put64_clk (s : State) (lo hi v : Nat) :
    (s.put64 lo hi v).clk = s.clk := rfl
@[simp] theorem State.put64_dram (s : State) (lo hi v : Nat) :
    (s.put64 lo hi v).dram = s.dram := rfl
@[simp] theorem State.put64_lanes (s : State) (lo hi v : Nat) :
    (s.put64 lo hi v).lanes = s.lanes := rfl
@[simp] theorem State.put64_igmp (s : State) (lo hi v : Nat) :
    (s.put64 lo hi v).igmp = s.igmp := rfl
@[simp] theorem State.put64_bufs (s : State) (lo hi v : Nat) :
    (s.put64 lo hi v).bufs = s.bufs := rfl
@[simp] theorem State.put64_poolFree (s : State) (lo hi v : Nat) :
    (s.put64 lo hi v).poolFree = s.poolFree := rfl
@[simp] theorem State.put64_bob (s : State) (lo hi v : Nat) :
    (s.put64 lo hi v).bob = s.bob := rfl
@[simp] theorem State.put64_chans (s : State) (lo hi v : Nat) :
    (s.put64 lo hi v).chans = s.chans := rfl
@[simp] theorem State.put64_srcs (s : State) (lo hi v : Nat) :
    (s.put64 lo hi v).srcs = s.srcs := rfl
@[simp] theorem State.put64_engs (s : State) (lo hi v : Nat) :
    (s.put64 lo hi v).engs = s.engs := rfl
@[simp] theorem State.put64_cmps (s : State) (lo hi v : Nat) :
    (s.put64 lo hi v).cmps = s.cmps := rfl
@[simp] theorem State.put64_lyrs (s : State) (lo hi v : Nat) :
    (s.put64 lo hi v).lyrs = s.lyrs := rfl
@[simp] theorem State.put64_est (s : State) (lo hi v : Nat) :
    (s.put64 lo hi v).est = s.est := rfl
@[simp] theorem State.put64_ring (s : State) (lo hi v : Nat) :
    (s.put64 lo hi v).ring = s.ring := rfl
@[simp] theorem State.put64_ains (s : State) (lo hi v : Nat) :
    (s.put64 lo hi v).ains = s.ains := rfl
@[simp] theorem State.put64_aports (s : State) (lo hi v : Nat) :
    (s.put64 lo hi v).aports = s.aports := rfl
@[simp] theorem State.put64_nvm (s : State) (lo hi v : Nat) :
    (s.put64 lo hi v).nvm = s.nvm := rfl
@[simp] theorem State.put64_ckv (s : State) (lo hi v : Nat) :
    (s.put64 lo hi v).ckv = s.ckv := rfl
@[simp] theorem State.put64_timers (s : State) (lo hi v : Nat) :
    (s.put64 lo hi v).timers = s.timers := rfl

/-! activate -/

@[simp] theorem State.activate_pending (s : State) (l : List Nat) :
    (s.activate l).pending = s.pending := rfl
@[simp] theorem State.activate_now (s : State) (l : List Nat) :
    (s.activate l).now = s.now := rfl
@[simp] theorem State.activate_free (s : State) (l : List Nat) :
    (s.activate l).free = s.free := rfl
@[simp] theorem State.activate_regs (s : State) (l : List Nat) :
    (s.activate l).regs = s.regs := rfl
@[simp] theorem State.activate_latch (s : State) (l : List Nat) :
    (s.activate l).latch = s.latch := rfl
@[simp] theorem State.activate_arb (s : State) (l : List Nat) :
    (s.activate l).arb = s.arb := rfl
@[simp] theorem State.activate_sel (s : State) (l : List Nat) :
    (s.activate l).sel = s.sel := rfl
@[simp] theorem State.activate_ports (s : State) (l : List Nat) :
    (s.activate l).ports = s.ports := rfl
@[simp] theorem State.activate_round (s : State) (l : List Nat) :
    (s.activate l).round = s.round := rfl
@[simp] theorem State.activate_sys (s : State) (l : List Nat) :
    (s.activate l).sys = s.sys := rfl
@[simp] theorem State.activate_tim (s : State) (l : List Nat) :
    (s.activate l).tim = s.tim := rfl
@[simp] theorem State.activate_clk (s : State) (l : List Nat) :
    (s.activate l).clk = s.clk := rfl
@[simp] theorem State.activate_dram (s : State) (l : List Nat) :
    (s.activate l).dram = s.dram := rfl
@[simp] theorem State.activate_lanes (s : State) (l : List Nat) :
    (s.activate l).lanes = s.lanes := rfl
@[simp] theorem State.activate_igmp (s : State) (l : List Nat) :
    (s.activate l).igmp = s.igmp := rfl
@[simp] theorem State.activate_bufs (s : State) (l : List Nat) :
    (s.activate l).bufs = s.bufs := rfl
@[simp] theorem State.activate_poolFree (s : State) (l : List Nat) :
    (s.activate l).poolFree = s.poolFree := rfl
@[simp] theorem State.activate_bob (s : State) (l : List Nat) :
    (s.activate l).bob = s.bob := rfl
@[simp] theorem State.activate_chans (s : State) (l : List Nat) :
    (s.activate l).chans = s.chans := rfl
@[simp] theorem State.activate_srcs (s : State) (l : List Nat) :
    (s.activate l).srcs = s.srcs := rfl
@[simp] theorem State.activate_engs (s : State) (l : List Nat) :
    (s.activate l).engs = s.engs := rfl
@[simp] theorem State.activate_cmps (s : State) (l : List Nat) :
    (s.activate l).cmps = s.cmps := rfl
@[simp] theorem State.activate_lyrs (s : State) (l : List Nat) :
    (s.activate l).lyrs = s.lyrs := rfl
@[simp] theorem State.activate_est (s : State) (l : List Nat) :
    (s.activate l).est = s.est := rfl
@[simp] theorem State.activate_ring (s : State) (l : List Nat) :
    (s.activate l).ring = s.ring := rfl
@[simp] theorem State.activate_ains (s : State) (l : List Nat) :
    (s.activate l).ains = s.ains := rfl
@[simp] theorem State.activate_aports (s : State) (l : List Nat) :
    (s.activate l).aports = s.aports := rfl
@[simp] theorem State.activate_nvm (s : State) (l : List Nat) :
    (s.activate l).nvm = s.nvm := rfl
@[simp] theorem State.activate_ckv (s : State) (l : List Nat) :
    (s.activate l).ckv = s.ckv := rfl
@[simp] theorem State.activate_timers (s : State) (l : List Nat) :
    (s.activate l).timers = s.timers := rfl

/-! advance -/

@[simp] theorem State.advance_pending (s : State) (t : Nat) :
    (s.advance t).pending = s.pending := by
  unfold State.advance; split
  · rfl
  · split <;> rfl
@[simp] theorem State.advance_free (s : State) (t : Nat) :
    (s.advance t).free = s.free := by
  unfold State.advance; split
  · rfl
  · split <;> rfl
@[simp] theorem State.advance_regs (s : State) (t : Nat) :
    (s.advance t).regs = s.regs := by
  unfold State.advance; split
  · rfl
  · split <;> rfl
@[simp] theorem State.advance_act (s : State) (t : Nat) :
    (s.advance t).act = s.act := by
  unfold State.advance; split
  · rfl
  · split <;> rfl
@[simp] theorem State.advance_latch (s : State) (t : Nat) :
    (s.advance t).latch = s.latch := by
  unfold State.advance; split
  · rfl
  · split <;> rfl
@[simp] theorem State.advance_arb (s : State) (t : Nat) :
    (s.advance t).arb = s.arb := by
  unfold State.advance; split
  · rfl
  · split <;> rfl
@[simp] theorem State.advance_sel (s : State) (t : Nat) :
    (s.advance t).sel = s.sel := by
  unfold State.advance; split
  · rfl
  · split <;> rfl
@[simp] theorem State.advance_ports (s : State) (t : Nat) :
    (s.advance t).ports = s.ports := by
  unfold State.advance; split
  · rfl
  · split <;> rfl
@[simp] theorem State.advance_round (s : State) (t : Nat) :
    (s.advance t).round = s.round := by
  unfold State.advance; split
  · rfl
  · split <;> rfl
@[simp] theorem State.advance_sys (s : State) (t : Nat) :
    (s.advance t).sys = s.sys := by
  unfold State.advance; split
  · rfl
  · split <;> rfl
@[simp] theorem State.advance_clk (s : State) (t : Nat) :
    (s.advance t).clk = s.clk := by
  unfold State.advance; split
  · rfl
  · split <;> rfl
@[simp] theorem State.advance_dram (s : State) (t : Nat) :
    (s.advance t).dram = s.dram := by
  unfold State.advance; split
  · rfl
  · split <;> rfl
@[simp] theorem State.advance_lanes (s : State) (t : Nat) :
    (s.advance t).lanes = s.lanes := by
  unfold State.advance; split
  · rfl
  · split <;> rfl
@[simp] theorem State.advance_igmp (s : State) (t : Nat) :
    (s.advance t).igmp = s.igmp := by
  unfold State.advance; split
  · rfl
  · split <;> rfl
@[simp] theorem State.advance_bufs (s : State) (t : Nat) :
    (s.advance t).bufs = s.bufs := by
  unfold State.advance; split
  · rfl
  · split <;> rfl
@[simp] theorem State.advance_poolFree (s : State) (t : Nat) :
    (s.advance t).poolFree = s.poolFree := by
  unfold State.advance; split
  · rfl
  · split <;> rfl
@[simp] theorem State.advance_bob (s : State) (t : Nat) :
    (s.advance t).bob = s.bob := by
  unfold State.advance; split
  · rfl
  · split <;> rfl
@[simp] theorem State.advance_chans (s : State) (t : Nat) :
    (s.advance t).chans = s.chans := by
  unfold State.advance; split
  · rfl
  · split <;> rfl
@[simp] theorem State.advance_srcs (s : State) (t : Nat) :
    (s.advance t).srcs = s.srcs := by
  unfold State.advance; split
  · rfl
  · split <;> rfl
@[simp] theorem State.advance_engs (s : State) (t : Nat) :
    (s.advance t).engs = s.engs := by
  unfold State.advance; split
  · rfl
  · split <;> rfl
@[simp] theorem State.advance_cmps (s : State) (t : Nat) :
    (s.advance t).cmps = s.cmps := by
  unfold State.advance; split
  · rfl
  · split <;> rfl
@[simp] theorem State.advance_lyrs (s : State) (t : Nat) :
    (s.advance t).lyrs = s.lyrs := by
  unfold State.advance; split
  · rfl
  · split <;> rfl
@[simp] theorem State.advance_est (s : State) (t : Nat) :
    (s.advance t).est = s.est := by
  unfold State.advance; split
  · rfl
  · split <;> rfl
@[simp] theorem State.advance_ring (s : State) (t : Nat) :
    (s.advance t).ring = s.ring := by
  unfold State.advance; split
  · rfl
  · split <;> rfl
@[simp] theorem State.advance_ains (s : State) (t : Nat) :
    (s.advance t).ains = s.ains := by
  unfold State.advance; split
  · rfl
  · split <;> rfl
@[simp] theorem State.advance_aports (s : State) (t : Nat) :
    (s.advance t).aports = s.aports := by
  unfold State.advance; split
  · rfl
  · split <;> rfl
@[simp] theorem State.advance_nvm (s : State) (t : Nat) :
    (s.advance t).nvm = s.nvm := by
  unfold State.advance; split
  · rfl
  · split <;> rfl
@[simp] theorem State.advance_ckv (s : State) (t : Nat) :
    (s.advance t).ckv = s.ckv := by
  unfold State.advance; split
  · rfl
  · split <;> rfl
@[simp] theorem State.advance_timers (s : State) (t : Nat) :
    (s.advance t).timers = s.timers := by
  unfold State.advance; split
  · rfl
  · split <;> rfl

/-! arm -/

@[simp] theorem State.arm_pending (s : State) (k dt : Nat) :
    (s.arm k dt).pending = s.pending := rfl
@[simp] theorem State.arm_now (s : State) (k dt : Nat) :
    (s.arm k dt).now = s.now := rfl
@[simp] theorem State.arm_free (s : State) (k dt : Nat) :
    (s.arm k dt).free = s.free := rfl
@[simp] theorem State.arm_regs (s : State) (k dt : Nat) :
    (s.arm k dt).regs = s.regs := rfl
@[simp] theorem State.arm_act (s : State) (k dt : Nat) :
    (s.arm k dt).act = s.act := rfl
@[simp] theorem State.arm_latch (s : State) (k dt : Nat) :
    (s.arm k dt).latch = s.latch := rfl
@[simp] theorem State.arm_arb (s : State) (k dt : Nat) :
    (s.arm k dt).arb = s.arb := rfl
@[simp] theorem State.arm_sel (s : State) (k dt : Nat) :
    (s.arm k dt).sel = s.sel := rfl
@[simp] theorem State.arm_ports (s : State) (k dt : Nat) :
    (s.arm k dt).ports = s.ports := rfl
@[simp] theorem State.arm_round (s : State) (k dt : Nat) :
    (s.arm k dt).round = s.round := rfl
@[simp] theorem State.arm_sys (s : State) (k dt : Nat) :
    (s.arm k dt).sys = s.sys := rfl
@[simp] theorem State.arm_tim (s : State) (k dt : Nat) :
    (s.arm k dt).tim = s.tim := rfl
@[simp] theorem State.arm_clk (s : State) (k dt : Nat) :
    (s.arm k dt).clk = s.clk := rfl
@[simp] theorem State.arm_dram (s : State) (k dt : Nat) :
    (s.arm k dt).dram = s.dram := rfl
@[simp] theorem State.arm_lanes (s : State) (k dt : Nat) :
    (s.arm k dt).lanes = s.lanes := rfl
@[simp] theorem State.arm_igmp (s : State) (k dt : Nat) :
    (s.arm k dt).igmp = s.igmp := rfl
@[simp] theorem State.arm_bufs (s : State) (k dt : Nat) :
    (s.arm k dt).bufs = s.bufs := rfl
@[simp] theorem State.arm_poolFree (s : State) (k dt : Nat) :
    (s.arm k dt).poolFree = s.poolFree := rfl
@[simp] theorem State.arm_bob (s : State) (k dt : Nat) :
    (s.arm k dt).bob = s.bob := rfl
@[simp] theorem State.arm_chans (s : State) (k dt : Nat) :
    (s.arm k dt).chans = s.chans := rfl
@[simp] theorem State.arm_srcs (s : State) (k dt : Nat) :
    (s.arm k dt).srcs = s.srcs := rfl
@[simp] theorem State.arm_engs (s : State) (k dt : Nat) :
    (s.arm k dt).engs = s.engs := rfl
@[simp] theorem State.arm_cmps (s : State) (k dt : Nat) :
    (s.arm k dt).cmps = s.cmps := rfl
@[simp] theorem State.arm_lyrs (s : State) (k dt : Nat) :
    (s.arm k dt).lyrs = s.lyrs := rfl
@[simp] theorem State.arm_est (s : State) (k dt : Nat) :
    (s.arm k dt).est = s.est := rfl
@[simp] theorem State.arm_ring (s : State) (k dt : Nat) :
    (s.arm k dt).ring = s.ring := rfl
@[simp] theorem State.arm_ains (s : State) (k dt : Nat) :
    (s.arm k dt).ains = s.ains := rfl
@[simp] theorem State.arm_aports (s : State) (k dt : Nat) :
    (s.arm k dt).aports = s.aports := rfl
@[simp] theorem State.arm_nvm (s : State) (k dt : Nat) :
    (s.arm k dt).nvm = s.nvm := rfl
@[simp] theorem State.arm_ckv (s : State) (k dt : Nat) :
    (s.arm k dt).ckv = s.ckv := rfl

/-! disarm -/

@[simp] theorem State.disarm_pending (s : State) (k : Nat) :
    (s.disarm k).pending = s.pending := rfl
@[simp] theorem State.disarm_now (s : State) (k : Nat) :
    (s.disarm k).now = s.now := rfl
@[simp] theorem State.disarm_free (s : State) (k : Nat) :
    (s.disarm k).free = s.free := rfl
@[simp] theorem State.disarm_regs (s : State) (k : Nat) :
    (s.disarm k).regs = s.regs := rfl
@[simp] theorem State.disarm_act (s : State) (k : Nat) :
    (s.disarm k).act = s.act := rfl
@[simp] theorem State.disarm_latch (s : State) (k : Nat) :
    (s.disarm k).latch = s.latch := rfl
@[simp] theorem State.disarm_arb (s : State) (k : Nat) :
    (s.disarm k).arb = s.arb := rfl
@[simp] theorem State.disarm_sel (s : State) (k : Nat) :
    (s.disarm k).sel = s.sel := rfl
@[simp] theorem State.disarm_ports (s : State) (k : Nat) :
    (s.disarm k).ports = s.ports := rfl
@[simp] theorem State.disarm_round (s : State) (k : Nat) :
    (s.disarm k).round = s.round := rfl
@[simp] theorem State.disarm_sys (s : State) (k : Nat) :
    (s.disarm k).sys = s.sys := rfl
@[simp] theorem State.disarm_tim (s : State) (k : Nat) :
    (s.disarm k).tim = s.tim := rfl
@[simp] theorem State.disarm_clk (s : State) (k : Nat) :
    (s.disarm k).clk = s.clk := rfl
@[simp] theorem State.disarm_dram (s : State) (k : Nat) :
    (s.disarm k).dram = s.dram := rfl
@[simp] theorem State.disarm_lanes (s : State) (k : Nat) :
    (s.disarm k).lanes = s.lanes := rfl
@[simp] theorem State.disarm_igmp (s : State) (k : Nat) :
    (s.disarm k).igmp = s.igmp := rfl
@[simp] theorem State.disarm_bufs (s : State) (k : Nat) :
    (s.disarm k).bufs = s.bufs := rfl
@[simp] theorem State.disarm_poolFree (s : State) (k : Nat) :
    (s.disarm k).poolFree = s.poolFree := rfl
@[simp] theorem State.disarm_bob (s : State) (k : Nat) :
    (s.disarm k).bob = s.bob := rfl
@[simp] theorem State.disarm_chans (s : State) (k : Nat) :
    (s.disarm k).chans = s.chans := rfl
@[simp] theorem State.disarm_srcs (s : State) (k : Nat) :
    (s.disarm k).srcs = s.srcs := rfl
@[simp] theorem State.disarm_engs (s : State) (k : Nat) :
    (s.disarm k).engs = s.engs := rfl
@[simp] theorem State.disarm_cmps (s : State) (k : Nat) :
    (s.disarm k).cmps = s.cmps := rfl
@[simp] theorem State.disarm_lyrs (s : State) (k : Nat) :
    (s.disarm k).lyrs = s.lyrs := rfl
@[simp] theorem State.disarm_est (s : State) (k : Nat) :
    (s.disarm k).est = s.est := rfl
@[simp] theorem State.disarm_ring (s : State) (k : Nat) :
    (s.disarm k).ring = s.ring := rfl
@[simp] theorem State.disarm_ains (s : State) (k : Nat) :
    (s.disarm k).ains = s.ains := rfl
@[simp] theorem State.disarm_aports (s : State) (k : Nat) :
    (s.disarm k).aports = s.aports := rfl
@[simp] theorem State.disarm_nvm (s : State) (k : Nat) :
    (s.disarm k).nvm = s.nvm := rfl
@[simp] theorem State.disarm_ckv (s : State) (k : Nat) :
    (s.disarm k).ckv = s.ckv := rfl

/-! openShadow -/

@[simp] theorem State.openShadow_pending (s : State) (o i : Nat) (b : Bool) :
    (s.openShadow o i b).pending = s.pending := rfl
@[simp] theorem State.openShadow_now (s : State) (o i : Nat) (b : Bool) :
    (s.openShadow o i b).now = s.now := rfl
@[simp] theorem State.openShadow_free (s : State) (o i : Nat) (b : Bool) :
    (s.openShadow o i b).free = s.free := rfl
@[simp] theorem State.openShadow_regs (s : State) (o i : Nat) (b : Bool) :
    (s.openShadow o i b).regs = s.regs := rfl
@[simp] theorem State.openShadow_act (s : State) (o i : Nat) (b : Bool) :
    (s.openShadow o i b).act = s.act := rfl
@[simp] theorem State.openShadow_latch (s : State) (o i : Nat) (b : Bool) :
    (s.openShadow o i b).latch = s.latch := rfl
@[simp] theorem State.openShadow_arb (s : State) (o i : Nat) (b : Bool) :
    (s.openShadow o i b).arb = s.arb := rfl
@[simp] theorem State.openShadow_ports (s : State) (o i : Nat) (b : Bool) :
    (s.openShadow o i b).ports = s.ports := rfl
@[simp] theorem State.openShadow_round (s : State) (o i : Nat) (b : Bool) :
    (s.openShadow o i b).round = s.round := rfl
@[simp] theorem State.openShadow_sys (s : State) (o i : Nat) (b : Bool) :
    (s.openShadow o i b).sys = s.sys := rfl
@[simp] theorem State.openShadow_tim (s : State) (o i : Nat) (b : Bool) :
    (s.openShadow o i b).tim = s.tim := rfl
@[simp] theorem State.openShadow_clk (s : State) (o i : Nat) (b : Bool) :
    (s.openShadow o i b).clk = s.clk := rfl
@[simp] theorem State.openShadow_dram (s : State) (o i : Nat) (b : Bool) :
    (s.openShadow o i b).dram = s.dram := rfl
@[simp] theorem State.openShadow_lanes (s : State) (o i : Nat) (b : Bool) :
    (s.openShadow o i b).lanes = s.lanes := rfl
@[simp] theorem State.openShadow_igmp (s : State) (o i : Nat) (b : Bool) :
    (s.openShadow o i b).igmp = s.igmp := rfl
@[simp] theorem State.openShadow_bufs (s : State) (o i : Nat) (b : Bool) :
    (s.openShadow o i b).bufs = s.bufs := rfl
@[simp] theorem State.openShadow_poolFree (s : State) (o i : Nat) (b : Bool) :
    (s.openShadow o i b).poolFree = s.poolFree := rfl
@[simp] theorem State.openShadow_bob (s : State) (o i : Nat) (b : Bool) :
    (s.openShadow o i b).bob = s.bob := rfl
@[simp] theorem State.openShadow_chans (s : State) (o i : Nat) (b : Bool) :
    (s.openShadow o i b).chans = s.chans := rfl
@[simp] theorem State.openShadow_srcs (s : State) (o i : Nat) (b : Bool) :
    (s.openShadow o i b).srcs = s.srcs := rfl
@[simp] theorem State.openShadow_engs (s : State) (o i : Nat) (b : Bool) :
    (s.openShadow o i b).engs = s.engs := rfl
@[simp] theorem State.openShadow_cmps (s : State) (o i : Nat) (b : Bool) :
    (s.openShadow o i b).cmps = s.cmps := rfl
@[simp] theorem State.openShadow_lyrs (s : State) (o i : Nat) (b : Bool) :
    (s.openShadow o i b).lyrs = s.lyrs := rfl
@[simp] theorem State.openShadow_est (s : State) (o i : Nat) (b : Bool) :
    (s.openShadow o i b).est = s.est := rfl
@[simp] theorem State.openShadow_ring (s : State) (o i : Nat) (b : Bool) :
    (s.openShadow o i b).ring = s.ring := rfl
@[simp] theorem State.openShadow_ains (s : State) (o i : Nat) (b : Bool) :
    (s.openShadow o i b).ains = s.ains := rfl
@[simp] theorem State.openShadow_aports (s : State) (o i : Nat) (b : Bool) :
    (s.openShadow o i b).aports = s.aports := rfl
@[simp] theorem State.openShadow_nvm (s : State) (o i : Nat) (b : Bool) :
    (s.openShadow o i b).nvm = s.nvm := rfl
@[simp] theorem State.openShadow_ckv (s : State) (o i : Nat) (b : Bool) :
    (s.openShadow o i b).ckv = s.ckv := rfl
@[simp] theorem State.openShadow_timers (s : State) (o i : Nat) (b : Bool) :
    (s.openShadow o i b).timers = s.timers := rfl

/-! endShadow -/

@[simp] theorem State.endShadow_pending (s : State) (o i : Nat) :
    (s.endShadow o i).pending = s.pending := rfl
@[simp] theorem State.endShadow_now (s : State) (o i : Nat) :
    (s.endShadow o i).now = s.now := rfl
@[simp] theorem State.endShadow_free (s : State) (o i : Nat) :
    (s.endShadow o i).free = s.free := rfl
@[simp] theorem State.endShadow_regs (s : State) (o i : Nat) :
    (s.endShadow o i).regs = s.regs := rfl
@[simp] theorem State.endShadow_act (s : State) (o i : Nat) :
    (s.endShadow o i).act = s.act := rfl
@[simp] theorem State.endShadow_latch (s : State) (o i : Nat) :
    (s.endShadow o i).latch = s.latch := rfl
@[simp] theorem State.endShadow_arb (s : State) (o i : Nat) :
    (s.endShadow o i).arb = s.arb := rfl
@[simp] theorem State.endShadow_ports (s : State) (o i : Nat) :
    (s.endShadow o i).ports = s.ports := rfl
@[simp] theorem State.endShadow_round (s : State) (o i : Nat) :
    (s.endShadow o i).round = s.round := rfl
@[simp] theorem State.endShadow_sys (s : State) (o i : Nat) :
    (s.endShadow o i).sys = s.sys := rfl
@[simp] theorem State.endShadow_tim (s : State) (o i : Nat) :
    (s.endShadow o i).tim = s.tim := rfl
@[simp] theorem State.endShadow_clk (s : State) (o i : Nat) :
    (s.endShadow o i).clk = s.clk := rfl
@[simp] theorem State.endShadow_dram (s : State) (o i : Nat) :
    (s.endShadow o i).dram = s.dram := rfl
@[simp] theorem State.endShadow_lanes (s : State) (o i : Nat) :
    (s.endShadow o i).lanes = s.lanes := rfl
@[simp] theorem State.endShadow_igmp (s : State) (o i : Nat) :
    (s.endShadow o i).igmp = s.igmp := rfl
@[simp] theorem State.endShadow_bufs (s : State) (o i : Nat) :
    (s.endShadow o i).bufs = s.bufs := rfl
@[simp] theorem State.endShadow_poolFree (s : State) (o i : Nat) :
    (s.endShadow o i).poolFree = s.poolFree := rfl
@[simp] theorem State.endShadow_bob (s : State) (o i : Nat) :
    (s.endShadow o i).bob = s.bob := rfl
@[simp] theorem State.endShadow_chans (s : State) (o i : Nat) :
    (s.endShadow o i).chans = s.chans := rfl
@[simp] theorem State.endShadow_srcs (s : State) (o i : Nat) :
    (s.endShadow o i).srcs = s.srcs := rfl
@[simp] theorem State.endShadow_engs (s : State) (o i : Nat) :
    (s.endShadow o i).engs = s.engs := rfl
@[simp] theorem State.endShadow_cmps (s : State) (o i : Nat) :
    (s.endShadow o i).cmps = s.cmps := rfl
@[simp] theorem State.endShadow_lyrs (s : State) (o i : Nat) :
    (s.endShadow o i).lyrs = s.lyrs := rfl
@[simp] theorem State.endShadow_est (s : State) (o i : Nat) :
    (s.endShadow o i).est = s.est := rfl
@[simp] theorem State.endShadow_ring (s : State) (o i : Nat) :
    (s.endShadow o i).ring = s.ring := rfl
@[simp] theorem State.endShadow_ains (s : State) (o i : Nat) :
    (s.endShadow o i).ains = s.ains := rfl
@[simp] theorem State.endShadow_aports (s : State) (o i : Nat) :
    (s.endShadow o i).aports = s.aports := rfl
@[simp] theorem State.endShadow_nvm (s : State) (o i : Nat) :
    (s.endShadow o i).nvm = s.nvm := rfl
@[simp] theorem State.endShadow_ckv (s : State) (o i : Nat) :
    (s.endShadow o i).ckv = s.ckv := rfl

/-! opened -/

@[simp] theorem State.opened_pending (s : State) (e : Ev) :
    (s.opened e).pending = s.pending := by
  unfold State.opened; split
  · rfl
  · dsimp only; split <;> rfl
@[simp] theorem State.opened_now (s : State) (e : Ev) :
    (s.opened e).now = s.now := by
  unfold State.opened; split
  · rfl
  · dsimp only; split <;> rfl
@[simp] theorem State.opened_free (s : State) (e : Ev) :
    (s.opened e).free = s.free := by
  unfold State.opened; split
  · rfl
  · dsimp only; split <;> rfl
@[simp] theorem State.opened_regs (s : State) (e : Ev) :
    (s.opened e).regs = s.regs := by
  unfold State.opened; split
  · rfl
  · dsimp only; split <;> rfl
@[simp] theorem State.opened_act (s : State) (e : Ev) :
    (s.opened e).act = s.act := by
  unfold State.opened; split
  · rfl
  · dsimp only; split <;> rfl
@[simp] theorem State.opened_latch (s : State) (e : Ev) :
    (s.opened e).latch = s.latch := by
  unfold State.opened; split
  · rfl
  · dsimp only; split <;> rfl
@[simp] theorem State.opened_arb (s : State) (e : Ev) :
    (s.opened e).arb = s.arb := by
  unfold State.opened; split
  · rfl
  · dsimp only; split <;> rfl
@[simp] theorem State.opened_ports (s : State) (e : Ev) :
    (s.opened e).ports = s.ports := by
  unfold State.opened; split
  · rfl
  · dsimp only; split <;> rfl
@[simp] theorem State.opened_round (s : State) (e : Ev) :
    (s.opened e).round = s.round := by
  unfold State.opened; split
  · rfl
  · dsimp only; split <;> rfl
@[simp] theorem State.opened_sys (s : State) (e : Ev) :
    (s.opened e).sys = s.sys := by
  unfold State.opened; split
  · rfl
  · dsimp only; split <;> rfl
@[simp] theorem State.opened_tim (s : State) (e : Ev) :
    (s.opened e).tim = s.tim := by
  unfold State.opened; split
  · rfl
  · dsimp only; split <;> rfl
@[simp] theorem State.opened_clk (s : State) (e : Ev) :
    (s.opened e).clk = s.clk := by
  unfold State.opened; split
  · rfl
  · dsimp only; split <;> rfl
@[simp] theorem State.opened_dram (s : State) (e : Ev) :
    (s.opened e).dram = s.dram := by
  unfold State.opened; split
  · rfl
  · dsimp only; split <;> rfl
@[simp] theorem State.opened_lanes (s : State) (e : Ev) :
    (s.opened e).lanes = s.lanes := by
  unfold State.opened; split
  · rfl
  · dsimp only; split <;> rfl
@[simp] theorem State.opened_igmp (s : State) (e : Ev) :
    (s.opened e).igmp = s.igmp := by
  unfold State.opened; split
  · rfl
  · dsimp only; split <;> rfl
@[simp] theorem State.opened_bufs (s : State) (e : Ev) :
    (s.opened e).bufs = s.bufs := by
  unfold State.opened; split
  · rfl
  · dsimp only; split <;> rfl
@[simp] theorem State.opened_poolFree (s : State) (e : Ev) :
    (s.opened e).poolFree = s.poolFree := by
  unfold State.opened; split
  · rfl
  · dsimp only; split <;> rfl
@[simp] theorem State.opened_bob (s : State) (e : Ev) :
    (s.opened e).bob = s.bob := by
  unfold State.opened; split
  · rfl
  · dsimp only; split <;> rfl
@[simp] theorem State.opened_chans (s : State) (e : Ev) :
    (s.opened e).chans = s.chans := by
  unfold State.opened; split
  · rfl
  · dsimp only; split <;> rfl
@[simp] theorem State.opened_srcs (s : State) (e : Ev) :
    (s.opened e).srcs = s.srcs := by
  unfold State.opened; split
  · rfl
  · dsimp only; split <;> rfl
@[simp] theorem State.opened_engs (s : State) (e : Ev) :
    (s.opened e).engs = s.engs := by
  unfold State.opened; split
  · rfl
  · dsimp only; split <;> rfl
@[simp] theorem State.opened_cmps (s : State) (e : Ev) :
    (s.opened e).cmps = s.cmps := by
  unfold State.opened; split
  · rfl
  · dsimp only; split <;> rfl
@[simp] theorem State.opened_lyrs (s : State) (e : Ev) :
    (s.opened e).lyrs = s.lyrs := by
  unfold State.opened; split
  · rfl
  · dsimp only; split <;> rfl
@[simp] theorem State.opened_est (s : State) (e : Ev) :
    (s.opened e).est = s.est := by
  unfold State.opened; split
  · rfl
  · dsimp only; split <;> rfl
@[simp] theorem State.opened_ring (s : State) (e : Ev) :
    (s.opened e).ring = s.ring := by
  unfold State.opened; split
  · rfl
  · dsimp only; split <;> rfl
@[simp] theorem State.opened_ains (s : State) (e : Ev) :
    (s.opened e).ains = s.ains := by
  unfold State.opened; split
  · rfl
  · dsimp only; split <;> rfl
@[simp] theorem State.opened_aports (s : State) (e : Ev) :
    (s.opened e).aports = s.aports := by
  unfold State.opened; split
  · rfl
  · dsimp only; split <;> rfl
@[simp] theorem State.opened_nvm (s : State) (e : Ev) :
    (s.opened e).nvm = s.nvm := by
  unfold State.opened; split
  · rfl
  · dsimp only; split <;> rfl
@[simp] theorem State.opened_ckv (s : State) (e : Ev) :
    (s.opened e).ckv = s.ckv := by
  unfold State.opened; split
  · rfl
  · dsimp only; split <;> rfl

/-! emit -/

@[simp] theorem State.emit_pending (s : State) (e : Ev) :
    (s.emit e).pending = s.pending := by unfold State.emit; split <;> simp
@[simp] theorem State.emit_now (s : State) (e : Ev) :
    (s.emit e).now = s.now := by unfold State.emit; split <;> simp
@[simp] theorem State.emit_free (s : State) (e : Ev) :
    (s.emit e).free = s.free := by unfold State.emit; split <;> simp
@[simp] theorem State.emit_act (s : State) (e : Ev) :
    (s.emit e).act = s.act := by unfold State.emit; split <;> simp
@[simp] theorem State.emit_latch (s : State) (e : Ev) :
    (s.emit e).latch = s.latch := by unfold State.emit; split <;> simp
@[simp] theorem State.emit_ports (s : State) (e : Ev) :
    (s.emit e).ports = s.ports := by unfold State.emit; split <;> simp
@[simp] theorem State.emit_round (s : State) (e : Ev) :
    (s.emit e).round = s.round := by unfold State.emit; split <;> simp
@[simp] theorem State.emit_sys (s : State) (e : Ev) :
    (s.emit e).sys = s.sys := by unfold State.emit; split <;> simp
@[simp] theorem State.emit_tim (s : State) (e : Ev) :
    (s.emit e).tim = s.tim := by unfold State.emit; split <;> simp
@[simp] theorem State.emit_clk (s : State) (e : Ev) :
    (s.emit e).clk = s.clk := by unfold State.emit; split <;> simp
@[simp] theorem State.emit_dram (s : State) (e : Ev) :
    (s.emit e).dram = s.dram := by unfold State.emit; split <;> simp
@[simp] theorem State.emit_lanes (s : State) (e : Ev) :
    (s.emit e).lanes = s.lanes := by unfold State.emit; split <;> simp
@[simp] theorem State.emit_igmp (s : State) (e : Ev) :
    (s.emit e).igmp = s.igmp := by unfold State.emit; split <;> simp
@[simp] theorem State.emit_bufs (s : State) (e : Ev) :
    (s.emit e).bufs = s.bufs := by unfold State.emit; split <;> simp
@[simp] theorem State.emit_poolFree (s : State) (e : Ev) :
    (s.emit e).poolFree = s.poolFree := by unfold State.emit; split <;> simp
@[simp] theorem State.emit_bob (s : State) (e : Ev) :
    (s.emit e).bob = s.bob := by unfold State.emit; split <;> simp
@[simp] theorem State.emit_chans (s : State) (e : Ev) :
    (s.emit e).chans = s.chans := by unfold State.emit; split <;> simp
@[simp] theorem State.emit_srcs (s : State) (e : Ev) :
    (s.emit e).srcs = s.srcs := by unfold State.emit; split <;> simp
@[simp] theorem State.emit_engs (s : State) (e : Ev) :
    (s.emit e).engs = s.engs := by unfold State.emit; split <;> simp
@[simp] theorem State.emit_cmps (s : State) (e : Ev) :
    (s.emit e).cmps = s.cmps := by unfold State.emit; split <;> simp
@[simp] theorem State.emit_lyrs (s : State) (e : Ev) :
    (s.emit e).lyrs = s.lyrs := by unfold State.emit; split <;> simp
@[simp] theorem State.emit_est (s : State) (e : Ev) :
    (s.emit e).est = s.est := by unfold State.emit; split <;> simp
@[simp] theorem State.emit_ring (s : State) (e : Ev) :
    (s.emit e).ring = s.ring := by unfold State.emit; split <;> simp
@[simp] theorem State.emit_ains (s : State) (e : Ev) :
    (s.emit e).ains = s.ains := by unfold State.emit; split <;> simp
@[simp] theorem State.emit_aports (s : State) (e : Ev) :
    (s.emit e).aports = s.aports := by unfold State.emit; split <;> simp
@[simp] theorem State.emit_nvm (s : State) (e : Ev) :
    (s.emit e).nvm = s.nvm := by unfold State.emit; split <;> simp
@[simp] theorem State.emit_ckv (s : State) (e : Ev) :
    (s.emit e).ckv = s.ckv := by unfold State.emit; split <;> simp

/-! arrive -/

@[simp] theorem State.arrive_pending (s : State) (e : Ev) :
    (s.arrive e).pending = s.pending := by unfold State.arrive; split <;> simp
@[simp] theorem State.arrive_now (s : State) (e : Ev) :
    (s.arrive e).now = s.now := by unfold State.arrive; split <;> simp
@[simp] theorem State.arrive_free (s : State) (e : Ev) :
    (s.arrive e).free = s.free := by unfold State.arrive; split <;> simp
@[simp] theorem State.arrive_act (s : State) (e : Ev) :
    (s.arrive e).act = s.act := by unfold State.arrive; split <;> simp
@[simp] theorem State.arrive_latch (s : State) (e : Ev) :
    (s.arrive e).latch = s.latch := by unfold State.arrive; split <;> simp
@[simp] theorem State.arrive_ports (s : State) (e : Ev) :
    (s.arrive e).ports = s.ports := by unfold State.arrive; split <;> simp
@[simp] theorem State.arrive_round (s : State) (e : Ev) :
    (s.arrive e).round = s.round := by unfold State.arrive; split <;> simp
@[simp] theorem State.arrive_sys (s : State) (e : Ev) :
    (s.arrive e).sys = s.sys := by unfold State.arrive; split <;> simp
@[simp] theorem State.arrive_tim (s : State) (e : Ev) :
    (s.arrive e).tim = s.tim := by unfold State.arrive; split <;> simp
@[simp] theorem State.arrive_clk (s : State) (e : Ev) :
    (s.arrive e).clk = s.clk := by unfold State.arrive; split <;> simp
@[simp] theorem State.arrive_dram (s : State) (e : Ev) :
    (s.arrive e).dram = s.dram := by unfold State.arrive; split <;> simp
@[simp] theorem State.arrive_lanes (s : State) (e : Ev) :
    (s.arrive e).lanes = s.lanes := by unfold State.arrive; split <;> simp
@[simp] theorem State.arrive_igmp (s : State) (e : Ev) :
    (s.arrive e).igmp = s.igmp := by unfold State.arrive; split <;> simp
@[simp] theorem State.arrive_bufs (s : State) (e : Ev) :
    (s.arrive e).bufs = s.bufs := by unfold State.arrive; split <;> simp
@[simp] theorem State.arrive_poolFree (s : State) (e : Ev) :
    (s.arrive e).poolFree = s.poolFree := by unfold State.arrive; split <;> simp
@[simp] theorem State.arrive_bob (s : State) (e : Ev) :
    (s.arrive e).bob = s.bob := by unfold State.arrive; split <;> simp
@[simp] theorem State.arrive_chans (s : State) (e : Ev) :
    (s.arrive e).chans = s.chans := by unfold State.arrive; split <;> simp
@[simp] theorem State.arrive_srcs (s : State) (e : Ev) :
    (s.arrive e).srcs = s.srcs := by unfold State.arrive; split <;> simp
@[simp] theorem State.arrive_engs (s : State) (e : Ev) :
    (s.arrive e).engs = s.engs := by unfold State.arrive; split <;> simp
@[simp] theorem State.arrive_cmps (s : State) (e : Ev) :
    (s.arrive e).cmps = s.cmps := by unfold State.arrive; split <;> simp
@[simp] theorem State.arrive_lyrs (s : State) (e : Ev) :
    (s.arrive e).lyrs = s.lyrs := by unfold State.arrive; split <;> simp
@[simp] theorem State.arrive_est (s : State) (e : Ev) :
    (s.arrive e).est = s.est := by unfold State.arrive; split <;> simp
@[simp] theorem State.arrive_ring (s : State) (e : Ev) :
    (s.arrive e).ring = s.ring := by unfold State.arrive; split <;> simp
@[simp] theorem State.arrive_ains (s : State) (e : Ev) :
    (s.arrive e).ains = s.ains := by unfold State.arrive; split <;> simp
@[simp] theorem State.arrive_aports (s : State) (e : Ev) :
    (s.arrive e).aports = s.aports := by unfold State.arrive; split <;> simp
@[simp] theorem State.arrive_nvm (s : State) (e : Ev) :
    (s.arrive e).nvm = s.nvm := by unfold State.arrive; split <;> simp
@[simp] theorem State.arrive_ckv (s : State) (e : Ev) :
    (s.arrive e).ckv = s.ckv := by unfold State.arrive; split <;> simp

/-! stateEv -/

@[simp] theorem State.stateEv_pending (s : State) (i e n d : Nat) :
    (s.stateEv i e n d).pending = s.pending := by simp [State.stateEv]
@[simp] theorem State.stateEv_now (s : State) (i e n d : Nat) :
    (s.stateEv i e n d).now = s.now := by simp [State.stateEv]
@[simp] theorem State.stateEv_free (s : State) (i e n d : Nat) :
    (s.stateEv i e n d).free = s.free := by simp [State.stateEv]
@[simp] theorem State.stateEv_act (s : State) (i e n d : Nat) :
    (s.stateEv i e n d).act = s.act := by simp [State.stateEv]
@[simp] theorem State.stateEv_latch (s : State) (i e n d : Nat) :
    (s.stateEv i e n d).latch = s.latch := by simp [State.stateEv]
@[simp] theorem State.stateEv_ports (s : State) (i e n d : Nat) :
    (s.stateEv i e n d).ports = s.ports := by simp [State.stateEv]
@[simp] theorem State.stateEv_round (s : State) (i e n d : Nat) :
    (s.stateEv i e n d).round = s.round := by simp [State.stateEv]
@[simp] theorem State.stateEv_sys (s : State) (i e n d : Nat) :
    (s.stateEv i e n d).sys = s.sys := by simp [State.stateEv]
@[simp] theorem State.stateEv_tim (s : State) (i e n d : Nat) :
    (s.stateEv i e n d).tim = s.tim := by simp [State.stateEv]
@[simp] theorem State.stateEv_clk (s : State) (i e n d : Nat) :
    (s.stateEv i e n d).clk = s.clk := by simp [State.stateEv]
@[simp] theorem State.stateEv_dram (s : State) (i e n d : Nat) :
    (s.stateEv i e n d).dram = s.dram := by simp [State.stateEv]
@[simp] theorem State.stateEv_lanes (s : State) (i e n d : Nat) :
    (s.stateEv i e n d).lanes = s.lanes := by simp [State.stateEv]
@[simp] theorem State.stateEv_igmp (s : State) (i e n d : Nat) :
    (s.stateEv i e n d).igmp = s.igmp := by simp [State.stateEv]
@[simp] theorem State.stateEv_bufs (s : State) (i e n d : Nat) :
    (s.stateEv i e n d).bufs = s.bufs := by simp [State.stateEv]
@[simp] theorem State.stateEv_poolFree (s : State) (i e n d : Nat) :
    (s.stateEv i e n d).poolFree = s.poolFree := by simp [State.stateEv]
@[simp] theorem State.stateEv_bob (s : State) (i e n d : Nat) :
    (s.stateEv i e n d).bob = s.bob := by simp [State.stateEv]
@[simp] theorem State.stateEv_chans (s : State) (i e n d : Nat) :
    (s.stateEv i e n d).chans = s.chans := by simp [State.stateEv]
@[simp] theorem State.stateEv_srcs (s : State) (i e n d : Nat) :
    (s.stateEv i e n d).srcs = s.srcs := by simp [State.stateEv]
@[simp] theorem State.stateEv_engs (s : State) (i e n d : Nat) :
    (s.stateEv i e n d).engs = s.engs := by simp [State.stateEv]
@[simp] theorem State.stateEv_cmps (s : State) (i e n d : Nat) :
    (s.stateEv i e n d).cmps = s.cmps := by simp [State.stateEv]
@[simp] theorem State.stateEv_lyrs (s : State) (i e n d : Nat) :
    (s.stateEv i e n d).lyrs = s.lyrs := by simp [State.stateEv]
@[simp] theorem State.stateEv_est (s : State) (i e n d : Nat) :
    (s.stateEv i e n d).est = s.est := by simp [State.stateEv]
@[simp] theorem State.stateEv_ring (s : State) (i e n d : Nat) :
    (s.stateEv i e n d).ring = s.ring := by simp [State.stateEv]
@[simp] theorem State.stateEv_ains (s : State) (i e n d : Nat) :
    (s.stateEv i e n d).ains = s.ains := by simp [State.stateEv]
@[simp] theorem State.stateEv_aports (s : State) (i e n d : Nat) :
    (s.stateEv i e n d).aports = s.aports := by simp [State.stateEv]
@[simp] theorem State.stateEv_nvm (s : State) (i e n d : Nat) :
    (s.stateEv i e n d).nvm = s.nvm := by simp [State.stateEv]
@[simp] theorem State.stateEv_ckv (s : State) (i e n d : Nat) :
    (s.stateEv i e n d).ckv = s.ckv := by simp [State.stateEv]

/-! refusalEv -/

@[simp] theorem State.refusalEv_pending (s : State) (i e n d : Nat) :
    (s.refusalEv i e n d).pending = s.pending := by simp [State.refusalEv]
@[simp] theorem State.refusalEv_now (s : State) (i e n d : Nat) :
    (s.refusalEv i e n d).now = s.now := by simp [State.refusalEv]
@[simp] theorem State.refusalEv_free (s : State) (i e n d : Nat) :
    (s.refusalEv i e n d).free = s.free := by simp [State.refusalEv]
@[simp] theorem State.refusalEv_act (s : State) (i e n d : Nat) :
    (s.refusalEv i e n d).act = s.act := by simp [State.refusalEv]
@[simp] theorem State.refusalEv_latch (s : State) (i e n d : Nat) :
    (s.refusalEv i e n d).latch = s.latch := by simp [State.refusalEv]
@[simp] theorem State.refusalEv_ports (s : State) (i e n d : Nat) :
    (s.refusalEv i e n d).ports = s.ports := by simp [State.refusalEv]
@[simp] theorem State.refusalEv_round (s : State) (i e n d : Nat) :
    (s.refusalEv i e n d).round = s.round := by simp [State.refusalEv]
@[simp] theorem State.refusalEv_sys (s : State) (i e n d : Nat) :
    (s.refusalEv i e n d).sys = s.sys := by simp [State.refusalEv]
@[simp] theorem State.refusalEv_tim (s : State) (i e n d : Nat) :
    (s.refusalEv i e n d).tim = s.tim := by simp [State.refusalEv]
@[simp] theorem State.refusalEv_clk (s : State) (i e n d : Nat) :
    (s.refusalEv i e n d).clk = s.clk := by simp [State.refusalEv]
@[simp] theorem State.refusalEv_dram (s : State) (i e n d : Nat) :
    (s.refusalEv i e n d).dram = s.dram := by simp [State.refusalEv]
@[simp] theorem State.refusalEv_lanes (s : State) (i e n d : Nat) :
    (s.refusalEv i e n d).lanes = s.lanes := by simp [State.refusalEv]
@[simp] theorem State.refusalEv_igmp (s : State) (i e n d : Nat) :
    (s.refusalEv i e n d).igmp = s.igmp := by simp [State.refusalEv]
@[simp] theorem State.refusalEv_bufs (s : State) (i e n d : Nat) :
    (s.refusalEv i e n d).bufs = s.bufs := by simp [State.refusalEv]
@[simp] theorem State.refusalEv_poolFree (s : State) (i e n d : Nat) :
    (s.refusalEv i e n d).poolFree = s.poolFree := by simp [State.refusalEv]
@[simp] theorem State.refusalEv_bob (s : State) (i e n d : Nat) :
    (s.refusalEv i e n d).bob = s.bob := by simp [State.refusalEv]
@[simp] theorem State.refusalEv_chans (s : State) (i e n d : Nat) :
    (s.refusalEv i e n d).chans = s.chans := by simp [State.refusalEv]
@[simp] theorem State.refusalEv_srcs (s : State) (i e n d : Nat) :
    (s.refusalEv i e n d).srcs = s.srcs := by simp [State.refusalEv]
@[simp] theorem State.refusalEv_engs (s : State) (i e n d : Nat) :
    (s.refusalEv i e n d).engs = s.engs := by simp [State.refusalEv]
@[simp] theorem State.refusalEv_cmps (s : State) (i e n d : Nat) :
    (s.refusalEv i e n d).cmps = s.cmps := by simp [State.refusalEv]
@[simp] theorem State.refusalEv_lyrs (s : State) (i e n d : Nat) :
    (s.refusalEv i e n d).lyrs = s.lyrs := by simp [State.refusalEv]
@[simp] theorem State.refusalEv_est (s : State) (i e n d : Nat) :
    (s.refusalEv i e n d).est = s.est := by simp [State.refusalEv]
@[simp] theorem State.refusalEv_ring (s : State) (i e n d : Nat) :
    (s.refusalEv i e n d).ring = s.ring := by simp [State.refusalEv]
@[simp] theorem State.refusalEv_ains (s : State) (i e n d : Nat) :
    (s.refusalEv i e n d).ains = s.ains := by simp [State.refusalEv]
@[simp] theorem State.refusalEv_aports (s : State) (i e n d : Nat) :
    (s.refusalEv i e n d).aports = s.aports := by simp [State.refusalEv]
@[simp] theorem State.refusalEv_nvm (s : State) (i e n d : Nat) :
    (s.refusalEv i e n d).nvm = s.nvm := by simp [State.refusalEv]
@[simp] theorem State.refusalEv_ckv (s : State) (i e n d : Nat) :
    (s.refusalEv i e n d).ckv = s.ckv := by simp [State.refusalEv]

/-! raise -/

@[simp] theorem State.raise_pending (s : State) (c : Nat) :
    (s.raise c).pending = s.pending := rfl
@[simp] theorem State.raise_now (s : State) (c : Nat) :
    (s.raise c).now = s.now := rfl
@[simp] theorem State.raise_free (s : State) (c : Nat) :
    (s.raise c).free = s.free := rfl
@[simp] theorem State.raise_regs (s : State) (c : Nat) :
    (s.raise c).regs = s.regs := rfl
@[simp] theorem State.raise_act (s : State) (c : Nat) :
    (s.raise c).act = s.act := rfl
@[simp] theorem State.raise_latch (s : State) (c : Nat) :
    (s.raise c).latch = s.latch := rfl
@[simp] theorem State.raise_arb (s : State) (c : Nat) :
    (s.raise c).arb = s.arb := rfl
@[simp] theorem State.raise_ports (s : State) (c : Nat) :
    (s.raise c).ports = s.ports := rfl
@[simp] theorem State.raise_round (s : State) (c : Nat) :
    (s.raise c).round = s.round := rfl
@[simp] theorem State.raise_sys (s : State) (c : Nat) :
    (s.raise c).sys = s.sys := rfl
@[simp] theorem State.raise_tim (s : State) (c : Nat) :
    (s.raise c).tim = s.tim := rfl
@[simp] theorem State.raise_clk (s : State) (c : Nat) :
    (s.raise c).clk = s.clk := rfl
@[simp] theorem State.raise_dram (s : State) (c : Nat) :
    (s.raise c).dram = s.dram := rfl
@[simp] theorem State.raise_lanes (s : State) (c : Nat) :
    (s.raise c).lanes = s.lanes := rfl
@[simp] theorem State.raise_igmp (s : State) (c : Nat) :
    (s.raise c).igmp = s.igmp := rfl
@[simp] theorem State.raise_bufs (s : State) (c : Nat) :
    (s.raise c).bufs = s.bufs := rfl
@[simp] theorem State.raise_poolFree (s : State) (c : Nat) :
    (s.raise c).poolFree = s.poolFree := rfl
@[simp] theorem State.raise_bob (s : State) (c : Nat) :
    (s.raise c).bob = s.bob := rfl
@[simp] theorem State.raise_chans (s : State) (c : Nat) :
    (s.raise c).chans = s.chans := rfl
@[simp] theorem State.raise_srcs (s : State) (c : Nat) :
    (s.raise c).srcs = s.srcs := rfl
@[simp] theorem State.raise_engs (s : State) (c : Nat) :
    (s.raise c).engs = s.engs := rfl
@[simp] theorem State.raise_cmps (s : State) (c : Nat) :
    (s.raise c).cmps = s.cmps := rfl
@[simp] theorem State.raise_lyrs (s : State) (c : Nat) :
    (s.raise c).lyrs = s.lyrs := rfl
@[simp] theorem State.raise_est (s : State) (c : Nat) :
    (s.raise c).est = s.est := rfl
@[simp] theorem State.raise_ring (s : State) (c : Nat) :
    (s.raise c).ring = s.ring := rfl
@[simp] theorem State.raise_ains (s : State) (c : Nat) :
    (s.raise c).ains = s.ains := rfl
@[simp] theorem State.raise_aports (s : State) (c : Nat) :
    (s.raise c).aports = s.aports := rfl
@[simp] theorem State.raise_nvm (s : State) (c : Nat) :
    (s.raise c).nvm = s.nvm := rfl
@[simp] theorem State.raise_ckv (s : State) (c : Nat) :
    (s.raise c).ckv = s.ckv := rfl
@[simp] theorem State.raise_timers (s : State) (c : Nat) :
    (s.raise c).timers = s.timers := rfl

/-! raiseLevel -/

@[simp] theorem State.raiseLevel_pending (s : State) (c : Nat) :
    (s.raiseLevel c).pending = s.pending := rfl
@[simp] theorem State.raiseLevel_now (s : State) (c : Nat) :
    (s.raiseLevel c).now = s.now := rfl
@[simp] theorem State.raiseLevel_free (s : State) (c : Nat) :
    (s.raiseLevel c).free = s.free := rfl
@[simp] theorem State.raiseLevel_act (s : State) (c : Nat) :
    (s.raiseLevel c).act = s.act := rfl
@[simp] theorem State.raiseLevel_latch (s : State) (c : Nat) :
    (s.raiseLevel c).latch = s.latch := rfl
@[simp] theorem State.raiseLevel_arb (s : State) (c : Nat) :
    (s.raiseLevel c).arb = s.arb := rfl
@[simp] theorem State.raiseLevel_ports (s : State) (c : Nat) :
    (s.raiseLevel c).ports = s.ports := rfl
@[simp] theorem State.raiseLevel_round (s : State) (c : Nat) :
    (s.raiseLevel c).round = s.round := rfl
@[simp] theorem State.raiseLevel_sys (s : State) (c : Nat) :
    (s.raiseLevel c).sys = s.sys := rfl
@[simp] theorem State.raiseLevel_tim (s : State) (c : Nat) :
    (s.raiseLevel c).tim = s.tim := rfl
@[simp] theorem State.raiseLevel_clk (s : State) (c : Nat) :
    (s.raiseLevel c).clk = s.clk := rfl
@[simp] theorem State.raiseLevel_dram (s : State) (c : Nat) :
    (s.raiseLevel c).dram = s.dram := rfl
@[simp] theorem State.raiseLevel_lanes (s : State) (c : Nat) :
    (s.raiseLevel c).lanes = s.lanes := rfl
@[simp] theorem State.raiseLevel_igmp (s : State) (c : Nat) :
    (s.raiseLevel c).igmp = s.igmp := rfl
@[simp] theorem State.raiseLevel_bufs (s : State) (c : Nat) :
    (s.raiseLevel c).bufs = s.bufs := rfl
@[simp] theorem State.raiseLevel_poolFree (s : State) (c : Nat) :
    (s.raiseLevel c).poolFree = s.poolFree := rfl
@[simp] theorem State.raiseLevel_bob (s : State) (c : Nat) :
    (s.raiseLevel c).bob = s.bob := rfl
@[simp] theorem State.raiseLevel_chans (s : State) (c : Nat) :
    (s.raiseLevel c).chans = s.chans := rfl
@[simp] theorem State.raiseLevel_srcs (s : State) (c : Nat) :
    (s.raiseLevel c).srcs = s.srcs := rfl
@[simp] theorem State.raiseLevel_engs (s : State) (c : Nat) :
    (s.raiseLevel c).engs = s.engs := rfl
@[simp] theorem State.raiseLevel_cmps (s : State) (c : Nat) :
    (s.raiseLevel c).cmps = s.cmps := rfl
@[simp] theorem State.raiseLevel_lyrs (s : State) (c : Nat) :
    (s.raiseLevel c).lyrs = s.lyrs := rfl
@[simp] theorem State.raiseLevel_est (s : State) (c : Nat) :
    (s.raiseLevel c).est = s.est := rfl
@[simp] theorem State.raiseLevel_ring (s : State) (c : Nat) :
    (s.raiseLevel c).ring = s.ring := rfl
@[simp] theorem State.raiseLevel_ains (s : State) (c : Nat) :
    (s.raiseLevel c).ains = s.ains := rfl
@[simp] theorem State.raiseLevel_aports (s : State) (c : Nat) :
    (s.raiseLevel c).aports = s.aports := rfl
@[simp] theorem State.raiseLevel_nvm (s : State) (c : Nat) :
    (s.raiseLevel c).nvm = s.nvm := rfl
@[simp] theorem State.raiseLevel_ckv (s : State) (c : Nat) :
    (s.raiseLevel c).ckv = s.ckv := rfl
@[simp] theorem State.raiseLevel_timers (s : State) (c : Nat) :
    (s.raiseLevel c).timers = s.timers := rfl

/-! unraise -/

@[simp] theorem State.unraise_pending (s : State) (c : Nat) :
    (s.unraise c).pending = s.pending := rfl
@[simp] theorem State.unraise_now (s : State) (c : Nat) :
    (s.unraise c).now = s.now := rfl
@[simp] theorem State.unraise_free (s : State) (c : Nat) :
    (s.unraise c).free = s.free := rfl
@[simp] theorem State.unraise_act (s : State) (c : Nat) :
    (s.unraise c).act = s.act := rfl
@[simp] theorem State.unraise_latch (s : State) (c : Nat) :
    (s.unraise c).latch = s.latch := rfl
@[simp] theorem State.unraise_arb (s : State) (c : Nat) :
    (s.unraise c).arb = s.arb := rfl
@[simp] theorem State.unraise_sel (s : State) (c : Nat) :
    (s.unraise c).sel = s.sel := rfl
@[simp] theorem State.unraise_ports (s : State) (c : Nat) :
    (s.unraise c).ports = s.ports := rfl
@[simp] theorem State.unraise_round (s : State) (c : Nat) :
    (s.unraise c).round = s.round := rfl
@[simp] theorem State.unraise_sys (s : State) (c : Nat) :
    (s.unraise c).sys = s.sys := rfl
@[simp] theorem State.unraise_tim (s : State) (c : Nat) :
    (s.unraise c).tim = s.tim := rfl
@[simp] theorem State.unraise_clk (s : State) (c : Nat) :
    (s.unraise c).clk = s.clk := rfl
@[simp] theorem State.unraise_dram (s : State) (c : Nat) :
    (s.unraise c).dram = s.dram := rfl
@[simp] theorem State.unraise_lanes (s : State) (c : Nat) :
    (s.unraise c).lanes = s.lanes := rfl
@[simp] theorem State.unraise_igmp (s : State) (c : Nat) :
    (s.unraise c).igmp = s.igmp := rfl
@[simp] theorem State.unraise_bufs (s : State) (c : Nat) :
    (s.unraise c).bufs = s.bufs := rfl
@[simp] theorem State.unraise_poolFree (s : State) (c : Nat) :
    (s.unraise c).poolFree = s.poolFree := rfl
@[simp] theorem State.unraise_bob (s : State) (c : Nat) :
    (s.unraise c).bob = s.bob := rfl
@[simp] theorem State.unraise_chans (s : State) (c : Nat) :
    (s.unraise c).chans = s.chans := rfl
@[simp] theorem State.unraise_srcs (s : State) (c : Nat) :
    (s.unraise c).srcs = s.srcs := rfl
@[simp] theorem State.unraise_engs (s : State) (c : Nat) :
    (s.unraise c).engs = s.engs := rfl
@[simp] theorem State.unraise_cmps (s : State) (c : Nat) :
    (s.unraise c).cmps = s.cmps := rfl
@[simp] theorem State.unraise_lyrs (s : State) (c : Nat) :
    (s.unraise c).lyrs = s.lyrs := rfl
@[simp] theorem State.unraise_est (s : State) (c : Nat) :
    (s.unraise c).est = s.est := rfl
@[simp] theorem State.unraise_ring (s : State) (c : Nat) :
    (s.unraise c).ring = s.ring := rfl
@[simp] theorem State.unraise_ains (s : State) (c : Nat) :
    (s.unraise c).ains = s.ains := rfl
@[simp] theorem State.unraise_aports (s : State) (c : Nat) :
    (s.unraise c).aports = s.aports := rfl
@[simp] theorem State.unraise_nvm (s : State) (c : Nat) :
    (s.unraise c).nvm = s.nvm := rfl
@[simp] theorem State.unraise_ckv (s : State) (c : Nat) :
    (s.unraise c).ckv = s.ckv := rfl
@[simp] theorem State.unraise_timers (s : State) (c : Nat) :
    (s.unraise c).timers = s.timers := rfl

/-! request -/

@[simp] theorem State.request_pending (s : State) (m w c r : Nat) :
    (s.request m w c r).pending = s.pending := rfl
@[simp] theorem State.request_now (s : State) (m w c r : Nat) :
    (s.request m w c r).now = s.now := rfl
@[simp] theorem State.request_free (s : State) (m w c r : Nat) :
    (s.request m w c r).free = s.free := rfl
@[simp] theorem State.request_regs (s : State) (m w c r : Nat) :
    (s.request m w c r).regs = s.regs := rfl
@[simp] theorem State.request_act (s : State) (m w c r : Nat) :
    (s.request m w c r).act = s.act := rfl
@[simp] theorem State.request_latch (s : State) (m w c r : Nat) :
    (s.request m w c r).latch = s.latch := rfl
@[simp] theorem State.request_arb (s : State) (m w c r : Nat) :
    (s.request m w c r).arb = s.arb := rfl
@[simp] theorem State.request_sel (s : State) (m w c r : Nat) :
    (s.request m w c r).sel = s.sel := rfl
@[simp] theorem State.request_ports (s : State) (m w c r : Nat) :
    (s.request m w c r).ports = s.ports := rfl
@[simp] theorem State.request_round (s : State) (m w c r : Nat) :
    (s.request m w c r).round = s.round := rfl
@[simp] theorem State.request_tim (s : State) (m w c r : Nat) :
    (s.request m w c r).tim = s.tim := rfl
@[simp] theorem State.request_clk (s : State) (m w c r : Nat) :
    (s.request m w c r).clk = s.clk := rfl
@[simp] theorem State.request_dram (s : State) (m w c r : Nat) :
    (s.request m w c r).dram = s.dram := rfl
@[simp] theorem State.request_lanes (s : State) (m w c r : Nat) :
    (s.request m w c r).lanes = s.lanes := rfl
@[simp] theorem State.request_igmp (s : State) (m w c r : Nat) :
    (s.request m w c r).igmp = s.igmp := rfl
@[simp] theorem State.request_bufs (s : State) (m w c r : Nat) :
    (s.request m w c r).bufs = s.bufs := rfl
@[simp] theorem State.request_poolFree (s : State) (m w c r : Nat) :
    (s.request m w c r).poolFree = s.poolFree := rfl
@[simp] theorem State.request_bob (s : State) (m w c r : Nat) :
    (s.request m w c r).bob = s.bob := rfl
@[simp] theorem State.request_chans (s : State) (m w c r : Nat) :
    (s.request m w c r).chans = s.chans := rfl
@[simp] theorem State.request_srcs (s : State) (m w c r : Nat) :
    (s.request m w c r).srcs = s.srcs := rfl
@[simp] theorem State.request_engs (s : State) (m w c r : Nat) :
    (s.request m w c r).engs = s.engs := rfl
@[simp] theorem State.request_cmps (s : State) (m w c r : Nat) :
    (s.request m w c r).cmps = s.cmps := rfl
@[simp] theorem State.request_lyrs (s : State) (m w c r : Nat) :
    (s.request m w c r).lyrs = s.lyrs := rfl
@[simp] theorem State.request_est (s : State) (m w c r : Nat) :
    (s.request m w c r).est = s.est := rfl
@[simp] theorem State.request_ring (s : State) (m w c r : Nat) :
    (s.request m w c r).ring = s.ring := rfl
@[simp] theorem State.request_ains (s : State) (m w c r : Nat) :
    (s.request m w c r).ains = s.ains := rfl
@[simp] theorem State.request_aports (s : State) (m w c r : Nat) :
    (s.request m w c r).aports = s.aports := rfl
@[simp] theorem State.request_nvm (s : State) (m w c r : Nat) :
    (s.request m w c r).nvm = s.nvm := rfl
@[simp] theorem State.request_ckv (s : State) (m w c r : Nat) :
    (s.request m w c r).ckv = s.ckv := rfl
@[simp] theorem State.request_timers (s : State) (m w c r : Nat) :
    (s.request m w c r).timers = s.timers := rfl

/-! setPort -/

@[simp] theorem State.setPort_pending (s : State) (h : Nat) (p : Port) :
    (s.setPort h p).pending = s.pending := rfl
@[simp] theorem State.setPort_now (s : State) (h : Nat) (p : Port) :
    (s.setPort h p).now = s.now := rfl
@[simp] theorem State.setPort_free (s : State) (h : Nat) (p : Port) :
    (s.setPort h p).free = s.free := rfl
@[simp] theorem State.setPort_regs (s : State) (h : Nat) (p : Port) :
    (s.setPort h p).regs = s.regs := rfl
@[simp] theorem State.setPort_act (s : State) (h : Nat) (p : Port) :
    (s.setPort h p).act = s.act := rfl
@[simp] theorem State.setPort_latch (s : State) (h : Nat) (p : Port) :
    (s.setPort h p).latch = s.latch := rfl
@[simp] theorem State.setPort_arb (s : State) (h : Nat) (p : Port) :
    (s.setPort h p).arb = s.arb := rfl
@[simp] theorem State.setPort_sel (s : State) (h : Nat) (p : Port) :
    (s.setPort h p).sel = s.sel := rfl
@[simp] theorem State.setPort_round (s : State) (h : Nat) (p : Port) :
    (s.setPort h p).round = s.round := rfl
@[simp] theorem State.setPort_sys (s : State) (h : Nat) (p : Port) :
    (s.setPort h p).sys = s.sys := rfl
@[simp] theorem State.setPort_tim (s : State) (h : Nat) (p : Port) :
    (s.setPort h p).tim = s.tim := rfl
@[simp] theorem State.setPort_clk (s : State) (h : Nat) (p : Port) :
    (s.setPort h p).clk = s.clk := rfl
@[simp] theorem State.setPort_dram (s : State) (h : Nat) (p : Port) :
    (s.setPort h p).dram = s.dram := rfl
@[simp] theorem State.setPort_lanes (s : State) (h : Nat) (p : Port) :
    (s.setPort h p).lanes = s.lanes := rfl
@[simp] theorem State.setPort_igmp (s : State) (h : Nat) (p : Port) :
    (s.setPort h p).igmp = s.igmp := rfl
@[simp] theorem State.setPort_bufs (s : State) (h : Nat) (p : Port) :
    (s.setPort h p).bufs = s.bufs := rfl
@[simp] theorem State.setPort_poolFree (s : State) (h : Nat) (p : Port) :
    (s.setPort h p).poolFree = s.poolFree := rfl
@[simp] theorem State.setPort_bob (s : State) (h : Nat) (p : Port) :
    (s.setPort h p).bob = s.bob := rfl
@[simp] theorem State.setPort_chans (s : State) (h : Nat) (p : Port) :
    (s.setPort h p).chans = s.chans := rfl
@[simp] theorem State.setPort_srcs (s : State) (h : Nat) (p : Port) :
    (s.setPort h p).srcs = s.srcs := rfl
@[simp] theorem State.setPort_engs (s : State) (h : Nat) (p : Port) :
    (s.setPort h p).engs = s.engs := rfl
@[simp] theorem State.setPort_cmps (s : State) (h : Nat) (p : Port) :
    (s.setPort h p).cmps = s.cmps := rfl
@[simp] theorem State.setPort_lyrs (s : State) (h : Nat) (p : Port) :
    (s.setPort h p).lyrs = s.lyrs := rfl
@[simp] theorem State.setPort_est (s : State) (h : Nat) (p : Port) :
    (s.setPort h p).est = s.est := rfl
@[simp] theorem State.setPort_ring (s : State) (h : Nat) (p : Port) :
    (s.setPort h p).ring = s.ring := rfl
@[simp] theorem State.setPort_ains (s : State) (h : Nat) (p : Port) :
    (s.setPort h p).ains = s.ains := rfl
@[simp] theorem State.setPort_aports (s : State) (h : Nat) (p : Port) :
    (s.setPort h p).aports = s.aports := rfl
@[simp] theorem State.setPort_nvm (s : State) (h : Nat) (p : Port) :
    (s.setPort h p).nvm = s.nvm := rfl
@[simp] theorem State.setPort_ckv (s : State) (h : Nat) (p : Port) :
    (s.setPort h p).ckv = s.ckv := rfl
@[simp] theorem State.setPort_timers (s : State) (h : Nat) (p : Port) :
    (s.setPort h p).timers = s.timers := rfl

/-! moveTo -/

@[simp] theorem State.moveTo_pending (s : State) (f : Fld) (v i e n h x : Nat) :
    (s.moveTo f v i e n h x).pending = s.pending := by
  unfold State.moveTo; split
  · rfl
  · simp
@[simp] theorem State.moveTo_now (s : State) (f : Fld) (v i e n h x : Nat) :
    (s.moveTo f v i e n h x).now = s.now := by
  unfold State.moveTo; split
  · rfl
  · simp
@[simp] theorem State.moveTo_free (s : State) (f : Fld) (v i e n h x : Nat) :
    (s.moveTo f v i e n h x).free = s.free := by
  unfold State.moveTo; split
  · rfl
  · simp
@[simp] theorem State.moveTo_act (s : State) (f : Fld) (v i e n h x : Nat) :
    (s.moveTo f v i e n h x).act = s.act := by
  unfold State.moveTo; split
  · rfl
  · simp
@[simp] theorem State.moveTo_latch (s : State) (f : Fld) (v i e n h x : Nat) :
    (s.moveTo f v i e n h x).latch = s.latch := by
  unfold State.moveTo; split
  · rfl
  · simp
@[simp] theorem State.moveTo_ports (s : State) (f : Fld) (v i e n h x : Nat) :
    (s.moveTo f v i e n h x).ports = s.ports := by
  unfold State.moveTo; split
  · rfl
  · simp
@[simp] theorem State.moveTo_round (s : State) (f : Fld) (v i e n h x : Nat) :
    (s.moveTo f v i e n h x).round = s.round := by
  unfold State.moveTo; split
  · rfl
  · simp
@[simp] theorem State.moveTo_sys (s : State) (f : Fld) (v i e n h x : Nat) :
    (s.moveTo f v i e n h x).sys = s.sys := by
  unfold State.moveTo; split
  · rfl
  · simp
@[simp] theorem State.moveTo_tim (s : State) (f : Fld) (v i e n h x : Nat) :
    (s.moveTo f v i e n h x).tim = s.tim := by
  unfold State.moveTo; split
  · rfl
  · simp
@[simp] theorem State.moveTo_clk (s : State) (f : Fld) (v i e n h x : Nat) :
    (s.moveTo f v i e n h x).clk = s.clk := by
  unfold State.moveTo; split
  · rfl
  · simp
@[simp] theorem State.moveTo_dram (s : State) (f : Fld) (v i e n h x : Nat) :
    (s.moveTo f v i e n h x).dram = s.dram := by
  unfold State.moveTo; split
  · rfl
  · simp
@[simp] theorem State.moveTo_lanes (s : State) (f : Fld) (v i e n h x : Nat) :
    (s.moveTo f v i e n h x).lanes = s.lanes := by
  unfold State.moveTo; split
  · rfl
  · simp
@[simp] theorem State.moveTo_igmp (s : State) (f : Fld) (v i e n h x : Nat) :
    (s.moveTo f v i e n h x).igmp = s.igmp := by
  unfold State.moveTo; split
  · rfl
  · simp
@[simp] theorem State.moveTo_bufs (s : State) (f : Fld) (v i e n h x : Nat) :
    (s.moveTo f v i e n h x).bufs = s.bufs := by
  unfold State.moveTo; split
  · rfl
  · simp
@[simp] theorem State.moveTo_poolFree (s : State) (f : Fld) (v i e n h x : Nat) :
    (s.moveTo f v i e n h x).poolFree = s.poolFree := by
  unfold State.moveTo; split
  · rfl
  · simp
@[simp] theorem State.moveTo_bob (s : State) (f : Fld) (v i e n h x : Nat) :
    (s.moveTo f v i e n h x).bob = s.bob := by
  unfold State.moveTo; split
  · rfl
  · simp
@[simp] theorem State.moveTo_chans (s : State) (f : Fld) (v i e n h x : Nat) :
    (s.moveTo f v i e n h x).chans = s.chans := by
  unfold State.moveTo; split
  · rfl
  · simp
@[simp] theorem State.moveTo_srcs (s : State) (f : Fld) (v i e n h x : Nat) :
    (s.moveTo f v i e n h x).srcs = s.srcs := by
  unfold State.moveTo; split
  · rfl
  · simp
@[simp] theorem State.moveTo_engs (s : State) (f : Fld) (v i e n h x : Nat) :
    (s.moveTo f v i e n h x).engs = s.engs := by
  unfold State.moveTo; split
  · rfl
  · simp
@[simp] theorem State.moveTo_cmps (s : State) (f : Fld) (v i e n h x : Nat) :
    (s.moveTo f v i e n h x).cmps = s.cmps := by
  unfold State.moveTo; split
  · rfl
  · simp
@[simp] theorem State.moveTo_lyrs (s : State) (f : Fld) (v i e n h x : Nat) :
    (s.moveTo f v i e n h x).lyrs = s.lyrs := by
  unfold State.moveTo; split
  · rfl
  · simp
@[simp] theorem State.moveTo_est (s : State) (f : Fld) (v i e n h x : Nat) :
    (s.moveTo f v i e n h x).est = s.est := by
  unfold State.moveTo; split
  · rfl
  · simp
@[simp] theorem State.moveTo_ring (s : State) (f : Fld) (v i e n h x : Nat) :
    (s.moveTo f v i e n h x).ring = s.ring := by
  unfold State.moveTo; split
  · rfl
  · simp
@[simp] theorem State.moveTo_ains (s : State) (f : Fld) (v i e n h x : Nat) :
    (s.moveTo f v i e n h x).ains = s.ains := by
  unfold State.moveTo; split
  · rfl
  · simp
@[simp] theorem State.moveTo_aports (s : State) (f : Fld) (v i e n h x : Nat) :
    (s.moveTo f v i e n h x).aports = s.aports := by
  unfold State.moveTo; split
  · rfl
  · simp
@[simp] theorem State.moveTo_nvm (s : State) (f : Fld) (v i e n h x : Nat) :
    (s.moveTo f v i e n h x).nvm = s.nvm := by
  unfold State.moveTo; split
  · rfl
  · simp
@[simp] theorem State.moveTo_ckv (s : State) (f : Fld) (v i e n h x : Nat) :
    (s.moveTo f v i e n h x).ckv = s.ckv := by
  unfold State.moveTo; split
  · rfl
  · simp

/-! setChan -/

@[simp] theorem State.setChan_pending (s : State) (n : Nat) (c : Chan) :
    (s.setChan n c).pending = s.pending := rfl
@[simp] theorem State.setChan_now (s : State) (n : Nat) (c : Chan) :
    (s.setChan n c).now = s.now := rfl
@[simp] theorem State.setChan_free (s : State) (n : Nat) (c : Chan) :
    (s.setChan n c).free = s.free := rfl
@[simp] theorem State.setChan_regs (s : State) (n : Nat) (c : Chan) :
    (s.setChan n c).regs = s.regs := rfl
@[simp] theorem State.setChan_act (s : State) (n : Nat) (c : Chan) :
    (s.setChan n c).act = s.act := rfl
@[simp] theorem State.setChan_latch (s : State) (n : Nat) (c : Chan) :
    (s.setChan n c).latch = s.latch := rfl
@[simp] theorem State.setChan_arb (s : State) (n : Nat) (c : Chan) :
    (s.setChan n c).arb = s.arb := rfl
@[simp] theorem State.setChan_sel (s : State) (n : Nat) (c : Chan) :
    (s.setChan n c).sel = s.sel := rfl
@[simp] theorem State.setChan_ports (s : State) (n : Nat) (c : Chan) :
    (s.setChan n c).ports = s.ports := rfl
@[simp] theorem State.setChan_round (s : State) (n : Nat) (c : Chan) :
    (s.setChan n c).round = s.round := rfl
@[simp] theorem State.setChan_sys (s : State) (n : Nat) (c : Chan) :
    (s.setChan n c).sys = s.sys := rfl
@[simp] theorem State.setChan_tim (s : State) (n : Nat) (c : Chan) :
    (s.setChan n c).tim = s.tim := rfl
@[simp] theorem State.setChan_clk (s : State) (n : Nat) (c : Chan) :
    (s.setChan n c).clk = s.clk := rfl
@[simp] theorem State.setChan_dram (s : State) (n : Nat) (c : Chan) :
    (s.setChan n c).dram = s.dram := rfl
@[simp] theorem State.setChan_lanes (s : State) (n : Nat) (c : Chan) :
    (s.setChan n c).lanes = s.lanes := rfl
@[simp] theorem State.setChan_igmp (s : State) (n : Nat) (c : Chan) :
    (s.setChan n c).igmp = s.igmp := rfl
@[simp] theorem State.setChan_bufs (s : State) (n : Nat) (c : Chan) :
    (s.setChan n c).bufs = s.bufs := rfl
@[simp] theorem State.setChan_poolFree (s : State) (n : Nat) (c : Chan) :
    (s.setChan n c).poolFree = s.poolFree := rfl
@[simp] theorem State.setChan_bob (s : State) (n : Nat) (c : Chan) :
    (s.setChan n c).bob = s.bob := rfl
@[simp] theorem State.setChan_srcs (s : State) (n : Nat) (c : Chan) :
    (s.setChan n c).srcs = s.srcs := rfl
@[simp] theorem State.setChan_engs (s : State) (n : Nat) (c : Chan) :
    (s.setChan n c).engs = s.engs := rfl
@[simp] theorem State.setChan_cmps (s : State) (n : Nat) (c : Chan) :
    (s.setChan n c).cmps = s.cmps := rfl
@[simp] theorem State.setChan_lyrs (s : State) (n : Nat) (c : Chan) :
    (s.setChan n c).lyrs = s.lyrs := rfl
@[simp] theorem State.setChan_est (s : State) (n : Nat) (c : Chan) :
    (s.setChan n c).est = s.est := rfl
@[simp] theorem State.setChan_ring (s : State) (n : Nat) (c : Chan) :
    (s.setChan n c).ring = s.ring := rfl
@[simp] theorem State.setChan_ains (s : State) (n : Nat) (c : Chan) :
    (s.setChan n c).ains = s.ains := rfl
@[simp] theorem State.setChan_aports (s : State) (n : Nat) (c : Chan) :
    (s.setChan n c).aports = s.aports := rfl
@[simp] theorem State.setChan_nvm (s : State) (n : Nat) (c : Chan) :
    (s.setChan n c).nvm = s.nvm := rfl
@[simp] theorem State.setChan_ckv (s : State) (n : Nat) (c : Chan) :
    (s.setChan n c).ckv = s.ckv := rfl
@[simp] theorem State.setChan_timers (s : State) (n : Nat) (c : Chan) :
    (s.setChan n c).timers = s.timers := rfl

/-! setSrc -/

@[simp] theorem State.setSrc_pending (s : State) (i : Nat) (x : Src) :
    (s.setSrc i x).pending = s.pending := rfl
@[simp] theorem State.setSrc_now (s : State) (i : Nat) (x : Src) :
    (s.setSrc i x).now = s.now := rfl
@[simp] theorem State.setSrc_free (s : State) (i : Nat) (x : Src) :
    (s.setSrc i x).free = s.free := rfl
@[simp] theorem State.setSrc_regs (s : State) (i : Nat) (x : Src) :
    (s.setSrc i x).regs = s.regs := rfl
@[simp] theorem State.setSrc_act (s : State) (i : Nat) (x : Src) :
    (s.setSrc i x).act = s.act := rfl
@[simp] theorem State.setSrc_latch (s : State) (i : Nat) (x : Src) :
    (s.setSrc i x).latch = s.latch := rfl
@[simp] theorem State.setSrc_arb (s : State) (i : Nat) (x : Src) :
    (s.setSrc i x).arb = s.arb := rfl
@[simp] theorem State.setSrc_sel (s : State) (i : Nat) (x : Src) :
    (s.setSrc i x).sel = s.sel := rfl
@[simp] theorem State.setSrc_ports (s : State) (i : Nat) (x : Src) :
    (s.setSrc i x).ports = s.ports := rfl
@[simp] theorem State.setSrc_round (s : State) (i : Nat) (x : Src) :
    (s.setSrc i x).round = s.round := rfl
@[simp] theorem State.setSrc_sys (s : State) (i : Nat) (x : Src) :
    (s.setSrc i x).sys = s.sys := rfl
@[simp] theorem State.setSrc_tim (s : State) (i : Nat) (x : Src) :
    (s.setSrc i x).tim = s.tim := rfl
@[simp] theorem State.setSrc_clk (s : State) (i : Nat) (x : Src) :
    (s.setSrc i x).clk = s.clk := rfl
@[simp] theorem State.setSrc_dram (s : State) (i : Nat) (x : Src) :
    (s.setSrc i x).dram = s.dram := rfl
@[simp] theorem State.setSrc_lanes (s : State) (i : Nat) (x : Src) :
    (s.setSrc i x).lanes = s.lanes := rfl
@[simp] theorem State.setSrc_igmp (s : State) (i : Nat) (x : Src) :
    (s.setSrc i x).igmp = s.igmp := rfl
@[simp] theorem State.setSrc_bufs (s : State) (i : Nat) (x : Src) :
    (s.setSrc i x).bufs = s.bufs := rfl
@[simp] theorem State.setSrc_poolFree (s : State) (i : Nat) (x : Src) :
    (s.setSrc i x).poolFree = s.poolFree := rfl
@[simp] theorem State.setSrc_bob (s : State) (i : Nat) (x : Src) :
    (s.setSrc i x).bob = s.bob := rfl
@[simp] theorem State.setSrc_chans (s : State) (i : Nat) (x : Src) :
    (s.setSrc i x).chans = s.chans := rfl
@[simp] theorem State.setSrc_engs (s : State) (i : Nat) (x : Src) :
    (s.setSrc i x).engs = s.engs := rfl
@[simp] theorem State.setSrc_cmps (s : State) (i : Nat) (x : Src) :
    (s.setSrc i x).cmps = s.cmps := rfl
@[simp] theorem State.setSrc_lyrs (s : State) (i : Nat) (x : Src) :
    (s.setSrc i x).lyrs = s.lyrs := rfl
@[simp] theorem State.setSrc_est (s : State) (i : Nat) (x : Src) :
    (s.setSrc i x).est = s.est := rfl
@[simp] theorem State.setSrc_ring (s : State) (i : Nat) (x : Src) :
    (s.setSrc i x).ring = s.ring := rfl
@[simp] theorem State.setSrc_ains (s : State) (i : Nat) (x : Src) :
    (s.setSrc i x).ains = s.ains := rfl
@[simp] theorem State.setSrc_aports (s : State) (i : Nat) (x : Src) :
    (s.setSrc i x).aports = s.aports := rfl
@[simp] theorem State.setSrc_nvm (s : State) (i : Nat) (x : Src) :
    (s.setSrc i x).nvm = s.nvm := rfl
@[simp] theorem State.setSrc_ckv (s : State) (i : Nat) (x : Src) :
    (s.setSrc i x).ckv = s.ckv := rfl
@[simp] theorem State.setSrc_timers (s : State) (i : Nat) (x : Src) :
    (s.setSrc i x).timers = s.timers := rfl

/-! setLane -/

@[simp] theorem State.setLane_pending (s : State) (l : Nat) (x : Lane) :
    (s.setLane l x).pending = s.pending := rfl
@[simp] theorem State.setLane_now (s : State) (l : Nat) (x : Lane) :
    (s.setLane l x).now = s.now := rfl
@[simp] theorem State.setLane_free (s : State) (l : Nat) (x : Lane) :
    (s.setLane l x).free = s.free := rfl
@[simp] theorem State.setLane_regs (s : State) (l : Nat) (x : Lane) :
    (s.setLane l x).regs = s.regs := rfl
@[simp] theorem State.setLane_act (s : State) (l : Nat) (x : Lane) :
    (s.setLane l x).act = s.act := rfl
@[simp] theorem State.setLane_latch (s : State) (l : Nat) (x : Lane) :
    (s.setLane l x).latch = s.latch := rfl
@[simp] theorem State.setLane_arb (s : State) (l : Nat) (x : Lane) :
    (s.setLane l x).arb = s.arb := rfl
@[simp] theorem State.setLane_sel (s : State) (l : Nat) (x : Lane) :
    (s.setLane l x).sel = s.sel := rfl
@[simp] theorem State.setLane_ports (s : State) (l : Nat) (x : Lane) :
    (s.setLane l x).ports = s.ports := rfl
@[simp] theorem State.setLane_round (s : State) (l : Nat) (x : Lane) :
    (s.setLane l x).round = s.round := rfl
@[simp] theorem State.setLane_sys (s : State) (l : Nat) (x : Lane) :
    (s.setLane l x).sys = s.sys := rfl
@[simp] theorem State.setLane_tim (s : State) (l : Nat) (x : Lane) :
    (s.setLane l x).tim = s.tim := rfl
@[simp] theorem State.setLane_clk (s : State) (l : Nat) (x : Lane) :
    (s.setLane l x).clk = s.clk := rfl
@[simp] theorem State.setLane_dram (s : State) (l : Nat) (x : Lane) :
    (s.setLane l x).dram = s.dram := rfl
@[simp] theorem State.setLane_igmp (s : State) (l : Nat) (x : Lane) :
    (s.setLane l x).igmp = s.igmp := rfl
@[simp] theorem State.setLane_bufs (s : State) (l : Nat) (x : Lane) :
    (s.setLane l x).bufs = s.bufs := rfl
@[simp] theorem State.setLane_poolFree (s : State) (l : Nat) (x : Lane) :
    (s.setLane l x).poolFree = s.poolFree := rfl
@[simp] theorem State.setLane_bob (s : State) (l : Nat) (x : Lane) :
    (s.setLane l x).bob = s.bob := rfl
@[simp] theorem State.setLane_chans (s : State) (l : Nat) (x : Lane) :
    (s.setLane l x).chans = s.chans := rfl
@[simp] theorem State.setLane_srcs (s : State) (l : Nat) (x : Lane) :
    (s.setLane l x).srcs = s.srcs := rfl
@[simp] theorem State.setLane_engs (s : State) (l : Nat) (x : Lane) :
    (s.setLane l x).engs = s.engs := rfl
@[simp] theorem State.setLane_cmps (s : State) (l : Nat) (x : Lane) :
    (s.setLane l x).cmps = s.cmps := rfl
@[simp] theorem State.setLane_lyrs (s : State) (l : Nat) (x : Lane) :
    (s.setLane l x).lyrs = s.lyrs := rfl
@[simp] theorem State.setLane_est (s : State) (l : Nat) (x : Lane) :
    (s.setLane l x).est = s.est := rfl
@[simp] theorem State.setLane_ring (s : State) (l : Nat) (x : Lane) :
    (s.setLane l x).ring = s.ring := rfl
@[simp] theorem State.setLane_ains (s : State) (l : Nat) (x : Lane) :
    (s.setLane l x).ains = s.ains := rfl
@[simp] theorem State.setLane_aports (s : State) (l : Nat) (x : Lane) :
    (s.setLane l x).aports = s.aports := rfl
@[simp] theorem State.setLane_nvm (s : State) (l : Nat) (x : Lane) :
    (s.setLane l x).nvm = s.nvm := rfl
@[simp] theorem State.setLane_ckv (s : State) (l : Nat) (x : Lane) :
    (s.setLane l x).ckv = s.ckv := rfl
@[simp] theorem State.setLane_timers (s : State) (l : Nat) (x : Lane) :
    (s.setLane l x).timers = s.timers := rfl

/-! setEng -/

@[simp] theorem State.setEng_pending (s : State) (e : Nat) (x : Eng) :
    (s.setEng e x).pending = s.pending := rfl
@[simp] theorem State.setEng_now (s : State) (e : Nat) (x : Eng) :
    (s.setEng e x).now = s.now := rfl
@[simp] theorem State.setEng_free (s : State) (e : Nat) (x : Eng) :
    (s.setEng e x).free = s.free := rfl
@[simp] theorem State.setEng_regs (s : State) (e : Nat) (x : Eng) :
    (s.setEng e x).regs = s.regs := rfl
@[simp] theorem State.setEng_act (s : State) (e : Nat) (x : Eng) :
    (s.setEng e x).act = s.act := rfl
@[simp] theorem State.setEng_latch (s : State) (e : Nat) (x : Eng) :
    (s.setEng e x).latch = s.latch := rfl
@[simp] theorem State.setEng_arb (s : State) (e : Nat) (x : Eng) :
    (s.setEng e x).arb = s.arb := rfl
@[simp] theorem State.setEng_sel (s : State) (e : Nat) (x : Eng) :
    (s.setEng e x).sel = s.sel := rfl
@[simp] theorem State.setEng_ports (s : State) (e : Nat) (x : Eng) :
    (s.setEng e x).ports = s.ports := rfl
@[simp] theorem State.setEng_round (s : State) (e : Nat) (x : Eng) :
    (s.setEng e x).round = s.round := rfl
@[simp] theorem State.setEng_sys (s : State) (e : Nat) (x : Eng) :
    (s.setEng e x).sys = s.sys := rfl
@[simp] theorem State.setEng_tim (s : State) (e : Nat) (x : Eng) :
    (s.setEng e x).tim = s.tim := rfl
@[simp] theorem State.setEng_clk (s : State) (e : Nat) (x : Eng) :
    (s.setEng e x).clk = s.clk := rfl
@[simp] theorem State.setEng_dram (s : State) (e : Nat) (x : Eng) :
    (s.setEng e x).dram = s.dram := rfl
@[simp] theorem State.setEng_lanes (s : State) (e : Nat) (x : Eng) :
    (s.setEng e x).lanes = s.lanes := rfl
@[simp] theorem State.setEng_igmp (s : State) (e : Nat) (x : Eng) :
    (s.setEng e x).igmp = s.igmp := rfl
@[simp] theorem State.setEng_bufs (s : State) (e : Nat) (x : Eng) :
    (s.setEng e x).bufs = s.bufs := rfl
@[simp] theorem State.setEng_poolFree (s : State) (e : Nat) (x : Eng) :
    (s.setEng e x).poolFree = s.poolFree := rfl
@[simp] theorem State.setEng_bob (s : State) (e : Nat) (x : Eng) :
    (s.setEng e x).bob = s.bob := rfl
@[simp] theorem State.setEng_chans (s : State) (e : Nat) (x : Eng) :
    (s.setEng e x).chans = s.chans := rfl
@[simp] theorem State.setEng_srcs (s : State) (e : Nat) (x : Eng) :
    (s.setEng e x).srcs = s.srcs := rfl
@[simp] theorem State.setEng_cmps (s : State) (e : Nat) (x : Eng) :
    (s.setEng e x).cmps = s.cmps := rfl
@[simp] theorem State.setEng_lyrs (s : State) (e : Nat) (x : Eng) :
    (s.setEng e x).lyrs = s.lyrs := rfl
@[simp] theorem State.setEng_est (s : State) (e : Nat) (x : Eng) :
    (s.setEng e x).est = s.est := rfl
@[simp] theorem State.setEng_ring (s : State) (e : Nat) (x : Eng) :
    (s.setEng e x).ring = s.ring := rfl
@[simp] theorem State.setEng_ains (s : State) (e : Nat) (x : Eng) :
    (s.setEng e x).ains = s.ains := rfl
@[simp] theorem State.setEng_aports (s : State) (e : Nat) (x : Eng) :
    (s.setEng e x).aports = s.aports := rfl
@[simp] theorem State.setEng_nvm (s : State) (e : Nat) (x : Eng) :
    (s.setEng e x).nvm = s.nvm := rfl
@[simp] theorem State.setEng_ckv (s : State) (e : Nat) (x : Eng) :
    (s.setEng e x).ckv = s.ckv := rfl
@[simp] theorem State.setEng_timers (s : State) (e : Nat) (x : Eng) :
    (s.setEng e x).timers = s.timers := rfl

/-! setRing -/

@[simp] theorem State.setRing_pending (s : State) (r : RingSt) :
    (s.setRing r).pending = s.pending := rfl
@[simp] theorem State.setRing_now (s : State) (r : RingSt) :
    (s.setRing r).now = s.now := rfl
@[simp] theorem State.setRing_free (s : State) (r : RingSt) :
    (s.setRing r).free = s.free := rfl
@[simp] theorem State.setRing_regs (s : State) (r : RingSt) :
    (s.setRing r).regs = s.regs := rfl
@[simp] theorem State.setRing_act (s : State) (r : RingSt) :
    (s.setRing r).act = s.act := rfl
@[simp] theorem State.setRing_latch (s : State) (r : RingSt) :
    (s.setRing r).latch = s.latch := rfl
@[simp] theorem State.setRing_arb (s : State) (r : RingSt) :
    (s.setRing r).arb = s.arb := rfl
@[simp] theorem State.setRing_sel (s : State) (r : RingSt) :
    (s.setRing r).sel = s.sel := rfl
@[simp] theorem State.setRing_ports (s : State) (r : RingSt) :
    (s.setRing r).ports = s.ports := rfl
@[simp] theorem State.setRing_round (s : State) (r : RingSt) :
    (s.setRing r).round = s.round := rfl
@[simp] theorem State.setRing_sys (s : State) (r : RingSt) :
    (s.setRing r).sys = s.sys := rfl
@[simp] theorem State.setRing_tim (s : State) (r : RingSt) :
    (s.setRing r).tim = s.tim := rfl
@[simp] theorem State.setRing_clk (s : State) (r : RingSt) :
    (s.setRing r).clk = s.clk := rfl
@[simp] theorem State.setRing_dram (s : State) (r : RingSt) :
    (s.setRing r).dram = s.dram := rfl
@[simp] theorem State.setRing_lanes (s : State) (r : RingSt) :
    (s.setRing r).lanes = s.lanes := rfl
@[simp] theorem State.setRing_igmp (s : State) (r : RingSt) :
    (s.setRing r).igmp = s.igmp := rfl
@[simp] theorem State.setRing_bufs (s : State) (r : RingSt) :
    (s.setRing r).bufs = s.bufs := rfl
@[simp] theorem State.setRing_poolFree (s : State) (r : RingSt) :
    (s.setRing r).poolFree = s.poolFree := rfl
@[simp] theorem State.setRing_bob (s : State) (r : RingSt) :
    (s.setRing r).bob = s.bob := rfl
@[simp] theorem State.setRing_chans (s : State) (r : RingSt) :
    (s.setRing r).chans = s.chans := rfl
@[simp] theorem State.setRing_srcs (s : State) (r : RingSt) :
    (s.setRing r).srcs = s.srcs := rfl
@[simp] theorem State.setRing_engs (s : State) (r : RingSt) :
    (s.setRing r).engs = s.engs := rfl
@[simp] theorem State.setRing_cmps (s : State) (r : RingSt) :
    (s.setRing r).cmps = s.cmps := rfl
@[simp] theorem State.setRing_lyrs (s : State) (r : RingSt) :
    (s.setRing r).lyrs = s.lyrs := rfl
@[simp] theorem State.setRing_est (s : State) (r : RingSt) :
    (s.setRing r).est = s.est := rfl
@[simp] theorem State.setRing_ains (s : State) (r : RingSt) :
    (s.setRing r).ains = s.ains := rfl
@[simp] theorem State.setRing_aports (s : State) (r : RingSt) :
    (s.setRing r).aports = s.aports := rfl
@[simp] theorem State.setRing_nvm (s : State) (r : RingSt) :
    (s.setRing r).nvm = s.nvm := rfl
@[simp] theorem State.setRing_ckv (s : State) (r : RingSt) :
    (s.setRing r).ckv = s.ckv := rfl
@[simp] theorem State.setRing_timers (s : State) (r : RingSt) :
    (s.setRing r).timers = s.timers := rfl

/-! setAin -/

@[simp] theorem State.setAin_pending (s : State) (i : Nat) (x : AIn) :
    (s.setAin i x).pending = s.pending := rfl
@[simp] theorem State.setAin_now (s : State) (i : Nat) (x : AIn) :
    (s.setAin i x).now = s.now := rfl
@[simp] theorem State.setAin_free (s : State) (i : Nat) (x : AIn) :
    (s.setAin i x).free = s.free := rfl
@[simp] theorem State.setAin_regs (s : State) (i : Nat) (x : AIn) :
    (s.setAin i x).regs = s.regs := rfl
@[simp] theorem State.setAin_act (s : State) (i : Nat) (x : AIn) :
    (s.setAin i x).act = s.act := rfl
@[simp] theorem State.setAin_latch (s : State) (i : Nat) (x : AIn) :
    (s.setAin i x).latch = s.latch := rfl
@[simp] theorem State.setAin_arb (s : State) (i : Nat) (x : AIn) :
    (s.setAin i x).arb = s.arb := rfl
@[simp] theorem State.setAin_sel (s : State) (i : Nat) (x : AIn) :
    (s.setAin i x).sel = s.sel := rfl
@[simp] theorem State.setAin_ports (s : State) (i : Nat) (x : AIn) :
    (s.setAin i x).ports = s.ports := rfl
@[simp] theorem State.setAin_round (s : State) (i : Nat) (x : AIn) :
    (s.setAin i x).round = s.round := rfl
@[simp] theorem State.setAin_sys (s : State) (i : Nat) (x : AIn) :
    (s.setAin i x).sys = s.sys := rfl
@[simp] theorem State.setAin_tim (s : State) (i : Nat) (x : AIn) :
    (s.setAin i x).tim = s.tim := rfl
@[simp] theorem State.setAin_clk (s : State) (i : Nat) (x : AIn) :
    (s.setAin i x).clk = s.clk := rfl
@[simp] theorem State.setAin_dram (s : State) (i : Nat) (x : AIn) :
    (s.setAin i x).dram = s.dram := rfl
@[simp] theorem State.setAin_lanes (s : State) (i : Nat) (x : AIn) :
    (s.setAin i x).lanes = s.lanes := rfl
@[simp] theorem State.setAin_igmp (s : State) (i : Nat) (x : AIn) :
    (s.setAin i x).igmp = s.igmp := rfl
@[simp] theorem State.setAin_bufs (s : State) (i : Nat) (x : AIn) :
    (s.setAin i x).bufs = s.bufs := rfl
@[simp] theorem State.setAin_poolFree (s : State) (i : Nat) (x : AIn) :
    (s.setAin i x).poolFree = s.poolFree := rfl
@[simp] theorem State.setAin_bob (s : State) (i : Nat) (x : AIn) :
    (s.setAin i x).bob = s.bob := rfl
@[simp] theorem State.setAin_chans (s : State) (i : Nat) (x : AIn) :
    (s.setAin i x).chans = s.chans := rfl
@[simp] theorem State.setAin_srcs (s : State) (i : Nat) (x : AIn) :
    (s.setAin i x).srcs = s.srcs := rfl
@[simp] theorem State.setAin_engs (s : State) (i : Nat) (x : AIn) :
    (s.setAin i x).engs = s.engs := rfl
@[simp] theorem State.setAin_cmps (s : State) (i : Nat) (x : AIn) :
    (s.setAin i x).cmps = s.cmps := rfl
@[simp] theorem State.setAin_lyrs (s : State) (i : Nat) (x : AIn) :
    (s.setAin i x).lyrs = s.lyrs := rfl
@[simp] theorem State.setAin_est (s : State) (i : Nat) (x : AIn) :
    (s.setAin i x).est = s.est := rfl
@[simp] theorem State.setAin_ring (s : State) (i : Nat) (x : AIn) :
    (s.setAin i x).ring = s.ring := rfl
@[simp] theorem State.setAin_aports (s : State) (i : Nat) (x : AIn) :
    (s.setAin i x).aports = s.aports := rfl
@[simp] theorem State.setAin_nvm (s : State) (i : Nat) (x : AIn) :
    (s.setAin i x).nvm = s.nvm := rfl
@[simp] theorem State.setAin_ckv (s : State) (i : Nat) (x : AIn) :
    (s.setAin i x).ckv = s.ckv := rfl
@[simp] theorem State.setAin_timers (s : State) (i : Nat) (x : AIn) :
    (s.setAin i x).timers = s.timers := rfl

/-! Registers -/

@[simp] theorem State.word_setWord (s : State) (a : Nat) (w : Word) : (s.setWord a w).word a = w := by
  simp [State.word, State.setWord]

theorem State.word_setWord_ne (s : State) {a b : Nat} (w : Word) (h : a ≠ b) : (s.setWord a w).word b = s.word b := by
  simp only [State.word, State.setWord]; exact Tab.get_put_ne _ _ _ _ h

/-- A register that is not written reads as before. -/
theorem State.word_put_ne (s : State) {f : Fld} {b : Nat} (v : Nat) (h : f.addr ≠ b) : (s.put f v).word b = s.word b :=
  State.word_setWord_ne s _ h

theorem State.word_flag_ne (s : State) {f : Fld} {b : Nat} (v : Bool) (h : f.addr ≠ b) :
    (s.flag f v).word b = s.word b := State.word_put_ne s _ h

theorem State.word_bump_ne (s : State) {f : Fld} {b : Nat} (n : Nat) (h : f.addr ≠ b) :
    (s.bump f n).word b = s.word b := State.word_put_ne s _ h

theorem State.word_sat_ne (s : State) {f : Fld} {b : Nat} (n : Nat) (h : f.addr ≠ b) :
    (s.sat f n).word b = s.word b := State.word_put_ne s _ h

/-- A field reads what it was set to. -/
theorem State.get_put (s : State) (f : Fld) (v : Nat) (h : f.lo + f.width ≤ 32) : (s.put f v).get f = v % 2 ^ f.width := by
  simp [State.get, State.put, h]

/-- A field of another register, or of other bits of the same one, reads as before. -/
theorem State.get_put_ne (s : State) (f g : Fld) (v : Nat)
    (h : f.addr ≠ g.addr ∨ g.lo + g.width ≤ f.lo ∨ f.lo + f.width ≤ g.lo) : (s.put f v).get g = s.get g := by
  by_cases ha : f.addr = g.addr
  · have h' : g.lo + g.width ≤ f.lo ∨ f.lo + f.width ≤ g.lo := h.resolve_left (fun n => n ha)
    simp only [State.get, State.put, ← ha, State.word_setWord]
    exact bitsAt_setBitsAt_ne _ _ _ _ _ _ h'
  · simp only [State.get, State.put, State.word_setWord_ne s _ ha]

theorem State.get_flag (s : State) (f : Fld) (b : Bool) (h : f.lo + f.width ≤ 32) (hw : f.width = 1) :
    (s.flag f b).get f = if b then 1 else 0 := by
  unfold State.flag; rw [State.get_put s f _ h, hw]; cases b <;> rfl

theorem State.is_flag (s : State) (f : Fld) (b : Bool) (h : f.lo + f.width ≤ 32) (hw : f.width = 1) :
    (s.flag f b).is f = b := by
  unfold State.is; rw [State.get_flag s f b h hw]; cases b <;> rfl

theorem State.get_bump (s : State) (f : Fld) (n : Nat) (h : f.lo + f.width ≤ 32) :
    (s.bump f n).get f = (s.get f + n) % 2 ^ f.width := State.get_put s f _ h

/-- What a field reads depends on its register's word only. -/
theorem State.get_of_word {s t : State} (f : Fld) (h : t.word f.addr = s.word f.addr) : t.get f = s.get f := by
  simp only [State.get, h]

theorem State.get_of_regs {s t : State} (f : Fld) (h : t.regs = s.regs) : t.get f = s.get f := by
  simp only [State.get, State.word, h]

theorem State.is_of_regs {s t : State} (f : Fld) (h : t.regs = s.regs) : t.is f = s.is f := by
  simp only [State.is, State.get_of_regs f h]

theorem State.mode_of_regs {s t : State} (h : t.regs = s.regs) : t.mode = s.mode := State.get_of_regs _ h

@[simp] theorem State.port_setPort (s : State) (h : Nat) (p : Port) : (s.setPort h p).port h = p := by
  simp [State.port, State.setPort]

theorem State.port_setPort_ne (s : State) {h k : Nat} (p : Port) (n : h ≠ k) : (s.setPort h p).port k = s.port k := by
  simp only [State.port, State.setPort]; exact Tab.get_put_ne _ _ _ _ n

@[simp] theorem State.chan_setChan (s : State) (n : Nat) (c : Chan) : (s.setChan n c).chan n = c := by
  simp [State.chan, State.setChan]

theorem State.chan_setChan_ne (s : State) {n m : Nat} (c : Chan) (h : n ≠ m) : (s.setChan n c).chan m = s.chan m := by
  simp only [State.chan, State.setChan]; exact Tab.get_put_ne _ _ _ _ h

/-! The canonical form of the registers -/

theorem State.canon_setWord {s : State} (a : Nat) (w : Word) (h : s.Canon) : (s.setWord a w).Canon := Tab.canon_put a w h

theorem State.canon_put {s : State} (f : Fld) (v : Nat) (h : s.Canon) : (s.put f v).Canon := State.canon_setWord _ _ h

theorem State.canon_of_regs {s t : State} (e : t.regs = s.regs) (h : s.Canon) : t.Canon := by
  unfold State.Canon; rw [e]; exact h

end Sys2Proof.Machine
end

