-- ==== Sys2Proof/Laws/Frame.lean ====
section
/-!
SUPPORT. Sys2Proof/Laws/Frame.lean: frames compose and follow from the small updates; the register arbiter's one law: what a
write that is taken at once has changed before its effect.
-/

namespace Sys2Proof.Machine

theorem State.Same.refl (s : State) (p : Part) : s.Same s p := by cases p <;> rfl

theorem State.Same.trans {s t u : State} {p : Part} (h : s.Same t p) (k : t.Same u p) : s.Same u p := by
  cases p <;> exact Eq.trans k h

theorem State.Frame.refl (s : State) (r : List Nat) (l : List Part) : s.Frame s r l :=
  ⟨fun _ _ => rfl, fun p _ => State.Same.refl s p⟩

/-- Frames compose: what neither step changes stays. -/
theorem State.Frame.trans {s t u : State} {r r' q : List Nat} {l l' m : List Part} (h : s.Frame t r l) (k : t.Frame u r' l')
    (hr : ∀ a, a ∈ r ∨ a ∈ r' → a ∈ q) (hl : ∀ p, p ∈ l ∨ p ∈ l' → p ∈ m) : s.Frame u q m :=
  ⟨fun a ha => (k.1 a (fun x => ha (hr a (.inr x)))).trans (h.1 a (fun x => ha (hr a (.inl x)))),
    fun p hp => (h.2 p (fun x => hp (hl p (.inl x)))).trans (k.2 p (fun x => hp (hl p (.inr x))))⟩

theorem State.Frame.mono {s t : State} {r q : List Nat} {l m : List Part} (h : s.Frame t r l) (hr : ∀ a, a ∈ r → a ∈ q)
    (hl : ∀ p, p ∈ l → p ∈ m) : s.Frame t q m :=
  ⟨fun a ha => h.1 a (fun x => ha (hr a x)), fun p hp => h.2 p (fun x => hp (hl p x))⟩

theorem State.Frame.word {s t : State} {r : List Nat} {l : List Part} (h : s.Frame t r l) {a : Nat} (ha : a ∉ r) :
    t.word a = s.word a := h.1 a ha

theorem State.Frame.get {s t : State} {r : List Nat} {l : List Part} (h : s.Frame t r l) (f : Fld) (ha : f.addr ∉ r) :
    t.get f = s.get f := State.get_of_word f (h.1 _ ha)

theorem State.Frame.is {s t : State} {r : List Nat} {l : List Part} (h : s.Frame t r l) (f : Fld) (ha : f.addr ∉ r) :
    t.is f = s.is f := by simp only [State.is, h.get f ha]

/-- Setting a register changes that register only. -/
theorem State.frame_setWord (s : State) (a : Nat) (w : Word) : s.Frame (s.setWord a w) [a] [] :=
  ⟨fun b hb => State.word_setWord_ne s w (fun e => hb (by simp [e])), fun p _ => by cases p <;> rfl⟩

theorem State.frame_put (s : State) (f : Fld) (v : Nat) : s.Frame (s.put f v) [f.addr] [] := State.frame_setWord s _ _

/-- An update that leaves the registers alone changes the parts it names only. -/
theorem State.frame_parts {s t : State} {l : List Part} (h : t.regs = s.regs) (k : ∀ p, p ∉ l → s.Same t p) :
    s.Frame t [] l := ⟨fun a _ => by simp only [State.word, h], k⟩

theorem State.frame_advance (s : State) (t : Nat) : s.Frame (s.advance t) [] [.now, .tim] :=
  State.frame_parts (by simp) (fun p hp => by cases p <;> simp_all [State.Same])

/-- With room for it, an event that arrives joins the queue at its cycle. -/
theorem State.arrive_room {s : State} {e : Ev} (h : s.roomFor e = true) (ho : e.opens = 0) :
    s.arrive e = { s with arb := { s.arb with queue := s.arb.queue ++ [(s.now / 10, e)] } } := by
  simp [State.arrive, h, State.opened, ho]

/-- With room for it, an event that is sent waits on its way. -/
theorem State.emit_room {s : State} {e : Ev} (h : s.roomFor e = true) :
    s.emit e = { s with arb := { s.arb with wait := s.arb.wait ++ [e] } } := by
  simp [State.emit, h]

end Sys2Proof.Machine
end

