-- ==== Sys2Proof/Laws/Hosts.lean ====
section
/-!
SUPPORT. Sys2Proof/Laws/Hosts.lean: the register arbiter's one law: with no host write waiting, a write is taken as it
arrives, and what it has changed before its effect.
-/

namespace Sys2Proof.Machine

theorem State.roomFor_write {s : State} {h : Nat} (i : s.Idle) (hh : h < 4) {e : Ev} (he : e.source = writeSource h) :
    s.roomFor e = true := by
  obtain ⟨-, -, hq, hw⟩ := i
  have h1 : s.arb.wait.filter (fun x => Nat.beq x.source e.source) = [] := by
    rw [List.filter_eq_nil_iff]
    intro x hx hb
    exact hw x hx h hh ((Nat.eq_of_beq_eq_true hb).trans he)
  have h2 : s.arb.queue.filter (fun x => Nat.beq x.2.source e.source) = [] := by
    rw [List.filter_eq_nil_iff]
    intro x hx hb
    exact (hq x hx).2 h hh ((Nat.eq_of_beq_eq_true hb).trans he)
  simp [State.roomFor, h1, h2]

theorem State.waitingPorts_idle {s : State} {h : Nat} (i : s.Idle) (hh : h < 4) : s.waitingPorts h = [h] := by
  have e : ∀ p ∈ List.range 4, (Nat.beq p h || !(s.port p).posted.isEmpty) = Nat.beq p h := by
    intro p hp
    rw [i.1 p (List.mem_range.mp hp)]; simp
  unfold State.waitingPorts
  rw [List.filter_congr e]
  interval_cases h <;> rfl

theorem State.takeWrite_idle {s : State} {h : Nat} (a : Nat) (v : Word) (al : Bool) (eff : State → State) (i : s.Idle)
    (hh : h < 4) :
    ∃ t, s.Taken t h a v ∧ s.takeWrite h a v al eff = if al || s.writesAct then eff t else t := by
  have hm : h % 4 = h := Nat.mod_eq_of_lt hh
  have hp := i.1 h hh
  have hq : s.arb.queue.all (fun e => !Nat.beq e.2.kind 1) = true := by
    rw [List.all_eq_true]; intro e he; rw [nat_beq_eq]; simp [(i.2.2.1 e he).1]
  -- the open round
  have ho : s.oldest h a v = true := by simp [State.oldest, hp]
  obtain ⟨u, hu, hur, hul⟩ : ∃ u, s.openRound h = u ∧ s.Frame u [] [.now, .tim, .round] ∧ u.round.left = [h] := by
    refine ⟨_, rfl, ?_, ?_⟩
    · simp only [State.openRound, i.2.1, hq, List.isEmpty_nil, Bool.and_self, if_true]
      refine State.frame_parts (by simp) ?_
      intro p hp; cases p <;> simp_all [State.Same]
    · simp [State.openRound, i.2.1, hq, State.waitingPorts_idle i hh]
  have ht : u.turn h = true := by simp [State.turn, hul]
  have hport : ∀ p, u.port p = s.port p := fun p => by
    have := hur.2 .ports (by simp); simp only [State.Same] at this; simp [State.port, this]
  have harb : u.arb = s.arb := hur.2 .arb (by simp)
  let e := u.writeEv h a v
  have hsrc : e.source = writeSource h := by
    simp [e, State.writeEv, Ev.source, writeSource, hm]
  let w := (u.served h).bump (F.hstCntWrites h) 1
  have hw : s.Frame w [R.hstCntWrites h] takingParts := by
    refine State.Frame.trans hur (r' := [R.hstCntWrites h]) (l' := [.ports, .round]) ?_ (by simp) (by simp [takingParts]; tauto)
    refine ⟨fun b hb => ?_, fun p hp => ?_⟩
    · simp only [w]; rw [State.word_bump_ne _ _ (by simpa [F.hstCntWrites] using fun x => hb (by simp [x]))]
      rfl
    · simp only [w]; cases p <;> simp_all [State.Same, State.served]
  have hwport : ∀ p, w.port p = s.port p := by
    intro p
    have : w.port p = (u.setPort h { u.port h with posted := (u.port h).posted.tail }).port p := rfl
    rw [this, hport h, hp]
    by_cases hx : h = p
    · subst hx; rw [State.port_setPort]
      obtain hpp := hp
      cases hs : s.port h; simp_all
    · rw [State.port_setPort_ne _ _ hx, hport]
  have hwarb : w.arb = s.arb := by simp [w, State.served, harb]
  have hroom : w.roomFor e = true := by
    have := State.roomFor_write i hh hsrc
    simpa only [State.roomFor, hwarb] using this
  have hw' : w.arrive e = { w with arb := { w.arb with queue := w.arb.queue ++ [(w.now / 10, e)] } } :=
    State.arrive_room hroom rfl
  refine ⟨w.arrive e, ⟨?_, ?_, ?_, ⟨e, ?_, rfl, rfl, ?_⟩, ?_⟩, ?_⟩
  · rw [hw']
    refine State.Frame.trans hw (r' := []) (l' := [.arb]) (State.frame_parts rfl ?_) (by simp) (by simp [takingParts]; tauto)
    intro p hp; cases p <;> simp_all [State.Same]
  · rw [hw']
    have h1 : w.get (F.hstCntWrites h) = _ := State.get_bump (u.served h) (F.hstCntWrites h) 1 (by simp [F.hstCntWrites])
    have h2 : (u.served h).get (F.hstCntWrites h) = s.get (F.hstCntWrites h) := by
      refine State.get_of_regs _ ?_
      show u.regs = s.regs
      simp only [← hu, State.openRound, i.2.1, hq, List.isEmpty_nil, Bool.and_self, if_true, State.advance_regs]
    rw [h2] at h1
    exact h1
  · intro p; rw [hw']; exact hwport p
  · simp [e, State.writeEv, hm]
  · rw [hw', hwarb]
  · rw [hw', hwarb]
  · simp only [State.takeWrite, hm, ho, if_true, hu, ht]
    have : (u.writeEv h a v) = e := rfl
    rw [this]
    have hact : (w.arrive e).writesAct = s.writesAct := by
      have hmode : (w.arrive e).mode = s.mode := by
        rw [hw']
        exact State.get_of_word _ (hw.1 _ (by simp [F.sysModeMode, R.hstCntWrites, R.sysMode]; omega))
      simp only [State.writesAct, hmode]
    simp only [← hact]
    rfl

/-- Port h's write is taken at once and has its effect. -/
theorem State.takeWrite_ready {s : State} {h : Nat} (a : Nat) (v : Word) (al : Bool) (eff : State → State)
    (r : s.Ready h) : ∃ t, s.Taken t h a v ∧ s.takeWrite h a v al eff = eff t := by
  obtain ⟨t, ht, e⟩ := State.takeWrite_idle a v al eff r.1 r.2.1
  exact ⟨t, ht, by simpa [r.2.2] using e⟩

end Sys2Proof.Machine
end

