-- ==== Sys2Proof/Tests/Slice0.lean ====
section
/-!
SUPPORT. Sys2Proof/Tests/Slice0.lean: ill-formed commands that WellFormed refuses, the check values and the write address of
the spec's own examples, and for every statement with hypotheses a state and operands that meet them, clause by clause.
-/

namespace Sys2Proof.Tests

open Sys2Proof Sys2Proof.Machine

set_option Elab.async false

/-! States -/

/-- The state after reset, brought to mode m. -/
def inMode (m : Nat) : State := State.reset.put F.sysModeMode m

/-- A state in RUN. -/
def run0 : State := inMode 4

/-- With every core, fabric and system PLL locked: the full condition stands. -/
def full (m : Nat) : State := [0, 1, 2, 3, 4, 11].foldl (fun s p => s.put (F.clkPllStatPstate p) 2) (inMode m)

def noCut : Cut := ⟨[], none, [], []⟩

/-- Domain 1 in state st. -/
def domIn (st : Nat) (x : Dom) : State := (run0.put (F.timDomStatDstate 1) st).setDom 1 x

def ann : Announce := ⟨7, 2 ^ 63 + 5, 1, 6, 1, 1, 1, 1, -37, 0⟩

/-- PLL p in state st. -/
def pllIn (p st : Nat) : State := run0.put (F.clkPllStatPstate p) st

/-- DRAM channel 31 in state st. -/
def dramIn (st : Nat) : State := run0.put (F.drcStatCstate 31) st

/-- A clean access of block 77, or with another result. -/
def access (r : Nat) (dead : Bool) : Access := ⟨77 * 64, 2, 500, 2, dead, r, 3, 4, 5⟩

/-- Lane l in state st and mode m, its quad's PLL locked. -/
def laneIn (l st : Nat) (m : Nat := 2) : State :=
  ((run0.put (F.lnkStatLstate l) st).put (F.lnkCfgMode l) m).flag (F.lnkQStatPllLock (l / 4)) true

/-- Source i of kind k in state st: 1,920 by 1,080, path A on, payload type 96, enabled unless it is IDLE. -/
def srcIn (i k st : Nat) : State :=
  ((((((run0.put (F.ingSrcCfgKind i) k).put (F.ingSrcStatState i) st).flag (F.ingSrcCfgEn i) (!Nat.beq st 0)).put
    (F.ingSrcSizeW i) 1920).put (F.ingSrcSizeH i) 1080).flag (F.ingSrcPathEn i 0) true).put (F.ingSrcFmtPt i) 96

/-- Source 511 as a Morvolos-link source on lane 9, which is UP, with cred credits. -/
def mvIn (st cred : Nat) (x : Src) : State :=
  ((((srcIn 511 3 st).put (F.ingSrcPathLane 511 0) 9).put (F.lnkStatLstate 9) 3).setLane 9 { cred := cred }).setSrc 511 x

/-- The executor e at work on a task. -/
def atWork (typ own frame row which e : Nat) (s : State) : State :=
  { s with bob := { s.bob with run := [(e, ⟨typ, own, frame, row, which, 144, 0, 0, 0, 0, 2, 0⟩, 0)] } }

def task (typ own list st ready expiry seq : Nat) : Task := ⟨typ, own, 0, 0, 0, list, 0, ready, 0, expiry, st, seq⟩

/-- Channel 9 in state st with the context c: 1,920 by 1,080, lead engine 33. -/
def chanIn (st : Nat) (c : Chan) : State :=
  ((((((run0.put (F.chnStatState 9) st).put (F.chnFmtW32 9) 60).put (F.chnFmtH8 9) 135).put (F.chnDfixDfix 9) 20000).put
    (F.chnDupStatLead 9) 33).activate (chnAddrs 9)).setChan 9 c

def ctx : Chan :=
  { on := true, placed := true, cur := ⟨3, 1000000, 16000000, false⟩, next := 17000000, nextG := 4, slot := some 3,
    slotK := [(3, 2)], codeFrom := 1, rc := { pic := 2 } }

/-- Channel 9 running, with rows rs. -/
def withRows (rs : List Row) : State := chanIn 2 { ctx with rows := rs }

/-- Engine 9 in state st in mode m, with no repair left. -/
def engIn (st : Nat) (m : Nat := 4) : State :=
  (((inMode m).put (F.encHealthEstate 9) st).put F.sysRedCfgNspare 0).put F.sysRedCfgRepairMax 0

def rec0 : Rec := ⟨5, 1000, 0, true, false, false, 500⟩
def seg0 : Seg := ⟨9, 2, 7, 1, false, []⟩

/-- Request 3 in state r, its ring on and its link up, one segment with two records of channel 9. -/
def reqIn (r : Nat) (q : Req) : State :=
  (((((({ run0 with ring := { segs := [{ seg0 with recs := [rec0, { rec0 with k := 6 }] }] } }.put (F.rplRqStatRstate 3) r).setReq 3 q).flag
    (F.hstRdCfgEn 3) true).put (F.hstRdCfgSize 3) 20).put (F.hstLinkLstate 3) 2).flag (F.hstLinkBme 3) true)

/-- Audio port 15 in state st. -/
def audIn (st : Nat) : State := run0.put (F.audPortStatPstate 15) st

/-- An unfragmented UDP frame to the broadcast address. -/
def frame0 : Frame := ⟨true, 64, 0xFFFFFFFFFFFF, 0, 0x0800, true, false, 17, 0x0A000001, 0xEF010203, 5004, none, none⟩

def desc0 : Desc := ⟨0, 9, 0, true, true, false, false, true, 0, 0⟩

/-! WellFormed: at the last value of every range a command is well-formed, one beyond it is not -/

theorem test_wf_accepts_1 : List.all ([
    .holdExit 63, .supplyGoodLoss 2, .junctionSensorRead [1, 2, 3, 4, 5, 6, 7, 8], .portReset 3 false false,
    .hostLinkStateChange 3 2 5 4 false false, .hostWritePosted 3 0x03FFFFFC 0, .hostRegisterWrite 3 0x03FFFFFC 0,
    .accessError 3 false, .readAndClear 3 0x03FFFFFC, .latchingRead 3 0x03FFFFFC, .chnStart 3 255 0, .chnRelease 3 255 0,
    .chnCommit 3 255, .chnGroupCommit 3 255, .layerCommit 3 15 63 0, .setCommit 3 255 0, .coefSelect 3 15 0,
    .coefDataWrite 3 15 0, .coefLoad 3 15 0, .coefLoadCheck 15, .lutSelect 3 15 0, .lutDataWrite 3 15 0, .lutLoad 3 15 0,
    .lutLoadCheck 15, .sourceEnable 3 511 0, .sourceEnableCheck 511, .sourceDisable 3 511 0, .audioFlowEnable 3 31 0,
    .audPortEnable 3 15 0, .audPortDisable 3 15 0, .audInputEnable 3 47 0, .audInputDisable 3 47 0, .laneEnable 3 255 0,
    .laneEnableCheck 255, .laneDisable 3 255 0, .laneTestEnable 3 255 0, .laneTestAccept 255, .laneTestDisable 3 255 0,
    .prbsInjectSingle 3 255 0, .prbsInjectBurst 3 255 0, .timForce 3 0, .ptpDomainEnable 3 1 0, .ptpDomainDisable 3 1 0,
    .egrCommit 3 255 0, .egrCommitCheck 255, .rplRequestStart 3 3 0, .rplRequestAbort 3 3 0, .selClearFirst 3 0,
    .selClearSecond 3 0, .selClearRecov 3 0, .selForce 3 2047 0, .selTypeCfgWrite 3 255 0, .ckvGo 3 7 0,
    .ckvAbort 3 7 0 noCut, .nvmUpdateGo 3 0, .nvmUpdateAbort 3 0, .nvmReadoutGo 3 0, .nvmReadoutAbort 3 0,
    .modeRequestHold 3 0, .modeRequestRun 3 0] : List Instr) Instr.wellFormed = true := by decide +kernel

theorem test_wf_accepts_2 : List.all ([
    .modeRequestSafe 3 0, .modeRequestDrain 3 0, .modeRequestLoopback 3 0, .modeRequestSelftest 3 0,
    .modeRequestService 3 0, .modeRequestInvalid 3 0xA5000003, .refRestore 3 0 noCut, .pllTargetWrite 3 75 0,
    .pllTargetCheck 75 false, .dramRetrainRequest 3 31 0, .dramInjectSingle 3 31 0, .dramInjectDouble 3 31 0,
    .engineCondemnCmd 3 127 0, .engineRetestCmd 3 127 0, .engineInjectResidue 3 127 0, .engineInjectParity 3 127 0,
    .engineInjectSig 3 127 0, .duplexSwap 3 255 0, .bobHistogramClear 3 147 0, .eventQueueEnable 3 3 0,
    .tapEnable 3 3 15 0, .retrievalRingEnable 3 3 0, .captureFrameStart 255, .rowDeadline 255 0 0,
    .releaseDecision 255 0 0, .rowRelease 255 0 0 0, .packetDeparture 255 1, .auditPoint 255 0 [],
    .st2110PacketReceived 511 ⟨0, 0, 0, 0, false, []⟩, .morvolosPacketReceived 511 ⟨0, 0, 0, 0, 0, false⟩,
    .cameraPacketReceived 511 ⟨0, 0, 0, 0, false, false, none, none⟩, .audioFlowPacketReceived 31 ⟨0, 0, 0, []⟩,
    .pathLossTimeout 511 1, .carryForwardComplete 3, .decodeSliceComplete 127 2, .taskDispatch 171 0,
    .ingestRowComplete 15 0 [], .composeRowComplete 15, .frontEndComplete 255 0 0 1 ⟨0, 0, 0, 0, 0, 0⟩,
    .backEndComplete 255 0 0 1 0 4294967295, .packRowComplete 7, .referenceRepairComplete 3, .checkerFiring 127 false,
    .taskTimeLimit 127, .selftestIntervalStart 127, .selftestOverdue 127, .selftestSliceComplete 127 false,
    .laneFrameReceived 255 frame0, .laneBlockLock 255 false, .laneLockLoss 255 false 0, .remoteFaultReceived 255,
    .lockTimeExpiry 255, .trainingComplete 255 0 0 0 false, .trainingTimeout 255 false, .backoffExpiry 255,
    .upStableReset 255, .bondAlignment 63 255 0, .fecUncorrectable 255 0, .morvolosAlignment 255,
    .morvolosAlignLoss 255 0] : List Instr) Instr.wellFormed = true := by decide +kernel

theorem test_wf_accepts_3 : List.all ([
    .morvolosPolarityFlip 255, .prbsCheckerLock 255, .prbsCheckerLoss 255 0 0, .refreshDue 31 1 false, .dramTempRead 31 [],
    .neighbourRefresh 31, .agePromotion 31 6 0, .scrubRead 31 2 0 0 0 false, .dqsTracking 31 false,
    .dramRetrainComplete 31 0 0 0 0 false, .dramTrainingComplete 31 0 0 0 0 false, .dramTrainingTimeout 31,
    .pllLockDeclared 75 15 noCut, .pllLockLoss 75 noCut, .pllBandSearchStep 75, .pllTableBandTimeout 75,
    .pllAcquireTimeout 75, .pllRetryExpiry 75, .pllRampComplete 75, .clockMonitorWindow 75 0 noCut,
    .ptpSyncReceived 1 0 0 0 0 0, .ptpAnnounceReceived 1 ann, .ptpDelayRespReceived 1 0 0 0, .ptpDelayReqSend 1,
    .ptpQualificationComplete 1, .ptpAnnounceTimeout 1, .ptpSyncTimeout 1, .audioPortFrame 15 ⟨[], false, 0⟩,
    .portPrimeDone 15, .portStopDone 15, .portClockValid 15, .portClockLoss 15 0, .portRateGate 15 0 0,
    .retrievalSearchDone 3, .retrievalSegmentRead 3, .retrievalRecordDelivery 3 false, .faultOccurrence 65535 noCut,
    .shadowClose 8 4095, .reactionComplete 65535 noCut, .selSelfError 4, .selftestComplete [0, 127] 65535 0 0,
    .nvmUpdateWriteDone none 256, .ckvDescriptorDone 7 desc0 [] [], .ckvFetchError 7 noCut, .eventQueueWrite 3,
    .msixModerationExpiry 3 7, .remoteFaultClear 255, .safeReconstructionDecoded 255, .ringRecordComplete 255 false,
    .tapRecordComplete 3 15 false,
    .powerMonitorUpdate 4095 1023 0 0] : List Instr) Instr.wellFormed = true := by decide +kernel

theorem test_wf_refuses_1 : List.all ([
    .holdExit 64, .supplyGoodLoss 3, .junctionSensorRead [1, 2, 3, 4, 5, 6, 7], .portReset 4 false false,
    .hostLinkStateChange 4 2 5 4 false false, .hostLinkStateChange 3 3 5 4 false false,
    .hostLinkStateChange 3 2 6 4 false false, .hostLinkStateChange 3 2 5 3 false false, .hostWritePosted 4 0x03FFFFFC 0,
    .hostWritePosted 3 0x04000000 0, .hostWritePosted 3 0x00060002 0, .hostRegisterWrite 4 0x03FFFFFC 0,
    .hostRegisterWrite 3 0x04000000 0, .hostRegisterWrite 3 0x00060002 0, .accessError 4 false, .readAndClear 4 0x03FFFFFC,
    .readAndClear 3 0x04000000, .readAndClear 3 0x00060002, .latchingRead 4 0x03FFFFFC, .latchingRead 3 0x04000000,
    .latchingRead 3 0x00060002, .chnStart 4 255 0, .chnStart 3 256 0, .chnRelease 4 255 0, .chnRelease 3 256 0,
    .chnCommit 4 255, .chnCommit 3 256, .chnGroupCommit 4 255, .chnGroupCommit 3 256, .layerCommit 4 15 63 0,
    .layerCommit 3 16 63 0, .layerCommit 3 15 64 0, .setCommit 4 255 0, .setCommit 3 256 0, .coefSelect 4 15 0,
    .coefSelect 3 16 0, .coefDataWrite 4 15 0, .coefDataWrite 3 16 0, .coefLoad 4 15 0, .coefLoad 3 16 0,
    .coefLoadCheck 16, .lutSelect 4 15 0, .lutSelect 3 16 0, .lutDataWrite 4 15 0, .lutDataWrite 3 16 0, .lutLoad 4 15 0,
    .lutLoad 3 16 0, .lutLoadCheck 16, .sourceEnable 4 511 0, .sourceEnable 3 512 0, .sourceEnableCheck 512,
    .sourceDisable 4 511 0, .sourceDisable 3 512 0, .audioFlowEnable 4 31 0, .audioFlowEnable 3 32 0,
    .audPortEnable 4 15 0, .audPortEnable 3 16 0, .audPortDisable 4 15 0, .audPortDisable 3 16 0,
    .audInputEnable 4 47 0] : List Instr) (fun i => !i.wellFormed) = true := by decide +kernel

theorem test_wf_refuses_2 : List.all ([
    .audInputEnable 3 48 0, .audInputDisable 4 47 0, .audInputDisable 3 48 0, .laneEnable 4 255 0, .laneEnable 3 256 0,
    .laneEnableCheck 256, .laneDisable 4 255 0, .laneDisable 3 256 0, .laneTestEnable 4 255 0, .laneTestEnable 3 256 0,
    .laneTestAccept 256, .laneTestDisable 4 255 0, .laneTestDisable 3 256 0, .prbsInjectSingle 4 255 0,
    .prbsInjectSingle 3 256 0, .prbsInjectBurst 4 255 0, .prbsInjectBurst 3 256 0, .timForce 4 0, .ptpDomainEnable 4 1 0,
    .ptpDomainEnable 3 2 0, .ptpDomainDisable 4 1 0, .ptpDomainDisable 3 2 0, .egrCommit 4 255 0, .egrCommit 3 256 0,
    .egrCommitCheck 256, .rplRequestStart 4 3 0, .rplRequestStart 3 4 0, .rplRequestAbort 4 3 0, .rplRequestAbort 3 4 0,
    .selClearFirst 4 0, .selClearSecond 4 0, .selClearRecov 4 0, .selForce 4 2047 0, .selForce 3 2048 0,
    .selTypeCfgWrite 4 255 0, .selTypeCfgWrite 3 256 0, .ckvGo 4 7 0, .ckvGo 3 8 0, .ckvAbort 4 7 0 noCut,
    .ckvAbort 3 8 0 noCut, .nvmUpdateGo 4 0, .nvmUpdateAbort 4 0, .nvmReadoutGo 4 0, .nvmReadoutAbort 4 0,
    .modeRequestHold 4 0, .modeRequestRun 4 0, .modeRequestSafe 4 0, .modeRequestDrain 4 0, .modeRequestLoopback 4 0,
    .modeRequestSelftest 4 0, .modeRequestService 4 0, .modeRequestInvalid 4 0xA5000003, .modeRequestInvalid 3 0xA5000004,
    .refRestore 4 0 noCut, .pllTargetWrite 4 75 0, .pllTargetWrite 3 76 0, .pllTargetCheck 76 false,
    .dramRetrainRequest 4 31 0, .dramRetrainRequest 3 32 0,
    .dramInjectSingle 4 31 0] : List Instr) (fun i => !i.wellFormed) = true := by decide +kernel

theorem test_wf_refuses_3 : List.all ([
    .dramInjectSingle 3 32 0, .dramInjectDouble 4 31 0, .dramInjectDouble 3 32 0, .engineCondemnCmd 4 127 0,
    .engineCondemnCmd 3 128 0, .engineRetestCmd 4 127 0, .engineRetestCmd 3 128 0, .engineInjectResidue 4 127 0,
    .engineInjectResidue 3 128 0, .engineInjectParity 4 127 0, .engineInjectParity 3 128 0, .engineInjectSig 4 127 0,
    .engineInjectSig 3 128 0, .duplexSwap 4 255 0, .duplexSwap 3 256 0, .bobHistogramClear 4 147 0,
    .bobHistogramClear 3 148 0, .eventQueueEnable 4 3 0, .eventQueueEnable 3 4 0, .tapEnable 4 3 15 0, .tapEnable 3 4 15 0,
    .tapEnable 3 3 16 0, .retrievalRingEnable 4 3 0, .retrievalRingEnable 3 4 0, .captureFrameStart 256,
    .rowDeadline 256 0 0, .releaseDecision 256 0 0, .rowRelease 256 0 0 0, .packetDeparture 256 1, .packetDeparture 255 2,
    .auditPoint 256 0 [], .st2110PacketReceived 512 ⟨0, 0, 0, 0, false, []⟩,
    .morvolosPacketReceived 512 ⟨0, 0, 0, 0, 0, false⟩, .cameraPacketReceived 512 ⟨0, 0, 0, 0, false, false, none, none⟩,
    .audioFlowPacketReceived 32 ⟨0, 0, 0, []⟩, .pathLossTimeout 512 1, .pathLossTimeout 511 2, .carryForwardComplete 4,
    .decodeSliceComplete 128 2, .decodeSliceComplete 127 3, .taskDispatch 172 0, .ingestRowComplete 16 0 [],
    .composeRowComplete 16, .frontEndComplete 256 0 0 1 ⟨0, 0, 0, 0, 0, 0⟩, .frontEndComplete 255 0 0 2 ⟨0, 0, 0, 0, 0, 0⟩,
    .backEndComplete 256 0 0 1 0 4294967295, .backEndComplete 255 0 0 2 0 4294967295,
    .backEndComplete 255 0 0 1 0 0x100000000, .packRowComplete 8, .referenceRepairComplete 4, .checkerFiring 128 false,
    .taskTimeLimit 128, .selftestIntervalStart 128, .selftestOverdue 128, .selftestSliceComplete 128 false,
    .laneFrameReceived 256 frame0, .laneBlockLock 256 false, .laneLockLoss 256 false 0, .remoteFaultReceived 256,
    .lockTimeExpiry 256] : List Instr) (fun i => !i.wellFormed) = true := by decide +kernel

theorem test_wf_refuses_4 : List.all ([
    .trainingComplete 256 0 0 0 false, .trainingTimeout 256 false, .backoffExpiry 256, .upStableReset 256,
    .bondAlignment 64 255 0, .bondAlignment 63 256 0, .fecUncorrectable 256 0, .morvolosAlignment 256,
    .morvolosAlignLoss 256 0, .morvolosPolarityFlip 256, .prbsCheckerLock 256, .prbsCheckerLoss 256 0 0,
    .refreshDue 32 1 false, .refreshDue 31 2 false, .dramTempRead 32 [], .neighbourRefresh 32, .agePromotion 32 6 0,
    .agePromotion 31 7 0, .scrubRead 32 2 0 0 0 false, .scrubRead 31 3 0 0 0 false, .dqsTracking 32 false,
    .dramRetrainComplete 32 0 0 0 0 false, .dramTrainingComplete 32 0 0 0 0 false, .dramTrainingTimeout 32,
    .pllLockDeclared 76 15 noCut, .pllLockDeclared 75 16 noCut, .pllLockLoss 76 noCut, .pllBandSearchStep 76,
    .pllTableBandTimeout 76, .pllAcquireTimeout 76, .pllRetryExpiry 76, .pllRampComplete 76,
    .clockMonitorWindow 76 0 noCut, .ptpSyncReceived 2 0 0 0 0 0, .ptpAnnounceReceived 2 ann,
    .ptpDelayRespReceived 2 0 0 0, .ptpDelayReqSend 2, .ptpQualificationComplete 2, .ptpAnnounceTimeout 2,
    .ptpSyncTimeout 2, .audioPortFrame 16 ⟨[], false, 0⟩, .portPrimeDone 16, .portStopDone 16, .portClockValid 16,
    .portClockLoss 16 0, .portRateGate 16 0 0, .retrievalSearchDone 4, .retrievalSegmentRead 4,
    .retrievalRecordDelivery 4 false, .faultOccurrence 0x10000 noCut, .shadowClose 9 4095, .shadowClose 8 0x1000,
    .reactionComplete 0x10000 noCut, .selSelfError 5, .selftestComplete [0, 128] 65535 0 0,
    .selftestComplete [0, 127] 65536 0 0, .nvmUpdateWriteDone none 257, .ckvDescriptorDone 8 desc0 [] [],
    .ckvFetchError 8 noCut, .eventQueueWrite 4] : List Instr) (fun i => !i.wellFormed) = true := by decide +kernel

theorem test_wf_refuses_5 : List.all ([
    .msixModerationExpiry 4 7, .msixModerationExpiry 3 8, .remoteFaultClear 256, .safeReconstructionDecoded 256,
    .ringRecordComplete 256 false, .tapRecordComplete 4 15 false, .tapRecordComplete 3 16 false,
    .powerMonitorUpdate 4096 1023 0 0,
    .powerMonitorUpdate 4095 1024 0 0] : List Instr) (fun i => !i.wellFormed) = true := by decide +kernel

/-! The spec's own figures -/

/-- "123456789". -/
def digits : List (BitVec 8) := [0x31, 0x32, 0x33, 0x34, 0x35, 0x36, 0x37, 0x38, 0x39]

/-- The finished check value of "123456789" under algorithm p. -/
def finished (p : Nat) : Nat := crcRun p (crcInit p) digits % 2 ^ crcWidth p ^^^ crcFinal p

/-- The table of algorithms gives these check values (R513). -/
theorem test_crc_vectors : [0, 1, 2, 3].map finished = [0xCBF43926, 0xE3069283, 0x29B1, 0x6C40DF5F0B497347] := by
  decide +kernel

/-- In a WRITE event the address is (region index × 0x4_0000) + 4 × [47:32], and the port stands in [63:56] (R571). -/
theorem test_write_address :
    (let d := writeData 3 0x00CA0040 7
     d / 2 ^ 48 % 256 * 0x40000 + 4 * (d / 2 ^ 32 % 2 ^ 16) = 0x00CA0040 ∧ d / 2 ^ 56 = 3 ∧ d % 2 ^ 32 = 7) := by decide +kernel

/-- R7, R551: after reset the mode is HOLD and a field has the value of its Reset column (0xFFFFF for MINFREE). -/
theorem test_reset : State.reset.mode = Mode.hold ∧ State.reset.get (F.sysPoolMinfreePages 2) = 0xFFFFF := by decide +kernel

/-- R6: a misaligned read counts one access error and returns 0. -/
theorem test_access_error :
    (match exec (.accessError 2 true) (run0.setPort 2 { reply := 5 }) with
      | .next t => t.get (F.hstCntAccerr 2) == 1 && (t.port 2).reply == 0
      | _ => false) = true := by decide +kernel

/-- The bits of the table's rows are not given: no word spells a command. -/
theorem test_table_word : decodeTableWord 32 0 = none := by decide +kernel

/-- step runs the command at the front. -/
theorem test_step :
    (match step { run0 with pending := [.removeRequest, .bobTick] } with
      | .next t => t.pending == [.bobTick] && t.is F.sysSlotRemove
      | _ => false) = true := by decide +kernel

/-! For every statement with hypotheses, what meets them -/

theorem witness_StepKeepsCanon : ∃ t, State.reset.Canon ∧ step State.reset = .next t :=
  ⟨_, by unfold State.Canon; decide +kernel, rfl⟩

theorem witness_HostWriteTaken : run0.Idle ∧ 3 < 4 ∧ R.chnCommit 255 ≠ R.sysReq ∧ run0.writesAct = true
    ∧ State.reset.Idle ∧ State.reset.writesAct = false := by
  unfold State.Idle; decide +kernel

theorem witness_HostReads : 3 < 4 ∧ 255 < 256 ∧ 2 < 3 ∧ (run0.port 3).posted = [] := by decide +kernel

theorem witness_PostedWritesWait : (run0.port 3).posted.length < 64
    ∧ ((run0.setPort 3 { posted := List.replicate 64 ⟨0x60000, 0⟩ }).port 3).posted.length = 64 := by decide +kernel

theorem witness_EventQueueAndInterrupts :
    run0.Ready 3 ∧ (let s : State := { run0 with arb := { run0.arb with eq := [(3, [[1], [2]])] }, ports := [(3, { msiWait := [7, 7] })] }
      Tab.get [] s.arb.eq 3 = [1] :: [[2]] ∧ s.get (F.hstEqCfgSize 3) ≤ 19 ∧ 7 ∈ (s.port 3).msiWait) := by
  unfold State.Ready State.Idle; decide +kernel

theorem witness_PortResetAndLink : run0.rstate 3 = 0 ∧ run0.get (F.hstLinkLstate 3) ≠ 2 ∧ 1 ≤ 2 ∧ 5 < 8 ∧ 4 < 8 := by decide +kernel

theorem witness_PowerAndHold : State.reset.mode = Mode.hold ∧ State.reset.sys.trip = false ∧ run0.mode ≠ Mode.hold := by
  decide +kernel

theorem witness_SensorsAndPower :
    (∀ x ∈ [(94 : Int), -128], -128 ≤ x ∧ x < 95) ∧ run0.is F.sysThermWarn = false
      ∧ 100 ≤ hottestSensor [(109 : Int), 3] ∧ hottestSensor [(109 : Int), 3] < 110 ∧ (run0.flag F.sysThermWarn true).is F.sysThermWarn = true := by
  decide +kernel

theorem witness_ModeRequests : run0.Idle ∧ run0.mode ≠ Mode.hold ∧ bitsAt (0xF0000003 : Word) 24 8 ≠ 0xA5 := by
  unfold State.Idle; decide +kernel

theorem witness_ModeEvaluation :
    (run0.mode = Mode.run ∧ run0.sys.reqs = [])
      ∧ (let s : State := { run0 with sys := { run0.sys with reqs := [⟨Mode.hold, 3, 2, 0⟩] } }
         s.mode ≠ Mode.hold ∧ s.sys.reqs = [⟨Mode.hold, 3, 2, 0⟩])
      ∧ (let s : State := { run0 with sys := { run0.sys with reqs := [⟨Mode.safe, 3, 2, 0⟩] } }
         s.mode = Mode.run ∧ s.sys.reqs = [⟨Mode.safe, 3, 2, 0⟩]) := by decide +kernel

theorem witness_ModeEnds :
    (let s := (inMode 3).arm Timer.srcWait 7
     s.armed Timer.srcWait = true ∧ s.is F.timStatArmReady = false)
    ∧ (let s : State := { full 5 with sys := { (full 5).sys with fullSince := some 3 } }
       s.mode = Mode.degraded ∧ s.fullCond = true ∧ s.sys.fullSince ≠ none)
    ∧ (let s := (full 7).arm Timer.recover 7
       s.mode = Mode.recover ∧ s.fullCond = true ∧ s.anyAdmitted = false ∧ s.armed Timer.recover = true)
    ∧ (let s := (inMode 8).arm Timer.drain 7
       s.mode = Mode.drain ∧ s.armed Timer.drain = true)
    ∧ (let s : State := { inMode 8 with sys := { summary := true } }
       s.mode = Mode.drain ∧ s.sys.summary = true ∧ ∀ r ∈ s.arb.jbuf, isRingRecord r = false)
    ∧ ((full 10).mode = Mode.selftest ∧ (full 10).fullCond = true) := by decide +kernel

/-- The premise of the RECOVER clause that is about every context. -/
theorem witness_ModeEnds_want : ∀ n, (((full 7).arm Timer.recover 7).chan n).want ≠ 1 :=
  fun _ => (by decide : (0 : Nat) ≠ 1)

theorem witness_FaultOccurrences :
    (let c := Src.lnkDown 255
     let s (n : Nat) : State := { run0 with sel := { occ := [(c, false)] } }.put (F.selTypeCfgT (srcType c)) n
     let r : State := (s 1).put (F.selTypeCfgReact (srcType c)) 0
     c < 2 ^ 16 ∧ listedSource c = true ∧ srcType c ≠ 0x10
       ∧ ((s 15).sel.shadows = [] ∧ (s 15).sel.occ.find? (fun o => Nat.beq o.1 c) = some (c, false)
         ∧ 2 ≤ (s 15).get (F.selTypeCfgT (srcType c)) ∧ Tab.get [] (s 15).sel.win c = [])
       ∧ (r.sel.shadows = [] ∧ r.sel.occ.find? (fun o => Nat.beq o.1 c) = some (c, false) ∧ r.get (F.selTypeCfgT (srcType c)) = 1
         ∧ r.get (F.selTypeCfgReact (srcType c)) = 0 ∧ srcType c ∉ [0x90, 0x91, 0xD0, 0xD1, 0xE3] ∧ r.sel.handling = []
         ∧ r.is F.selStatFirstValid = false))
    ∧ run0.sel.shadows = [] ∧ run0.mode = Mode.run ∧ run0.is F.selStatFirstValid = false ∧ 4 < 5 := by decide +kernel

theorem witness_SelCounts :
    ((run0.openShadow 3 4 true).arm (Timer.shadow 3 4) 6).armed (Timer.shadow 3 4) = true
    ∧ (let s : State := { run0 with sel := { handling := [⟨77, 2⟩] } }
       s.sel.handling.find? (fun x => Nat.beq x.code 77) = some ⟨77, 2⟩ ∧ s.reactionEnded ⟨77, 2⟩ = true ∧ s.sel.pend = [])
    ∧ (let s := (inMode 6).arm Timer.quiet 5
       s.armed Timer.quiet = true ∧ s.mode = Mode.safe ∧ s.is F.selStatHeld = false) := by decide +kernel

theorem witness_SelWrites : run0.Ready 3 ∧ 2047 < 2048 ∧ 255 < 256 ∧ bitsAt (1 : Word) 1 1 = 0 ∧ bitsAt (1 : Word) 2 1 = 0
    ∧ bitsAt (2 : Word) 0 1 = 0 ∧ bitsAt (4 : Word) 0 1 = 0 ∧ bitsAt (4 : Word) 1 1 = 0 := by
  unfold State.Ready State.Idle; decide +kernel

theorem witness_EventNumbering :
    (let e : Ev := ⟨3, 3, 5, 0, 9, 1, 0, 0⟩
     let s : State := { run0 with arb := { wait := [e, e] } }
     let q : State := { run0 with arb := { queue := [(0, e)] } }
     (s.arb.wait[1]? = some e ∧ e.opens = 0
       ∧ (s.arb.wait.filter (fun x => Nat.beq x.source e.source)).length
         + (s.arb.queue.filter (fun x => Nat.beq x.2.source e.source)).length ≤ 4)
     ∧ (q.arb.queue = [(0, e)] ∧ e.kind ∈ [1, 3, 4] ∧ q.arb.jbuf.length < 65536))
    ∧ (let s : State := { run0 with arb := { jbuf := [[1], [2]], jidx := 2 ^ 20 - 1 }, sys := { booted := true } }
       s.arb.jbuf = [1] :: [[2]] ∧ s.journalOpen = true ∧ s.arb.jidx < 2 ^ 20 ∧ s.arb.jidx % 128 ≠ 0 ∧ s.arb.jgap = 0) := by
  decide +kernel

theorem witness_PtpMessages :
    (let s := domIn 2 { master := some 7 }
     s.tracking 1 = true ∧ (s.dom 1).master = some 7 ∧ (s.dom 1).lastX = none ∧ s.tstate = TState.freerun)
    ∧ ((domIn 1 {}).dstate 1 = DState.listening ∧ ((domIn 1 {}).dom 1).foreign = [] ∧ -3 ≤ ann.logInt ∧ ann.logInt ≤ 1)
    ∧ (let s := domIn 1 { foreign := [⟨ann, 1, 0⟩] }
       s.dstate 1 = DState.listening ∧ (s.dom 1).foreign = [⟨ann, 1, 0⟩] ∧ s.now - 0 ≤ 4 * logNs ann.logInt)
    ∧ (let s := domIn 2 { sync := some (5, 105), t3 := some 200 }
       s.tracking 1 = true ∧ (s.dom 1).sync = some (5, 105) ∧ (s.dom 1).t3 = some 200)
    ∧ (let s := (domIn 2 {}).arm (Timer.domDreq 1) 6
       s.tracking 1 = true ∧ s.armed (Timer.domDreq 1) = true) := by decide +kernel

theorem witness_PtpDomainStates :
    (let s := (domIn 2 { qNext := 10 }).arm (Timer.domQual 1) 6
     s.armed (Timer.domQual 1) = true ∧ s.dstate 1 = DState.uncalibrated ∧ s.mode ≠ Mode.arm
       ∧ 10000000000 / max 1 (s.dom 1).syncNs ≤ (s.dom 1).qNext ∧ s.tstate = TState.freerun ∧ s.tim.acq = false)
    ∧ (let s := (domIn 2 {}).arm (Timer.domAnnounce 1) 6
       s.armed (Timer.domAnnounce 1) = true ∧ s.dstate 1 = DState.uncalibrated)
    ∧ (let s := (domIn 3 {}).arm (Timer.domSync 1) 6
       s.armed (Timer.domSync 1) = true ∧ s.dstate 1 = DState.qualified ∧ s.selected ≠ 1)
    ∧ ((domIn 0 {}).dstate 1 = DState.disabled ∧ (domIn 1 {}).dstate 1 = DState.listening ∧ (domIn 2 {}).dstate 1 = DState.uncalibrated) := by
  decide +kernel

theorem witness_PtpDomainStates_ready : (domIn 0 {}).Ready 3 ∧ (domIn 2 {}).Ready 3 := by
  unfold State.Ready State.Idle; decide +kernel

theorem witness_TimeSelection :
    (let s : State := { domIn 3 {} with tim := { acq := true, rem := 7 } }
     s.tim.slewAcc < 1000000000 ∧ s.tim.acq = true ∧ s.tstate = TState.freerun ∧ s.qualified (1 - s.selected) = true)
    ∧ (let s : State := ({ domIn 3 {} with tim := { rem := -2000000 } }.put F.timStatTstate 2).put F.timCtlSlewMax 100
       s.tim.slewAcc < 1000000000 ∧ s.tstate = TState.slewing ∧ s.get F.timCtlSlewMax ≠ 0
         ∧ (s.flag F.timStatFar true).is F.timStatFar = true ∧ (s.flag F.timStatFar true).tstate = TState.slewing
         ∧ (s.flag F.timStatFar true).get F.timCtlSlewMax ≠ 0)
    ∧ run0.qualified (1 - run0.selected) = false := by decide +kernel

theorem witness_TimeSelection_saturated :
    let s : State := ({ run0 with tim := { acq := true } }.put (F.timDomOfsOfs 0) (2 ^ 31 - 1)).setDom 0 { lastX := some (2 ^ 40, 3) }
    s.tim.slewAcc < 1000000000 ∧ s.tim.acq = true ∧ s.tstate = TState.freerun ∧ (s.dom s.selected).lastX = some (2 ^ 40, 3)
      ∧ s.domOfs s.selected = clampSigned 32 (2 ^ 40 - s.tim.off) := by decide +kernel

theorem witness_TimeSelection_ready : run0.Ready 3 ∧ ({ domIn 3 {} with tim := { acq := true, rem := 7 } } : State).Ready 3 := by
  unfold State.Ready State.Idle; decide +kernel

theorem witness_TimeReferences :
    (let s := (run0.put F.timRefRstate 1).arm Timer.refQual 7
     s.armed Timer.refQual = true ∧ s.get F.timRefRstate = 1)
    ∧ (let s : State := { run0.put F.timRefRstate 2 with tim := { refBad := 1 } }
       s.get F.timRefRstate = 2 ∧ s.get F.timRefFmonPpm < (((0 : Nat) : Int) - 1000000).natAbs ∧ s.tim.refBad ≠ 0)
    ∧ (run0.get F.timRefFmonPpm < (((0 : Nat) : Int) - 1000000).natAbs ∧ run0.tim.refBad = 0)
    ∧ (((1000000 : Nat) : Int) - 1000000).natAbs ≤ run0.get F.timRefFmonPpm
    ∧ (run0.put F.timRefRstate 3).get F.timRefRstate = 3
    ∧ (let s : State := { run0 with tim := { off := -5 } }.flag F.timPpsOutEn true
       s.ppsMay = true ∧ s.tim.rem = 0)
    ∧ (run0.arm Timer.ppsFall 5).armed Timer.ppsFall = true := by decide +kernel

theorem witness_TimeLimits :
    (let s := ((inMode 3).flag (F.ingSrcCfgEn 511) true).arm Timer.armWait 4
     s.armed Timer.armWait = true ∧ s.mode = Mode.arm ∧ s.sys.srcWaitOver = false ∧ s.srcWaiting = true)
    ∧ (let s := (run0.put F.timStatTstate 3).arm Timer.holdoverLong 4
       s.armed Timer.holdoverLong = true ∧ s.tstate = TState.holdover)
    ∧ (let s := (run0.flag F.timStatFar true).arm Timer.slewFar 4
       s.armed Timer.slewFar = true ∧ s.is F.timStatFar = true) := by decide +kernel

theorem witness_PllAcquisition :
    ((run0.arm (Timer.pllStep 75) 5).armed (Timer.pllStep 75) = true ∧ (run0.arm (Timer.pllTable 75) 5).armed (Timer.pllTable 75) = true
      ∧ (run0.arm (Timer.pllAcquire 75) 5).armed (Timer.pllAcquire 75) = true)
    ∧ (let s := (pllIn 75 4).arm (Timer.pllRetry 75) 5
       s.armed (Timer.pllRetry 75) = true ∧ s.pstate 75 = PState.retry)
    ∧ (let s := (pllIn 75 3).arm (Timer.pllRamp 75) 5
       s.armed (Timer.pllRamp 75) = true ∧ s.pstate 75 = PState.ramp)
    ∧ (let s := pllIn 3 1
       s.mode = Mode.run ∧ s.pstate 3 = PState.acquire ∧ (s.pll 3).steps = 0 ∧ s.sel.shadows = [] ∧ s.clk.restore = []) := by
  decide +kernel

theorem witness_PllLossAndTarget :
    ((pllIn 11 2).pllUp 11 = true ∧ (pllIn 4 2).pllUp 4 = true ∧ 103 * (pllIn 4 2).instTarget 4 < 100 * 3000000
      ∧ 100 * 0 ≤ 103 * (pllIn 4 2).instTarget 4)
    ∧ (run0.mode = Mode.run ∧ 1200000 ≤ (1200000 : Word).toNat ∧ (1700000 : Word).toNat ≤ 1700000)
    ∧ (let s := ((pllIn 3 2).put (F.clkPllTgtTgt 3) 1700000).setPll 3 { pend := some 1500000 }
       s.mode = Mode.run ∧ s.pllUp 3 = true ∧ (s.pll 3).pend = some 1500000
         ∧ (s.tick.setPll 3 { s.pll 3 with pend := none }).targetReason 3 1500000 = 0)
    ∧ (run0.clk.cleaner = true ∧ run0.writesAct = true ∧ ∀ q, q < 76 → run0.pstate q = PState.off)
    ∧ (let s : State := { run0 with clk := { cleaner := false } }
       s.clk.cleaner = false ∧ s.writesAct = true)
    ∧ (let s : State := { (pllIn 3 1).flag F.clkStatCleanerOk true with now := 10000000000 }
       s.is F.clkStatCleanerOk = true ∧ s.clk.since + 10000000000 ≤ s.now ∧ s.pllUp 3 = false
         ∧ (List.range 76).filter (fun q => !(Nat.ble 5 q && Nat.ble q 8) && !Nat.beq (s.pstate q) PState.off) = 3 :: []) := by
  decide +kernel

theorem witness_PllLossAndTarget_ready :
    run0.Ready 3 ∧ ({ (pllIn 3 1).flag F.clkStatCleanerOk true with now := 10000000000 } : State).Ready 3 := by
  unfold State.Ready State.Idle; decide +kernel

theorem witness_DramUpkeep :
    (let s := (dramIn 2).arm (Timer.refresh 31 1) 4
     1 < 2 ∧ s.armed (Timer.refresh 31 1) = true ∧ (s.dch 31).cooled = false)
    ∧ ((dramIn 2).cstate 31 = CState.active ∧ (-128 : Int) ≤ 82 ∧ (82 : Int) < 83 ∧ (dramIn 2).is (F.drcStatRef2x 31) = false)
    ∧ (let s := (dramIn 2).flag (F.drcStatRef2x 31) true
       s.cstate 31 = CState.active ∧ s.is (F.drcStatRef2x 31) = true ∧ (95 : Int) < 127)
    ∧ ∃ n, (dramIn 2).ageLimit 31 2 = some n ∧ n < n + 1 := by
  refine ⟨?_, ?_, ?_, _, rfl, Nat.lt_succ_self _⟩ <;> decide +kernel

theorem witness_DramUpkeep_ready : (dramIn 2).Ready 3 := by unfold State.Ready State.Idle; decide +kernel

/-- A state in RUN of ordering code 0: the strap itself is open (notes/assumptions/1). -/
def coded : State := { run0 with regs := (R.sysId, 0x9256) :: run0.regs }

theorem witness_DramAccesses :
    (∀ r, r < 3 → coded.cstate (coded.daChannel (access r false).da) ≠ CState.failed ∧ (access r false).dead = false
      ∧ (access r false).result = r ∧ Tab.get 0 (coded.dch (coded.daChannel (access r false).da)).bad ((access r false).da / 64) = 0)
    ∧ (access 0 true).dead = true ∧ coded.cstate (coded.daChannel (access 0 true).da) ≠ CState.failed
    ∧ (let s := (coded.put (F.drcStatCstate 31) 2).flag (F.drcCtlScrubEn 31) true
       s.is (F.drcCtlScrubEn 31) = true ∧ s.cstate 31 = CState.active
         ∧ Tab.get 0 (s.dch 31).bad (s.blockDa 31 (s.dch 31).scrub / 64) = 0) := by decide +kernel

theorem witness_DramTraining :
    (dramIn 4).cstate 31 = CState.retrain ∧ 13 ≤ 13 ∧ 255 < 256
    ∧ (let s := ((dramIn 1).put (F.drcStatCstate 3) 1).arm (Timer.train 31) 3
       s.cstate 31 = CState.training ∧ s.cstate 3 = CState.training ∧ 31 ≠ 3 ∧ s.armed (Timer.train 31) = true ∧ 31 / 4 ≠ 3 / 4
         ∧ s.get (F.drcGrpStatReason (31 / 4)) = 0) := by decide +kernel

theorem witness_LoadAndCalibrate :
    (let s := (inMode 1).put F.nvmStatLstate 1
     s.mode = Mode.load ∧ s.get F.nvmStatLstate = 1 ∧ s.sys.svcWait = none)
    ∧ ({ run0 with sel := { reread := true } } : State).sel.reread = true
    ∧ (let s := (inMode 2).arm Timer.calibrate 1
       s.armed Timer.calibrate = true ∧ s.mode = Mode.calibrate ∧ s.is F.nvmStatNosafe = false ∧ s.safeSet = false)
    ∧ (let s := ((inMode 2).put (F.clkPllStatPstate 13) 2).arm Timer.calibrate 1
       s.armed Timer.calibrate = true ∧ s.mode = Mode.calibrate ∧ s.is F.nvmStatNosafe = false ∧ s.safeSet = true) := by
  decide +kernel

theorem witness_LaneEnables :
    ((laneIn 255 0).bonded 255 = false ∧ ((laneIn 255 0).lane 255).enWait = none ∧ (laneIn 255 0).is (F.lnkCfgEn 255) = false
      ∧ ((laneIn 255 3).flag (F.lnkCfgEn 255) true).is (F.lnkCfgEn 255) = true)
    ∧ (let s := ((laneIn 255 0).setLane 255 { enWait := some true }).put (F.clkPllStatPstate 75) 2
       s.bonded 255 = false ∧ (s.lane 255).enWait = some true ∧ s.laneErr 255 = 0 ∧ s.lstate 255 = LState.off
         ∧ s.pstate (12 + 255 / 4) ≠ PState.off)
    ∧ (let s := (laneIn 255 3).setLane 255 { enWait := some false }
       s.bonded 255 = false ∧ (s.lane 255).enWait = some false ∧ s.laneInUse 255 = false) := by decide +kernel

theorem witness_LaneEnables_ready : (laneIn 255 0).Ready 3 ∧ ((laneIn 255 3).flag (F.lnkCfgEn 255) true).Ready 3 := by
  unfold State.Ready State.Idle; decide +kernel

theorem witness_LaneTests :
    ((laneIn 255 3).bonded 255 = false ∧ (laneIn 255 3).lstate 255 ≠ LState.test ∧ ((laneIn 255 3).lane 255).testWait = none)
    ∧ ((laneIn 255 5).lstate 255 = LState.test ∧ (laneIn 255 5).generating 255 = false ∧ ((laneIn 255 5).lane 255).inj = 0
      ∧ bitsAt (1 : Word) 1 1 = 0)
    ∧ (let s := ((laneIn 255 3).setLane 255 { testWait := some 5, inj := 200 }).put F.sysModeMode 9
       (s.lane 255).testWait = some 5 ∧ s.lstate 255 ≠ LState.off ∧ s.mode = Mode.loopback ∧ s.lstate 255 ≠ LState.test)
    ∧ (let s := (laneIn 255 5).flag (F.lnkTestChk 255) true
       s.lstate 255 = LState.test ∧ s.is (F.lnkTestChk 255) = true)
    ∧ ((laneIn 255 5).flag (F.lnkPrbsChkLock 255) true).is (F.lnkPrbsChkLock 255) = true := by decide +kernel

theorem witness_LaneTests_ready : (laneIn 255 3).Ready 3 ∧ (laneIn 255 5).Ready 3 := by
  unfold State.Ready State.Idle; decide +kernel

theorem witness_EthernetLaneStates :
    ((laneIn 255 2).bonded 255 = false ∧ (laneIn 255 2).laneEthernet 255 = true ∧ (laneIn 255 2).lstate 255 = LState.locking)
    ∧ (let s := (laneIn 255 3).arm (Timer.laneUp 255) 4
       s.bonded 255 = false ∧ s.laneEthernet 255 = true ∧ s.lstate 255 = LState.up ∧ s.armed (Timer.laneUp 255) = true)
    ∧ (let s := (laneIn 255 2).arm (Timer.laneLock 255) 4
       s.armed (Timer.laneLock 255) = true ∧ s.lstate 255 = LState.locking)
    ∧ (let s := (laneIn 255 1).arm (Timer.laneTrain 255) 4
       s.lstate 255 = LState.train ∧ s.armed (Timer.laneTrain 255) = true ∧ s.laneEthernet 255 = true)
    ∧ (let s := (laneIn 255 4).arm (Timer.laneBackoff 255) 4
       s.armed (Timer.laneBackoff 255) = true ∧ s.lstate 255 = LState.backoff ∧ s.laneEthernet 255 = true) := by decide +kernel

theorem witness_BondsAndMorvolos :
    (let s := run0.flag (F.lnkQCfgBond 63) true
     s.is (F.lnkQCfgBond 63) = true ∧ s.lstate (4 * 63) ≠ LState.locking)
    ∧ run0.bonded 255 = false
    ∧ (let s := laneIn 255 2 3
       s.bonded 255 = false ∧ s.laneMorvolos 255 = true ∧ s.lstate 255 = LState.locking ∧ s.is (F.lnkQStatPllLock (255 / 4)) = true)
    ∧ (let s := laneIn 255 3 3
       s.bonded 255 = false ∧ s.laneMorvolos 255 = true ∧ s.lstate 255 = LState.up) := by decide +kernel

theorem witness_FramesOnALane :
    (let s := laneIn 255 3
     s.bonded 255 = false ∧ s.lstate 255 = LState.up ∧ { frame0 with fcs := false }.fcs = false ∧ { frame0 with len := 9023 }.len > 9022
       ∧ (frame0.fcs = true ∧ 64 ≤ frame0.len ∧ frame0.len ≤ 9022)
       ∧ ((2 : Nat) ≠ s.get (F.egrLnMacLoMac 255) + s.get (F.egrLnMacHiMac 255) * 2 ^ 32 ∧ (2 : Nat) ≠ 0xFFFFFFFFFFFF ∧ 2 / 2 ^ 24 ≠ 0x01005E)
       ∧ (frame0.dst = 0xFFFFFFFFFFFF ∧ frame0.ety = 0x0800 ∧ frame0.ipOk = true ∧ frame0.frag = false ∧ frame0.proto = 17
         ∧ s.flowMatch 255 frame0 = false))
    ∧ (let s := ((((srcIn 511 1 3).put (F.ingSrcPathLane 511 0) 255).put (F.ingSrcGrpAddr 511 0) 0xEF010203).put (F.ingSrcUdpPort 511 0) 5004).put (F.lnkStatLstate 255) 3
       s.bonded 255 = false ∧ s.lstate 255 = LState.up ∧ s.flowMatch 255 frame0 = true)
    ∧ (let s : State := { laneIn 255 3 with igmp := [⟨255, 0, some 3, 2, 0, 500⟩] }
       s.lstate 255 = LState.up ∧ s.igmp[0]? = some ⟨255, 0, some 3, 2, 0, 500⟩) := by decide +kernel

/-- A source with an enable waiting that no rule refuses. -/
def srcWaits : State :=
  (((((((srcIn 511 1 0).flag (F.ingSrcCfgEn 511) true).updSrc 511 (fun x => { x with enWait := true })).put
    (F.ingSrcPathLane 511 0) 5).put (F.ingSrcGrpAddr 511 0) 0xEF010203).put (F.lnkCfgMode 5) 2).put (F.sysPoolSizePages 0) 100000).put
    (F.ingSrcCfgNbuf 511) 1

theorem witness_SourceEnables :
    (srcIn 511 1 0).is (F.ingSrcCfgEn 511) = false
    ∧ ((srcWaits.src 511).enWait = true ∧ srcWaits.skind 511 ≠ 2 ∧ srcWaits.srcRefuse 511 = 0)
    ∧ (let s := srcWaits.put (F.lnkCfgMode 5) 0
       (s.src 511).enWait = true ∧ s.skind 511 ≠ 2 ∧ s.srcRefuse 511 ≠ 0)
    ∧ (let s := srcIn 511 1 3
       s.is (F.ingSrcCfgEn 511) = true ∧ s.srcOn 511 = true ∧ (s.src 511).isOpen = false
         ∧ (∀ k, k ∈ s.bob.tasks → k.typ = 1 → k.own ≠ 511) ∧ s.bufs = []) := by decide +kernel

theorem witness_SourceEnables_ready : (srcIn 511 1 0).Ready 3 ∧ (srcIn 511 1 3).Ready 3 := by
  unfold State.Ready State.Idle; decide +kernel

def pkt : VideoPkt := ⟨0, 1000, 777, 96, true, [(3, 0, 100)]⟩

/-- A frame open since packet 999. -/
def openSrc : State := (srcIn 511 1 2).setSrc 511 { seqs := [999], hi := some 999, isOpen := true, fts := 777, got := [(2, 0, 100)] }

theorem witness_VideoPackets :
    (let s := srcIn 511 1 1
     s.srcOn 511 = true ∧ s.skind 511 = 1 ∧ s.is (F.ingSrcPathEn 511 0) = true ∧ pkt.path = 0 ∧ s.sstate 511 = SState.wait
       ∧ pkt.pt = s.get (F.ingSrcFmtPt 511) ∧ (s.src 511).marked = false)
    ∧ (let s := (srcIn 511 1 3).setSrc 511 { seqs := [1000] }
       s.srcOn 511 = true ∧ s.skind 511 = 1 ∧ s.is (F.ingSrcPathEn 511 0) = true ∧ s.sstate 511 ≠ SState.wait
         ∧ (3 : Nat) ≠ s.get (F.ingSrcFmtPt 511) ∧ pkt.pt = s.get (F.ingSrcFmtPt 511) ∧ (s.src 511).seqs.contains pkt.seq = true)
    ∧ (openSrc.srcOn 511 = true ∧ openSrc.skind 511 = 1 ∧ openSrc.is (F.ingSrcPathEn 511 0) = true
      ∧ openSrc.sstate 511 = SState.receiving ∧ pkt.pt = openSrc.get (F.ingSrcFmtPt 511) ∧ (openSrc.src 511).isOpen = true
      ∧ (openSrc.src 511).nobuf = false ∧ (openSrc.src 511).fts = pkt.ts ∧ (openSrc.src 511).seqs.contains pkt.seq = false
      ∧ (openSrc.src 511).hi = some 999 ∧ seqLess 999 pkt.seq = true ∧ seqLess pkt.seq 999 = false
      ∧ (∀ g, g ∈ pkt.segs → openSrc.segBad 511 g = false) ∧ (openSrc.src 511).fRows = [] ∧ openSrc.srcRows 511 = 17
      ∧ ∀ r, r < 17 → Src.lineFull { openSrc.src 511 with got := (openSrc.src 511).got ++ pkt.segs }
          (openSrc.get (F.ingSrcSizeW 511)) (64 * r) = false) := by decide +kernel

theorem witness_MorvolosPackets :
    (let s := mvIn 2 0 {}
     s.srcOn 511 = true ∧ s.skind 511 = 3 ∧ s.laneUp (s.get (F.ingSrcPathLane 511 0)) = true
       ∧ (s.lane (s.get (F.ingSrcPathLane 511 0))).cred = 0)
    ∧ (let s := mvIn 3 3 { isOpen := true, fts := 6 }
       s.srcOn 511 = true ∧ s.laneUp (s.get (F.ingSrcPathLane 511 0)) = true ∧ (s.lane (s.get (F.ingSrcPathLane 511 0))).cred ≠ 0
         ∧ s.sstate 511 ≠ SState.wait ∧ (s.src 511).nobuf = false ∧ (s.src 511).fts ≠ 5)
    ∧ (let s := mvIn 2 3 { isOpen := true, fts := 5 }
       s.srcOn 511 = true ∧ s.skind 511 = 3 ∧ s.laneUp (s.get (F.ingSrcPathLane 511 0)) = true
         ∧ (s.lane (s.get (F.ingSrcPathLane 511 0))).cred ≠ 0 ∧ s.sstate 511 = SState.receiving ∧ (s.src 511).nobuf = false
         ∧ (s.src 511).isOpen = true ∧ (s.src 511).fts = 5 ∧ 0 % 2 = 0 ∧ 2000 % 5 = 0 ∧ s.segBad 511 (3, 0, 2000 / 5 * 2) = false
         ∧ (s.src 511).fRows = [] ∧ s.srcRows 511 = 17
         ∧ ∀ r, r < 17 → Src.lineFull { s.src 511 with got := (s.src 511).got ++ [(3, 0, 2000 / 5 * 2)] }
             (s.get (F.ingSrcSizeW 511)) (64 * r) = false) := by decide +kernel

theorem witness_SourceRowsAndLoss :
    (let k : Task := ⟨0, 511, 4, 2, 0, 144, 0, 0, 0, 0, 2, 0⟩
     let s := atWork 0 511 4 2 0 147 ((srcIn 511 1 2).setSrc 511 { lno := 3, fno := 4 })
     s.running (144 + 3 % 16) = some k ∧ k.own = 511 ∧ s.is (F.ingSrcCfgScrlEn 511) = false)
    ∧ (let k : Task := ⟨6, 511, 3, 2, 0, 144, 0, 0, 0, 0, 2, 0⟩
       let s := atWork 6 511 3 2 0 170 ((srcIn 511 1 2).setSrc 511 { lno := 3, fno := 4 })
       s.running (168 + 2 % 4) = some k ∧ k.own = 511 ∧ k.typ = 6 ∧ k.which = 0 ∧ (s.src 511).lno = k.frame)
    ∧ (let s := ((srcIn 511 1 2).flag (pathUpFld 511 1) true).arm (Timer.path 511 1) 500
       s.armed (Timer.path 511 1) = true ∧ s.sstate 511 = SState.receiving ∧ s.is (pathUpFld 511 1) = true
         ∧ s.is (pathUpFld 511 (1 - 1)) = false ∧ (s.src 511).isOpen = false
         ∧ (s.flag (pathUpFld 511 0) true).is (pathUpFld 511 (1 - 1)) = true) := by decide +kernel

def au0 : CamAu := ⟨1000, true, 1, 0, false, true, 1, 1, 640, 360, false, false, 1, [⟨true, 0, 5⟩, ⟨true, 3, 6⟩]⟩
def camPkt : CamPkt := ⟨0, 1000, 777, 96, true, true, none, some au0⟩

theorem witness_CameraStreams :
    (let s := ((srcIn 511 2 2).put (F.decSrcStatDstate 511) 4).setSrc 511 { seqs := [999], hi := some 999, auOpen := true, fts := 777 }
     s.isCamera 511 = true ∧ s.srcOn 511 = true ∧ s.is (F.ingSrcPathEn 511 0) = true ∧ s.sstate 511 ≠ SState.wait
       ∧ (1 : Nat) ≠ s.get (F.ingSrcFmtPt 511) ∧ s.sstate 511 = SState.receiving ∧ camPkt.pt = s.get (F.ingSrcFmtPt 511)
       ∧ s.decState 511 = DState.parked ∧ (s.src 511).seqs.contains camPkt.seq = false ∧ (s.src 511).hi = some 999
       ∧ seqLess 999 camPkt.seq = true ∧ seqLess camPkt.seq 999 = false ∧ (s.src 511).auOpen = true ∧ (s.src 511).fts = camPkt.ts
       ∧ camPkt.before = none ∧ camPkt.ends = some au0 ∧ camPkt.known = true)
    ∧ (let q : Queued := ⟨4, au0, 0, 0, 2, true, false, true⟩
       let k : Task := ⟨1, 511, 4, 1, 0, 144, 0, 0, 0, 0, 2, 0⟩
       let s := atWork 1 511 4 1 0 127 (((srcIn 511 2 2).put (F.decSrcStatDstate 511) 2).setSrc 511 { queue := [q] })
       s.isCamera 511 = true ∧ s.running 127 = some k ∧ k.typ = 1 ∧ k.own = 511 ∧ (s.src 511).queue = q :: [] ∧ q.no = k.frame
         ∧ 2 ≤ q.left ∧ s.decState 511 = DState.decoding) := by decide +kernel

theorem witness_LayerAndTableWrites : run0.Ready 3 ∧ 15 < 16 ∧ 63 < 64 ∧ 255 < 256 := by
  unfold State.Ready State.Idle; decide +kernel

/-- Compositor 15 with a coefficient load due: set v, two taps, these staged words. -/
def coefIn (v : Nat) (st : List Word) : State :=
  ((run0.flag (F.cmpCoefLoadLoad 15) true).put (F.cmpCoefSelSet 15) v).setCmp 15 { stage := st }

def half : List Word := List.replicate 64 (BitVec.ofNat 32 (512 + 512 * 2 ^ 16))

/-- Each branch of the coefficient check is taken somewhere. -/
theorem witness_CoefficientAndTableLoads :
    ((coefIn 1 half).is (F.cmpCoefLoadLoad 15) = true ∧ (coefIn 1 half).get (F.cmpCoefSelSet 15) ≤ 1)
    ∧ (let s := ((coefIn 5 half).flag (F.cmpLyrCommitCommit 15 63) true).put (F.cmpLyrSclHset 15 63) 5
       ¬ s.get (F.cmpCoefSelSet 15) ≤ 1 ∧ s.coefBusy 15 5 = true)
    ∧ ((coefIn 5 []).coefBusy 15 5 = false ∧ ((coefIn 5 []).cmpr 15).stage.length ≠ 32 * 2)
    ∧ (let s := coefIn 5 half
       s.coefBusy 15 5 = false ∧ (s.cmpr 15).stage.length = 32 * (2 * (s.get (F.cmpCoefSelTaps 15) + 1))
         ∧ (List.range 64).all (fun p => decide (((phasesOf 2 (s.cmpr 15).stage).getD p []).sum = 1024)) = true)
    ∧ (let s := coefIn 5 (half.set 63 0)
       (s.cmpr 15).stage.length = 64 ∧ (List.range 64).all (fun p => decide (((phasesOf 2 (s.cmpr 15).stage).getD p []).sum = 1024)) = false) := by
  decide +kernel

/-- A table load with slot 31 selected, of a post-blend table. -/
def lutIn (st : List Nat) : State :=
  (((run0.flag (F.cmpLutLoadLoad 15) true).put (F.cmpLutSelSlot 15) 31).flag (F.cmpLutSelPost 15) true).setCmp 15 { lstage := st }

theorem witness_CoefficientAndTableLoads_lut :
    ((lutIn []).is (F.cmpLutLoadLoad 15) = true ∧ (lutIn []).lutBusy 15 31 = false ∧ ((lutIn []).cmpr 15).lstage.length ≠ 771)
    ∧ (let s := lutIn (List.replicate 771 1024)
       (s.cmpr 15).lstage.length = 771 ∧ s.is (F.cmpLutSelPost 15) = true ∧ 1024 ∈ (s.cmpr 15).lstage)
    ∧ (let s := lutIn (List.replicate 771 1023)
       (s.cmpr 15).lstage.length = 771 ∧ ∀ x ∈ (s.cmpr 15).lstage, ¬ 1023 < x) := by decide +kernel

theorem witness_ChannelRequests :
    (run0.admitted 255 = false ∧ (run0.chan 255).startReq = false ∧ bitsAt (1 : Word) 1 1 = 0 ∧ run0.noCommits = false)
    ∧ ((inMode 8).admitted 255 = false ∧ ((inMode 8).chan 255).startReq = false ∧ (inMode 8).noCommits = true
      ∧ (inMode 6).noCommits = true ∧ (inMode 7).noCommits = true)
    ∧ (chanIn 2 ctx).admitted 9 = true := by decide +kernel

theorem witness_ChannelRequests_ready : run0.Ready 3 ∧ (inMode 8).Ready 3 := by unfold State.Ready State.Idle; decide +kernel

/-- Every grid runs; that of channel 255 starts its next frame first. -/
def grids : State :=
  { run0 with chans := (List.range 256).map (fun m =>
      (m, { on := true, next := if Nat.beq m 255 then 20000000 else 99000000 + m, cur := ⟨3, 0, 20000000, false⟩ })) }

theorem witness_CaptureFrames :
    (grids.mode ≠ Mode.hold ∧ grids.mode ≠ Mode.load ∧ grids.mode ≠ Mode.calibrate ∧ grids.mode ≠ Mode.degraded ∧ (grids.chan 255).on = true)
    ∧ (List.range 260).all (fun m => Nat.beq (grids.chState m) 0 && !(grids.chan m).startReq && !grids.is (F.chnCommitCommit m)) = true
    ∧ (List.range 256).all (fun m => !grids.is (F.cmpChlCommitSet (m / 16) (m % 16))
        && (Nat.beq m 255 || ((grids.chan m).on && !Nat.beq (grids.chan m).next (grids.chan 255).next))) = true
    ∧ (List.range 16).all (fun c => (List.range 64).all (fun i => !grids.is (F.cmpLyrCommitCommit c i))) = true
    ∧ (List.range 512).all (fun i => !grids.srcOn i) = true := by decide +kernel

/-- Channel 9 with path A on lane 12, which is UP. -/
def egress : State :=
  ((((chanIn 2 ctx).flag (F.egrPathCfgEn 9 0) true).put (F.egrPathCfgLane 9 0) 12).activate (egrAddrs 9)).put (F.lnkStatLstate 12) 3

theorem witness_SlotsAndPackets :
    (let s := chanIn 2 { ctx with slot := some 2 }
     s.strips 9 = [9] ∧ s.leadOf 9 = 9 ∧ s.admitted 9 = true ∧ s.chState 9 ≠ ChState.shed ∧ s.modeIn [Mode.safe, Mode.recover] = false
       ∧ (s.chan 9).cur.k = 3 ∧ 16 < s.rows 9 ∧ s.row 9 3 16 = none ∧ (s.chan 9).slot ≠ some 3 ∧ s.shotOf 9 3 = [])
    ∧ (let s := withRows [{ k := 3, j := 5 }]
       s.strips 9 = [9] ∧ s.leadOf 9 = 9 ∧ s.rowDue 9 3 5 = true ∧ s.row 9 3 5 = some { k := 3, j := 5 } ∧ s.slotKind 9 3 = 2
         ∧ (s.store_ 9).bad.contains 5 = false ∧ s.ais (F.egrChCfgAudEn 9) = false)
    ∧ (let s := withRows [{ k := 3, j := 5, dec := 3 }]
       s.rowDue 9 3 5 = true ∧ s.row 9 3 5 = some { k := 3, j := 5, dec := 3 } ∧ s.slotKind 9 3 = 2 ∧ (s.chan 9).slot = some 3
         ∧ 5 + 1 ≠ s.rows 9 ∧ ((s.chan 9).rows.filter (fun x => Nat.beq x.k 3)).length ≠ s.rows 9)
    ∧ (egress.strips 9 = [9] ∧ egress.leadOf 9 = 9 ∧ egress.runs 9 = true ∧ (egress.chan 9).slot = some 3
      ∧ egress.ais (F.egrPathCfgEn 9 0) = true ∧ egress.laneUp (egress.aget (F.egrPathCfgLane 9 0)) = true) := by decide +kernel

/-- Channel 9 at its audit point: every row released, the shared audits of the tick done. -/
def audited : State :=
  let s := chanIn 2 { ctx with nRel := 2 ^ 34 - 1, slots := 4, aus := 4 }
  { s with sys := { s.sys with auditAt := s.auditInstant 9 3 / 1000 + 1 } }

/-- Free pages in groups 0 and 3, which are in the map. -/
def idle0 : State := (((run0.setFree 0 0 100).setFree 1 3 20).flag (F.drcGrpStatInMap 0) true).flag (F.drcGrpStatInMap 3) true

def buf0 : Buf := ⟨1, 9, 3, false, 2, 40, 2, true, false, false, false, false⟩

theorem witness_AuditPoints :
    (let s := audited
     s.chState 9 = ChState.running ∧ s.strips 9 = [9] ∧ s.leadOf 9 = 9 ∧ (s.chan 9).slot = some 3 ∧ s.slotKind 9 3 = 2
       ∧ s.mode ≠ Mode.drain ∧ s.rows 9 = 17 ∧ (∀ j, j < 17 → s.released 9 j = true) ∧ (s.chan 9).slots = (s.chan 9).aus
       ∧ (s.chan 9).relReq = false ∧ (s.chan 9).want = 0 ∧ (s.chan 9).restart ≠ 1 ∧ (s.chan 9).gdrX = []
       ∧ s.is (F.egrChCommitCommit 9) = false ∧ s.filing 9 = false ∧ (∀ h, h < 4 → ∀ x, x < 16 → s.is (F.hstTapCfgEn h x) = false)
       ∧ s.sys.auditAt = max s.now (s.auditInstant 9 3) / 1000 + 1)
    ∧ (idle0.mode ≠ Mode.hold ∧ idle0.anyRuns = false ∧ idle0.bufs = []
      ∧ (∀ p, p < 3 → ∀ g, g < 8 → idle0.is (F.drcGrpStatInMap g) = false → idle0.freeIn p g = 0)
      ∧ idle0.sys.auditAt ≠ (idle0.now / 1000000 + 1) * 1000 + 1)
    ∧ ((chanIn 2 ctx).admitted 9 = true ∧ ((chanIn 2 ctx).chan 9).recon = false ∧ (chanIn 2 ctx).strips 9 = [9])
    ∧ ({ run0 with bufs := [buf0] } : State).bufs[0]? = some buf0 := by decide +kernel

/-- Channel 9 with an egress commit waiting that every check passes. -/
def egrWaits : State :=
  (((((((((run0.flag (F.egrChCommitCommit 9) true).put (F.egrChCfgLen 9) 1400).put (F.egrChPacePace 9) 2000000).put (F.egrChCfgPbuf 9) 32).flag
    (F.egrPathCfgEn 9 0) true).put (F.egrPathCfgLane 9 0) 12).put (F.lnkCfgMode 12) 2).put (F.chnFmtW32 9) 60).put (F.chnFmtH8 9) 135).put
    (F.chnFmtFrate 9) 4

theorem witness_EgressCommits :
    (let s := run0.flag (F.egrChCommitCommit 9) true
     s.is (F.egrChCommitCommit 9) = true ∧ s.admitted 9 = false ∧ s.tick.egrReason 9 ≠ 0)
    ∧ (egrWaits.is (F.egrChCommitCommit 9) = true ∧ egrWaits.admitted 9 = false ∧ egrWaits.tick.egrReason 9 = 0) := by decide +kernel

theorem witness_EgressCommits_ready : run0.Ready 3 := by unfold State.Ready State.Idle; decide +kernel

theorem witness_EngineCommands :
    (run0.put (F.chnDupStatDstate 255) 1).get (F.chnDupStatDstate 255) = 1
    ∧ (engIn 1 2).mode = Mode.calibrate
    ∧ (let s := engIn 1
       s.mode ≠ Mode.calibrate ∧ s.estate 9 ≠ 0 ∧ s.estate 9 ≠ 5 ∧ s.placedOn 9 = [] ∧ s.running 9 = none ∧ s.bob.tasks = []
         ∧ s.get F.sysRedCfgRepairMax ≤ s.get (F.encHealthRepairs 9) ∧ s.get F.sysRedCfgNspare = 0)
    ∧ (engIn 5).estate 9 = 5 := by decide +kernel

theorem witness_EngineCommands_ready : (run0.put (F.chnDupStatDstate 255) 1).Ready 3 ∧ (engIn 1 2).Ready 3 ∧ (engIn 1).Ready 3 ∧ (engIn 5).Ready 3 := by
  unfold State.Ready State.Idle; decide +kernel

theorem witness_EngineChecks :
    (let k : Task := ⟨5, 9, 0, 3, 0, 144, 0, 0, 0, 0, 2, 0⟩
     let s := atWork 5 9 0 3 0 9 (engIn 1)
     s.running 9 = some k ∧ k.typ = 5 ∧ s.estate 9 ≠ 0 ∧ s.estate 9 ≠ 5 ∧ s.placedOn 9 = [] ∧ s.bob.tasks = []
       ∧ s.get F.sysRedCfgRepairMax ≤ s.get (F.encHealthRepairs 9) ∧ s.get F.sysRedCfgNspare = 0
       ∧ (s.eng 9).rerun = 0 ∧ (s.eng 9).slices < 31)
    ∧ (let s := (engIn 2).arm (Timer.selftest 9) 500
       s.modeIn [Mode.hold, Mode.load, Mode.calibrate] = false ∧ s.armed (Timer.selftest 9) = true ∧ s.estate 9 = 2)
    ∧ (let s := (engIn 2).arm (Timer.selftestLate 9) 500
       s.armed (Timer.selftestLate 9) = true ∧ (s.eng 9).passed = false) := by decide +kernel

/-- Three tasks: one delayed to 500 ns, one to 5,000 ns, one ready that expires at 9,999 ns. -/
def tasks0 : State :=
  { run0.put F.bobCtlMoveEn 0 with bob := { tasks := [task 5 9 9 0 500 0 1, task 5 8 8 0 5000 0 2, task 0 7 144 2 0 9999 3] } }

theorem witness_TasksOfBob :
    (∀ y, y ∈ tasks0.bob.tasks → y.typ < 7 ∧ y.list < 148 ∧ y.typ ≠ 3)
    ∧ (tasks0.is F.bobCtlMoveEn = false ∧ ∀ m, m < 256 → tasks0.admitted m = false)
    ∧ (tasks0.running 165 = none ∧ firstTask (tasks0.bob.tasks.filter (tasks0.takes 165)) = none)
    ∧ (tasks0.running 150 = none ∧ firstTask (tasks0.bob.tasks.filter (tasks0.takes 150)) = some (task 0 7 144 2 0 9999 3))
    ∧ (∃ y, y ∈ tasks0.bob.tasks ∧ y.expiry ≠ 0) ∧ bitsAt (1 : Word) 0 1 = 1 := by
  refine ⟨by decide +kernel, by decide +kernel, by decide +kernel, by decide +kernel, ⟨task 0 7 144 2 0 9999 3, by decide +kernel⟩, by decide +kernel⟩

theorem witness_TasksOfBob_ready : tasks0.Ready 3 := by unfold State.Ready State.Idle; decide +kernel

/-- Row 5 of picture 3 of channel 9, with credits to create tasks. -/
def rowIn (r : Row) : State := ((withRows [r]).put (F.bobCredFree 3) 8).put (F.bobCredFree 4) 8

theorem witness_EncodedRows :
    (let r : Row := { k := 3, j := 5 }
     let s := atWork 2 9 3 5 0 143 (rowIn r)
     s.strips 9 = [9] ∧ s.leadOf 9 = 9 ∧ s.row 9 3 5 = some r ∧ (s.rc 9).pic < 3
       ∧ s.running (128 + 15) = some ⟨2, 9, 3, 5, 0, 144, 0, 0, 0, 0, 2, 0⟩ ∧ r.rel = false ∧ r.dec = 0 ∧ s.codes 9 3 = true
       ∧ s.stbyEng 9 = none ∧ s.modeIn [Mode.safe, Mode.recover] = false ∧ s.get (F.bobCredFree 3) ≠ 0)
    ∧ (let r : Row := { k := 3, j := 5, lead := { st := 1, eng := 33 } }
       let s := rowIn r
       s.row 9 3 5 = some r ∧ (s.rc 9).pic < 3 ∧ r.lead.st = 1 ∧ r.lead.eng = 33 ∧ 5 + 1 ≠ s.rows 9)
    ∧ (let r : Row := { k := 3, j := 5, lead := { st := 3, eng := 33 } }
       let s := rowIn r
       s.row 9 3 5 = some r ∧ (s.rc 9).pic < 3 ∧ r.lead.st = 3 ∧ r.lead.eng = 33 ∧ r.lead.res = false ∧ r.lead.par = false
         ∧ r.lead.marker = false ∧ (s.eng 33).injSig = false ∧ s.paired 9 = false ∧ s.get (F.bobCredFree 4) ≠ 0
         ∧ s.modeIn [Mode.safe, Mode.recover] = false ∧ 5 + 1 ≠ s.rows 9)
    ∧ (let r : Row := { k := 3, j := 5, lead := { st := 4, eng := 33 } }
       let s := atWork 4 9 3 5 0 167 (rowIn r)
       s.row 9 3 5 = some r ∧ (s.rc 9).pic < 3 ∧ s.running (160 + 7) = some ⟨4, 9, 3, 5, 0, 144, 0, 0, 0, 0, 2, 0⟩ ∧ r.dec = 0)
    ∧ (let r : Row := { k := 3, j := 5, dec := 2, rel := true }
       let s := atWork 6 9 3 5 1 171 (rowIn r)
       s.row 9 3 5 = some r ∧ (s.rc 9).pic < 3 ∧ s.running (168 + 3) = some ⟨6, 9, 3, 5, 1, 144, 0, 0, 0, 0, 2, 0⟩
         ∧ (s.chan 9).poison = [] ∧ ((s.chan 9).rows.filter (fun y => Nat.beq y.k 3)).length ≠ s.rows 9) := by decide +kernel

/-- The image memory's units in SERVICE, the update unit in state u. -/
def nvmIn (u : Nat) : State := ((inMode Mode.service).put F.nvmUpdStatUstate u).put F.nvmUpdLenLen 0x01000000

theorem witness_NvmUnits :
    (let s := nvmIn 0
     s.updating = false ∧ bitsAt (4 : Word) 1 1 = 0 ∧ s.mode = Mode.service ∧ (s.get F.nvmStatLstate ≠ 3) ∧ s.get F.nvmUpdLenLen % 4096 = 0
       ∧ 4096 ≤ s.get F.nvmUpdLenLen ∧ s.get F.nvmUpdLenLen ≤ 0x01000000 ∧ s.reading = false)
    ∧ (run0.updating = false ∧ run0.mode ≠ Mode.service)
    ∧ ((nvmIn 1).updating = true ∧ (nvmIn 1).get F.nvmUpdStatUstate = 1 ∧ (nvmIn 2).get F.nvmUpdStatUstate = 2)
    ∧ (let s := (nvmIn 0).put F.nvmRdStatRstate 1
       s.reading = true ∧ s.get F.nvmUpdStatUstate ≠ 1) := by decide +kernel

theorem witness_NvmUnits_ready : (nvmIn 0).Ready 3 ∧ run0.Ready 3 ∧ (nvmIn 1).Ready 3 ∧ ((nvmIn 0).put F.nvmRdStatRstate 1).Ready 3 := by
  unfold State.Ready State.Idle; decide +kernel

theorem witness_CheckValueUnits :
    (let s := run0.put (F.ckvStatUstate 7) 2
     s.ckvOwned 7 = false ∧ s.ckvBusy 7 = false ∧ bitsAt (1 : Word) 1 1 = 0)
    ∧ (let s := (run0.put (F.ckvStatUstate 7) 1).flag (F.ckvCfgStopMis 7) true
       s.ckvOwned 7 = false ∧ s.ckvBusy 7 = true ∧ noCut.desc = none ∧ s.is (F.ckvStatMismatch 7) = false ∧ s.is (F.ckvCfgStopMis 7) = true
         ∧ crcRun (s.ckvPoly 7) (crcInit (s.ckvPoly 7)) digits % 2 ^ crcWidth (s.ckvPoly 7) ^^^ crcFinal (s.ckvPoly 7) ≠ 0 % 2 ^ 64)
    ∧ descBad { desc0 with clear := false } = true
    ∧ (let d := { desc0 with fin := false, next := 64 }
       descBad d = false ∧ d.dual = false ∧ d.fin = false ∧ d.next ≠ 0)
    ∧ (descBad desc0 = false ∧ desc0.dual = false ∧ desc0.fin = true ∧ desc0.cmp = false ∧ desc0.next = 0)
    ∧ (let d := { desc0 with cmp := true }
       descBad d = false ∧ d.dual = false ∧ d.fin = true ∧ d.cmp = true) := by decide +kernel

theorem witness_CheckValueUnits_ready : (run0.put (F.ckvStatUstate 7) 2).Ready 3 ∧ (run0.put (F.ckvStatUstate 7) 1).Ready 3 := by
  unfold State.Ready State.Idle; decide +kernel

theorem witness_RingAndTaps :
    (let s : State := { run0 with ring := { segs := [seg0], pend := [(9, 7, rec0)], quota := true } }
     s.ring.pend.find? (fun x => Nat.beq x.1 9) = some (9, 7, rec0) ∧ s.ring.quota = true)
    ∧ bitsAt (0x100 : Word) 8 1 = 1
    ∧ ((run0.setPort 3 { taps := [(15, rec0)] }).port 3).taps.find? (fun x => Nat.beq x.1 15) = some (15, rec0) := by decide +kernel

theorem witness_RingAndTaps_ready : run0.Ready 3 := by unfold State.Ready State.Idle; decide +kernel

theorem witness_Retrievals :
    (let s := reqIn 0 {}
     bitsAt (0x409 : Word) 10 1 = 1 ∧ bitsAt (0x409 : Word) 11 1 = 0 ∧ s.is (F.hstRdCfgEn 3) = true ∧ s.rstate 3 ≠ 1 ∧ s.rstate 3 ≠ 2)
    ∧ (bitsAt (0x800 : Word) 11 1 = 1 ∧ (reqIn 1 {}).rstate 3 = 1 ∧ (reqIn 2 {}).rstate 3 = 2)
    ∧ (let s := reqIn 1 { chan := 9, epoch := 3 }
       s.rstate 3 = 1 ∧ ((s.ring.segs.filter (fun y => Nat.beq y.chan (s.req 3).chan && Nat.beq y.epoch (s.req 3).epoch)).flatMap
         Seg.recs).find? (s.req 3).selects = none)
    ∧ (let s := reqIn 1 { chan := 9, epoch := 2, byFrame := true, t0 := 6, t1 := 9 }
       s.rstate 3 = 1 ∧ ((s.ring.segs.filter (fun y => Nat.beq y.chan (s.req 3).chan && Nat.beq y.epoch (s.req 3).epoch)).flatMap
         Seg.recs).find? (s.req 3).selects = some { rec0 with k := 6 })
    ∧ (let s := reqIn 2 { chan := 9, epoch := 2, todo := [7, 8] }
       s.rstate 3 = 2 ∧ (s.req 3).open_ = none ∧ (s.req 3).todo = 7 :: [8]
         ∧ s.ring.segs.find? (fun y => y.is (s.req 3).chan (s.req 3).epoch 7) = some { seg0 with recs := [rec0, { rec0 with k := 6 }] })
    ∧ (let s := reqIn 2 { chan := 9, epoch := 2, open_ := some 7, recs := [rec0, rec0] }
       s.rstate 3 = 2 ∧ s.is (F.hstRdCfgEn 3) = true ∧ s.linkUp 3 = true ∧ (s.req 3).recs = rec0 :: rec0 :: [] ∧ (s.req 3).open_ = some 7
         ∧ ringPlace (s.get (F.hstRdCfgSize 3)) (s.get (F.hstRdHeadOfs 3)) (s.get (F.hstRdTailOfs 3)) rec0.len = some 576) := by
  decide +kernel

theorem witness_Retrievals_ready : (reqIn 0 {}).Ready 3 ∧ (reqIn 1 {}).Ready 3 := by unfold State.Ready State.Idle; decide +kernel

theorem witness_AudioPorts :
    ((audIn 0).is (F.audPortCfgEn 15) = false ∧ (audIn 0).audState 15 = AState.off ∧ (audIn 3).audState 15 = AState.run
      ∧ run0.is (F.audInCfgEn 47) = false ∧ (run0.flag (F.audInCfgEn 47) true).is (F.audInCfgEn 47) = true)
    ∧ ((audIn 1).audState 15 = AState.clkWait ∧ (audIn 2).audState 15 = AState.prime
      ∧ (audIn 4).audState 15 = AState.stopping ∧ (audIn 4).is (F.audPortCfgEn 15) = false)
    ∧ ((audIn 3).audState 15 ≠ AState.off ∧ (-10000 : Int) ≤ -10000 ∧ (-10000 : Int) ≤ 10000) := by decide +kernel

theorem witness_AudioPorts_ready : (audIn 0).Ready 3 ∧ (audIn 3).Ready 3 ∧ (run0.flag (F.audInCfgEn 47) true).Ready 3 := by
  unfold State.Ready State.Idle; decide +kernel

theorem witness_AudioSamples :
    (run0.is (F.ingAflCfgEn 31) = false ∧ bitsAt (0x00800000 : Word) 23 1 = 1)
    ∧ (let s := (((audIn 3).setAin 15 { data := 3 }).put (F.audInCfgChan 15) 9).put (F.chnStatState 9) 2
       let fr : AudFrame := ⟨[⟨1, false, false, false⟩, ⟨2, false, false, false⟩], false, 0⟩
       s.audState 15 = AState.run ∧ s.isAes3 15 = false ∧ (s.ain 15).data = 3 ∧ (∀ x, x ∈ fr.slots → x.bad = false)
         ∧ s.chState (s.get (F.audInCfgChan 15)) ≠ 0 ∧ (s.ain 15).frames.length < 8192)
    ∧ (let s := (((run0.flag (F.ingAflCfgEn 31) true).put (F.audInCfgChan 47) 9).put (F.chnStatState 9) 2).flag (F.audInCfgEn 47) true
       let p : AudPkt := ⟨0, 55, 1000, [[1, 2]]⟩
       s.is (F.ingAflCfgEn 31) = true ∧ s.flowAccepts 31 p = true ∧ s.is (F.audInCfgEn (16 + 31)) = true ∧ p.frames = [[1, 2]]
         ∧ s.chState (s.get (F.audInCfgChan (16 + 31))) ≠ 0 ∧ (s.ain (16 + 31)).frames.length < 8192) := by decide +kernel

theorem witness_AudioSamples_ready : run0.Ready 3 := by unfold State.Ready State.Idle; decide +kernel

theorem witness_SourceFieldsLocked :
    (run0.flag (F.ingSrcCfgEn 511) true).is (F.ingSrcCfgEn 511) = true ∧ run0.is (F.ingSrcCfgEn 511) = false ∧ 1 < 2
      ∧ R.ingSrcUdp 511 1 ∈ [R.ingSrcFmt 511, R.ingSrcSize 511, R.ingSrcMerge 511, R.ingSrcPath 511 1, R.ingSrcGrp 511 1,
        R.ingSrcFlt 511 1, R.ingSrcUdp 511 1] := by decide +kernel

theorem witness_SourceFieldsLocked_ready : (run0.flag (F.ingSrcCfgEn 511) true).Ready 3 ∧ run0.Ready 3 := by
  unfold State.Ready State.Idle; decide +kernel

theorem witness_AudioFieldsLocked :
    (run0.flag (F.audInCfgEn 47) true).is (F.audInCfgEn 47) = true ∧ (run0.flag (F.audInCfgEn 15) true).is (F.audInCfgEn 15) = true := by
  decide +kernel

theorem witness_AudioFieldsLocked_ready : (run0.flag (F.audInCfgEn 47) true).Ready 3 ∧ (run0.flag (F.audInCfgEn 15) true).Ready 3 := by
  unfold State.Ready State.Idle; decide +kernel

theorem witness_HelperRegistersOfDram :
    run0.Ready 3 ∧ R.drcTrnSet 31 ∈ [R.drcTrnCtl 31, R.drcTrnResLo 31, R.drcTrnResHi 31, R.drcTrnSet 31] ∧ (State.reset.port 3).posted = [] := by
  unfold State.Ready State.Idle; decide +kernel

end Sys2Proof.Tests
end

