-- ==== Sys2Proof/Proofs/HostReads.lean ====
section
/-!
SUPPORT. Sys2Proof/Proofs/HostReads.lean: what a served host read replies, latches and clears; the reset state, access errors
and host reads settled.
-/

namespace Sys2Proof.Machine

/-! Which registers show their stored word -/

theorem isInst_of_lt {a base stride n : Nat} (h : a < base) : isInst a base stride n = false := by
  have : Nat.ble base a = false := Bool.eq_false_iff.mpr (fun e => by have := Nat.le_of_ble_eq_true e; omega)
  simp [isInst, this]

theorem isInst_of_gt {a base stride n : Nat} (h : base + (n - 1) * stride < a) : isInst a base stride n = false := by
  refine Bool.eq_false_iff.mpr (fun e => ?_)
  simp only [isInst, nat_beq_eq, Bool.and_eq_true, decide_eq_true_eq] at e
  obtain ⟨⟨-, hm⟩, hq⟩ := e
  have hq : (a - base) / stride < n := by simpa [Nat.blt] using hq
  have hle : (a - base) / stride * stride ≤ (n - 1) * stride := Nat.mul_le_mul_right _ (by omega)
  have := Nat.div_add_mod' (a - base) stride
  omega

/-- In block CHN a register family is told by the offset in the context. -/
theorem isInst_chn {n k b : Nat} (hn : n < 256) (hk : k < 0x4000) (lo : 0x00C00000 ≤ b) (hi : b < 0x00C04000) :
    isInst (0x00C00000 + n * 0x4000 + k) b 0x4000 256 = decide (0x00C00000 + k = b) := by
  by_cases e : 0x00C00000 + k = b
  · subst e
    have h : 0x00C00000 + n * 0x4000 + k - (0x00C00000 + k) = n * 0x4000 := by omega
    have hb : Nat.ble (0x00C00000 + k) (0x00C00000 + n * 0x4000 + k) = true := Nat.ble_eq_true_of_le (by omega)
    simp [isInst, h, hb, Nat.blt, Nat.ble_eq_true_of_le, hn]
  · rw [decide_eq_false e]
    refine Bool.eq_false_iff.mpr (fun i => e ?_)
    simp only [isInst, nat_beq_eq, Bool.and_eq_true, decide_eq_true_eq] at i
    obtain ⟨⟨hb, hm⟩, -⟩ := i
    have := Nat.le_of_ble_eq_true hb
    omega

/-- What a read latches in block CHN: by the offset in the context, the next word or, for CHN_FSTART_LO, the next three. -/
theorem latchedBy_chn {n k a : Nat} (hn : n < 256) (hk : k < 0x4000) (ha : a = 0x00C00000 + n * 0x4000 + k) : latchedBy a =
    if k = 0x50 then [R.chnFstartHi n, R.chnFnumLo n, R.chnFnumHi n]
    else if k ∈ [0x100, 0x108, 0x110, 0x118, 0x120, 0x128, 0x130, 0x2B8] then [a + 4] else [] := by
  have sampler : Nat.ble 0x02000000 a = false :=
    Bool.eq_false_iff.mpr (fun e => by have := Nat.le_of_ble_eq_true e; omega)
  have single : ∀ b, b < 0x00C00000 → Nat.beq a b = false := fun b h => by
    rw [nat_beq_eq, decide_eq_false_iff_not]; omega
  have below : ∀ b st m, b + (m - 1) * st < 0x00C00000 → isInst a b st m = false := fun b st m h => isInst_of_gt (by omega)
  have above : ∀ b st m, 0x01000000 ≤ b → isInst a b st m = false := fun b st m h => isInst_of_lt (by omega)
  have chn : ∀ b, b < 0x4000 → isInst a (0x00C00000 + b) 0x4000 256 = decide (k = b) := fun b hb => by
    rw [ha, isInst_chn hn hk (by omega) (by omega)]; simp
  have fst : isInst a (R.chnFstartLo 0) 0x4000 256 = decide (k = 0x50) := chn 0x50 (by decide)
  have slot : isInst a (R.chnSlotLo 0) 0x4000 256 = decide (k = 0x100) := chn 0x100 (by decide)
  have au : isInst a (R.chnAuLo 0) 0x4000 256 = decide (k = 0x108) := chn 0x108 (by decide)
  have skip : isInst a (R.chnSkipauLo 0) 0x4000 256 = decide (k = 0x110) := chn 0x110 (by decide)
  have saferow : isInst a (R.chnSaferowauLo 0) 0x4000 256 = decide (k = 0x118) := chn 0x118 (by decide)
  have safe : isInst a (R.chnSafeauLo 0) 0x4000 256 = decide (k = 0x120) := chn 0x120 (by decide)
  have late : isInst a (R.chnLaterowLo 0) 0x4000 256 = decide (k = 0x128) := chn 0x128 (by decide)
  have tulle : isInst a (R.chnTulleLo 0) 0x4000 256 = decide (k = 0x130) := chn 0x130 (by decide)
  have rc : isInst a (R.chnRcCntBytesLo 0) 0x4000 256 = decide (k = 0x2B8) := chn 0x2B8 (by decide)
  unfold latchedBy
  simp only [
    single R.sysModeSeqLo (by decide), single R.selSeqLo (by decide), single R.bobCreatedLo (by decide), single
    R.timSysLo (by decide), single R.timOffLo (by decide), single R.timPpsinLo (by decide), below (R.sysPoolSize 0)
    0x20 3 (by decide), below (R.selCapCode 0) 0x20 2 (by decide), below (R.selEvt 0) 0x20 1024 (by decide), below
    (R.timDomGmLo 0) 0x100 2 (by decide), below (R.ckvValLo 0) 0x100 8 (by decide), below (R.ckvResLo 0) 0x100 8 (by
    decide), below (R.ckvMisExpLo 0) 0x100 8 (by decide), below (R.ckvMisDescLo 0) 0x100 8 (by decide), below
    (R.ckvCntBytesLo 0) 0x100 8 (by decide), below (R.audPortBlkLo 0) (R.audPortBlkLo 1 - R.audPortBlkLo 0) 16 (by
    decide), below (R.audInCntRecv 0) (R.audInCntRecv 1 - R.audInCntRecv 0) 48 (by decide), below (R.drcErrLo 0)
    0x8000 32 (by decide), below (R.lnkPrbsBitsLo 0) 0x2000 256 (by decide), below (R.encRowsLo 0) 0x8000 128 (by
    decide), below (R.encSig 0) 0x8000 128 (by decide), above (R.rplChOldLo 0) (R.rplChOldLo 1 - R.rplChOldLo 0) 256
    (by decide), above (R.rplChNewLo 0) (R.rplChNewLo 1 - R.rplChNewLo 0) 256 (by decide), sampler, fst, slot, au,
    skip, saferow, safe, late, tulle, rc,
    Bool.false_and, Bool.false_eq_true, if_false, decide_eq_true_eq]
  by_cases h : k = 0x50
  · have inst : (a - R.chnFstartLo 0) / 0x4000 = n := by show (a - 0x00C00050) / 0x4000 = n; omega
    simp [h, inst]
  have hi : (if k = 0x2B8 then [R.chnRcCntBytesHi ((a - R.chnRcCntBytesLo 0) / 0x4000)] else [])
      = if k = 0x2B8 then [a + 4] else [] := by
    split
    · rename_i e
      subst e
      show [0x00C002BC + (a - 0x00C002B8) / 0x4000 * 0x4000] = [a + 4]
      rw [List.cons.injEq]
      exact ⟨by omega, rfl⟩
    · rfl
  simp only [h, hi, if_false, List.mem_cons, List.not_mem_nil, or_false, ite_or]

/-- The offsets of block CHN that a read latches: each is the word after a latching one, or CHN_FNUM. -/
theorem latchedWord_chn_of_not_mem {n k a : Nat} (hn : n < 256) (lo : 44 ≤ k) (hk : k < 0x4000)
    (ha : a = 0x00C00000 + n * 0x4000 + k)
    (hm : k ∉ [0x54, 0x58, 0x5C, 0x104, 0x10C, 0x114, 0x11C, 0x124, 0x12C, 0x134, 0x2BC]) : latchedWord a = false := by
  simp only [List.mem_cons, List.not_mem_nil, or_false, not_or] at hm
  have hl : ∀ j < 11, (latchedBy (a - 4 * (j + 1))).contains a = false := by
    intro j hj
    rw [latchedBy_chn hn (k := k - 4 * (j + 1)) (by omega) (by omega)]
    simp only [List.mem_cons, List.not_mem_nil, or_false, R.chnFstartHi, R.chnFnumLo, R.chnFnumHi]
    split_ifs <;> simp <;> omega
  have hs : ∀ b, b < 0x00C00000 → Nat.beq a b = false := fun b h => by
    rw [nat_beq_eq, decide_eq_false_iff_not]; omega
  have ha : (List.range 11).any (fun j => Nat.ble (4 * (j + 1)) a && (latchedBy (a - 4 * (j + 1))).contains a) = false := by
    rw [List.any_eq_false]
    intro j hj
    rw [hl j (List.mem_range.mp hj), Bool.and_false]
    exact Bool.false_ne_true
  rw [latchedWord, ha, hs R.timLtcNs (by decide), hs R.timLtcSecLo (by decide), hs R.timLtcSecHi (by decide)]
  rfl

theorem latchedWord_of_next {a : Nat} (h4 : 4 ≤ a) (h : a ∈ latchedBy (a - 4)) : latchedWord a = true := by
  have : (List.range 11).any (fun k => Nat.ble (4 * (k + 1)) a && (latchedBy (a - 4 * (k + 1))).contains a) = true :=
    List.any_eq_true.mpr ⟨0, by decide, by simp [h, Nat.ble_eq_true_of_le h4]⟩
  rw [latchedWord, this]; rfl

/-- A register of block SYS shows its stored word, SYS_STAT apart. -/
theorem State.view_sys (s : State) (h : Nat) {a : Nat} (ha : a < 0x10000) (hs : a ≠ R.sysStat) : s.view h a = s.word a := by
  simp [State.view, nat_beq_eq, Nat.blt, hs, ha]

/-- A register of block CHN shows its stored word, CHN_STITCH apart. -/
theorem State.view_chn (s : State) (h : Nat) {a : Nat} (lo : 0x00C00000 ≤ a) (hi : a < 0x01000000)
    (hs : isInst a (R.chnStitch 0) 0x4000 256 = false) : s.view h a = s.word a := by
  have low : ∀ b, b ≤ 0x00C00000 → Nat.blt a b = false := fun b hb =>
    Bool.eq_false_iff.mpr (fun e => by have : a < b := by simpa [Nat.blt] using e
                                       omega)
  have who : Nat.beq a R.hstWhoami = false := by
    rw [nat_beq_eq, decide_eq_false_iff_not]
    show a ≠ 0x00060000
    omega
  have smp : Nat.ble 0x02000000 a = false :=
    Bool.eq_false_iff.mpr (fun e => by have := Nat.le_of_ble_eq_true e; omega)
  have above : ∀ b st n, b + (n - 1) * st < 0x00C00000 → isInst a b st n = false := fun b st n hb =>
    isInst_of_gt (hb.trans_le lo)
  simp [State.view, low, who, smp, hs, above, R.encHealth, R.drcBw, R.lnkPrbsBitsLo, R.lnkPrbsBitsHi]

/-! Host reads -/

/-- A host read before it clears anything: the port has its reply, and the words that the read latches are latched. -/
def State.replied (s : State) (h a : Nat) : State :=
  let t := s.setPort h { s.port h with reply := s.readWord h a }
  { t with latch := (latchedBy a).foldl (fun l b => Tab.put 0 l b (s.view h b)) t.latch }

theorem State.hostRead_eq (s : State) (h a : Nat) : s.hostRead h a =
    match findReg a with
    | some r =>
      if r.fields.any (fun f => f.acc == .rsc) then
        (s.replied h a).setWord a (r.fields.foldl (readClear a) ((s.replied h a).word a))
      else s.replied h a
    | none => s.replied h a := rfl

@[simp] theorem State.replied_word (s : State) (h a b : Nat) : (s.replied h a).word b = s.word b := rfl

@[simp] theorem State.replied_reply (s : State) (h a : Nat) : ((s.replied h a).port h).reply = s.readWord h a :=
  congrArg Port.reply (State.port_setPort s h _)

@[simp] theorem State.replied_latch (s : State) (h a : Nat) :
    (s.replied h a).latch = (latchedBy a).foldl (fun l b => Tab.put 0 l b (s.view h b)) s.latch := rfl

theorem State.frame_replied (s : State) (h a : Nat) : s.Frame (s.replied h a) [] [.ports, .latch] :=
  State.frame_parts rfl (fun p hp => by cases p <;> simp_all [State.Same, State.replied])

/-- A read that latches nothing changes the port only. -/
theorem State.frame_replied_of_latches_nothing (s : State) (h : Nat) {a : Nat} (ha : latchedBy a = []) :
    s.Frame (s.replied h a) [] [.ports] := by
  refine ⟨(s.frame_replied h a).1, fun p hp => ?_⟩
  by_cases hl : p = .latch
  · subst hl; simp [State.Same, ha]
  · exact (s.frame_replied h a).2 p (by simp_all)

/-- A read of a register with an rsc field replies and clears the rsc fields. -/
theorem State.hostRead_of_rsc (s : State) (h : Nat) {a : Nat} {r : RegRow} (hr : findReg a = some r)
    (hc : r.fields.any (fun f => f.acc == .rsc) = true) :
    s.hostRead h a = (s.replied h a).setWord a (r.fields.foldl (readClear a) (s.word a)) := by
  rw [State.hostRead_eq, hr]; exact if_pos hc

/-- A read of a register without an rsc field replies only. -/
theorem State.hostRead_of_no_rsc (s : State) (h : Nat) {a : Nat} {r : RegRow} (hr : findReg a = some r)
    (hc : r.fields.any (fun f => f.acc == .rsc) = false) : s.hostRead h a = s.replied h a := by
  rw [State.hostRead_eq, hr]; exact if_neg (by simp [hc])

/-- A register that a read clears in part: it latches nothing, is not latched, and its row has an rsc field. -/
structure ClearsOnRead (a : Nat) (r : RegRow) : Prop where
  row     : findReg a = some r
  clears  : r.fields.any (fun f => f.acc == .rsc) = true
  latches : latchedBy a = []
  shown   : latchedWord a = false

/-- A read of such a register replies the word shown and leaves the rsc fields at their Reset values; nothing else
changes (R8, R10). -/
theorem State.hostRead_clears (s : State) (h : Nat) {a : Nat} {r : RegRow} (c : ClearsOnRead a r) :
    s.Frame (s.hostRead h a) [a] [.ports] ∧ ((s.hostRead h a).port h).reply = s.view h a
      ∧ (s.hostRead h a).word a = r.fields.foldl (readClear a) (s.word a) := by
  rw [State.hostRead_of_rsc s h c.row c.clears]
  refine ⟨?_, ?_, State.word_setWord _ _ _⟩
  · exact (s.frame_replied_of_latches_nothing h c.latches).trans (State.frame_setWord _ _ _) (by simp) (by simp)
  · exact (s.replied_reply h a).trans (by simp [State.readWord, c.shown])

/-- With no write of the port waiting, a read is served at once (R569). -/
theorem State.servedRead_of_idle {s : State} {h : Nat} (a : Nat) (hp : (s.port h).posted = []) :
    s.servedRead h a = s.hostRead h a := by
  simp [State.servedRead, hp]

/-! The registers of the statements -/

theorem bitsAt_setBitsAt_halves (w : Word) : bitsAt (setBitsAt (setBitsAt w 0 16 0) 16 16 0) 0 32 = 0 := by
  refine Nat.eq_of_testBit_eq (fun i => ?_)
  by_cases hi : i < 16
  · simp [testBit_bitsAt, testBit_setBitsAt, hi]
  · simp only [testBit_bitsAt, testBit_setBitsAt, Nat.zero_testBit, Bool.and_eq_false_iff, decide_eq_false_iff_not]
    simp [hi]; omega

theorem sysPoolMinfree_clearsOnRead : ∀ p < 3, ClearsOnRead (R.sysPoolMinfree p)
    ⟨R.sysPoolMinfree 0, (0x20, 3), (4, 1), [⟨0, 20, .rsc, .any, false⟩]⟩ :=
  fun p hp => by interval_cases p <;> exact ⟨by decide, by decide, by decide, by decide⟩

theorem resetWord_sysPoolMinfree : ∀ p < 3, resetWord (R.sysPoolMinfree p) = 0xFFFFF := by decide +kernel

theorem findReg_chnDly : ∀ n < 256, findReg (R.chnDly n) =
    some ⟨R.chnDly 0, (0x4000, 256), (4, 1), [⟨0, 16, .rsc, .any, false⟩, ⟨16, 16, .rsc, .any, false⟩]⟩ := by
  decide +kernel

theorem resetWord_chnDly : ∀ n < 256, resetWord (R.chnDly n) = 0 := by decide +kernel

theorem findReg_chnSlotLo : ∀ n < 256, findReg (R.chnSlotLo n) =
    some ⟨R.chnSlotLo 0, (0x4000, 256), (4, 1), [⟨0, 32, .ro, .any, false⟩]⟩ := by
  decide +kernel

section
variable {n : Nat} (hn : n < 256)
include hn

theorem chnDly_clearsOnRead : ClearsOnRead (R.chnDly n)
    ⟨R.chnDly 0, (0x4000, 256), (4, 1), [⟨0, 16, .rsc, .any, false⟩, ⟨16, 16, .rsc, .any, false⟩]⟩ :=
  have ha : R.chnDly n = 0x00C00000 + n * 0x4000 + 0x138 := by unfold R.chnDly; omega
  ⟨findReg_chnDly n hn, rfl, by rw [latchedBy_chn hn (by decide) ha]; rfl,
    latchedWord_chn_of_not_mem hn (by decide) (by decide) ha (by decide)⟩

theorem latchedBy_chnSlotLo : latchedBy (R.chnSlotLo n) = [R.chnSlotHi n] := by
  rw [latchedBy_chn hn (k := 0x100) (by decide) (by unfold R.chnSlotLo; omega)]
  simp [R.chnSlotLo, R.chnSlotHi]; omega

theorem latchedWord_chnSlotLo : latchedWord (R.chnSlotLo n) = false :=
  latchedWord_chn_of_not_mem hn (k := 0x100) (by decide) (by decide) (by unfold R.chnSlotLo; omega) (by decide)

theorem latchedWord_chnSlotHi : latchedWord (R.chnSlotHi n) = true := by
  have lo : R.chnSlotHi n - 4 = R.chnSlotLo n := by unfold R.chnSlotHi R.chnSlotLo; omega
  refine latchedWord_of_next (by unfold R.chnSlotHi; omega) ?_
  rw [lo, latchedBy_chnSlotLo hn]
  exact List.mem_singleton_self _

/-- A register of a context shows its stored word, CHN_STITCH apart. -/
theorem State.view_chn_offset (s : State) (h : Nat) {a k : Nat} (hk : k < 0x4000) (hs : k ≠ 0x48)
    (ha : a = 0x00C00000 + n * 0x4000 + k) : s.view h a = s.word a := by
  refine s.view_chn h (by omega) (by omega) ?_
  rw [ha, isInst_chn hn hk (by decide) (by decide), decide_eq_false_iff_not, R.chnStitch]
  omega

end

/-- Settles O6 (R6). -/
theorem accessErrorCounted : Obligations.AccessErrorCounted := by
  intro s h rd hh
  have hm : h % 4 = h := Nat.mod_eq_of_lt hh
  let t := s.bump (F.hstCntAccerr h) 1
  have count : t.get (F.hstCntAccerr h) = (s.get (F.hstCntAccerr h) + 1) % 2 ^ 32 := State.get_bump s _ 1 (Nat.le_refl 32)
  have frame : s.Frame t [R.hstCntAccerr h] [] := s.frame_put _ _
  cases rd with
  | false => exact ⟨t, by simp [exec, execAccessError, hm, State.cond, t], frame, count, by simp, fun p => rfl⟩
  | true =>
    refine ⟨t.setPort h { t.port h with reply := 0 }, by simp [exec, execAccessError, hm, State.cond, t], ?_, count, ?_, ?_⟩
    · exact frame.trans (State.frame_parts (l := [.ports]) (by simp) (fun p hp => by cases p <;> simp_all [State.Same]))
        (by simp) (by simp)
    · simp
    · intro p
      by_cases hp : h = p
      · subst hp; rw [State.port_setPort]; rfl
      · rw [State.port_setPort_ne _ _ hp]; rfl

/-- Settles O7 (R8, R10, R12): a read serves at once, clears the rsc fields of its register and latches the high word. -/
theorem hostReads : Obligations.HostReads := by
  intro s h n p hh hn hp idle
  have hm : h % 4 = h := Nat.mod_eq_of_lt hh
  refine ⟨?_, ?_, ?_⟩
  · obtain ⟨frame, reply, word⟩ := s.hostRead_clears h (sysPoolMinfree_clearsOnRead p hp)
    rw [s.view_sys h (by unfold R.sysPoolMinfree; omega) (by simp [R.sysPoolMinfree, R.sysStat]; omega)] at reply
    refine ⟨s.hostRead h (R.sysPoolMinfree p), ?_, frame, reply, ?_⟩
    · simp [exec, execReadAndClear, hm, State.servedRead_of_idle _ idle]
    · rw [State.get, F.sysPoolMinfreePages, word]
      simp only [List.foldl, readClear, resetWord_sysPoolMinfree p hp]
      exact bitsAt_setBitsAt _ 0 20 _ (by decide)
  · obtain ⟨frame, reply, word⟩ := s.hostRead_clears h (chnDly_clearsOnRead hn)
    rw [State.view_chn_offset hn s h (k := 0x138) (by decide) (by decide) (by unfold R.chnDly; omega)] at reply
    refine ⟨s.hostRead h (R.chnDly n), ?_, frame, reply, ?_⟩
    · simp [exec, execReadAndClear, hm, State.servedRead_of_idle _ idle]
    · rw [word]
      simp only [List.foldl, readClear, resetWord_chnDly n hn]
      exact bitsAt_setBitsAt_halves _
  · have e : s.hostRead h (R.chnSlotLo n) = s.replied h (R.chnSlotLo n) :=
      s.hostRead_of_no_rsc h (findReg_chnSlotLo n hn) rfl
    refine ⟨s.replied h (R.chnSlotLo n), ?_, s.frame_replied h _, ?_, ?_⟩
    · simp [exec, execLatchingRead, hm, State.servedRead_of_idle _ idle, e]
    · rw [State.replied_reply, State.readWord, latchedWord_chnSlotLo hn, if_neg Bool.false_ne_true]
      exact State.view_chn_offset hn s h (k := 0x100) (by decide) (by decide) (by unfold R.chnSlotLo; omega)
    · rw [State.readWord, latchedWord_chnSlotHi hn, State.replied_latch, latchedBy_chnSlotLo hn]
      rw [if_pos rfl, List.foldl_cons, List.foldl_nil, Tab.get_put_same]
      exact State.view_chn_offset hn s h (k := 0x104) (by decide) (by decide) (by unfold R.chnSlotHi; omega)

/-- Settles O3 (R7, R551). -/
theorem resetIsCanon : Obligations.ResetIsCanon :=
  ⟨rfl, rfl, ⟨fun _ _ => rfl, rfl, by simp [State.reset], by simp [State.reset]⟩, by decide +kernel, fun _ => rfl⟩

end Sys2Proof.Machine
end

