-- ==== Sys2Proof/Proofs/CanonOps.lean ====
section
/-!
SUPPORT. Sys2Proof/Proofs/CanonOps.lean: the canonical form of the register table, kept by the machine's operations, by
Selvedge, the PLLs and the replay ring.

Registers change in setWord alone, which keeps the form, and at a module reset. So each theorem `State.Canon.f` here says
that `f` keeps the form, and its proof repeats the shape of `f`: one lemma for each operation that `f` is made of, `.ite` for a
condition, `.foldl` for a loop and `.mk` for an update of what is no register. A definition is opened by `delta` where its
own `let`s and matches have to be named.
-/

namespace Sys2Proof.Machine

section
variable {s t : State}

/-- The canonical form speaks of the registers only: whatever the other parts of the state are, it holds. -/
theorem State.Canon.mk {pending now free act latch arb sel ports round sys tim clk dram lanes igmp bufs poolFree bob chans srcs
    engs cmps lyrs est ring ains aports nvm ckv timers} (hs : s.Canon) :
    (State.mk pending now free s.regs act latch arb sel ports round sys tim clk dram lanes igmp bufs poolFree bob chans srcs
      engs cmps lyrs est ring ains aports nvm ckv timers).Canon :=
  hs

theorem State.Canon.ite {c : Prop} {_ : Decidable c} (hs : s.Canon) (ht : t.Canon) : (if c then s else t).Canon := by
  split
  · exact hs
  · exact ht

theorem State.Canon.foldl {α : Type} {l : List α} {f : State → α → State} (hs : s.Canon)
    (hf : ∀ u x, u.Canon → (f u x).Canon) : (l.foldl f s).Canon := by
  induction l generalizing s with
  | nil => exact hs
  | cons x l ih => exact ih (hf s x hs)

theorem State.Canon.snd {α : Type} {p : α × State} {a : α} (e : p = (a, t)) (hp : p.2.Canon) : t.Canon := by
  cases e; exact hp

theorem State.Canon.sndIte {α : Type} {c : Prop} {_ : Decidable c} {p q : α × State} (hp : p.2.Canon) (hq : q.2.Canon) :
    (if c then p else q).2.Canon := by
  split
  · exact hp
  · exact hq

end

/-! Registers, time, timers, events, faults and mode requests -/

section
variable {s : State}

theorem State.Canon.setWord {a : Nat} {w : Word} (hs : s.Canon) : (s.setWord a w).Canon := State.canon_setWord a w hs

theorem State.Canon.put {f : Fld} {v : Nat} (hs : s.Canon) : (s.put f v).Canon :=
  .setWord hs

theorem State.Canon.flag {f : Fld} {b : Bool} (hs : s.Canon) : (s.flag f b).Canon :=
  .put hs

theorem State.Canon.bump {f : Fld} {n : Nat} (hs : s.Canon) : (s.bump f n).Canon :=
  .put hs

theorem State.Canon.sat {f : Fld} {n : Nat} (hs : s.Canon) : (s.sat f n).Canon :=
  .put hs

theorem State.Canon.peak {f : Fld} {n : Nat} (hs : s.Canon) : (s.peak f n).Canon :=
  .put hs

theorem State.Canon.put64 {lo hi v : Nat} (hs : s.Canon) : (s.put64 lo hi v).Canon :=
  .setWord (.setWord hs)

theorem State.Canon.activate {l : List Nat} (hs : s.Canon) : (s.activate l).Canon :=
  hs

theorem State.Canon.reload {l : List Nat} (hs : s.Canon) : (s.reload l).Canon :=
  .foldl hs (fun _ _ c => .setWord c)

theorem State.Canon.fresh (hs : s.Canon) : s.fresh.2.Canon :=
  hs

theorem State.Canon.advance {t : Nat} (hs : s.Canon) : (s.advance t).Canon :=
  .ite hs (.ite hs hs)

theorem State.Canon.arm {key dt : Nat} (hs : s.Canon) : (s.arm key dt).Canon :=
  hs

theorem State.Canon.disarm {key : Nat} (hs : s.Canon) : (s.disarm key).Canon :=
  hs

theorem State.Canon.fire {key : Nat} {t : State} (hs : s.Canon) (e : s.fire key = some t) : t.Canon := by
  unfold State.fire at e
  split at e
  · cases e; exact .disarm (.advance hs)
  · cases e

theorem State.Canon.tick (hs : s.Canon) : s.tick.Canon :=
  .advance hs

theorem State.Canon.openShadow {opener inst : Nat} {ended : Bool} (hs : s.Canon) : (s.openShadow opener inst ended).Canon :=
  hs

theorem State.Canon.endShadow {opener inst : Nat} (hs : s.Canon) : (s.endShadow opener inst).Canon :=
  .arm hs

theorem State.Canon.opened {e : Ev} (hs : s.Canon) : (s.opened e).Canon := by
  delta State.opened
  extract_lets t
  have ht : t.Canon := .openShadow hs
  exact .ite hs (.ite (.endShadow ht) ht)

theorem State.Canon.emit {e : Ev} (hs : s.Canon) : (s.emit e).Canon :=
  .ite hs (.opened (.sat hs))

theorem State.Canon.arrive {e : Ev} (hs : s.Canon) : (s.arrive e).Canon :=
  .ite (.opened hs) (.opened (.sat hs))

theorem State.Canon.stateEv {input ev inst data : Nat} (hs : s.Canon) : (s.stateEv input ev inst data).Canon :=
  .emit hs

theorem State.Canon.stateEvOpen {input ev inst data opener : Nat} (hs : s.Canon) :
    (s.stateEvOpen input ev inst data opener).Canon :=
  .emit hs

theorem State.Canon.refusalEv {input ev inst data : Nat} (hs : s.Canon) : (s.refusalEv input ev inst data).Canon :=
  .emit hs

theorem State.Canon.raise {code : Nat} (hs : s.Canon) : (s.raise code).Canon :=
  hs

theorem State.Canon.raiseLevel {code : Nat} (hs : s.Canon) : (s.raiseLevel code).Canon :=
  .raise (.flag hs)

theorem State.Canon.unraise {code : Nat} (hs : s.Canon) : (s.unraise code).Canon :=
  .flag hs

theorem State.Canon.request {mode who cause src : Nat} (hs : s.Canon) : (s.request mode who cause src).Canon :=
  hs

theorem State.Canon.capacityLoss (hs : s.Canon) : s.capacityLoss.Canon :=
  .request hs

theorem State.Canon.setPort {h : Nat} {p : Port} (hs : s.Canon) : (s.setPort h p).Canon :=
  hs

theorem State.Canon.sendMsi {h v : Nat} (hs : s.Canon) : (s.sendMsi h v).Canon :=
  .ite hs (.ite (.setPort hs) (.setPort hs))

theorem State.Canon.irqPort {h v : Nat} (hs : s.Canon) : (s.irqPort h v).Canon :=
  .ite (.sendMsi (.put hs)) hs

theorem State.Canon.irqAll {v : Nat} (hs : s.Canon) : (s.irqAll v).Canon :=
  .foldl hs (fun _ _ c => .irqPort c)

theorem State.Canon.moveTo {f : Fld} {v input ev inst shift extra : Nat} (hs : s.Canon) :
    (s.moveTo f v input ev inst shift extra).Canon :=
  .ite hs (.stateEv (.put hs))

theorem State.Canon.each {α : Type} {l : List α} {f : State → α → State} (hs : s.Canon)
    (hf : ∀ t x, t.Canon → (f t x).Canon) : (s.each l f).Canon :=
  .foldl hs hf

theorem State.Canon.cond {b : Bool} {f : State → State} (hs : s.Canon) (hf : ∀ t, t.Canon → (f t).Canon) :
    (s.cond b f).Canon :=
  .ite (hf s hs) hs

end

/-! Domains and PLLs -/

section
variable {s : State}

theorem State.Canon.setDom {d : Nat} {x : Dom} (hs : s.Canon) : (s.setDom d x).Canon :=
  hs

theorem State.Canon.setPll {p : Nat} {x : Pll} (hs : s.Canon) : (s.setPll p x).Canon :=
  hs

end

/-! Host accesses -/

section
variable {s : State}

theorem State.Canon.hostRead {h a : Nat} (hs : s.Canon) : (s.hostRead h a).Canon := by
  delta State.hostRead
  extract_lets _ s1
  have hs1 : s1.Canon := .setPort hs
  split
  · exact .ite (.setWord (.mk hs1)) (.mk hs1)
  · exact .mk hs1

theorem State.Canon.store {a : Nat} {v mask : Word} (hs : s.Canon) : (s.store a v mask).Canon := by
  delta State.store
  split
  · exact .setWord hs
  · exact hs

theorem State.Canon.openRound {h : Nat} (hs : s.Canon) : (s.openRound h).Canon :=
  .ite (.mk (.advance hs)) hs

theorem State.Canon.post {h a : Nat} {v : Word} (hs : s.Canon) : (s.post h a v).Canon :=
  .ite (.setPort hs) hs

theorem State.Canon.served {h : Nat} (hs : s.Canon) : (s.served h).Canon :=
  .mk (.setPort hs)

theorem State.Canon.takeWrite {h a : Nat} {v : Word} {always : Bool} {eff : State → State} (hs : s.Canon)
    (he : ∀ t, t.Canon → (eff t).Canon) : (s.takeWrite h a v always eff).Canon := by
  unfold State.takeWrite
  extract_lets _ r _ t
  have hr : r.Canon := .openRound hs
  have ht : t.Canon := .arrive (.bump (.served hr))
  exact .ite (.ite (.ite (he t ht) ht) (.ite (.post hr) hr)) (.post hs)

end

/-! Selvedge and the event arbiter -/

section
variable {s : State}

theorem State.Canon.occur {code : Nat} (hs : s.Canon) : (s.occur code).Canon :=
  .flag hs

theorem State.Canon.fillSlot {z code react : Nat} {forced room : Bool} (hs : s.Canon) :
    (s.fillSlot z code react forced room).Canon :=
  .stateEv (.mk (.put64 (.put64 (.flag (.flag (.flag (.put (.put hs))))))))

theorem State.Canon.startQuiet (hs : s.Canon) : s.startQuiet.Canon :=
  .ite (.disarm hs) (.arm hs)

theorem State.Canon.enterSafeSel (hs : s.Canon) : s.enterSafeSel.Canon :=
  .ite (.startQuiet (.stateEv (.flag hs))) (.startQuiet hs)

theorem State.Canon.lasting {code react : Nat} {forced : Bool} (hs : s.Canon) : (s.lasting code react forced).1.Canon := by
  delta State.lasting
  extract_lets _ slot _ _ _ s1 _ s3
  have hs1 : s1.Canon := by
    unfold s1
    cases slot with
    | some z => exact .fillSlot hs
    | none => exact .sat hs
  have hs3 : s3.Canon := .cond (.arrive hs1) (fun _ c => .startQuiet c)
  split
  · exact hs3
  · exact .mk hs3

theorem State.Canon.judge {code : Nat} {forced : Bool} (hs : s.Canon) : (s.judge code forced).1.Canon := by
  delta State.judge
  extract_lets s1
  have hs1 : s1.Canon := .occur hs
  split
  · exact .arrive hs1
  · split
    · exact .lasting (.mk hs1)
    · exact .arrive (.mk hs1)

theorem State.Canon.takeOcc {code : Nat} (hs : s.Canon) : (s.takeOcc code).1.Canon := by
  delta State.takeOcc
  extract_lets _
  split
  · exact .ite (.flag hs) hs
  · exact hs

theorem State.Canon.selClear {v : Word} (hs : s.Canon) : (s.selClear v).Canon :=
  .cond (.cond (.cond hs (fun _ c => .mk (.flag (.put64 (.put64 (.setWord c))))))
    (fun _ c => .mk (.flag (.put64 (.put64 (.setWord c)))))) (fun _ c => .cond (.flag (.put c)) (fun _ c => .startQuiet c))

theorem State.Canon.selForce {w : Nat} {v : Word} (hs : s.Canon) : (s.selForce w v).Canon :=
  .each hs (fun _ _ c => .ite (.mk (.flag c)) c)

theorem State.Canon.writeTypeCfg {t : Nat} {v : Word} (hs : s.Canon) : (s.writeTypeCfg t v).Canon := by
  delta State.writeTypeCfg
  extract_lets _ _ _ s1
  have hs1 : s1.Canon := .put (.put hs)
  exact .ite hs (.ite (.put hs) (.ite (.put hs1) hs1))

theorem State.Canon.shadowClose {opener inst : Nat} (hs : s.Canon) : (s.shadowClose opener inst).Canon := by
  delta State.shadowClose
  split
  · next e => exact .mk (hs.fire e)
  · exact hs

theorem State.Canon.quietExpiry (hs : s.Canon) : s.quietExpiry.Canon := by
  delta State.quietExpiry
  split
  · next e => exact .ite (.mk (hs.fire e)) (hs.fire e)
  · exact hs

theorem State.Canon.typeDefaults (hs : s.Canon) : s.typeDefaults.Canon :=
  .each hs (fun _ _ c => .setWord c)

theorem State.Canon.arrival {i : Nat} (hs : s.Canon) : (s.arrival i).Canon := by
  delta State.arrival
  extract_lets _
  split
  · exact .arrive hs
  · exact hs

theorem State.Canon.journalPush {r : List Word} (hs : s.Canon) : (s.journalPush r).Canon :=
  .ite hs (.bump hs)

theorem State.Canon.ringWrite {i : Nat} {ws : List Word} (hs : s.Canon) : (s.ringWrite i ws).Canon :=
  .foldl hs (fun _ _ c => .setWord c)

theorem State.Canon.toQueues {l : List (Nat × Ev)} {kind : Nat} {r : List Word} (hs : s.Canon) :
    (s.toQueues l kind r).Canon :=
  .each hs (fun _ _ c => .ite c c)

theorem State.Canon.slotSeq {code seq : Nat} (hs : s.Canon) : (s.slotSeq code seq).Canon :=
  .foldl hs (fun _ _ c => .put64 c)

theorem State.Canon.number (hs : s.Canon) : s.number.Canon := by
  delta State.number
  extract_lets _
  split
  · exact hs
  · exact .cond (.cond (.cond (.toQueues (.journalPush (.bump (.ringWrite (.put64 (.mk (.ite hs (.advance hs))))))))
      (fun _ c => .slotSeq c)) (fun _ c => .irqAll (.put64 c))) (fun _ c => .irqAll c)

theorem State.Canon.journalNext (hs : s.Canon) : s.journalNext.Canon :=
  .cond (.put hs) (fun _ c => .bump c)

theorem State.Canon.journalPage {r : List Word} (hs : s.Canon) : (s.journalPage r).Canon :=
  .ite (.journalNext hs) hs

theorem State.Canon.journalWrite {good : Bool} (hs : s.Canon) : (s.journalWrite good).Canon := by
  delta State.journalWrite
  split
  · exact hs
  · extract_lets s1
    have hs1 : s1.Canon := .journalPage hs
    exact .ite (.ite (.cond (.journalNext (.mk hs1)) (fun _ c => .journalPush (.mk (.fresh c))))
      (.raise (.bump (.journalNext (.mk hs1))))) hs

theorem State.Canon.queueWrite {h : Nat} (hs : s.Canon) : (s.queueWrite h).Canon := by
  delta State.queueWrite
  extract_lets _
  split
  · exact hs
  · exact .ite (.irqPort (.bump hs)) (.irqPort (.put hs))

theorem State.Canon.msixExpiry {h v : Nat} (hs : s.Canon) : (s.msixExpiry h v).Canon := by
  delta State.msixExpiry
  extract_lets _ t
  have ht : t.Canon := .advance hs
  exact .ite (.ite (.setPort ht) (.setPort ht)) hs

theorem State.Canon.selSelf {k : Nat} {forced : Bool} (hs : s.Canon) : (s.selSelf k forced).Canon := by
  delta State.selSelf
  extract_lets _ s1 slot _ _ _ s2 _ s4
  have hs1 : s1.Canon := .occur hs
  have hs2 : s2.Canon := by
    unfold s2
    cases slot with
    | some z => exact .fillSlot hs1
    | none => exact hs1
  have hs4 : s4.Canon := .cond (.cond (.arrive (.flag hs2)) (fun _ c => .startQuiet c))
    (fun _ c => .cond (.request c) (fun _ c => .flag c))
  exact .ite (.mk hs4) (.mk hs4)

end

/-! PLLs, acquisition and bypass -/

section
variable {s : State}

theorem State.Canon.setPstate {p v : Nat} (hs : s.Canon) : (s.setPstate p v).Canon :=
  .moveTo hs

theorem State.Canon.pllStop {p : Nat} (hs : s.Canon) : (s.pllStop p).Canon :=
  .disarm (.disarm (.disarm (.disarm (.disarm hs))))

theorem State.Canon.toBypass {p : Nat} (hs : s.Canon) : (s.toBypass p).Canon := by
  delta State.toBypass
  extract_lets s1
  have hs1 : s1.Canon := .flag hs
  exact .ite hs1 (.setPll hs1)

theorem State.Canon.fromBypass {p : Nat} (hs : s.Canon) : (s.fromBypass p).Canon :=
  .flag (.setPll (.put hs))

theorem State.Canon.startSearch {p : Nat} (hs : s.Canon) : (s.startSearch p).Canon :=
  .arm (.setPll hs)

theorem State.Canon.acquire {p : Nat} {byWrite alt : Bool} (hs : s.Canon) : (s.acquire p byWrite alt).Canon := by
  delta State.acquire
  extract_lets _ _ _ s3
  have hs3 : s3.Canon := .arm (.setPstate (.setPll (.flag (.toBypass (.pllStop hs)))))
  exact .ite (.arm hs3) (.startSearch hs3)

theorem State.Canon.lossEvent {p old : Nat} (hs : s.Canon) : (s.lossEvent p old).Canon :=
  .stateEvOpen hs

theorem State.Canon.pllLoss {p : Nat} {alt : Bool} (hs : s.Canon) : (s.pllLoss p alt).Canon :=
  .cond (.raise (.acquire (.lossEvent (.put (.bump hs))))) (fun _ c => .capacityLoss c)

theorem State.Canon.endPllShadow {p : Nat} (hs : s.Canon) : (s.endPllShadow p).Canon :=
  .ite (.endShadow hs) hs

theorem State.Canon.pllLock {p band : Nat} (hs : s.Canon) : (s.pllLock p band).Canon :=
  .ite (.endPllShadow (.setPll (.put (.put (.bump (.fromBypass (.setPstate (.pllStop hs)))))))) hs

theorem State.Canon.bandStep {p : Nat} (hs : s.Canon) : (s.bandStep p).Canon := by
  delta State.bandStep
  split
  · next e => exact .cond (.setPll (hs.fire e)) (fun _ c => .arm c)
  · exact hs

theorem State.Canon.tableTimeout {p : Nat} (hs : s.Canon) : (s.tableTimeout p).Canon := by
  delta State.tableTimeout
  split
  · next e => exact .startSearch (.flag (hs.fire e))
  · exact hs

theorem State.Canon.acquireTimeout {p : Nat} (hs : s.Canon) : (s.acquireTimeout p).Canon := by
  delta State.acquireTimeout
  split
  · next e =>
      exact .cond (.cond (.setPll (.arm (.setPstate (.sat (.pllStop (hs.fire e)))))) (fun _ c => .raise c))
        (fun _ c => .capacityLoss (.raise c))
  · exact hs

theorem State.Canon.retryExpiry {p : Nat} (hs : s.Canon) : (s.retryExpiry p).Canon := by
  delta State.retryExpiry
  split
  · next e => exact .ite (.acquire (hs.fire e)) (hs.fire e)
  · exact hs

theorem State.Canon.rampDone {p : Nat} (hs : s.Canon) : (s.rampDone p).Canon := by
  delta State.rampDone
  split
  · next e => exact .ite (.setPstate (hs.fire e)) (hs.fire e)
  · exact hs

theorem State.Canon.refuseTarget {p reason : Nat} (hs : s.Canon) : (s.refuseTarget p reason).Canon :=
  .refusalEv (.put (.flag hs))

theorem State.Canon.writeTarget {p : Nat} {v : Word} (hs : s.Canon) : (s.writeTarget p v).Canon :=
  .ite (.refuseTarget hs) (.ite hs (.ite (.refuseTarget hs) (.setPll hs)))

theorem State.Canon.acceptTarget {p khz : Nat} {inBand : Bool} (hs : s.Canon) : (s.acceptTarget p khz inBand).Canon := by
  delta State.acceptTarget
  extract_lets _ s1
  have hs1 : s1.Canon := .put hs
  exact .ite (.arm (.setPstate (.setPll hs1))) (.ite hs1 (.acquire hs1))

theorem State.Canon.cleanerReturn (hs : s.Canon) : s.cleanerReturn.Canon :=
  .ite hs (.unraise (.cond hs (fun _ c => .flag c)))

end

/-! The replay ring and retrieval -/

section
variable {s : State}

theorem State.Canon.setRing {r : RingSt} (hs : s.Canon) : (s.setRing r).Canon :=
  hs

theorem State.Canon.setSegs {l : List Seg} (hs : s.Canon) : (s.setSegs l).Canon :=
  .setRing hs

theorem State.Canon.setRingFree {g n : Nat} (hs : s.Canon) : (s.setRingFree g n).Canon :=
  .setRing hs

theorem State.Canon.setReq {h : Nat} {q : Req} (hs : s.Canon) : (s.setReq h q).Canon :=
  .setRing hs

theorem State.Canon.showRing (hs : s.Canon) : s.showRing.Canon :=
  .put (.put hs)

theorem State.Canon.showRingCh {n : Nat} (hs : s.Canon) : (s.showRingCh n).Canon := by
  delta State.showRingCh
  extract_lets _ _ s1
  have hs1 : s1.Canon := .put hs
  split
  · exact .put64 (.put64 hs1)
  · exact hs1

theorem State.Canon.setRstate {h v : Nat} (hs : s.Canon) : (s.setRstate h v).Canon :=
  .ite hs (.showRing (.cond (.moveTo hs) (fun _ c => .irqPort c)))

theorem State.Canon.reqEnd {h : Nat} (hs : s.Canon) : (s.reqEnd h).Canon :=
  .ite (.setRstate hs) hs

theorem State.Canon.breakHolds {g : Seg} (hs : s.Canon) : (s.breakHolds g).Canon :=
  .each hs (fun _ _ c => .ite (.reqEnd (.flag (.bump (.setReq c)))) c)

theorem State.Canon.dropSeg {g : Seg} (hs : s.Canon) : (s.dropSeg g).Canon :=
  .showRingCh (.setSegs (.breakHolds hs))

theorem State.Canon.freeSeg {g : Seg} (hs : s.Canon) : (s.freeSeg g).Canon :=
  .setRingFree (.dropSeg hs)

theorem State.Canon.takeSeg {n : Nat} {x : Nat × State} (hs : s.Canon) (e : s.takeSeg n = some x) : x.2.Canon := by
  delta State.takeSeg at e
  extract_lets q mine below free idle spare at e
  have hfree : free = some x → x.2.Canon := by
    unfold free
    split
    · rintro ⟨⟩; exact .setRingFree hs
    · rintro ⟨⟩
  clear_value free spare
  split at e
  · exact hfree e
  · split at e
    · cases e; exact .dropSeg hs
    · split at e
      · cases e
        dsimp only
        split
        · exact .ite (.freeSeg (.dropSeg hs)) (.dropSeg hs)
        · exact .dropSeg hs
      · split at e
        · exact hfree e
        · split at e
          · cases e; exact .dropSeg hs
          · cases e

theorem State.Canon.fileRecord {n : Nat} {r : Rec} (hs : s.Canon) : (s.fileRecord n r).Canon := by
  delta State.fileRecord
  refine .ite hs ?_
  extract_lets into
  have hinto : ∀ {t : State} {q : Nat}, t.Canon → (into t q).Canon := fun ht => .setRing ht
  split
  · extract_lets s1
    have h1 : s1.Canon := .setSegs hs
    refine .ite (hinto hs) ?_
    split
    · next e => exact .showRingCh (.showRing (hinto (.setRing (h1.takeSeg e))))
    · exact .bump h1
  · split
    · next e => exact .showRingCh (.showRing (hinto (.setRing (hs.takeSeg e))))
    · exact .bump hs

theorem State.Canon.recordDone {n : Nat} {reused : Bool} (hs : s.Canon) : (s.recordDone n reused).Canon := by
  delta State.recordDone
  extract_lets _ s1
  have hs1 : s1.Canon := .setRing hs
  split
  · exact hs
  · exact .ite (.bump hs1) (.showRingCh (.setSegs hs1))

theorem State.Canon.ringChange {n : Nat} (hs : s.Canon) : (s.ringChange n).Canon :=
  .flag (.setRing hs)

theorem State.Canon.ringStart {n : Nat} (hs : s.Canon) : (s.ringStart n).Canon :=
  .showRingCh (.ringChange (.put (.put (.bump (.setRing hs)))))

theorem State.Canon.quotas (hs : s.Canon) : s.quotas.Canon :=
  .each hs (fun _ _ c => .put c)

theorem State.Canon.quotaTick (hs : s.Canon) : s.quotaTick.Canon :=
  .ite (.quotas (.setRing (.tick hs))) hs

theorem State.Canon.ringInit {groups : List Nat} {pages : Nat} (hs : s.Canon) : (s.ringInit groups pages).Canon :=
  .showRing (.put (.setRing hs))

theorem State.Canon.ringLose {g : Nat} (hs : s.Canon) : (s.ringLose g).Canon :=
  .showRing (.each (.each (.setRing (.setRingFree (.put (.setSegs hs))))
    (fun _ _ c => .ite (.reqEnd (.bump (.setReq c))) c)) (fun _ _ c => .showRingCh (.stateEv (.bump c))))

theorem State.Canon.yieldPage {x : Nat × State} (hs : s.Canon) (e : s.yieldPage = some x) : x.2.Canon := by
  delta State.yieldPage at e
  split at e
  · cases e; exact .setRingFree hs
  · extract_lets _ pick at e
    clear_value pick
    split at e
    · cases e; exact .dropSeg hs
    · cases e

theorem State.Canon.yieldPages {n : Nat} (hs : s.Canon) : (s.yieldPages n).2.Canon := by
  induction n generalizing s with
  | zero => exact hs
  | succ n ih =>
    rw [State.yieldPages]
    split
    · next e => exact ih (.setRing (.put (hs.yieldPage e)))
    · exact hs

theorem State.Canon.reqAbort {h : Nat} (hs : s.Canon) : (s.reqAbort h).Canon :=
  .ite (.setRstate (.setReq hs)) hs

theorem State.Canon.reqStart {h : Nat} (hs : s.Canon) : (s.reqStart h).Canon :=
  .ite hs (.setRstate (.put (.put (.put (.put (.setReq hs))))))

theorem State.Canon.writeRqCfg {p : Nat} {v : Word} (hs : s.Canon) : (s.writeRqCfg p v).Canon := by
  delta State.writeRqCfg
  extract_lets t
  have ht : t.Canon := .flag (.store hs)
  exact .ite (.reqAbort ht) (.ite (.reqStart ht) ht)

theorem State.Canon.searchDone {h : Nat} (hs : s.Canon) : (s.searchDone h).Canon := by
  delta State.searchDone
  extract_lets _
  refine .ite hs ?_
  split
  · exact .setRstate hs
  · exact .setRstate (.setReq hs)

theorem State.Canon.segmentRead {h : Nat} (hs : s.Canon) : (s.segmentRead h).Canon := by
  delta State.segmentRead
  extract_lets _
  refine .ite hs ?_
  split
  · exact .reqEnd hs
  · split
    · exact .showRing (.setReq hs)
    · exact .showRing (.reqEnd (.bump (.setReq hs)))

theorem State.Canon.recordDelivered {h : Nat} {bad : Bool} (hs : s.Canon) : (s.recordDelivered h bad).Canon := by
  delta State.recordDelivered
  extract_lets _
  refine .ite hs ?_
  split
  · exact .ite (.showRing (.reqEnd (.setReq hs))) hs
  · extract_lets _
    split
    · exact hs
    · exact .showRing (.reqEnd (.cond (.put (.bump (.put (.setReq hs)))) (fun _ c => .bump c)))

theorem State.Canon.writeRdCfg {p : Nat} {v : Word} (hs : s.Canon) : (s.writeRdCfg p v).Canon :=
  .store hs

end

end Sys2Proof.Machine
end

