-- ==== Sys2Proof/Proofs/CanonInputs.lean ====
section
/-!
SUPPORT. Sys2Proof/Proofs/CanonInputs.lean: the canonical form of the register table, kept by what the model does with
memory, lanes, pools, the grid and the sources of video.
-/

namespace Sys2Proof.Machine

/-! The DRAM controllers -/

section
variable {s : State}

theorem State.Canon.setDch {d : Nat} {x : Dram} (hs : s.Canon) : (s.setDch d x).Canon :=
  hs

theorem State.Canon.setCstate {d v : Nat} (hs : s.Canon) : (s.setCstate d v).Canon :=
  .moveTo hs

theorem State.Canon.setOut {d a b : Nat} (hs : s.Canon) : (s.setOut d a b).Canon :=
  .put (.setDch hs)

theorem State.Canon.startGrid {d dt : Nat} (hs : s.Canon) : (s.startGrid d dt).Canon :=
  .arm (.arm hs)

theorem State.Canon.stopGrid {d : Nat} (hs : s.Canon) : (s.stopGrid d).Canon :=
  .disarm (.disarm hs)

theorem State.Canon.setRef2x {d : Nat} {b : Bool} (hs : s.Canon) : (s.setRef2x d b).Canon :=
  .ite hs (.stateEv (.flag hs))

theorem State.Canon.refBurst {d : Nat} (hs : s.Canon) : (s.refBurst d).Canon :=
  .startGrid (.cond (.setOut hs) (fun _ c => .bump c))

theorem State.Canon.refreshDue {d u : Nat} {busy : Bool} (hs : s.Canon) : (s.refreshDue d u busy).Canon := by
  delta State.refreshDue
  split
  · next e =>
      extract_lets _ t1
      have ht1 : t1.Canon := .ite (.setRef2x (.setDch (hs.fire e))) (hs.fire e)
      exact .arm (.ite (.setOut ht1) (.setOut ht1))
  · exact hs

theorem State.Canon.tempRead {d : Nat} {temps : List Int} (hs : s.Canon) : (s.tempRead d temps).Canon := by
  delta State.tempRead
  extract_lets _
  split
  · exact hs
  · extract_lets s1 _ u s2
    have hs1 : s1.Canon := .put hs
    have hu : u.Canon := .setDch hs1
    have hs2 : s2.Canon := .ite (.ite hu (.refBurst (.setRef2x hu))) (.ite (.setDch hs1) (.setDch hs1))
    exact .ite hs (.ite (.raiseLevel (.setCstate hs2)) (.ite (.unraise (.setCstate (.refBurst hs2))) hs2))

theorem State.Canon.neighbour {d : Nat} (hs : s.Canon) : (s.neighbour d).Canon :=
  .ite (.bump hs) hs

theorem State.Canon.promote {d cls waited : Nat} (hs : s.Canon) : (s.promote d cls waited).Canon := by
  delta State.promote
  split
  · exact .ite (.bump hs) hs
  · exact hs

theorem State.Canon.startRetrain {d : Nat} (hs : s.Canon) : (s.startRetrain d).Canon :=
  .ite (.bump (.stateEvOpen (.put hs))) hs

theorem State.Canon.writeDrcCtl {d : Nat} {v : Word} (hs : s.Canon) : (s.writeDrcCtl d v).Canon :=
  .cond (.store hs) (fun _ c => .startRetrain c)

theorem State.Canon.writeDrcInj {d : Nat} {v : Word} (hs : s.Canon) : (s.writeDrcInj d v).Canon :=
  .ite (.setDch hs) (.ite (.setDch hs) hs)

theorem State.Canon.dqsTrack {d : Nat} {beyond : Bool} (hs : s.Canon) : (s.dqsTrack d beyond).Canon :=
  .ite (.startRetrain hs) hs

theorem State.Canon.bandwidth {d rd wr : Nat} (hs : s.Canon) : (s.bandwidth d rd wr).Canon :=
  .ite (.setDch (.put (.put hs))) (.setDch hs)

theorem State.Canon.errRecord {d da : Nat} {ue : Bool} {lane origin bank row : Nat} (hs : s.Canon) :
    (s.errRecord d da ue lane origin bank row).Canon :=
  .put (.put (.put (.put (.put (.flag (.put64 hs))))))

theorem State.Canon.cleanBlock {d da : Nat} (hs : s.Canon) : (s.cleanBlock d da).Canon :=
  .setDch hs

theorem State.Canon.readDone {d : Nat} {a : Access} (hs : s.Canon) : (s.readDone d a).1.Canon := by
  delta State.readDone
  extract_lets s1
  have hs1 : s1.Canon := .bandwidth (.peak (.bump hs))
  split
  · exact .bump hs
  · split
    · exact hs1
    · exact .cleanBlock (.raise (.bump (.errRecord hs1)))
    · exact .raise (.bump (.errRecord hs1))

theorem State.Canon.writeDone {a : Access} (hs : s.Canon) : (s.writeDone a).Canon :=
  .ite hs (.cond (.setDch (.bandwidth (.peak (.bump hs)))) (fun _ c => .raise c))

theorem State.Canon.scrubRead {d result lane bank row : Nat} {cancelled : Bool} (hs : s.Canon) :
    (s.scrubRead d result lane bank row cancelled).Canon := by
  delta State.scrubRead
  extract_lets _ _ _ s1
  have hs1 : s1.Canon := .cond (.setDch hs) (fun _ c => .bump c)
  refine .ite ?_ hs
  split
  · exact hs1
  · exact .cond (.raise (.bump (.errRecord hs1))) (fun _ c => .cleanBlock c)
  · exact .raise (.bump (.errRecord hs1))

theorem State.Canon.trainSet {d rd wr vrd vwr : Nat} (hs : s.Canon) : (s.trainSet d rd wr vrd vwr).Canon :=
  .put (.put (.put (.put hs)))

theorem State.Canon.failGroup {d reason : Nat} (hs : s.Canon) : (s.failGroup d reason).Canon :=
  .ite hs (.ringLose (.stateEv (.raise (.put (.put (.flag (.each hs (fun _ _ c => .setOut
    (.setCstate (.disarm (.stopGrid c)))))))))))

theorem State.Canon.channelUp {d : Nat} (hs : s.Canon) : (s.channelUp d).Canon :=
  .startGrid (.setCstate hs)

end

/-! Serial lanes and Ethernet ports -/

section
variable {s : State}

theorem State.Canon.setLane {l : Nat} {x : Lane} (hs : s.Canon) : (s.setLane l x).Canon :=
  hs

theorem State.Canon.laneTx {l n : Nat} (hs : s.Canon) : (s.laneTx l n).Canon :=
  .ite (.bump hs) (.bump hs)

theorem State.Canon.igmpChange {l vlan group kind : Nat} (hs : s.Canon) : (s.igmpChange l vlan group kind).Canon :=
  .ite hs hs

theorem State.Canon.igmpAll {l kind : Nat} (hs : s.Canon) : (s.igmpAll l kind).Canon :=
  .foldl hs (fun _ _ c => .igmpChange c)

theorem State.Canon.igmpSend {i : Nat} (hs : s.Canon) : (s.igmpSend i).Canon := by
  delta State.igmpSend
  split
  · extract_lets _ _ t1
    have ht1 : t1.Canon := .cond (.laneTx (.advance hs)) (fun _ c => .sat c)
    exact .ite (.mk ht1) (.mk ht1)
  · exact hs

theorem State.Canon.arpAnswer {l vlan target : Nat} (hs : s.Canon) : (s.arpAnswer l vlan target).Canon :=
  .ite hs (.ite (.sat (.laneTx (.setLane hs))) (.sat hs))

theorem State.Canon.igmpQuery {l vlan group maxNs : Nat} (hs : s.Canon) : (s.igmpQuery l vlan group maxNs).Canon :=
  .ite (.mk (.fresh hs)) hs

theorem State.Canon.frameReceived {l0 : Nat} {f : Sys2Proof.Frame} (hs : s.Canon) : (s.frameReceived l0 f).Canon := by
  delta State.frameReceived
  extract_lets _ _ s1
  have hs1 : s1.Canon := .bump hs
  refine .ite hs (.ite (.bump hs) (.ite (.bump hs) (.ite (.bump hs) (.ite (.bump hs) (.ite ?_ ?_)))))
  · split
    · exact .arpAnswer hs1
    · exact hs1
  · refine .ite (.bump hs) (.ite (.bump hs) (.ite (.bump hs) (.ite ?_ (.ite (.bump hs) (.ite (.bump hs) (.bump hs))))))
    split
    · exact .igmpQuery hs1
    · exact hs1

theorem State.Canon.laneStop {l : Nat} (hs : s.Canon) : (s.laneStop l).Canon :=
  .disarm (.disarm (.disarm (.disarm hs)))

theorem State.Canon.laneUnlock {l : Nat} {out : Bool} (hs : s.Canon) : (s.laneUnlock l out).Canon :=
  .cond hs (fun _ c => .cond (.flag c) (fun _ c => .flag c))

theorem State.Canon.setLstate {l new cause : Nat} (hs : s.Canon) : (s.setLstate l new cause).Canon := by
  delta State.setLstate
  extract_lets _ s0
  have hs0 : s0.Canon := .cond hs (fun _ c => .put c)
  exact .ite hs0 (.cond (.cond (.cond (.cond (.stateEv (.laneUnlock (.flag (.put (.laneStop hs0)))))
    (fun _ c => .cond (.bump c) (fun _ c => .raiseLevel c))) (fun _ c => .cond (.arm (.unraise c)) (fun _ c => .igmpAll c)))
    (fun _ c => .arm c)) (fun _ c => .arm c))

theorem State.Canon.portMove {l : Nat} {from_ : List Nat} {new cause : Nat} (hs : s.Canon) :
    (s.portMove l from_ new cause).Canon :=
  .each hs (fun _ _ c => .cond c (fun _ c => .setLstate c))

theorem State.Canon.portDrop {l cause : Nat} (hs : s.Canon) : (s.portDrop l cause).Canon :=
  .each hs (fun _ _ c => .cond c (fun _ c => .setLstate c))

theorem State.Canon.laneStart {l : Nat} (hs : s.Canon) : (s.laneStart l).Canon :=
  .setLstate (.flag (.setLane (.flag hs)))

theorem State.Canon.tryUp {l : Nat} (hs : s.Canon) : (s.tryUp l).Canon :=
  .ite (.portMove hs) hs

theorem State.Canon.blockLock {l : Nat} {fec : Bool} (hs : s.Canon) : (s.blockLock l fec).Canon :=
  .ite (.tryUp (.setLane (.flag hs))) hs

theorem State.Canon.lockLoss {l : Nat} {align : Bool} {bad : Nat} (hs : s.Canon) : (s.lockLoss l align bad).Canon := by
  delta State.lockLoss
  extract_lets s1
  have hs1 : s1.Canon := .bump hs
  exact .ite (.portMove (.ite (.flag (.setLane hs1)) (.laneUnlock hs1))) hs

theorem State.Canon.remoteFault {l : Nat} (hs : s.Canon) : (s.remoteFault l).Canon :=
  .ite (.portMove (.flag hs)) hs

theorem State.Canon.lockTime {l : Nat} (hs : s.Canon) : (s.lockTime l).Canon := by
  delta State.lockTime
  split
  · next e => exact .portMove (hs.fire e)
  · exact hs

theorem State.Canon.trainDone {l pre main post : Nat} {inv : Bool} (hs : s.Canon) :
    (s.trainDone l pre main post inv).Canon :=
  .ite (.setLstate (.setLane (.cond (.put (.put (.put hs))) (fun _ c => .bump (.flag c))))) hs

theorem State.Canon.trainTimeout {l : Nat} {frames : Bool} (hs : s.Canon) : (s.trainTimeout l frames).Canon := by
  delta State.trainTimeout
  split
  · next e =>
      exact .cond (.each (.setLane (.bump (hs.fire e))) (fun _ _ c => .ite c (.arm (.setLstate (.sat c)))))
        (fun _ c => .raise c)
  · exact hs

theorem State.Canon.backoffOver {l : Nat} (hs : s.Canon) : (s.backoffOver l).Canon := by
  delta State.backoffOver
  split
  · next e => exact .portMove (hs.fire e)
  · exact hs

theorem State.Canon.upStable {l : Nat} (hs : s.Canon) : (s.upStable l).Canon := by
  delta State.upStable
  split
  · next e => exact .ite (.put (hs.fire e)) (hs.fire e)
  · exact hs

theorem State.Canon.bondAlign {q map skew : Nat} (hs : s.Canon) : (s.bondAlign q map skew).Canon := by
  delta State.bondAlign
  extract_lets s1
  have hs1 : s1.Canon := .put hs
  exact .ite (.ite hs1 (.tryUp (.put (.flag hs1)))) hs

theorem State.Canon.fecBad {l corrected : Nat} (hs : s.Canon) : (s.fecBad l corrected).Canon :=
  .raise (.bump (.bump hs))

theorem State.Canon.mvAlign {l : Nat} (hs : s.Canon) : (s.mvAlign l).Canon :=
  .ite (.setLstate (.setLane (.flag hs))) hs

theorem State.Canon.mvHunt {l cause : Nat} (hs : s.Canon) : (s.mvHunt l cause).Canon := by
  delta State.mvHunt
  extract_lets _ s1
  have hs1 : s1.Canon := .setLane (.flag hs)
  exact .ite (.setLstate hs1) hs1

theorem State.Canon.mvAlignLoss {l bad : Nat} (hs : s.Canon) : (s.mvAlignLoss l bad).Canon :=
  .ite (.mvHunt (.bump hs)) hs

theorem State.Canon.mvFlip {l : Nat} (hs : s.Canon) : (s.mvFlip l).Canon :=
  .ite (.mvHunt (.bump (.flag hs))) hs

theorem State.Canon.writeLnkCfg {l : Nat} {v : Word} (hs : s.Canon) : (s.writeLnkCfg l v).Canon := by
  delta State.writeLnkCfg
  extract_lets _ _ _ s1
  have hs1 : s1.Canon := .store hs
  split
  · exact .ite hs (.setLane (.flag hs))
  · exact .ite (.setLane (.flag hs)) hs
  · exact .ite (.ite hs (.setLane (.flag hs))) (.ite (.setLane hs1) hs1)

theorem State.Canon.clearLaneCnt {l : Nat} (hs : s.Canon) : (s.clearLaneCnt l).Canon :=
  .each hs (fun _ _ c => .setWord c)

theorem State.Canon.laneRefuse {l err : Nat} (hs : s.Canon) : (s.laneRefuse l err).Canon :=
  .refusalEv (.put (.flag hs))

theorem State.Canon.laneAdmit {l : Nat} (hs : s.Canon) : (s.laneAdmit l).Canon := by
  delta State.laneAdmit
  extract_lets _
  split
  · exact .cond (.laneStart (.setLane (.clearLaneCnt hs))) (fun _ c => .acquire c)
  · exact .laneRefuse (.setLane (.flag hs))

theorem State.Canon.laneCheck {l : Nat} (hs : s.Canon) : (s.laneCheck l).Canon := by
  delta State.laneCheck
  extract_lets _ t
  have ht : t.Canon := .setLane (.tick hs)
  split
  · exact .laneAdmit (.tick hs)
  · exact .ite (.laneRefuse (.flag ht)) (.flag (.setLstate (.portDrop ht)))
  · exact hs

theorem State.Canon.prbsUnlock {l : Nat} (hs : s.Canon) : (s.prbsUnlock l).Canon :=
  .flag (.put64 hs)

theorem State.Canon.prbsErrors {l n : Nat} (hs : s.Canon) : (s.prbsErrors l n).Canon := by
  delta State.prbsErrors
  extract_lets s1
  have hs1 : s1.Canon := .sat hs
  exact .ite (.ite (.flag (.prbsUnlock hs1)) hs1) hs

theorem State.Canon.runInjection {l : Nat} (hs : s.Canon) : (s.runInjection l).Canon :=
  .ite (.prbsErrors (.setLane hs)) hs

theorem State.Canon.prbsCheck {l : Nat} (hs : s.Canon) : (s.prbsCheck l).Canon :=
  .ite (.setLane (.put64 hs)) (.cond hs (fun _ c => .prbsUnlock c))

theorem State.Canon.writeLnkTest {l : Nat} {v : Word} (hs : s.Canon) : (s.writeLnkTest l v).Canon := by
  delta State.writeLnkTest
  extract_lets _ _ s1 s2
  have hs1 : s1.Canon := .store hs
  have hs2 : s2.Canon := .prbsCheck (.setLane hs1)
  exact .ite (.ite (.runInjection (.prbsCheck hs1)) (.setLane hs1)) (.ite (.laneStart (.prbsUnlock hs2)) hs2)

theorem State.Canon.testAccept {l : Nat} (hs : s.Canon) : (s.testAccept l).Canon := by
  delta State.testAccept
  extract_lets _ t
  have ht : t.Canon := .setLane (.tick hs)
  split
  · exact .ite (.runInjection (.prbsCheck (.setLstate (.portDrop ht)))) (.setWord ht)
  · exact hs

theorem State.Canon.writeLnkInj {l : Nat} {v : Word} (hs : s.Canon) : (s.writeLnkInj l v).Canon := by
  delta State.writeLnkInj
  extract_lets s1
  have hs1 : s1.Canon := .store hs
  exact .ite hs1 (.runInjection (.setLane hs1))

theorem State.Canon.prbsLock {l : Nat} (hs : s.Canon) : (s.prbsLock l).Canon :=
  .ite (.setLane (.flag hs)) hs

theorem State.Canon.prbsLoss {l errs bits : Nat} (hs : s.Canon) : (s.prbsLoss l errs bits).Canon :=
  .ite (.flag (.flag (.put64 (.sat hs)))) hs

theorem State.Canon.endTests (hs : s.Canon) : s.endTests.Canon :=
  .each hs (fun _ _ c => .ite (.laneStart (.prbsUnlock (.flag c))) c)

theorem State.Canon.resetLane {l : Nat} (hs : s.Canon) : (s.resetLane l).Canon :=
  .ite hs (.endShadow (.laneStart (.openShadow (.setLstate (.portDrop hs)))))

theorem State.Canon.quadPllLost {q : Nat} (hs : s.Canon) : (s.quadPllLost q).Canon :=
  .each (.flag hs) (fun _ _ c => .ite c (.setLstate (.setLane (.flag c))))

end

/-! The buffer pools -/

section
variable {s : State}

theorem State.Canon.setFree {p g n : Nat} (hs : s.Canon) : (s.setFree p g n).Canon :=
  hs

theorem State.Canon.takeBuf {p own tag : Nat} {safe w : Bool} {pages : Nat} {t : State} (hs : s.Canon)
    (e : s.takeBuf p own tag safe w pages = some t) : t.Canon := by
  delta State.takeBuf at e
  extract_lets g at e
  split at e
  · cases e; exact .mk (.setFree hs)
  · cases e

theorem State.Canon.sweepBufs (hs : s.Canon) : s.sweepBufs.Canon :=
  .foldl hs (fun _ _ c => .setFree c)

theorem State.Canon.markBufs {which : Buf → Bool} {f : Buf → Buf} (hs : s.Canon) : (s.markBufs which f).Canon :=
  .sweepBufs hs

theorem State.Canon.dropBufs {which : Buf → Bool} (hs : s.Canon) : (s.dropBufs which).Canon :=
  .markBufs hs

theorem State.Canon.auditPool {p : Nat} (hs : s.Canon) : (s.auditPool p).Canon := by
  delta State.auditPool
  extract_lets _ _ s2
  have hs2 : s2.Canon := .put (.put (.put (.put (.put (.put hs)))))
  exact .ite hs2 (.raise (.flag hs2))

theorem State.Canon.auditPools (hs : s.Canon) : s.auditPools.Canon :=
  .each hs (fun _ _ c => .auditPool c)

theorem State.Canon.dividePools {groups : List Nat} (hs : s.Canon) : (s.dividePools groups).Canon :=
  .each hs (fun _ _ c => .each (.each c (fun _ _ c => .setFree c)) (fun _ _ c => .setFree c))

theorem State.Canon.lostHandover {i : Nat} {returning : Bool} (hs : s.Canon) : (s.lostHandover i returning).Canon := by
  delta State.lostHandover
  split
  · exact .raise (.flag hs)
  · exact hs

end

/-! The task scheduler -/

section
variable {s : State}

theorem State.Canon.showDepth {x : Nat} (hs : s.Canon) : (s.showDepth x).Canon :=
  .peak (.put hs)

theorem State.Canon.create {t : Task} (hs : s.Canon) : (s.create t).1.Canon := by
  delta State.create
  split
  · exact hs
  · split
    · exact .raise (.bump hs)
    · exact .showDepth (.mk (.put hs))

theorem State.Canon.creditBack {t : Task} (hs : s.Canon) : (s.creditBack t).Canon :=
  .put hs

theorem State.Canon.cancelTasks {cause : Nat} {p : Task → Bool} (hs : s.Canon) : (s.cancelTasks cause p).Canon :=
  .foldl (.foldl (.bump hs) (fun _ _ c => .creditBack c)) (fun _ _ c => .showDepth c)

theorem State.Canon.release {e : Nat} (hs : s.Canon) : (s.release e).Canon :=
  hs

theorem State.Canon.handTo {e : Nat} {t : Task} (hs : s.Canon) : (s.handTo e t).Canon :=
  .sat (.cond (.showDepth (.creditBack hs)) (fun _ c => .sat c))

theorem State.Canon.auditTasks (hs : s.Canon) : s.auditTasks.Canon := by
  delta State.auditTasks
  extract_lets _ _ _ s2
  have hs2 : s2.Canon := .put (.put (.put64 (.put64 (.put64 hs))))
  exact .each (.ite hs2 (.raise (.flag hs2))) (fun _ _ c => .ite c (.raise (.flag c)))

theorem State.Canon.resetBob (hs : s.Canon) : s.resetBob.Canon :=
  .cancelTasks hs

theorem State.Canon.writeHclr {x : Nat} {v : Word} (hs : s.Canon) : (s.writeHclr x v).Canon :=
  .ite (.each hs (fun _ _ c => .put c)) hs

end

/-! Channel contexts and the frame grid -/

section
variable {s : State}

theorem State.Canon.setChan {n : Nat} {c : Chan} (hs : s.Canon) : (s.setChan n c).Canon :=
  hs

theorem State.Canon.updChan {n : Nat} {f : Chan → Chan} (hs : s.Canon) : (s.updChan n f).Canon :=
  .setChan hs

theorem State.Canon.setChState {n v : Nat} (hs : s.Canon) : (s.setChState n v).Canon :=
  .moveTo hs

theorem State.Canon.updRow {n k j : Nat} {f : Row → Row} (hs : s.Canon) : (s.updRow n k j f).Canon :=
  .updChan hs

theorem State.Canon.showFrame {n : Nat} (hs : s.Canon) : (s.showFrame n).Canon :=
  .each (.put (.put (.put (.flag (.flag (.put (.put64 (.put64 hs)))))))) (fun _ _ c => .each c (fun _ _ c => .setWord c))

theorem State.Canon.toFrame {n : Nat} (hs : s.Canon) : (s.toFrame n).Canon :=
  .ite (.advance hs) (.advance hs)

theorem State.Canon.beginFrame {n : Nat} (hs : s.Canon) : (s.beginFrame n).Canon :=
  .showFrame (.setChan hs)

end

/-! Placement and the admission checks -/

section
variable {s : State}

theorem State.Canon.pick {l : List Nat} (hs : s.Canon) : (s.pick l).2.Canon := by
  delta State.pick
  extract_lets _
  split
  · exact hs
  · exact hs
  · exact .fresh hs

theorem State.Canon.tryPlace {tog skip : List Nat} {load : Nat} {pair : Bool} (hs : s.Canon) :
    (s.tryPlace tog skip load pair).2.Canon := by
  delta State.tryPlace
  extract_lets _
  split
  · split
    · next e =>
      have h1 := State.Canon.snd e hs.pick
      split
      · next e' => exact .snd e' h1.pick
      · next e' => exact .snd e' h1.pick
    · next e => exact .snd e hs.pick
  · split
    · next e => exact .snd e hs.pick
    · next e => exact .snd e hs.pick

theorem State.Canon.setEstate {e v : Nat} (hs : s.Canon) : (s.setEstate e v).Canon :=
  .moveTo hs

theorem State.Canon.showEngines (hs : s.Canon) : s.showEngines.Canon :=
  .each (.flag (.put (.put (.put (.each hs (fun _ _ c => .ite (.setEstate c) (.ite (.setEstate c) c)))))))
    (fun _ _ c => .put c)

theorem State.Canon.setPair {n v : Nat} (hs : s.Canon) : (s.setPair n v).Canon :=
  .moveTo hs

theorem State.Canon.place {n lead : Nat} {stby : Option Nat} (hs : s.Canon) : (s.place n lead stby).Canon := by
  delta State.place
  extract_lets s1
  have hs1 : s1.Canon := .put (.updChan hs)
  split
  · exact .flag (.put hs1)
  · exact .flag (.put hs1)

theorem State.Canon.unplace {n : Nat} (hs : s.Canon) : (s.unplace n).Canon :=
  .flag (.put (.updChan hs))

theorem State.Canon.placeChan {tog : List Nat} {n : Nat} {t : State} (hs : s.Canon)
    (e : s.placeChan tog n = some t) : t.Canon := by
  have keep : ∀ u ∈ s.placeChan tog n, u.Canon := by
    refine List.foldlRecOn (motive := fun r : Option State => ∀ u ∈ r, u.Canon) _ _ (by rintro u ⟨⟩; exact hs)
      (fun r hr m _ => ?_)
    split
    · exact fun u hu => absurd hu (Option.not_mem_none u)
    · next v =>
      split
      · next e => rintro u ⟨⟩; exact .place (.snd e (hr v rfl).tryPlace)
      · exact fun u hu => absurd hu (Option.not_mem_none u)
  exact keep t e

theorem State.Canon.admitBit {tog : List Nat} {n : Nat} (hs : s.Canon) : (s.admitBit tog n).2.Canon := by
  delta State.admitBit
  extract_lets _ p
  have hp : ∀ t, p = some t → t.Canon := by
    intro t e
    unfold p at e
    split at e
    · cases e; exact hs
    · exact hs.placeChan e
  clear_value p
  refine .sndIte hs (.sndIte hs (.sndIte hs (.sndIte hs (.sndIte hs (.sndIte hs ?_)))))
  cases p with
  | none => exact hs
  | some t => exact .sndIte hs (.sndIte hs (.sndIte hs (.sndIte hs (hp t rfl))))

theorem State.Canon.showLoad {n : Nat} (hs : s.Canon) : (s.showLoad n).Canon :=
  .put (.put hs)

theorem State.Canon.handOff {m k j : Nat} (hs : s.Canon) : (s.handOff m k j).Canon := by
  delta State.handOff
  split
  · exact hs
  · exact .ite (.updRow hs) (.create hs)

theorem State.Canon.settleRows {m : Nat} (hs : s.Canon) : (s.settleRows m).Canon :=
  .foldl hs (fun _ _ c => .ite (.handOff (.updRow c)) c)

theorem State.Canon.dropStandby {m v cause : Nat} (hs : s.Canon) : (s.dropStandby m v cause).Canon :=
  .settleRows (.setPair (.put (.flag (.put (.cancelTasks hs)))))

theorem State.Canon.shed {n : Nat} (hs : s.Canon) : (s.shed n).Canon :=
  .mk (.updChan hs)

theorem State.Canon.dropDuplex {n : Nat} (hs : s.Canon) : (s.dropDuplex n).Canon :=
  .mk (.foldl (.flag hs) (fun _ _ c => .dropStandby c))

theorem State.Canon.replace (hs : s.Canon) : s.replace.Canon := by
  refine .foldl hs (fun t _ c => .ite c ?_)
  split
  · next e => exact c.placeChan e
  · exact c

theorem State.Canon.reduce (hs : s.Canon) : s.reduce.Canon :=
  .foldl (.foldl (.foldl (.foldl hs (fun _ _ c => .ite c (.shed c))) (fun _ _ c => .ite c (.ite c (.dropDuplex c))))
    (fun _ _ c => .ite c (.shed c))) (fun _ _ c => .ite c (.shed c))

theorem State.Canon.restoreOne {r : State × Bool} {x : Nat} (hr : r.1.Canon) : (State.restoreOne r x).1.Canon := by
  delta State.restoreOne
  extract_lets s n t _ t' u
  have hs : s.Canon := hr
  have hu : ∀ v, u = some v → v.Canon := by
    intro v e
    unfold u at e
    split at e
    · split at e
      · cases e; exact .updChan hs
      · exact State.Canon.placeChan (.updChan hs) e
    · cases e
  clear_value u
  split
  · exact hr
  · split
    · split
      · exact .foldl (.mk (.flag hs)) (fun _ _ c => .setPair c)
      · exact hs
    · split
      · exact .mk (hu _ rfl)
      · exact hs

theorem State.Canon.evaluate (hs : s.Canon) : s.evaluate.Canon := by
  delta State.evaluate
  extract_lets t
  have ht : t.Canon := .replace hs
  exact .ite (List.foldlRecOn (motive := fun r : State × Bool => r.1.Canon) _ _ ht (fun _ hr _ _ => .restoreOne hr))
    (.reduce ht)

theorem State.Canon.evalDegraded (hs : s.Canon) : s.evalDegraded.Canon :=
  .ite (.showEngines (.evaluate hs)) hs

end

/-! Live sources -/

section
variable {s : State}

theorem State.Canon.setSrc {i : Nat} {x : Src} (hs : s.Canon) : (s.setSrc i x).Canon :=
  hs

theorem State.Canon.updSrc {i : Nat} {f : Src → Src} (hs : s.Canon) : (s.updSrc i f).Canon :=
  .setSrc hs

theorem State.Canon.setSstate {i v : Nat} (hs : s.Canon) : (s.setSstate i v).Canon :=
  .moveTo hs

theorem State.Canon.setPath {i x : Nat} {up : Bool} (hs : s.Canon) : (s.setPath i x up).Canon :=
  .ite hs (.stateEv (.flag hs))

theorem State.Canon.pathSeen {i x : Nat} (hs : s.Canon) : (s.pathSeen i x).Canon :=
  .arm (.setPath hs)

theorem State.Canon.carryRow {i : Nat} {x : Src} {r : Nat} (hs : s.Canon) : (s.carryRow i x r).Canon := by
  delta State.carryRow
  split
  · exact .ite hs (.create hs)
  · exact hs

theorem State.Canon.closeFrame {i : Nat} (hs : s.Canon) : (s.closeFrame i).Canon :=
  .ite hs (.put (.bump (.cond (.put (.put (.bump (.markBufs (.setSrc (.foldl hs (fun _ _ c => .carryRow c)))))))
    (fun _ c => .bump c))))

theorem State.Canon.carryDone {e : Nat} (hs : s.Canon) : (s.carryDone e).Canon := by
  delta State.carryDone
  extract_lets s1
  have hs1 : s1.Canon := .release hs
  split
  · exact .ite (.setSrc hs1) hs1
  · exact hs

theorem State.Canon.rowDone {i r : Nat} (hs : s.Canon) : (s.rowDone i r).Canon :=
  .create (.setSrc hs)

theorem State.Canon.checkRows {i : Nat} (hs : s.Canon) : (s.checkRows i).Canon := by
  delta State.checkRows
  extract_lets _ _ _ s1
  have hs1 : s1.Canon := .each hs (fun _ _ c => .rowDone c)
  exact .ite (.closeFrame hs1) hs1

theorem State.Canon.ingestDone {e mask : Nat} {hints : List (Nat × Int × Int × Nat)} (hs : s.Canon) :
    (s.ingestDone e mask hints).Canon := by
  delta State.ingestDone
  split
  · extract_lets _ _ s2
    have hs2 : s2.Canon := .cond (.setSrc (.release hs)) (fun _ c => .put c)
    exact .ite (.each hs2 (fun _ _ c => by split; exacts [.flag (.put (.put (.put c))), .ite c (.flag c)])) hs2
  · exact hs

theorem State.Canon.loseSource {i : Nat} (hs : s.Canon) : (s.loseSource i).Canon :=
  .raiseLevel (.setSstate (.closeFrame hs))

theorem State.Canon.findSource {i : Nat} (hs : s.Canon) : (s.findSource i).Canon :=
  .ite (.unraise (.setSstate hs)) hs

theorem State.Canon.acceptPkt {i x seq : Nat} (hs : s.Canon) : (s.acceptPkt i x seq).Canon :=
  .findSource (.bump (.setSrc hs))

theorem State.Canon.mergeIn {i x seq : Nat} (hs : s.Canon) : (s.mergeIn i x seq).1.Canon := by
  delta State.mergeIn
  split
  · exact .bump (.pathSeen hs)
  · split
    · exact .bump (.pathSeen hs)
    · exact .bump hs
    · exact hs

theorem State.Canon.openFrame {i ts : Nat} (hs : s.Canon) : (s.openFrame i ts).Canon := by
  -- opened for a variable in its place: the match stays unevaluated
  generalize hf : @State.openFrame = f
  delta State.openFrame at hf
  subst hf
  beta_reduce
  extract_lets _
  split
  · next e => exact .cond (.setSrc (hs.takeBuf e)) (fun _ c => .bump c)
  · exact .setSrc hs

theorem State.Canon.writeSegs {i : Nat} {l : List (Nat × Nat × Nat)} (hs : s.Canon) : (s.writeSegs i l).Canon :=
  .checkRows (.updSrc hs)

theorem State.Canon.videoIn {i : Nat} {p : VideoPkt} (hs : s.Canon) : (s.videoIn i p).Canon := by
  delta State.videoIn
  extract_lets _ _ _ _ s1
  have hs1 : s1.Canon := .ite (.openFrame (.closeFrame (.mergeIn hs))) (.mergeIn hs)
  exact .ite (.mergeIn hs) (.ite (.bump (.mergeIn hs)) (.ite (.bump hs1)
    (.ite (.bump hs1) (.writeSegs (.acceptPkt (.pathSeen hs1))))))

theorem State.Canon.videoPacket {i : Nat} {p : VideoPkt} (hs : s.Canon) : (s.videoPacket i p).Canon := by
  delta State.videoPacket
  extract_lets _ s1
  have hs1 : s1.Canon := .pathSeen hs
  exact .ite hs (.ite (.ite (.bump hs1) (.ite (.videoIn (.setSstate hs1)) (.bump (.updSrc hs1))))
    (.ite (.bump hs) (.videoIn hs)))

theorem State.Canon.mvIn {i : Nat} {p : MvPkt} (hs : s.Canon) : (s.mvIn i p).Canon := by
  delta State.mvIn
  extract_lets _ _ s2
  have hs2 : s2.Canon := .openFrame (.closeFrame (.findSource (.cond hs (fun _ c => .setSstate c))))
  exact .ite (.bump hs) (.ite (.ite (.ite (.bump hs2) (.bump hs2)) (.bump (.closeFrame hs)))
    (.ite (.bump hs) (.ite (.bump hs) (.ite (.closeFrame (.bump (.findSource hs)))
    (.ite (.bump hs) (.writeSegs (.bump (.findSource hs))))))))

theorem State.Canon.mvPacket {i : Nat} {p : MvPkt} (hs : s.Canon) : (s.mvPacket i p).Canon := by
  delta State.mvPacket
  extract_lets _ s1
  have hs1 : s1.Canon := .pathSeen hs
  exact .ite hs (.ite (.bump hs) (.ite (.ite (.bump hs1) (.bump hs1)) (.mvIn hs1)))

theorem State.Canon.clearSrcCounts {i : Nat} (hs : s.Canon) : (s.clearSrcCounts i).Canon :=
  .each (.each hs (fun _ _ c => .setWord c)) (fun _ _ c => .setWord c)

theorem State.Canon.setDecState {i v : Nat} (hs : s.Canon) : (s.setDecState i v).Canon :=
  .moveTo hs

theorem State.Canon.showDec (hs : s.Canon) : s.showDec.Canon :=
  .put (.put hs)

theorem State.Canon.srcCheck {i : Nat} (hs : s.Canon) : (s.srcCheck i).Canon := by
  delta State.srcCheck
  extract_lets _ s0 _ s2 s3
  have hs0 : s0.Canon := .setSrc hs
  have hs2 : s2.Canon := .setSstate (.flag (.flag (.put (.flag (.clearSrcCounts hs0)))))
  have hs3 : s3.Canon := .ite hs2 (.each hs2 (fun _ _ c => .igmpChange c))
  exact .ite (.ite (.showDec (.setDecState hs3)) hs3) (.refusalEv (.flag (.put (.flag hs0))))

theorem State.Canon.srcDisable {i : Nat} (hs : s.Canon) : (s.srcDisable i).Canon :=
  .ite (.updSrc hs) (.showDec (.put (.setDecState (.setSrc (.flag (.flag
    (.dropBufs (.disarm (.disarm (.cancelTasks (.unraise (.setSstate (.closeFrame
    (.ite hs (.each hs (fun _ _ c => .igmpChange c))))))))))))))))

theorem State.Canon.writeSrcCfg {i : Nat} {v : Word} (hs : s.Canon) : (s.writeSrcCfg i v).Canon := by
  delta State.writeSrcCfg
  extract_lets _ s1
  have hs1 : s1.Canon := .store hs
  exact .ite (.updSrc hs1) (.ite (.srcDisable hs1) hs1)

end

/-! Camera streams -/

section
variable {s : State}

theorem State.Canon.countCause {i cause : Nat} (hs : s.Canon) : (s.countCause i cause).Canon := by
  delta State.countCause
  split
  · exact .bump hs
  · exact .bump hs
  · exact .bump hs
  · exact .bump hs
  · exact .bump hs
  · exact hs

theorem State.Canon.conceal {i cause : Nat} (hs : s.Canon) : (s.conceal i cause).Canon :=
  .ite (.setDecState (.bump (.put (.put hs)))) hs

theorem State.Canon.damageAt {i r : Nat} (hs : s.Canon) : (s.damageAt i r).Canon :=
  .updSrc hs

theorem State.Canon.sliceLost {i r : Nat} (hs : s.Canon) : (s.sliceLost i r).Canon :=
  .damageAt (.conceal (.countCause hs))

theorem State.Canon.showQueue {i : Nat} (hs : s.Canon) : (s.showQueue i).Canon :=
  .put hs

theorem State.Canon.dropAus {i : Nat} (hs : s.Canon) : (s.dropAus i).Canon :=
  .showQueue (.updSrc (.cancelTasks hs))

theorem State.Canon.parkCheck {i : Nat} (hs : s.Canon) : (s.parkCheck i).Canon :=
  .ite (.ite (.ite (.showDec (.setDecState hs)) hs) (.ite (.showDec (.setDecState (.dropAus hs))) hs)) hs

theorem State.Canon.parkAll (hs : s.Canon) : s.parkAll.Canon :=
  .each hs (fun _ _ c => .parkCheck c)

theorem State.Canon.takePicture {i : Nat} (hs : s.Canon) : (s.takePicture i).Canon := by
  -- opened as openFrame is
  generalize hf : @State.takePicture = f
  delta State.takePicture at hf
  subst hf
  beta_reduce
  split
  · next e => exact hs.takeBuf e
  · exact hs

theorem State.Canon.bindSlices {i pic e : Nat} (hs : s.Canon) : (s.bindSlices i pic e).Canon :=
  .showDepth (.showQueue (.updSrc (.takePicture hs)))

theorem State.Canon.closePicture {i : Nat} {q : Queued} {rest : List Queued} (hs : s.Canon) :
    (s.closePicture i q rest).Canon := by
  delta State.closePicture
  extract_lets _ _ _ _ s0 a s1 _ _ _ _ _ s3
  have hs0 : s0.Canon := .bump hs
  have ha : a.Canon := .updSrc (.put hs0)
  have hs1 : s1.Canon := by
    unfold s1
    refine .ite (.ite (.ite ha (.setDecState (.bump (.put ha)))) (.setDecState (.updSrc (.put hs0)))) ?_
    split
    · exact .ite (.setDecState (.updSrc (.put hs0))) (.updSrc hs0)
    · exact hs0
  have hs3 : s3.Canon := .cond (.cond hs1 (fun _ c => .sat c)) (fun _ c => .bump c)
  exact .parkCheck (.showQueue (.markBufs (.ite (.setSrc hs3) (.put (.put (.bump (.setSrc hs3)))))))

theorem State.Canon.startAu {i : Nat} {q : Queued} {rest : List Queued} (hs : s.Canon) : (s.startAu i q rest).Canon := by
  delta State.startAu
  extract_lets _ idx r _ _
  have hr : r.1.Canon := by
    refine List.foldlRecOn (motive := fun a : State × Nat => a.1.Canon) _ _ hs (fun a ha k _ => ?_)
    extract_lets c
    have hc : c.1.Canon := .create ha
    split
    · exact hc
    · exact .sliceLost hc
  exact .updSrc (.foldl hr (fun _ _ c => .sliceLost c))

theorem State.Canon.runQueue {i f : Nat} (hs : s.Canon) : (s.runQueue i f).Canon := by
  induction f generalizing s with
  | zero => exact hs
  | succ f ih =>
    rw [State.runQueue]
    split
    · exact hs
    · refine .ite hs (.ite (ih (.showQueue (.updSrc (.bump hs)))) (.ite (ih (.showQueue (.updSrc (.bump hs)))) ?_))
      extract_lets t
      have ht : t.Canon := .startAu hs
      split
      · exact .ite (ih (.closePicture (.takePicture ht))) ht
      · exact ht

theorem State.Canon.pictureCheck {i : Nat} (hs : s.Canon) : (s.pictureCheck i).Canon := by
  delta State.pictureCheck
  split
  · exact .ite (.runQueue (.closePicture hs)) hs
  · exact hs

theorem State.Canon.makeRoom {i : Nat} (hs : s.Canon) : (s.makeRoom i).Canon := by
  delta State.makeRoom
  extract_lets _
  split
  · extract_lets _ s2
    have hs2 : s2.Canon := .countCause (.updSrc (.cancelTasks hs))
    exact .ite (.conceal hs2) hs2
  · exact hs

theorem State.Canon.queueAu {i : Nat} {au : CamAu} {first capt : Nat} (hs : s.Canon) :
    (s.queueAu i au first capt).Canon := by
  delta State.queueAu
  extract_lets _ s1
  have hs1 : s1.Canon := .countCause hs
  exact .ite (.ite (.conceal hs1) hs1) (.showQueue (.runQueue (.updSrc (.makeRoom hs))))

theorem State.Canon.sliceDone {e result : Nat} (hs : s.Canon) : (s.sliceDone e result).Canon := by
  delta State.sliceDone
  extract_lets s1
  have hs1 : s1.Canon := .release hs
  split
  · extract_lets _
    split
    · exact .ite (.pictureCheck (.updSrc (.ite hs1 (.damageAt (.conceal (.countCause hs1)))))) hs1
    · exact hs1
  · exact hs

theorem State.Canon.sliceGone {t : Task} (hs : s.Canon) : (s.sliceGone t).Canon := by
  delta State.sliceGone
  split
  · exact .ite (.pictureCheck (.updSrc (.sliceLost hs))) hs
  · exact hs

theorem State.Canon.dropSlices {e : Nat} (hs : s.Canon) : (s.dropSlices e).Canon :=
  .foldl (.cancelTasks hs) (fun _ _ c => .sliceGone c)

theorem State.Canon.auComplete {i : Nat} {au : CamAu} (hs : s.Canon) : (s.auComplete i au).Canon := by
  delta State.auComplete
  extract_lets _ _ _ s1
  have hs1 : s1.Canon := .updSrc (.put (.put (.bump hs)))
  split
  · exact .bump hs1
  · exact .ite (.ite (.bump hs1) (.queueAu hs1)) (.ite (.cond (.bump hs1) (fun _ c => .dropAus c)) (.queueAu hs1))
  · exact hs1
  · exact .ite (.setDecState (.dropAus (.bump hs1))) (.ite (.bump hs1) (.queueAu (.ite (.conceal (.countCause hs1)) hs1)))

theorem State.Canon.auStart {i ts : Nat} (hs : s.Canon) : (s.auStart i ts).Canon :=
  .ite hs (.cond (.setSrc hs) (fun _ c => .bump c))

theorem State.Canon.camIn {i : Nat} {p : CamPkt} (hs : s.Canon) : (s.camIn i p).Canon := by
  delta State.camIn
  extract_lets _ _ s1 s2 s3 s4 s5
  have hs1 : s1.Canon := .acceptPkt (.pathSeen (.mergeIn hs))
  have hs2 : s2.Canon := .ite (.showDec (.setDecState (.dropAus hs1))) hs1
  have hs3 : s3.Canon := by
    unfold s3
    split
    · exact .auComplete hs2
    · exact hs2
  have hs4 : s4.Canon := .auStart hs3
  have hs5 : s5.Canon := .ite hs4 (.bump hs4)
  refine .ite (.mergeIn hs) ?_
  split
  · exact .auComplete hs5
  · exact hs5

theorem State.Canon.camPacket {i : Nat} {p0 : CamPkt} (hs : s.Canon) : (s.camPacket i p0).Canon := by
  delta State.camPacket
  extract_lets _ _ s1
  have hs1 : s1.Canon := .pathSeen hs
  exact .ite hs (.ite (.ite (.bump hs1) (.ite (.camIn (.setSstate hs1)) (.bump (.updSrc hs1))))
    (.ite (.bump hs) (.camIn hs)))

theorem State.Canon.pathLoss {i x : Nat} (hs : s.Canon) : (s.pathLoss i x).Canon := by
  delta State.pathLoss
  split
  · next e =>
      extract_lets s1
      have hs1 : s1.Canon := .setPath (hs.fire e)
      exact .ite (.loseSource hs1) hs1
  · exact hs

end

end Sys2Proof.Machine
end

