-- ==== Sys2Proof/Proofs/CanonCoding.lean ====
section
/-!
SUPPORT. Sys2Proof/Proofs/CanonCoding.lean: the canonical form of the register table, kept by what the model does with
engines, layers, the row pipeline, audio and egress.
-/

namespace Sys2Proof.Machine

/-! Engine health and takeovers -/

section
variable {s : State}

theorem State.Canon.setEng {e : Nat} {x : Eng} (hs : s.Canon) : (s.setEng e x).Canon :=
  hs

theorem State.Canon.updEng {e : Nat} {f : Eng → Eng} (hs : s.Canon) : (s.updEng e f).Canon :=
  .setEng hs

theorem State.Canon.addBusy {e dt : Nat} (hs : s.Canon) : (s.addBusy e dt).Canon :=
  .ite (.put (.setEng hs)) (.setEng hs)

theorem State.Canon.freeEngine {e : Nat} (hs : s.Canon) : (s.freeEngine e).Canon := by
  delta State.freeEngine
  split
  · exact .put (.addBusy (.release hs))
  · exact hs

theorem State.Canon.startPass {e level : Nat} (hs : s.Canon) : (s.startPass e level).Canon :=
  .each (.updEng hs) (fun _ _ c => .create c)

theorem State.Canon.stopEngine {e : Nat} (hs : s.Canon) : (s.stopEngine e).Canon :=
  .updEng (.freeEngine (.cancelTasks (.dropSlices hs)))

theorem State.Canon.loseEngine {n e : Nat} (hs : s.Canon) : (s.loseEngine n e).Canon := by
  delta State.loseEngine
  extract_lets s1
  have hs1 : s1.Canon := .updChan hs
  split
  · exact .ite (.dropStandby hs1) (.dropStandby (.put (.mk (.updChan hs1))))
  · exact .updChan hs1

theorem State.Canon.engineReset {e : Nat} (hs : s.Canon) : (s.engineReset e).Canon :=
  .endShadow (.openShadow hs)

theorem State.Canon.toTesting {e : Nat} {cond sig : Bool} (hs : s.Canon) : (s.toTesting e cond sig).Canon :=
  .startPass (.setEstate (.updEng hs))

theorem State.Canon.repair {e : Nat} (hs : s.Canon) : (s.repair e).Canon :=
  .ite (.toTesting (.engineReset hs)) hs

theorem State.Canon.evict {e : Nat} (hs : s.Canon) : (s.evict e).Canon :=
  .foldl hs (fun _ _ c => .loseEngine c)

theorem State.Canon.emptyEngine {e : Nat} {t : State} (hs : s.Canon) (ht : s.emptyEngine e = some t) : t.Canon := by
  have keep : ∀ u ∈ s.emptyEngine e, u.Canon := by
    refine List.foldlRecOn (motive := fun r : Option State => ∀ u ∈ r, u.Canon) _ _ (by rintro u ⟨⟩; exact hs)
      (fun r hr m _ => ?_)
    split
    · exact fun u hu => absurd hu (Option.not_mem_none u)
    · next v =>
      split
      · rintro u ⟨⟩; exact .ite (.put (hr v rfl)) (.put (hr v rfl))
      · exact fun u hu => absurd hu (Option.not_mem_none u)
  exact keep t ht

theorem State.Canon.rebalance {fuel : Nat} (hs : s.Canon) : (s.rebalance fuel).Canon := by
  induction fuel generalizing s with
  | zero => exact .showEngines hs
  | succ fuel ih =>
    rw [State.rebalance]
    extract_lets l
    refine .ite (.showEngines hs) ?_
    split
    · split
      · next e => exact ih (hs.emptyEngine e)
      · exact .showEngines hs
    · exact .showEngines hs

theorem State.Canon.afterLoss (hs : s.Canon) : s.afterLoss.Canon :=
  .ite (.rebalance hs) (.capacityLoss (.showEngines hs))

theorem State.Canon.condemn {e cause : Nat} (hs : s.Canon) : (s.condemn e cause).Canon :=
  .ite hs (.afterLoss (.repair (.setEstate (.evict (.stopEngine (.put hs))))))

theorem State.Canon.retire {e : Nat} {sig : Bool} (hs : s.Canon) : (s.retire e sig).Canon :=
  .afterLoss (.toTesting (.evict (.stopEngine hs)))

theorem State.Canon.tookOver {n : Nat} {fresh : Bool} (hs : s.Canon) : (s.tookOver n fresh).Canon := by
  delta State.tookOver
  extract_lets s1
  have hs1 : s1.Canon := .updChan (.bump hs)
  exact .ite (.updChan hs1) hs1

theorem State.Canon.takeoverOf {n : Nat} (hs : s.Canon) : (s.takeoverOf n).Canon := by
  delta State.takeoverOf
  extract_lets _ s0 t
  have hs0 : s0.Canon := .unplace hs
  have ht : t.Canon := .setChState hs0
  refine .ite hs (.ite ?_ ?_)
  · split
    · exact .showEngines (.tookOver (.setPair (.place hs0)))
    · exact .afterLoss (.raise hs0)
  · refine .ite ?_ ?_
    · split
      · exact .showEngines (.tookOver (.place hs0))
      · exact .ite (.evalDegraded (.mk ht)) (.capacityLoss (.mk ht))
    · split
      · exact .showEngines (.tookOver (.place hs0))
      · exact .afterLoss (.raise hs0)

theorem State.Canon.joinOf {n : Nat} (hs : s.Canon) : (s.joinOf n).Canon := by
  delta State.joinOf
  refine .ite ?_ hs
  split
  · exact .showEngines (.tookOver (.setPair (.put (.place hs))))
  · exact .raise hs

theorem State.Canon.writeRedCmd {e : Nat} {v : Word} (hs : s.Canon) : (s.writeRedCmd e v).Canon := by
  delta State.writeRedCmd
  extract_lets _ _ s1
  have hs1 : s1.Canon := .ite (.ite (.mk (.put hs)) (.condemn hs)) hs
  exact .ite (.showEngines (.toTesting (.engineReset hs1))) hs1

theorem State.Canon.writeEncInj {e : Nat} {v : Word} (hs : s.Canon) : (s.writeEncInj e v).Canon :=
  .updEng hs

theorem State.Canon.writeDupCmd {n : Nat} {v : Word} (hs : s.Canon) : (s.writeDupCmd n v).Canon :=
  .ite (.updChan hs) hs

theorem State.Canon.applySwap {n : Nat} (hs : s.Canon) : (s.applySwap n).Canon := by
  delta State.applySwap
  extract_lets s1
  have hs1 : s1.Canon := .updChan hs
  refine .ite ?_ hs
  split
  · exact .ite (.place hs1) hs1
  · exact hs1

theorem State.Canon.startInterval {e : Nat} (hs : s.Canon) : (s.startInterval e).Canon := by
  delta State.startInterval
  extract_lets _ s1
  have hs1 : s1.Canon := .updEng (.arm (.arm hs))
  exact .ite (.startPass hs1) hs1

theorem State.Canon.selftestStart {e : Nat} (hs : s.Canon) : (s.selftestStart e).Canon := by
  delta State.selftestStart
  refine .ite hs ?_
  split
  · next e => exact .startInterval (hs.fire e)
  · exact .ite hs (.startInterval hs)

theorem State.Canon.raisePass {e : Nat} (hs : s.Canon) : (s.raisePass e).Canon :=
  hs

theorem State.Canon.passClean {e : Nat} (hs : s.Canon) : (s.passClean e).Canon := by
  delta State.passClean
  extract_lets s1
  have hs1 : s1.Canon := .put (.updEng (.bump hs))
  split
  · exact .showEngines (.setEstate hs1)
  · exact .ite (.evalDegraded (.showEngines (.setEstate (.cond hs1 (fun _ c => .put c))))) (.startPass hs1)
  · exact .startPass hs1
  · exact hs1

theorem State.Canon.passFailed {e : Nat} (hs : s.Canon) : (s.passFailed e).Canon := by
  delta State.passFailed
  extract_lets _ _ s2
  have hs2 : s2.Canon := .setEstate (.put (.cancelTasks (.stopEngine hs)))
  exact .ite (.ite (.showEngines hs2) (.showEngines (.repair hs2))) (.condemn hs)

theorem State.Canon.selftestSlice {e : Nat} {clean : Bool} (hs : s.Canon) : (s.selftestSlice e clean).Canon := by
  delta State.selftestSlice
  extract_lets _ s1 s2
  have hs1 : s1.Canon := .updEng (.freeEngine hs)
  have hs2 : s2.Canon := .updEng (.freeEngine hs)
  split
  · exact .ite (.ite (.ite (.passFailed (.updEng (.freeEngine hs))) (.ite (.ite (.passClean hs1) hs1) (.updEng hs)))
      (.ite (.ite (.passClean hs2) hs2) (.raise (.updEng (.bump hs))))) hs
  · exact hs

theorem State.Canon.taskLimit {e : Nat} (hs : s.Canon) : (s.taskLimit e).Canon := by
  delta State.taskLimit
  split
  · exact .condemn (.raise (.advance hs))
  · exact hs

end

/-! Layers, coefficients and tables -/

section
variable {s : State}

theorem State.Canon.setCmp {c : Nat} {x : Cmp} (hs : s.Canon) : (s.setCmp c x).Canon :=
  hs

theorem State.Canon.setLyr {c i : Nat} {x : Lyr} (hs : s.Canon) : (s.setLyr c i x).Canon :=
  hs

theorem State.Canon.writeCoefSel {c : Nat} {v : Word} (hs : s.Canon) : (s.writeCoefSel c v).Canon :=
  .setCmp (.store hs)

theorem State.Canon.writeCoefData {c : Nat} {v : Word} (hs : s.Canon) : (s.writeCoefData c v).Canon :=
  .setCmp hs

theorem State.Canon.writeCoefLoad {c : Nat} {v : Word} (hs : s.Canon) : (s.writeCoefLoad c v).Canon :=
  .store hs

theorem State.Canon.loadResult {c r slot : Nat} {table : Bool} (hs : s.Canon) : (s.loadResult c r slot table).Canon :=
  .stateEv hs

theorem State.Canon.coefCheck {c : Nat} (hs : s.Canon) : (s.coefCheck c).Canon := by
  delta State.coefCheck
  extract_lets _ _ _ _ _ _ _ s1
  have hs1 : s1.Canon := .put (.put (.flag (.tick hs)))
  exact .ite (.loadResult (.ite (.setWord (.put (.setCmp hs1))) hs1)) hs

theorem State.Canon.writeLutSel {c : Nat} {v : Word} (hs : s.Canon) : (s.writeLutSel c v).Canon :=
  .setCmp (.store hs)

theorem State.Canon.writeLutData {c : Nat} {v : Word} (hs : s.Canon) : (s.writeLutData c v).Canon :=
  .setCmp hs

theorem State.Canon.writeLutLoad {c : Nat} {v : Word} (hs : s.Canon) : (s.writeLutLoad c v).Canon :=
  .store hs

theorem State.Canon.lutCheck {c : Nat} (hs : s.Canon) : (s.lutCheck c).Canon := by
  delta State.lutCheck
  extract_lets _ _ _ _ _ s1
  have hs1 : s1.Canon := .put (.flag (.tick hs))
  exact .ite (.loadResult (.ite (.setWord (.put (.setCmp hs1))) hs1)) hs

theorem State.Canon.writeChlOut {c m : Nat} {v : Word} (hs : s.Canon) : (s.writeChlOut c m v).Canon :=
  .ite hs (.store hs)

theorem State.Canon.showRep {n : Nat} (hs : s.Canon) : (s.showRep n).Canon :=
  .flag hs

theorem State.Canon.applyLayer {c i : Nat} (hs : s.Canon) : (s.applyLayer c i).Canon := by
  delta State.applyLayer
  extract_lets _ _ _ _ s2
  have hs2 : s2.Canon := .cond (.put (.flag (.activate hs))) (fun _ c => .setLyr c)
  exact .ite (.setWord (.setWord (.setWord (.setLyr hs2)))) hs2

theorem State.Canon.dropLayer {c i reason : Nat} (hs : s.Canon) : (s.dropLayer c i reason).Canon :=
  .put (.flag (.flag (.reload hs)))

theorem State.Canon.commitLayer {c i : Nat} (hs : s.Canon) : (s.commitLayer c i).Canon :=
  .ite (.applyLayer hs) (.refusalEv (.dropLayer hs))

theorem State.Canon.commitSet {n : Nat} {mem : List Nat} (hs : s.Canon) : (s.commitSet n mem).Canon := by
  delta State.commitSet
  extract_lets _ _ _ s1
  have hs1 : s1.Canon := .flag hs
  exact .ite (.showRep (.activate (.each hs1 (fun _ _ c => .applyLayer c))))
    (.refusalEv (.put (.put (.flag (.each hs1 (fun _ _ c => .dropLayer c))))))

theorem State.Canon.commitLayers {c : Nat} {chans : List Nat} (hs : s.Canon) : (s.commitLayers c chans).Canon :=
  .each (.each hs (fun _ _ c => .ite (.ite (.commitSet c) (.commitLayer c)) c)) (fun _ _ c => .ite (.commitSet c) c)

theorem State.Canon.keepShot {n : Nat} (hs : s.Canon) : (s.keepShot n).Canon :=
  .updChan hs

theorem State.Canon.judgeRead {n k tdl : Nat} {l : LCfg} {r : Nat} (hs : s.Canon) : (s.judgeRead n k tdl l r).Canon :=
  .ite hs (.cond (.setLyr hs) (fun _ c => .bump c))

theorem State.Canon.judgeRow {n k j : Nat} (hs : s.Canon) : (s.judgeRow n k j).Canon :=
  .each hs (fun _ _ c => .each c (fun _ _ c => .judgeRead c))

theorem State.Canon.markStale {c : Nat} {cands : List (BitVec 64)} (hs : s.Canon) : (s.markStale c cands).Canon :=
  .each hs (fun _ _ c => .ite (.setLyr c) c)

theorem State.Canon.closeLayers {n k : Nat} (hs : s.Canon) : (s.closeLayers n k).Canon :=
  .each hs (fun _ _ c => .setLyr (.cond (.cond (.put (.put c)) (fun _ c => .bump c)) (fun _ c => .bump c)))

end

/-! Rate control -/

section
variable {s : State}

theorem State.Canon.showCap {n : Nat} (hs : s.Canon) : (s.showCap n).Canon :=
  .put (.flag (.put hs))

theorem State.Canon.setRc {n : Nat} {f : Rc → Rc} (hs : s.Canon) : (s.setRc n f).Canon :=
  .updChan hs

theorem State.Canon.rcStart {n : Nat} (hs : s.Canon) : (s.rcStart n).Canon :=
  .each (.setRc hs) (fun _ _ c => .setWord c)

theorem State.Canon.rcFrame {n : Nat} (hs : s.Canon) : (s.rcFrame n).Canon :=
  .put (.setRc hs)

theorem State.Canon.rcRestart {n : Nat} (hs : s.Canon) : (s.rcRestart n).Canon :=
  .setRc hs

theorem State.Canon.rcBegin {n k epre : Nat} {idr : Bool} {est : List (Nat × Nat × Nat)} (hs : s.Canon) :
    (s.rcBegin n k epre idr est).Canon :=
  .cond (.flag (.flag (.put (.put (.put (.setRc hs)))))) (fun _ c => .bump c)

theorem State.Canon.rcCharge {n k j size : Nat} {replaced : Bool} {q : Nat} {live : Bool} {t : Nat × Nat × Nat}
    (hs : s.Canon) : (s.rcCharge n k j size replaced q live t).Canon :=
  .ite (.cond (.setRc hs) (fun _ c => .bump (.put (.flag c)))) (.setRc hs)

theorem State.Canon.setCapFlag {n : Nat} (hs : s.Canon) : (s.setCapFlag n).Canon :=
  .flag (.setRc hs)

theorem State.Canon.rcAudit {n k bytes : Nat} (hs : s.Canon) : (s.rcAudit n k bytes).Canon := by
  delta State.rcAudit
  extract_lets _ _ known
  cases known with
  | some c => exact .setRc hs
  | none => exact hs

end

/-! The encoder row pipeline -/

section
variable {s : State}

theorem State.Canon.showCodec {n : Nat} (hs : s.Canon) : (s.showCodec n).Canon :=
  .put (.put hs)

theorem State.Canon.refreshStep {n k : Nat} {idr : Bool} (hs : s.Canon) : (s.refreshStep n k idr).Canon :=
  .each (.updChan (.ite (.updChan hs) (.updChan hs))) (fun _ _ c => .put (.updChan c))

theorem State.Canon.startClosing {n k : Nat} (hs : s.Canon) : (s.startClosing n k).Canon :=
  .ite (.updChan hs) (.updChan hs)

theorem State.Canon.refreshRow {n m k j : Nat} {live safe floor : Bool} (hs : s.Canon) :
    (s.refreshRow n m k j live safe floor).Canon :=
  .ite (.updChan hs) (.ite (.updChan hs) hs)

theorem State.Canon.encodeTasks {m k j : Nat} (hs : s.Canon) : (s.encodeTasks m k j).Canon := by
  delta State.encodeTasks
  extract_lets _ _ s1
  have hs1 : s1.Canon := .create hs
  split
  · exact .create hs1
  · exact hs1

theorem State.Canon.stopFront {p : Task → Bool} (hs : s.Canon) : (s.stopFront p).Canon :=
  .foldl hs (fun _ _ c => .freeEngine c)

theorem State.Canon.touch {e m : Nat} (hs : s.Canon) : (s.touch e m).Canon :=
  .each (.put (.setEng hs)) (fun _ _ c => .flag (.put (.flag (.put c))))

theorem State.Canon.updSide {m k j w : Nat} {f : Side → Side} (hs : s.Canon) : (s.updSide m k j w f).Canon :=
  .updRow hs

theorem State.Canon.checkerFires {e : Nat} {parity : Bool} (hs : s.Canon) : (s.checkerFires e parity).Canon :=
  .raise (.each hs (fun _ _ c => .bump (.updChan c)))

theorem State.Canon.injectAt {e : Nat} (hs : s.Canon) : (s.injectAt e).Canon :=
  .cond (.cond (.updEng hs) (fun _ c => .checkerFires c)) (fun _ c => .checkerFires c)

theorem State.Canon.beginPicture {n k pre : Nat} (hs : s.Canon) : (s.beginPicture n k pre).Canon := by
  refine .each (.flag (.setRc (.rcBegin (.cond (.refreshStep hs) (fun _ c => .flag (.bump (.updChan c)))))))
    (fun _ _ c => ?_)
  extract_lets t
  have ht : t.Canon := .put c
  split
  · next e => exact ht.takeBuf e
  · exact ht

theorem State.Canon.startRow {m k j w e pre : Nat} (hs : s.Canon) : (s.startRow m k j w e pre).Canon :=
  .injectAt (.touch (.put (.updSide (.cond hs (fun _ c => .beginPicture c)))))

theorem State.Canon.dispatch {e pre : Nat} (hs : s.Canon) : (s.dispatch e pre).Canon := by
  delta State.dispatch
  refine .ite hs ?_
  split
  · exact hs
  · extract_lets s1
    have hs1 : s1.Canon := .handTo hs
    exact .ite (.startRow hs1) (.ite (.bindSlices hs1) hs1)

theorem State.Canon.kickBack {e : Nat} (hs : s.Canon) : (s.kickBack e).Canon := by
  delta State.kickBack
  extract_lets _
  refine .ite hs ?_
  split
  · exact .updSide hs
  · exact hs

theorem State.Canon.searched {n e : Nat} {x : Search} (hs : s.Canon) : (s.searched n e x).Canon := by
  delta State.searched
  extract_lets s1
  have hs1 : s1.Canon := .bump (.bump (.bump (.bump hs)))
  exact .ite (.put (.setChan hs1)) (.setChan hs1)

theorem State.Canon.composedRead {m k j : Nat} (hs : s.Canon) : (s.composedRead m k j).Canon := by
  delta State.composedRead
  split
  · exact .ite (.dropBufs hs) hs
  · exact hs

theorem State.Canon.frontDone {m k j w : Nat} {x : Search} (hs : s.Canon) : (s.frontDone m k j w x).Canon := by
  delta State.frontDone
  split
  · exact hs
  · extract_lets _ s1
    have hs1 : s1.Canon := by
      unfold s1
      split
      · exact .ite (.freeEngine hs) hs
      · exact hs
    exact .ite hs (.composedRead (.kickBack (.searched (.updSide hs1))))

theorem State.Canon.giveFinal {n m k j w : Nat} (hs : s.Canon) : (s.giveFinal n m k j w).Canon := by
  delta State.giveFinal
  extract_lets _
  split
  · extract_lets _ _ s2
    have hs2 : s2.Canon := .cond (.sat (.updSide hs)) (fun _ c => c)
    exact .ite hs (.ite (.kickBack (.updSide hs)) (.ite hs2 (.cond (.setRc (.bump hs2))
      (fun _ c => .flag (.sat (.bump c))))))
  · exact hs

theorem State.Canon.capRest {n k j : Nat} (hs : s.Canon) : (s.capRest n k j).Canon :=
  .each (.stopFront (.cancelTasks hs)) (fun _ _ c => .updChan c)

theorem State.Canon.cmpSkip {m k j : Nat} (hs : s.Canon) : (s.cmpSkip m k j).Canon :=
  .bump (.updRow hs)

theorem State.Canon.compareStep {m k j : Nat} {a b : Side} (hs : s.Canon) : (s.compareStep m k j a b).Canon := by
  delta State.compareStep
  extract_lets _ _ _ s1
  have hs1 : s1.Canon := .cond hs (fun _ c => .bump (.bump (.bump c)))
  exact .ite (.handOff (.updRow hs1)) (.ite (.condemn (.condemn (.cmpSkip hs1)))
    (.ite (.condemn (.handOff (.updRow hs1))) (.ite (.condemn (.handOff (.updRow hs1)))
    (.each (.updChan (.raise (.cmpSkip hs1))) (fun _ _ c => .ite (.startPass (.setEstate (.updEng c))) c)))))

theorem State.Canon.compareCatch {m k j : Nat} {a b : Side} (hs : s.Canon) : (s.compareCatch m k j a b).Canon := by
  delta State.compareCatch
  extract_lets _ _ _ _ s2
  have hs2 : s2.Canon := .handOff (.updRow (.cond hs (fun _ c => .bump (.bump (.bump c)))))
  exact .ite (.compareStep hs) (.ite (.cond (.put hs2) (fun _ c => .setPair c)) (.retire hs2))

theorem State.Canon.compareRow {m k j : Nat} (hs : s.Canon) : (s.compareRow m k j).Canon := by
  delta State.compareRow
  split
  · exact hs
  · exact .ite hs (.ite (.compareCatch hs) (.compareStep hs))

theorem State.Canon.rcRow {n k j : Nat} (hs : s.Canon) : (s.rcRow n k j).Canon :=
  .each (.each (.cond (.cond (.rcCharge (.cond (.cond (.cond (.each hs (fun _ _ c => .updRow c)) (fun _ c => .bump c))
    (fun _ c => .bump c)) (fun _ c => .setCapFlag c))) (fun _ c => .capRest c)) (fun _ c => .setRc c))
    (fun _ _ c => .each c (fun _ _ c => .giveFinal c))) (fun _ _ c => .each c
    (fun _ _ c => by split; exacts [.kickBack c, c]))

theorem State.Canon.rcAdvance {n k : Nat} (hs : s.Canon) : (s.rcAdvance n k).Canon :=
  .each hs (fun _ _ c => .ite (.rcRow c) c)

theorem State.Canon.notCoded {m k j : Nat} (hs : s.Canon) : (s.notCoded m k j).Canon :=
  .rcAdvance (.updRow (.stopFront hs))

theorem State.Canon.backDone {m k j w size sig : Nat} (hs : s.Canon) : (s.backDone m k j w size sig).Canon := by
  delta State.backDone
  extract_lets _
  split
  · exact hs
  · extract_lets _ _ _ _ _ _ _ s3
    have hs3 : s3.Canon := .kickBack (.cond (.put (.put (.put (.put (.put64 (.updSide (.updEng hs)))))))
      (fun _ c => .rcAdvance c))
    exact .ite hs (.composedRead (.ite (.compareRow hs3) (.ite (.handOff hs3) hs3)))

theorem State.Canon.composeDone {c : Nat} (hs : s.Canon) : (s.composeDone c).Canon := by
  delta State.composeDone
  split
  · exact hs
  · extract_lets _ s1
    have hs1 : s1.Canon := .cond (.release hs) (fun _ c => .sat c)
    refine .rcAdvance (.each (.ite (.put (.setEng hs1)) (.setEng hs1)) (fun _ _ c => ?_))
    split
    · exact c
    · exact .ite c (.ite (.updRow c) (.ite (.updRow (.updRow c)) (.encodeTasks (.updRow c))))

theorem State.Canon.packDone {p : Nat} (hs : s.Canon) : (s.packDone p).Canon := by
  delta State.packDone
  split
  · exact .updRow (.release hs)
  · exact hs

theorem State.Canon.showPoison {m : Nat} (hs : s.Canon) : (s.showPoison m).Canon :=
  .put hs

theorem State.Canon.pictureFinal {m k : Nat} (hs : s.Canon) : (s.pictureFinal m k).Canon :=
  .ite (.showPoison (.updChan (.markBufs (.markBufs hs)))) hs

theorem State.Canon.rowFinal {m k j : Nat} (hs : s.Canon) : (s.rowFinal m k j).Canon :=
  .pictureFinal (.updRow hs)

theorem State.Canon.repairLost {m k j : Nat} (hs : s.Canon) : (s.repairLost m k j).Canon :=
  .rowFinal (.showPoison (.updChan hs))

theorem State.Canon.repairRow {m k j : Nat} {safe : Bool} (hs : s.Canon) : (s.repairRow m k j safe).Canon :=
  .ite (.create (.bump hs)) (.repairLost (.create (.bump hs)))

theorem State.Canon.repairDone {e : Nat} (hs : s.Canon) : (s.repairDone e).Canon := by
  delta State.repairDone
  extract_lets s1
  have hs1 : s1.Canon := .release hs
  split
  · exact .ite (.rowFinal (.cond hs1 (fun _ c => .showPoison (.updChan c)))) hs1
  · exact hs

theorem State.Canon.readyTasks (hs : s.Canon) : s.readyTasks.Canon :=
  .each hs (fun _ _ c => .showDepth c)

theorem State.Canon.moveTask {t : Task} (hs : s.Canon) : (s.moveTask t).Canon := by
  delta State.moveTask
  extract_lets _
  refine .ite hs ?_
  split
  · exact hs
  · exact .showDepth (.showDepth (.bump (.put hs)))

theorem State.Canon.bobTick (hs : s.Canon) : s.bobTick.Canon :=
  .each (.each (.readyTasks (.tick hs)) (fun _ _ c => .moveTask c)) (fun _ _ c => .rcAdvance c)

theorem State.Canon.expireTasks (hs : s.Canon) : s.expireTasks.Canon :=
  .each (.cancelTasks hs) (fun _ _ c => .notCoded c)

theorem State.Canon.taskExpiry (hs : s.Canon) : s.taskExpiry.Canon := by
  delta State.taskExpiry
  split
  · exact hs
  · exact .expireTasks (.advance hs)

end

/-! Audio ports, flows and inputs -/

section
variable {s : State}

theorem State.Canon.setAin {i : Nat} {x : AIn} (hs : s.Canon) : (s.setAin i x).Canon :=
  hs

theorem State.Canon.updAin {i : Nat} {f : AIn → AIn} (hs : s.Canon) : (s.updAin i f).Canon :=
  .setAin hs

theorem State.Canon.setAport {a : Nat} {x : APort} (hs : s.Canon) : (s.setAport a x).Canon :=
  hs

theorem State.Canon.setAudState {a v : Nat} (hs : s.Canon) : (s.setAudState a v).Canon :=
  .cond (.moveTo hs) (fun _ c => .flag c)

theorem State.Canon.inputCheck {i : Nat} (hs : s.Canon) : (s.inputCheck i).Canon :=
  .ite (.refusalEv (.flag (.put (.flag hs)))) (.setAin (.each hs (fun _ _ c => .setWord c)))

theorem State.Canon.inputOff {i : Nat} (hs : s.Canon) : (s.inputOff i).Canon :=
  .updAin hs

theorem State.Canon.writeAudIn {i : Nat} {v : Word} (hs : s.Canon) : (s.writeAudIn i v).Canon := by
  delta State.writeAudIn
  extract_lets _ t
  have ht : t.Canon := .store hs
  exact .ite (.ite ht (.inputCheck ht)) (.ite (.inputOff ht) ht)

theorem State.Canon.clockOk {a : Nat} (hs : s.Canon) : (s.clockOk a).Canon :=
  .ite (.setAudState (.flag hs)) hs

theorem State.Canon.portOn {a : Nat} (hs : s.Canon) : (s.portOn a).Canon := by
  delta State.portOn
  extract_lets t
  have ht : t.Canon := .setAudState hs
  exact .ite (.clockOk ht) ht

theorem State.Canon.writeAudPort {a : Nat} {v : Word} (hs : s.Canon) : (s.writeAudPort a v).Canon := by
  delta State.writeAudPort
  extract_lets _ t
  have ht : t.Canon := .store hs
  exact .ite (.ite (.portOn ht) ht) (.ite (.setAudState ht) (.ite (.setAudState (.inputOff ht)) ht))

theorem State.Canon.primeDone {a : Nat} (hs : s.Canon) : (s.primeDone a).Canon :=
  .ite (.setAudState (.updAin hs)) hs

theorem State.Canon.stopDone {a : Nat} (hs : s.Canon) : (s.stopDone a).Canon := by
  delta State.stopDone
  extract_lets t
  have ht : t.Canon := .setAudState (.updAin hs)
  exact .ite (.ite (.portOn ht) ht) hs

theorem State.Canon.partialFrame {a got : Nat} (hs : s.Canon) : (s.partialFrame a got).Canon :=
  .setAin (.bump (.bump hs))

theorem State.Canon.clockLost {a got : Nat} (hs : s.Canon) : (s.clockLost a got).Canon := by
  delta State.clockLost
  extract_lets _ t u
  have ht : t.Canon := .partialFrame hs
  have hu : u.Canon := .setAudState ht
  exact .ite hs (.ite (.setAudState ht) (.ite (.raise hu) hu))

theorem State.Canon.rateGate {a : Nat} {ppm : Int} {got : Nat} (hs : s.Canon) : (s.rateGate a ppm got).Canon := by
  delta State.rateGate
  extract_lets _ _ t
  have ht : t.Canon := .setAport (.put hs)
  exact .ite hs (.ite (.clockLost (.flag ht)) ht)

theorem State.Canon.resetAudPort {a got : Nat} (hs : s.Canon) : (s.resetAudPort a got).Canon := by
  delta State.resetAudPort
  extract_lets t
  have ht : t.Canon := .setAudState (.setAport (.partialFrame hs))
  exact .ite (.portOn ht) ht

theorem State.Canon.storeFrame {i : Nat} {t : Int} {words : List Word} {n v : Nat} (hs : s.Canon) :
    (s.storeFrame i t words n v).Canon :=
  .ite (.bump hs) (.ite (.bump hs) (.setAin (.bump (.bump hs))))

theorem State.Canon.collectCs {a : Nat} {f : AudFrame} (hs : s.Canon) : (s.collectCs a f).Canon := by
  delta State.collectCs
  extract_lets _ _ _ _ t
  have ht : t.Canon := .setAport hs
  exact .ite (.setAport hs) (.ite (.bump ht) (.each ht (fun _ _ c => .put (.put c))))

theorem State.Canon.stampFrame {a : Nat} {f : AudFrame} {first : Bool} (hs : s.Canon) : (s.stampFrame a f first).Canon :=
  .ite (.setAport hs) (.setAport (.put64 hs))

theorem State.Canon.receiveFrame {a : Nat} {f : AudFrame} (hs : s.Canon) : (s.receiveFrame a f).Canon := by
  delta State.receiveFrame
  extract_lets _ _ _ _ _ _ _ s2
  have hs2 : s2.Canon := .storeFrame (.bump (.bump hs))
  exact .ite hs2 (.updAin hs2)

theorem State.Canon.portFrame {a : Nat} {f : AudFrame} (hs : s.Canon) : (s.portFrame a f).Canon := by
  delta State.portFrame
  extract_lets s0
  have hs0 : s0.Canon := .cond hs (fun _ c => .collectCs c)
  exact .ite hs (.ite (.updAin (.receiveFrame (.stampFrame hs0))) (.ite (.updAin hs0) hs0))

theorem State.Canon.writeAfl {f : Nat} {v : Word} (hs : s.Canon) : (s.writeAfl f v).Canon := by
  delta State.writeAfl
  extract_lets _ t
  have ht : t.Canon := .store hs
  exact .ite ht (.updAin (.cond (.igmpChange ht) (fun _ c => .igmpChange c)))

theorem State.Canon.flowPacket {f : Nat} {p : AudPkt} (hs : s.Canon) : (s.flowPacket f p).Canon := by
  delta State.flowPacket
  extract_lets _ _ _ s1
  have hs1 : s1.Canon := .setAin hs
  exact .ite hs (.ite hs1 (.foldl hs1 (fun _ _ c => .storeFrame (.bump c))))

theorem State.Canon.takeSlot {i : Nat} {tau : Int} (hs : s.Canon) : (s.takeSlot i tau).Canon := by
  delta State.takeSlot
  extract_lets _ _ s1
  have hs1 : s1.Canon := .cond hs (fun _ c => .bump c)
  split
  · exact hs1
  · extract_lets s2
    have hs2 : s2.Canon := by
      unfold s2
      split
      · exact .ite (.bump hs1) (.ite (.bump hs1) hs1)
      · exact hs1
    exact .setAin hs2

theorem State.Canon.audioTake {n k j : Nat} (hs : s.Canon) : (s.audioTake n k j).Canon :=
  .ite hs (.each hs (fun _ _ c => .each c (fun _ _ c => .takeSlot c)))

end

/-! Release of rows and egress -/

section
variable {s : State}

theorem State.Canon.packetOut {n x : Nat} (hs : s.Canon) : (s.packetOut n x).Canon := by
  delta State.packetOut
  extract_lets _ _ t
  have ht : t.Canon := .advance hs
  exact .ite hs (.laneTx (.ite (.bump (.updChan ht)) (.bump (.updChan ht))))

theorem State.Canon.setSlotKind {n k v : Nat} (hs : s.Canon) : (s.setSlotKind n k v).Canon :=
  .updChan hs

theorem State.Canon.settleSlot {n k : Nat} (hs : s.Canon) : (s.settleSlot n k).Canon :=
  .ite hs (.ite (.setSlotKind hs) (.ite (.bump (.setSlotKind hs)) (.setSlotKind hs)))

theorem State.Canon.decideNow {m k j : Nat} (hs : s.Canon) : (s.decideNow m k j).Canon := by
  delta State.decideNow
  extract_lets _ s0
  have hs0 : s0.Canon := by
    unfold s0
    split
    · exact hs
    · exact .updChan hs
  exact .cond (.cond (.updRow (.cond (.cond (.settleSlot hs0) (fun _ c => .cond (.updChan c) (fun _ c => .bump c)))
    (fun _ c => .raise (.bump c)))) (fun _ c => .notCoded c)) (fun _ c => .audioTake c)

theorem State.Canon.releaseDecision {m k j : Nat} (hs : s.Canon) : (s.releaseDecision m k j).Canon :=
  .ite hs (.decideNow (.advance hs))

theorem State.Canon.enterFirst {n k : Nat} (hs : s.Canon) : (s.enterFirst n k).Canon :=
  .ite hs (.setChState (.updChan hs))

theorem State.Canon.deviation {n dev : Nat} (hs : s.Canon) : (s.deviation n dev).Canon := by
  delta State.deviation
  extract_lets s1 s2
  have hs1 : s1.Canon := .peak hs
  have hs2 : s2.Canon := .sat hs1
  exact .ite hs1 (.ite hs2 (.raise (.flag hs2)))

theorem State.Canon.dropComposed {m k : Nat} (hs : s.Canon) : (s.dropComposed m k).Canon :=
  .dropBufs hs

theorem State.Canon.releaseRefs {n m k j d : Nat} {floor : Bool} (hs : s.Canon) :
    (s.releaseRefs n m k j d floor).Canon := by
  delta State.releaseRefs
  extract_lets s1 _ s2
  have hs1 : s1.Canon := .refreshRow hs
  have hs2 : s2.Canon := by
    refine .ite hs1 ?_
    split
    · next e => exact hs1.takeBuf e
    · exact hs1
  exact .ite (.updRow hs1) (.ite (.rowFinal (.cond hs1 (fun _ c => .bump c))) (.repairRow (.updRow (.setRc hs2))))

theorem State.Canon.releaseNow {m k j dev : Nat} (hs : s.Canon) : (s.releaseNow m k j dev).Canon := by
  delta State.releaseNow
  exact .cond (.pictureFinal (.releaseRefs (.updRow (.deviation (.cond (.updChan (.updChan (.enterFirst hs)))
    (fun _ c => .raise (.flag c))))))) (fun _ c => .dropComposed c)

theorem State.Canon.rowRelease {m k j dev : Nat} (hs : s.Canon) : (s.rowRelease m k j dev).Canon := by
  delta State.rowRelease
  extract_lets _ s1
  have hs1 : s1.Canon := .releaseDecision hs
  refine .ite hs ?_
  split
  · exact .ite (.releaseNow (.advance hs1)) hs1
  · exact .releaseNow (.advance hs1)

theorem State.Canon.abandon {n cause : Nat} {refs : Bool} (hs : s.Canon) : (s.abandon n cause refs).Canon :=
  .each (.dropBufs (.setRc (.each (.stopFront (.cancelTasks hs)) (fun _ _ c => .updChan c)))) (fun _ _ c => .showPoison c)

theorem State.Canon.losePath {n cause : Nat} (hs : s.Canon) : (s.losePath n cause).Canon :=
  .abandon (.updChan hs)

theorem State.Canon.wantRestart {n : Nat} (hs : s.Canon) : (s.wantRestart n).Canon :=
  .ite (.updChan hs) hs

theorem State.Canon.freeChan {n : Nat} (hs : s.Canon) : (s.freeChan n).Canon :=
  .showEngines (.ringChange (.mk (.setWord (.setWord (.flag (.setChState
    (.each (.dropBufs (.abandon hs)) (fun _ _ c => .setChan (.unplace (.setPair c))))))))))

theorem State.Canon.showEgress (hs : s.Canon) : s.showEgress.Canon :=
  .put (.each hs (fun _ _ c => .put (.put c)))

theorem State.Canon.egrCommit {n : Nat} (hs : s.Canon) : (s.egrCommit n).Canon := by
  delta State.egrCommit
  extract_lets _ s1
  have hs1 : s1.Canon := .flag hs
  exact .ite (.showEgress (.put (.flag (.activate hs1)))) (.refusalEv (.put (.flag hs1)))

theorem State.Canon.egrCheck {n : Nat} (hs : s.Canon) : (s.egrCheck n).Canon :=
  .ite (.egrCommit (.tick hs)) hs

theorem State.Canon.egrStartRefuse {n : Nat} (hs : s.Canon) : (s.egrStartRefuse n).Canon :=
  .refusalEv (.cond (.flag hs) (fun _ c => .put c))

theorem State.Canon.armEgress (hs : s.Canon) : s.armEgress.Canon :=
  .each hs (fun _ _ c => .ite (.egrCommit c) c)

end

/-! The audit point and the taps -/

section
variable {s : State}

theorem State.Canon.retirePool {p : Nat} (hs : s.Canon) : (s.retirePool p).Canon :=
  .ite hs (.showRing (.put (.foldl (.yieldPages (.each hs (fun _ _ c => .setFree c))) (fun _ _ c => .setFree c))))

theorem State.Canon.auditDir {l : List Snap} {x : Nat} {out : Bool} (hs : s.Canon) : (s.auditDir l x out).Canon := by
  delta State.auditDir
  extract_lets _ _ _ s1
  have hs1 : s1.Canon := .put hs
  exact .ite hs (.ite hs1 (.raise (.flag hs1)))

theorem State.Canon.auditShared {l : List Snap} (hs : s.Canon) : (s.auditShared l).Canon :=
  .ite hs (.auditTasks (.each (.auditPools (.each hs (fun _ _ c => .retirePool c))) (fun _ _ c => .auditDir (.auditDir c))))

theorem State.Canon.idleAudit {l : List Snap} (hs : s.Canon) : (s.idleAudit l).Canon :=
  .ite hs (.auditShared (.advance hs))

theorem State.Canon.tapDrop {h k : Nat} (hs : s.Canon) : (s.tapDrop h k).Canon :=
  .irqPort (.bump hs)

theorem State.Canon.tapRecord {n : Nat} {r : Rec} (hs : s.Canon) : (s.tapRecord n r).Canon :=
  .each hs (fun _ _ c => .each c (fun _ _ c => .ite (.ite (.setPort c) (.tapDrop c)) c))

theorem State.Canon.tapDone {h k : Nat} {reused : Bool} (hs : s.Canon) : (s.tapDone h k reused).Canon := by
  delta State.tapDone
  extract_lets _ s1
  have hs1 : s1.Canon := .setPort hs
  split
  · exact hs
  · split
    · exact .ite (.tapDrop hs1) (.irqPort (.bump (.put hs1)))
    · exact .tapDrop hs1

theorem State.Canon.writeTapCfg {p k : Nat} {v : Word} (hs : s.Canon) : (s.writeTapCfg p k v).Canon := by
  delta State.writeTapCfg
  extract_lets _ t
  have ht : t.Canon := .store hs
  exact .ite (.put ht) (.setPort ht)

theorem State.Canon.ringSummary (hs : s.Canon) : s.ringSummary.Canon := by
  delta State.ringSummary
  extract_lets one r
  have hr : r.2.Canon := by
    refine List.foldlRecOn (motive := fun a : List (List Word) × State => a.2.Canon) _ _ hs (fun a ha n _ => ?_)
    unfold one
    extract_lets rs
    split
    · exact .fresh (.fresh ha)
    · exact ha
  exact .mk hr

theorem State.Canon.drainLast (hs : s.Canon) : s.drainLast.Canon :=
  .ite (.ringSummary (.each hs (fun _ _ c => .igmpAll c))) hs

theorem State.Canon.restartRefs {n k : Nat} (hs : s.Canon) : (s.restartRefs n k).Canon :=
  .ite hs (.flag (.rcRestart (.updChan (.dropBufs (.abandon hs)))))

theorem State.Canon.shedNow {n k : Nat} (hs : s.Canon) : (s.shedNow n k).Canon :=
  .showEngines (.setChState (.updChan (.each (.losePath hs) (fun _ _ c => .unplace (.setPair c)))))

theorem State.Canon.restoreNow {n k : Nat} (hs : s.Canon) : (s.restoreNow n k).Canon :=
  .showEngines (.setChState (.updChan (.each hs (fun _ _ c => .setPair c))))

theorem State.Canon.enterClosing {n k : Nat} (hs : s.Canon) : (s.enterClosing n k).Canon :=
  .setChState (.ite (.updChan hs) (.ite hs (.startClosing hs)))

theorem State.Canon.afterSlot {n k : Nat} (hs : s.Canon) : (s.afterSlot n k).Canon :=
  .ite (.drainLast (.evalDegraded (.freeChan hs))) (.updChan (.each (.cond
    (.restartRefs (.ite (.enterClosing hs) (.ite (.shedNow hs) (.ite (.restoreNow hs) hs)))) (fun _ c => .egrCommit c))
    (fun _ _ c => .updChan c)))

theorem State.Canon.finishRows {n k : Nat} (hs : s.Canon) : (s.finishRows n k).Canon :=
  .each hs (fun _ _ c => .each c (fun _ _ c => .rowRelease c))

theorem State.Canon.countSlot {n kind : Nat} (hs : s.Canon) : (s.countSlot n kind).Canon := by
  delta State.countSlot
  extract_lets _ _ _ _ s3
  have hs3 : s3.Canon := .put64 (.put64 (.put64 (.put64 (.put64 (.put64 (.put64 (.updChan hs)))))))
  exact .ite hs3 (.raise (.flag hs3))

theorem State.Canon.auditPoint {n units : Nat} {l : List Snap} (hs : s.Canon) : (s.auditPoint n units l).Canon := by
  delta State.auditPoint
  split
  · exact hs
  · exact .ite hs (.afterSlot (.tapRecord (.fileRecord (.auditShared (.cond
      (.put (.put (.cond (.put64 (.updChan (.countSlot (.advance (.finishRows hs))))) (fun _ c => .rcAudit c))))
      (fun _ c => .bump c))))))

theorem State.Canon.reconDone {n : Nat} (hs : s.Canon) : (s.reconDone n).Canon := by
  refine .ite hs (.updChan (.each hs (fun _ _ c => ?_)))
  split
  · next e => exact .markBufs (c.takeBuf e)
  · exact c

end

end Sys2Proof.Machine
end

