-- ==== Sys2Proof/Proofs/CanonControl.lean ====
section
/-!
SUPPORT. Sys2Proof/Proofs/CanonControl.lean: the canonical form of the register table, kept by what the model does with
channels, images, time, modes, clocks, faults and the host ports.
-/

namespace Sys2Proof.Machine

/-! Channel starts, releases and frame starts -/

section
variable {s : State}

theorem State.Canon.chnRefuse {n reason : Nat} (hs : s.Canon) : (s.chnRefuse n reason).Canon :=
  .refusalEv (.put (.flag hs))

theorem State.Canon.writeChnCtl {n : Nat} {v : Word} (hs : s.Canon) : (s.writeChnCtl n v).Canon :=
  .ite (.updChan hs) (.ite (.ite (.chnRefuse hs) (.updChan hs)) hs)

theorem State.Canon.commitCheck {mem : List Nat} {n : Nat} (hs : s.Canon) : (s.commitCheck mem n).2.Canon := by
  delta State.commitCheck
  split
  · exact hs
  · split
    · exact hs
    · split
      · exact .admitBit hs
      · exact hs

theorem State.Canon.followClass {n : Nat} (hs : s.Canon) : (s.followClass n).Canon :=
  .ite (.each hs (fun _ _ c => .ite (.setPair (.put c)) c)) (.each (.mk (.flag hs)) (fun _ _ c => .ite c (.dropStandby c)))

theorem State.Canon.showChannel {n : Nat} (hs : s.Canon) : (s.showChannel n).Canon :=
  .showRep (.showLoad (.showCap (.showCodec hs)))

theorem State.Canon.applyCommit {n : Nat} (hs : s.Canon) : (s.applyCommit n).Canon := by
  delta State.applyCommit
  extract_lets s1
  have hs1 : s1.Canon := .setWord (.activate hs)
  exact .ite (.ringChange (.showEngines (.showChannel (.followClass hs1)))) hs1

theorem State.Canon.dropCommit {n reason : Nat} (hs : s.Canon) : (s.dropCommit n reason).Canon :=
  .chnRefuse (.setWord (.reload hs))

theorem State.Canon.commitChan {n : Nat} (hs : s.Canon) : (s.commitChan n).Canon := by
  delta State.commitChan
  extract_lets mem r
  have hr : r.2.Canon :=
    List.foldlRecOn (motive := fun r : Nat × State => r.2.Canon) _ _ hs (fun r hr m _ => by
      split
      · exact .commitCheck hr
      · exact hr)
  exact .ite hs (.ite (.setWord hs) (.ite (.each hr (fun _ _ c => .applyCommit c)) (.each hs (fun _ _ c => .dropCommit c))))

theorem State.Canon.freshCtx {n m : Nat} (hs : s.Canon) : (s.freshCtx n m).Canon :=
  .setChan hs

theorem State.Canon.startChan {n : Nat} (hs : s.Canon) : (s.startChan n).Canon :=
  .showFrame (.ringStart (.showEngines (.showChannel (.rcStart (.each
    (.each (.setChState (.activate hs)) (fun _ _ c => .each (.freshCtx c) (fun _ _ c => .setWord c)))
    (fun _ _ c => .setPair (.put c)))))))

theorem State.Canon.admitStart {n : Nat} (hs : s.Canon) : (s.admitStart n).Canon := by
  delta State.admitStart
  extract_lets s0
  have hs0 : s0.Canon := .updChan hs
  exact .ite hs (.ite (.chnRefuse hs0) (.ite (.chnRefuse hs0) (.ite (.egrStartRefuse hs0) (.startChan (.admitBit hs0)))))

theorem State.Canon.shedHere {n : Nat} (hs : s.Canon) : (s.shedHere n).Canon :=
  .each (.losePath hs) (fun _ _ c => .updChan (.unplace (.setPair c)))

theorem State.Canon.leaveEngines {m : Nat} (hs : s.Canon) : (s.leaveEngines m).Canon := by
  delta State.leaveEngines
  extract_lets _ _ s1
  have hs1 : s1.Canon := .ite (.each (.updChan hs) (fun _ _ c => .retire c)) hs
  exact .ite (.each (.updChan hs1) (fun _ _ c => .retire c)) hs1

theorem State.Canon.composeTasks {n : Nat} (hs : s.Canon) : (s.composeTasks n).Canon :=
  .each hs (fun _ _ c => .create c)

theorem State.Canon.frameWork {n : Nat} (hs : s.Canon) : (s.frameWork n).Canon := by
  delta State.frameWork
  extract_lets s1 _ s3
  have hs1 : s1.Canon := .keepShot hs
  have hs3 : s3.Canon := .rcFrame (.each hs1 (fun _ _ c => .applySwap (.joinOf (.takeoverOf (.leaveEngines c)))))
  exact .ite hs1 (.ite (.shedHere hs3) (.composeTasks hs3))

theorem State.Canon.freeStarting {n : Nat} (hs : s.Canon) : (s.freeStarting n).Canon :=
  .ite (.freeChan hs) hs

theorem State.Canon.frameStart {n : Nat} (hs : s.Canon) : (s.frameStart n).Canon :=
  .ite hs (.each (.parkAll (.each (.each (.each (.each (.each (.evalDegraded (.toFrame hs)) (fun _ _ c => .freeStarting c))
    (fun _ _ c => .each c (fun _ _ c => .commitChan c))) (fun _ _ c => .beginFrame c))
    (fun _ _ c => .each c (fun _ _ c => .admitStart c))) (fun _ _ c => .commitLayers c)))
    (fun _ _ c => .ite (.frameWork c) c))

theorem State.Canon.rowDeadline {n k j : Nat} (hs : s.Canon) : (s.rowDeadline n k j).Canon := by
  delta State.rowDeadline
  extract_lets _ _ _ s0 s1 _ s3
  have hs0 : s0.Canon := .advance hs
  have hs1 : s1.Canon := by
    refine .ite hs0 (.each hs0 (fun _ _ c => ?_))
    split
    · next e => exact c.takeBuf e
    · exact c
  have hs3 : s3.Canon := .foldl (.judgeRow hs1) (fun _ _ c => .markStale (.updChan c))
  exact .ite hs (.ite (.closeLayers hs3) hs3)

end

/-! Loss of an interleave group and poisoned reads -/

section
variable {s : State}

theorem State.Canon.loseRefs {n : Nat} (hs : s.Canon) : (s.loseRefs n).Canon :=
  .cond (.wantRestart (.cond hs (fun _ c => .losePath c))) (fun _ c => .updChan c)

theorem State.Canon.loseComposed {m k : Nat} (hs : s.Canon) : (s.loseComposed m k).Canon :=
  .updChan hs

theorem State.Canon.loseIngest {i tag : Nat} (hs : s.Canon) : (s.loseIngest i tag).Canon :=
  .updSrc hs

theorem State.Canon.loseGroup {d reason : Nat} (hs : s.Canon) : (s.loseGroup d reason).Canon :=
  .ite hs (.capacityLoss (.cond (.foldl (.foldl (.each (.failGroup hs) (fun _ _ c => .loseRefs c))
    (fun _ _ c => .loseComposed c)) (fun _ _ c => .loseIngest c)) (fun _ c => .request c)))

theorem State.Canon.poisonRow {m pic row : Nat} (hs : s.Canon) : (s.poisonRow m pic row).Canon :=
  .showPoison (.updChan hs)

theorem State.Canon.readMissing {n k j layer row : Nat} (hs : s.Canon) : (s.readMissing n k j layer row).Canon :=
  .ite hs (.foldl (.cond (.setLyr hs) (fun _ c => .bump c)) (fun _ _ c => .updRow c))

theorem State.Canon.poisonSlice {e : Nat} (hs : s.Canon) : (s.poisonSlice e).Canon := by
  delta State.poisonSlice
  split
  · refine .ite ?_ hs
    split
    · exact .ite (.updSrc (.sliceLost hs)) hs
    · exact hs
  · exact hs

theorem State.Canon.poisonCopy {e : Nat} (hs : s.Canon) : (s.poisonCopy e).Canon := by
  delta State.poisonCopy
  split
  · exact .ite (.release hs) (.poisonRow hs)
  · exact hs

theorem State.Canon.poisonRead {r : Reader} (hs : s.Canon) : (s.poisonRead r).Canon := by
  delta State.poisonRead
  split
  · exact .poisonRow (.bump hs)
  · exact .updSide hs
  · exact .readMissing hs
  · exact .poisonSlice hs
  · exact .poisonCopy hs
  · exact hs
  · exact .bump hs
  · exact hs

theorem State.Canon.dramRead {a : Access} {r : Reader} (hs : s.Canon) : (s.dramRead a r).Canon :=
  .ite (.poisonRead (.readDone hs)) (.readDone hs)

theorem State.Canon.retrained {d rd wr vrd vwr : Nat} {clean : Bool} (hs : s.Canon) :
    (s.retrained d rd wr vrd vwr clean).Canon := by
  delta State.retrained
  extract_lets s1
  have hs1 : s1.Canon := .endShadow (.trainSet hs)
  exact .ite (.ite (.setCstate hs1) (.loseGroup (.raise hs1))) hs

end

/-! The image, updates and readout -/

section
variable {s : State}

theorem State.Canon.showSlot {k : Nat} {event : Bool} (hs : s.Canon) : (s.showSlot k event).Canon := by
  delta State.showSlot
  exact .cond (.put (.put (.put (.put (.flag (.flag hs)))))) (fun _ c => .stateEv c)

theorem State.Canon.scanJournal (hs : s.Canon) : s.scanJournal.Canon := by
  delta State.scanJournal
  extract_lets _ _ _ s1
  have hs1 : s1.Canon := by
    unfold s1
    refine .ite hs ?_
    split
    · exact .put hs
    · exact .put hs
  exact .put hs1

theorem State.Canon.bootRecord {slot : Nat} {first : Bool} (hs : s.Canon) : (s.bootRecord slot first).Canon :=
  .journalPush (.fresh hs)

theorem State.Canon.updateDone {result : Nat} (hs : s.Canon) : (s.updateDone result).Canon :=
  .irqAll (.stateEv (.flag (.put (.put hs))))

theorem State.Canon.updateAbort (hs : s.Canon) : s.updateAbort.Canon :=
  .ite (.updateDone hs) hs

theorem State.Canon.updateGo (hs : s.Canon) : s.updateGo.Canon := by
  delta State.updateGo
  extract_lets _ _ s1
  have hs1 : s1.Canon := .put hs
  exact .ite (.updateDone hs1) (.ite (.updateDone hs1) (.ite (.updateDone hs1) (.mk (.flag (.put (.put hs1))))))

theorem State.Canon.writeUpdCtl {v : Word} (hs : s.Canon) : (s.writeUpdCtl v).Canon := by
  delta State.writeUpdCtl
  extract_lets _ s1
  have hs1 : s1.Canon := .store hs
  exact .ite (.ite (.updateAbort hs) hs) (.ite (.updateGo hs1) hs1)

theorem State.Canon.writeUpd {a : Nat} {v : Word} (hs : s.Canon) : (s.writeUpd a v).Canon :=
  .ite hs (.store hs)

theorem State.Canon.updateWritten {x : Option Img} {units : Nat} (hs : s.Canon) : (s.updateWritten x units).Canon := by
  delta State.updateWritten
  extract_lets s1
  have hs1 : s1.Canon := .put hs
  refine .ite hs ?_
  split
  · exact .updateDone hs1
  · exact .mk (.put hs1)

theorem State.Canon.updateVerified {same : Bool} (hs : s.Canon) : (s.updateVerified same).Canon :=
  .ite hs (.ite (.updateDone (.raise hs)) (.updateDone (.showSlot hs)))

theorem State.Canon.readoutEnd {state result : Nat} (hs : s.Canon) : (s.readoutEnd state result).Canon :=
  .irqAll (.stateEv (.flag (.put (.put hs))))

theorem State.Canon.readoutAbort (hs : s.Canon) : s.readoutAbort.Canon :=
  .ite (.readoutEnd hs) hs

theorem State.Canon.readoutGo (hs : s.Canon) : s.readoutGo.Canon :=
  .ite (.readoutEnd hs) (.ite (.readoutEnd hs) (.flag (.put (.put hs))))

theorem State.Canon.writeRdCtl {v : Word} (hs : s.Canon) : (s.writeRdCtl v).Canon := by
  delta State.writeRdCtl
  extract_lets s1
  have hs1 : s1.Canon := .store hs
  exact .ite (.readoutAbort hs) (.ite hs (.ite (.readoutGo hs1) hs1))

theorem State.Canon.readoutDone {good : Bool} (hs : s.Canon) : (s.readoutDone good).Canon :=
  .ite hs (.ite (.readoutEnd hs) (.readoutEnd hs))

end

/-! Network time and the time domains -/

section
variable {s : State}

theorem State.Canon.setTstate {t : Nat} (hs : s.Canon) : (s.setTstate t).Canon :=
  .ite hs (.cond (.cond (.moveTo hs) (fun _ c => .unraise (.disarm c))) (fun _ c => .arm c))

theorem State.Canon.setFar (hs : s.Canon) : s.setFar.Canon :=
  .ite hs (.ite (.arm (.flag hs)) (.unraise (.disarm (.flag hs))))

theorem State.Canon.lastStep (hs : s.Canon) : s.lastStep.Canon :=
  .ite hs hs

theorem State.Canon.retargetTo {x : Int} {near step : Bool} (hs : s.Canon) : (s.retargetTo x near step).Canon :=
  .setFar (.setTstate (.cond hs (fun _ c => .lastStep c)))

theorem State.Canon.retarget {x : Int} {step : Bool} (hs : s.Canon) : (s.retarget x step).Canon :=
  .retargetTo hs

theorem State.Canon.refreshFreq (hs : s.Canon) : s.refreshFreq.Canon :=
  .flag (.cond hs (fun _ c => c))

theorem State.Canon.setSelected {d : Nat} (hs : s.Canon) : (s.setSelected d).Canon :=
  .ite hs (.stateEv (.put hs))

theorem State.Canon.switchTo {d : Nat} (hs : s.Canon) : (s.switchTo d).Canon :=
  .retargetTo (.setSelected hs)

theorem State.Canon.select {d old : Nat} (hs : s.Canon) : (s.select d old).Canon := by
  delta State.select
  exact .refreshFreq (.ite (.ite (.ite (.flag hs) (.cond (.setSelected (.flag hs)) (fun _ c => c)))
    (.ite (.cond (.switchTo (.flag hs)) (fun _ c => c)) (.ite (.flag hs) (.ite (.switchTo (.flag hs)) (.flag hs)))))
    (.ite (.ite (.ite (.setSelected hs) hs) (.ite (.switchTo hs) (.setTstate hs))) hs))

theorem State.Canon.stopDom {d : Nat} (hs : s.Canon) : (s.stopDom d).Canon :=
  .disarm (.disarm (.disarm (.disarm hs)))

theorem State.Canon.startQual {d : Nat} (hs : s.Canon) : (s.startQual d).Canon := by
  delta State.startQual
  extract_lets _ s1
  have hs1 : s1.Canon := .setDom hs
  exact .ite (.arm hs1) (.disarm hs1)

theorem State.Canon.domDisable {d : Nat} (hs : s.Canon) : (s.domDisable d).Canon :=
  .select (.moveTo (.setDom (.stopDom hs)))

theorem State.Canon.domListen {d : Nat} (hs : s.Canon) : (s.domListen d).Canon :=
  .select (.moveTo (.setDom (.stopDom hs)))

theorem State.Canon.domUncal {d : Nat} (hs : s.Canon) : (s.domUncal d).Canon :=
  .select (.cond (.arm (.startQual (.moveTo hs))) (fun _ c => .arm c))

theorem State.Canon.domCfgEffect {d : Nat} (hs : s.Canon) : (s.domCfgEffect d).Canon :=
  .ite (.ite (.domListen hs) hs) (.ite hs (.domDisable hs))

theorem State.Canon.writeDomCfg {d : Nat} {v : Word} (hs : s.Canon) : (s.writeDomCfg d v).Canon :=
  .domCfgEffect (.store hs)

theorem State.Canon.refUse (hs : s.Canon) : s.refUse.Canon :=
  .ite (.ite (.mk (.arm (.moveTo hs))) hs) (.disarm (.moveTo hs))

theorem State.Canon.writeTimCtl {v : Word} (hs : s.Canon) : (s.writeTimCtl v).Canon := by
  delta State.writeTimCtl
  extract_lets s1
  have hs1 : s1.Canon := .refreshFreq (.refUse (.store hs))
  exact .ite (.ite (.refreshFreq (.switchTo hs1)) (.sat hs1)) hs1

theorem State.Canon.countSync {d : Nat} (hs : s.Canon) : (s.countSync d).Canon :=
  .ite (.setDom (.startQual hs)) (.ite (.setDom hs) hs)

theorem State.Canon.ptpSync {d port : Nat} {t1 corr : Int} {t2 : Nat} {logInt : Int} (hs : s.Canon) :
    (s.ptpSync d port t1 corr t2 logInt).Canon := by
  delta State.ptpSync
  extract_lets _ _ _ _ _ _ _ s0 _ s1
  have hs0 : s0.Canon := .setDom (.advance hs)
  have hs1 : s1.Canon := .sat (.setDom hs0)
  exact .ite hs (.ite (.ite (.domUncal (.setDom hs1)) hs1) (.cond (.cond
    (.cond (.arm (.sat (.put (.setDom hs0)))) (fun _ c => .countSync c)) (fun _ c => .retarget c)) (fun _ c => c)))

theorem State.Canon.ptpAnnounce {d : Nat} {a : Announce} (hs : s.Canon) : (s.ptpAnnounce d a).Canon := by
  delta State.ptpAnnounce
  extract_lets _
  refine .ite hs ?_
  split
  · exact .setDom hs
  · extract_lets _ _ s3
    have hs3 : s3.Canon := .cond (.put64 (.put (.put (.setDom hs)))) (fun _ c => .arm c)
    exact .ite (.domUncal hs3) (.ite (.domUncal hs3) (.ite (.startQual hs3) hs3))

theorem State.Canon.ptpDelayResp {d : Nat} {t4 corr logInt : Int} (hs : s.Canon) :
    (s.ptpDelayResp d t4 corr logInt).Canon := by
  delta State.ptpDelayResp
  extract_lets _
  split
  · exact .ite (.put (.setDom hs)) hs
  · exact hs

theorem State.Canon.ptpDelayReq {d : Nat} (hs : s.Canon) : (s.ptpDelayReq d).Canon := by
  delta State.ptpDelayReq
  split
  · next e => exact .ite (.arm (.setDom (hs.fire e))) (hs.fire e)
  · exact hs

theorem State.Canon.ptpQualified {d : Nat} (hs : s.Canon) : (s.ptpQualified d).Canon := by
  delta State.ptpQualified
  split
  · next e => exact .ite (.ite (.select (.moveTo (hs.fire e))) (.startQual (hs.fire e))) (hs.fire e)
  · exact hs

theorem State.Canon.ptpAnnounceTimeout {d : Nat} (hs : s.Canon) : (s.ptpAnnounceTimeout d).Canon := by
  delta State.ptpAnnounceTimeout
  split
  · next e => exact .ite (.domListen (.sat (hs.fire e))) (hs.fire e)
  · exact hs

theorem State.Canon.ptpSyncTimeout {d : Nat} (hs : s.Canon) : (s.ptpSyncTimeout d).Canon := by
  delta State.ptpSyncTimeout
  split
  · next e => exact .ite (.domUncal (.sat (hs.fire e))) (hs.fire e)
  · exact hs

theorem State.Canon.acquisition (hs : s.Canon) : s.acquisition.Canon :=
  .ite (.refreshFreq (.setTstate (.stateEv (.mk (.tick hs))))) hs

theorem State.Canon.slewComplete (hs : s.Canon) : s.slewComplete.Canon :=
  .ite (.setFar (.setTstate (.cond (.ite hs (.advance hs)) (fun _ c => .lastStep c)))) hs

theorem State.Canon.farClear (hs : s.Canon) : s.farClear.Canon :=
  .ite (.setFar (.advance hs)) hs

theorem State.Canon.refQualified (hs : s.Canon) : s.refQualified.Canon := by
  delta State.refQualified
  split
  · next e => exact .ite (.refreshFreq (.moveTo (hs.fire e))) (hs.fire e)
  · exact hs

theorem State.Canon.refDisqualify (hs : s.Canon) : s.refDisqualify.Canon :=
  .ite (.refreshFreq (.cond (.mk (.disarm (.moveTo hs))) (fun _ c => .mk (.fresh c)))) hs

theorem State.Canon.refGate {periods : Nat} (hs : s.Canon) : (s.refGate periods).Canon :=
  .ite (.ite hs (.refDisqualify hs)) hs

theorem State.Canon.refResume (hs : s.Canon) : s.refResume.Canon :=
  .ite (.mk (.arm (.moveTo hs))) hs

theorem State.Canon.ppsIn (hs : s.Canon) : s.ppsIn.Canon :=
  .put (.put64 hs)

theorem State.Canon.ppsOutRise (hs : s.Canon) : s.ppsOutRise.Canon := by
  delta State.ppsOutRise
  extract_lets t
  have ht : t.Canon := .advance hs
  exact .ite (.arm (.mk ht)) ht

theorem State.Canon.ppsOutFall (hs : s.Canon) : s.ppsOutFall.Canon := by
  delta State.ppsOutFall
  split
  · next e => exact .mk (hs.fire e)
  · exact hs

theorem State.Canon.armWaitOver (hs : s.Canon) : s.armWaitOver.Canon := by
  delta State.armWaitOver
  split
  · next e => exact .ite (.flag (hs.fire e)) (hs.fire e)
  · exact hs

theorem State.Canon.holdoverLong (hs : s.Canon) : s.holdoverLong.Canon := by
  delta State.holdoverLong
  split
  · next e => exact .ite (.raiseLevel (hs.fire e)) (hs.fire e)
  · exact hs

theorem State.Canon.slewFarLong (hs : s.Canon) : s.slewFarLong.Canon := by
  delta State.slewFarLong
  split
  · next e => exact .ite (.raiseLevel (hs.fire e)) (hs.fire e)
  · exact hs

end

/-! The mode controller -/

section
variable {s : State}

theorem State.Canon.moduleReset (hs : s.Canon) : s.moduleReset.Canon := by
  delta State.moduleReset
  extract_lets _ t
  have ht : t.Canon := Tab.canon_filter _ hs
  exact .flag (.each ht (fun _ _ c => .put c))

theorem State.Canon.setMode {m cause : Nat} (hs : s.Canon) : (s.setMode m cause).Canon :=
  .emit (.mk (.put (.put (.put hs))))

theorem State.Canon.enterHold {cause : Nat} (hs : s.Canon) : (s.enterHold cause).Canon :=
  .setMode (.moduleReset hs)

theorem State.Canon.leaveMode (hs : s.Canon) : s.leaveMode.Canon :=
  .ite (.disarm hs) (.ite (.endTests hs) (.ite (.flag hs) (.ite (.disarm hs)
    (.ite (.disarm (.disarm hs)) (.ite hs (.ite (.disarm hs) hs))))))

theorem State.Canon.enterLoad (hs : s.Canon) : s.enterLoad.Canon :=
  .scanJournal (.put hs)

theorem State.Canon.enterCalibrate (hs : s.Canon) : s.enterCalibrate.Canon :=
  .arm (.cond (.cond (.flag hs) (fun _ c => .raiseLevel c)) (fun _ c => .acquire c))

theorem State.Canon.armEngine {r : List Nat} {e : Nat} (hs : s.Canon) : (s.armEngine r e).Canon :=
  .ite (.ite (.toTesting (.engineReset hs)) (.setEstate hs)) (.ite (.toTesting hs) (.ite (.toTesting hs) (.setEstate hs)))

theorem State.Canon.armStart {n : Nat} (hs : s.Canon) : (s.armStart n).Canon :=
  .admitStart (.updChan hs)

theorem State.Canon.enterArm (hs : s.Canon) : s.enterArm.Canon :=
  .cond (.cond (.each (.armEgress (.each (.each (.showEngines (.each hs (fun _ _ c => .armEngine c)))
    (fun _ _ c => .ite (.srcCheck c) c)) (fun _ _ c => .ite (.inputCheck c) c))) (fun _ _ c => .armStart c))
    (fun _ c => .arm c)) (fun _ c => .arm c)

theorem State.Canon.enterDegraded (hs : s.Canon) : s.enterDegraded.Canon :=
  .mk (.evalDegraded (.bump hs))

theorem State.Canon.safeChan {n : Nat} (hs : s.Canon) : (s.safeChan n).Canon :=
  .ite hs (.cond (.losePath hs) (fun _ c => .updChan c))

theorem State.Canon.enterSafe {p : Nat} (hs : s.Canon) : (s.enterSafe p).Canon :=
  .cond (.enterSafeSel (.each (.bump hs) (fun _ _ c => .safeChan c))) (fun _ c => .flag c)

theorem State.Canon.enterRecover (hs : s.Canon) : s.enterRecover.Canon :=
  .arm (.each (.showEngines (.evaluate hs)) (fun _ _ c => .ite c (.wantRestart c)))

theorem State.Canon.enterDrain {p : Nat} (hs : s.Canon) : (s.enterDrain p).Canon :=
  .drainLast (.arm (.cond (.readoutAbort (.updateAbort (.endTests (.each hs (fun _ _ c => .ite (.freeChan c) c)))))
    (fun _ c => .each c (fun _ _ c => .ite (.updChan c) c))))

theorem State.Canon.toMode {m cause : Nat} (hs : s.Canon) : (s.toMode m cause).Canon := by
  delta State.toMode
  extract_lets _ t
  have ht : t.Canon := .setMode (.leaveMode hs)
  split
  · exact .enterLoad ht
  · exact .enterCalibrate ht
  · exact .enterArm ht
  · exact .enterDegraded ht
  · exact .enterSafe ht
  · exact .enterRecover ht
  · exact .enterDrain ht
  · exact ht

theorem State.Canon.armCheck (hs : s.Canon) : s.armCheck.Canon :=
  .ite (.ite (.toMode hs) (.ite (.toMode hs) (.toMode hs))) hs

theorem State.Canon.nosafeCheck (hs : s.Canon) : s.nosafeCheck.Canon :=
  .ite (.toMode hs) hs

theorem State.Canon.leaveTest {cause : Nat} (hs : s.Canon) : (s.leaveTest cause).Canon :=
  .toMode hs

theorem State.Canon.recoverEnd (hs : s.Canon) : s.recoverEnd.Canon := by
  delta State.recoverEnd
  exact .toMode (.bump (.each hs (fun _ _ c => .ite (.updChan c) c)))

theorem State.Canon.recoverDone (hs : s.Canon) : s.recoverDone.Canon :=
  .ite (.recoverEnd hs) hs

theorem State.Canon.recoverLate (hs : s.Canon) : s.recoverLate.Canon := by
  delta State.recoverLate
  split
  · next e => exact .ite (.recoverEnd (.each (hs.fire e) (fun _ _ c => .shed c))) (hs.fire e)
  · exact hs

theorem State.Canon.refuseReq {r : ModeReq} {result : Nat} (hs : s.Canon) : (s.refuseReq r result).Canon :=
  .cond (.refusalEv (.bump hs)) (fun _ c => .flag (.put (.put c)))

theorem State.Canon.tookReq {r : ModeReq} (hs : s.Canon) : (s.tookReq r).Canon :=
  .cond hs (fun _ c => .put (.put c))

theorem State.Canon.idleOnly {r : ModeReq} (hs : s.Canon) : (s.idleOnly r).Canon :=
  .ite (.refuseReq hs) (.toMode (.tookReq hs))

theorem State.Canon.reqSafe {r : ModeReq} (hs : s.Canon) : (s.reqSafe r).Canon :=
  .ite (.toMode (.tookReq hs)) (.ite hs (.ite (.refuseReq (.each hs (fun _ _ c => .ite (.updChan (.losePath c)) c)))
    (.refuseReq hs)))

theorem State.Canon.reqDegraded {r : ModeReq} (hs : s.Canon) : (s.reqDegraded r).Canon := by
  delta State.reqDegraded
  extract_lets t
  have ht : t.Canon := .evalDegraded hs
  exact .ite (.toMode hs) (.ite (.ite (.mk ht) ht) (.ite hs (.refuseReq hs)))

theorem State.Canon.decide {r : ModeReq} (hs : s.Canon) : (s.decide r).Canon := by
  delta State.decide
  extract_lets _
  split
  · exact .ite (.refuseReq hs) (.enterHold hs)
  · exact .ite (.refuseReq hs) (.toMode (.tookReq hs))
  · exact .reqSafe hs
  · exact .reqDegraded hs
  · exact .ite (.leaveTest (.tookReq hs)) (.refuseReq hs)
  · exact .ite (.ite (.toMode (.tookReq hs)) (.flag (.tookReq hs))) (.ite (.idleOnly hs) (.refuseReq hs))
  · exact .ite (.idleOnly hs) (.refuseReq hs)

theorem State.Canon.takeRecover (hs : s.Canon) : s.takeRecover.Canon := by
  delta State.takeRecover
  extract_lets _ _ s2
  have hs2 : s2.Canon := .stateEv (.mk (.sat (.sat hs)))
  exact .ite (.enterHold hs2) (.toMode hs2)

theorem State.Canon.automatic (hs : s.Canon) : s.automatic.Canon := by
  delta State.automatic
  extract_lets s1
  have hs1 : s1.Canon := .ite (.takeRecover hs) hs
  exact .nosafeCheck (.armCheck (.ite (.enterHold hs1) hs1))

theorem State.Canon.watchFull (hs : s.Canon) : s.watchFull.Canon :=
  .ite hs hs

theorem State.Canon.setRemove {low : Bool} (hs : s.Canon) : (s.setRemove low).Canon :=
  .flag hs

theorem State.Canon.evaluateModes {remove : Bool} (hs : s.Canon) : (s.evaluateModes remove).Canon :=
  .watchFull (.foldl (.automatic (.foldl (.foldl (.foldl (.foldl (.mk (.setRemove (.tick hs))) (fun _ _ c => .decide c))
    (fun _ _ c => .decide c)) (fun _ _ c => .decide c)) (fun _ _ c => .decide c))) (fun _ _ c => .decide c))

theorem State.Canon.writeSysReq {h : Nat} {v : Word} (hs : s.Canon) : (s.writeSysReq h v).Canon := by
  delta State.writeSysReq
  extract_lets _ _ t
  have ht : t.Canon := .put hs
  exact .ite hs (.ite (.refuseReq ht) (.ite (.refuseReq ht) (.request ht)))

theorem State.Canon.takeSysReq {h : Nat} {v : Word} (hs : s.Canon) : (s.takeSysReq h v).Canon :=
  .takeWrite hs (fun _ c => .writeSysReq c)

theorem State.Canon.enableLow (hs : s.Canon) : s.enableLow.Canon := by
  delta State.enableLow
  extract_lets _ t
  have ht : t.Canon := .flag hs
  exact .ite ht (.enterHold ht)

theorem State.Canon.srcWaitEnd (hs : s.Canon) : s.srcWaitEnd.Canon := by
  delta State.srcWaitEnd
  split
  · next e => exact .armCheck (.mk (hs.fire e))
  · exact hs

theorem State.Canon.degradedEnd (hs : s.Canon) : s.degradedEnd.Canon := by
  delta State.degradedEnd
  split
  · exact .ite (.toMode (.advance hs)) hs
  · exact hs

theorem State.Canon.drainLate (hs : s.Canon) : s.drainLate.Canon := by
  delta State.drainLate
  split
  · next e => exact .ite (.each (hs.fire e) (fun _ _ c => .ite (.updChan c) c)) (hs.fire e)
  · exact hs

theorem State.Canon.drained {remove : Bool} (hs : s.Canon) : (s.drained remove).Canon := by
  delta State.drained
  extract_lets s1 s2
  have hs1 : s1.Canon := .setRemove hs
  have hs2 : s2.Canon := .flag hs1
  exact .ite (.ite hs2 (.enterHold hs2)) hs1

theorem State.Canon.selftestDone {cond : List Nat} {cmp ce ue : Nat} (hs : s.Canon) :
    (s.selftestDone cond cmp ce ue).Canon :=
  .ite (.leaveTest (.put (.put (.flag (.put (.put (.each hs (fun _ _ c => .condemn c)))))))) hs

end

/-! Load and calibration -/

section
variable {s : State}

theorem State.Canon.applyRecord {p : Nat × Word} (hs : s.Canon) : (s.applyRecord p).Canon :=
  .setWord hs

theorem State.Canon.imageLayers (hs : s.Canon) : s.imageLayers.Canon :=
  .each hs (fun _ _ c => .each c (fun _ _ c => .put c))

theorem State.Canon.imageCoef {c : Nat} {x : Nat × Nat × List Word} (hs : s.Canon) : (s.imageCoef c x).Canon :=
  .ite hs (.setWord (.put (.setCmp hs)))

theorem State.Canon.imageLut {c : Nat} {x : Nat × Nat × List Nat} (hs : s.Canon) : (s.imageLut c x).Canon :=
  .setWord (.put (.setCmp hs))

theorem State.Canon.applySect {e : Sect} (hs : s.Canon) : (s.applySect e).Canon := by
  delta State.applySect
  split
  · exact .imageLayers (.activate (.foldl hs (fun _ _ c => .applyRecord c)))
  · exact .each hs (fun _ _ c => by split; exacts [.writeTypeCfg c, c])
  · exact .each hs (fun _ _ c => .put (.put c))
  · exact .each hs (fun _ _ c => .each c (fun _ _ c => .imageCoef c))
  · exact .each hs (fun _ _ c => .each c (fun _ _ c => .imageLut c))
  · extract_lets t
    have ht : t.Canon := .each hs (fun _ _ c => c)
    exact .ite (.mk ht) ht
  · exact hs

theorem State.Canon.imageTaken {x : Img} (hs : s.Canon) : (s.imageTaken x).Canon :=
  .mk (.each (.put (.each (.refUse (.domCfgEffect (.domCfgEffect hs))) (fun _ _ c => .ite (.portOn c) c)))
    (fun _ _ c => .put c))

theorem State.Canon.loadEnd {lstate slot : Nat} (hs : s.Canon) : (s.loadEnd lstate slot).Canon := by
  delta State.loadEnd
  extract_lets _ s1
  have hs1 : s1.Canon := .bootRecord (.put (.put hs))
  exact .ite (.toMode (.mk hs1)) (.ite (.toMode (.mk hs1)) (.acquire (.mk hs1)))

theorem State.Canon.loadDone {fail : Option Nat} {ecc : Nat} (hs : s.Canon) : (s.loadDone fail ecc).Canon := by
  delta State.loadDone
  extract_lets s1
  have hs1 : s1.Canon := .showSlot (.showSlot (.bump hs))
  refine .ite hs ?_
  split
  · exact .loadEnd (.mk hs1)
  · split
    · exact hs1
    · extract_lets _
      split
      · exact .loadEnd (.mk (.put (.put (.flag (.foldl (.mk hs1) (fun _ _ c => .applySect c))))))
      · exact .loadEnd (.imageTaken (.flag (.foldl (.mk hs1) (fun _ _ c => .applySect c))))

theorem State.Canon.rereadDone {good : Bool} (hs : s.Canon) : (s.rereadDone good).Canon := by
  delta State.rereadDone
  extract_lets _ _ e
  refine .ite hs ?_
  clear_value e
  split
  · exact .applySect (.typeDefaults hs)
  · exact .flag (.typeDefaults hs)

theorem State.Canon.startPll {p : Nat} (hs : s.Canon) : (s.startPll p).Canon :=
  .ite (.acquire hs) hs

theorem State.Canon.startTraining {d : Nat} (hs : s.Canon) : (s.startTraining d).Canon :=
  .ite (.arm (.setCstate hs)) hs

theorem State.Canon.imageLane {l : Nat} (hs : s.Canon) : (s.imageLane l).Canon :=
  .ite (.laneAdmit hs) hs

theorem State.Canon.afterLock {p : Nat} (hs : s.Canon) : (s.afterLock p).Canon :=
  .ite hs (.ite (.each hs (fun _ _ c => .startPll c)) (.ite (.each hs (fun _ _ c => .startPll c))
    (.ite (.each hs (fun _ _ c => .startTraining c)) (.ite (.each hs (fun _ _ c => .ite (.clockOk c) c))
    (.ite (.each (.flag hs) (fun _ _ c => .imageLane c)) hs)))))

theorem State.Canon.calibrateEnd (hs : s.Canon) : s.calibrateEnd.Canon := by
  delta State.calibrateEnd
  extract_lets _ _ _ _ s3
  have hs3 : s3.Canon := .disarm (.ringInit (.dividePools (.each (.each hs (fun _ _ c => .ite c (.failGroup c)))
    (fun _ _ c => .flag c))))
  exact .ite (.toMode hs3) (.stateEv (.flag hs3))

theorem State.Canon.calibrateCheck (hs : s.Canon) : s.calibrateCheck.Canon :=
  .ite (.calibrateEnd hs) hs

theorem State.Canon.calibrateLate (hs : s.Canon) : s.calibrateLate.Canon := by
  delta State.calibrateLate
  split
  · next e => exact .ite (.calibrateEnd (hs.fire e)) (hs.fire e)
  · exact hs

theorem State.Canon.trained {d rd wr vrd vwr : Nat} {clean : Bool} (hs : s.Canon) :
    (s.trained d rd wr vrd vwr clean).Canon := by
  delta State.trained
  extract_lets t
  have ht : t.Canon := .trainSet (.disarm hs)
  exact .ite (.calibrateCheck (.ite (.channelUp ht) (.failGroup ht))) hs

theorem State.Canon.trainLate {d : Nat} (hs : s.Canon) : (s.trainLate d).Canon := by
  delta State.trainLate
  split
  · next e => exact .ite (.calibrateCheck (.failGroup (hs.fire e))) (hs.fire e)
  · exact hs

end

/-! Lock and loss of a PLL -/

section
variable {s : State}

theorem State.Canon.pllGone {p : Nat} {cut : Cut} (hs : s.Canon) : (s.pllGone p cut).Canon :=
  .ite (.quadPllLost hs) (.ite (.each hs (fun _ _ c => .ite (.loseGroup c) c))
    (.ite (.each hs (fun _ _ c => .ite (.clockLost (.flag c)) c)) hs))

theorem State.Canon.pllLost {p : Nat} {alt : Bool} {cut : Cut} (hs : s.Canon) : (s.pllLost p alt cut).Canon :=
  .pllGone (.pllLoss hs)

theorem State.Canon.restoreNext {cut : Cut} (hs : s.Canon) : (s.restoreNext cut).Canon := by
  delta State.restoreNext
  split
  · exact hs
  · exact .ite (.pllLost hs) (.acquire hs)

theorem State.Canon.pllLocked {p band : Nat} {cut : Cut} (hs : s.Canon) : (s.pllLocked p band cut).Canon := by
  delta State.pllLocked
  extract_lets s1 _ s2
  have hs1 : s1.Canon := .afterLock (.pllLock hs)
  have hs2 : s2.Canon := by
    unfold s2
    split
    · exact .ite (.restoreNext (.mk hs1)) hs1
    · exact hs1
  exact .ite (.calibrateCheck (.nosafeCheck (.evalDegraded hs2))) hs

theorem State.Canon.writeClkCtl {v : Word} {cut : Cut} (hs : s.Canon) : (s.writeClkCtl v cut).Canon := by
  delta State.writeClkCtl
  extract_lets s1
  have hs1 : s1.Canon := .store hs
  exact .ite (.restoreNext (.mk hs1)) hs1

theorem State.Canon.monitorWindow {p khz : Nat} {cut : Cut} (hs : s.Canon) : (s.monitorWindow p khz cut).Canon := by
  delta State.monitorWindow
  extract_lets s1
  have hs1 : s1.Canon := .put hs
  exact .ite (.pllLost (.raise (.bump hs1))) hs1

theorem State.Canon.cleanerLost {cut : Cut} (hs : s.Canon) : (s.cleanerLost cut).Canon :=
  .ite hs (.ite hs (.each (.raiseLevel (.flag hs)) (fun _ _ c => .ite (.pllLost c) (.ite c (.acquire c)))))

theorem State.Canon.targetCheck {p : Nat} {inBand : Bool} (hs : s.Canon) : (s.targetCheck p inBand).Canon := by
  delta State.targetCheck
  extract_lets _ t
  have ht : t.Canon := .setPll (.tick hs)
  split
  · exact hs
  · exact .ite (.evalDegraded (.acceptTarget ht)) (.refuseTarget ht)

end

/-! The check-value units -/

section
variable {s : State}

theorem State.Canon.ckvEnd {u state cause : Nat} (hs : s.Canon) : (s.ckvEnd u state cause).Canon :=
  .irqAll (.stateEv (.flag (.put (.put hs))))

theorem State.Canon.ckvFeed {u : Nat} {d : Desc} {bytes second : List (BitVec 8)} (hs : s.Canon) :
    (s.ckvFeed u d bytes second).Canon := by
  delta State.ckvFeed
  extract_lets _ _ _ s2
  have hs2 : s2.Canon := .put64 (.put64 hs)
  split
  · exact .put (.flag hs2)
  · exact hs2

theorem State.Canon.ckvMismatch {u aux : Nat} (hs : s.Canon) : (s.ckvMismatch u aux).Canon :=
  .stateEv (.bump (.flag (.cond hs (fun _ c => .put64 (.put64 c)))))

theorem State.Canon.ckvDesc {u : Nat} {d : Desc} {bytes second : List (BitVec 8)} (hs : s.Canon) :
    (s.ckvDesc u d bytes second).Canon := by
  delta State.ckvDesc
  extract_lets _ _ _ _ s3
  have hs3 : s3.Canon := .bump (.cond (.cond (.ckvFeed hs) (fun _ c => .put64 c)) (fun _ c => .ckvMismatch c))
  exact .ite hs (.ite (.ckvEnd hs) (.ite (.ckvEnd hs3) (.ite (.ckvEnd hs3) (.mk hs3))))

theorem State.Canon.ckvHalt {u cause : Nat} {cut : Cut} (hs : s.Canon) : (s.ckvHalt u cause cut).Canon := by
  delta State.ckvHalt
  refine .ite hs ?_
  split
  · exact .ite (.ckvEnd hs) (.ckvEnd (.ckvFeed hs))
  · exact .ckvEnd hs

theorem State.Canon.ckvGo {u : Nat} (hs : s.Canon) : (s.ckvGo u).Canon :=
  .mk (.flag (.put (.put hs)))

theorem State.Canon.writeCkvCtl {u : Nat} {v : Word} {cut : Cut} (hs : s.Canon) : (s.writeCkvCtl u v cut).Canon :=
  .ite hs (.ite (.ckvHalt hs) (.ite (.ckvGo hs) hs))

theorem State.Canon.writeCkv {u a : Nat} {v : Word} (hs : s.Canon) : (s.writeCkv u a v).Canon :=
  .ite hs (.put64 (.store hs))

end

/-! Fault occurrences and reactions -/

section
variable {s : State}

theorem State.Canon.condemnUp {e cause : Nat} (hs : s.Canon) : (s.condemnUp e cause).Canon :=
  .ite hs (.condemn hs)

theorem State.Canon.blockAction {code : Nat} (hs : s.Canon) : (s.blockAction code).Canon := by
  delta State.blockAction
  extract_lets _
  split
  · exact .startRetrain hs
  · exact .loseGroup hs
  · exact .condemnUp hs
  · exact .condemnUp hs
  · exact .updChan hs
  · exact hs

theorem State.Canon.resetSource {i : Nat} (hs : s.Canon) : (s.resetSource i).Canon :=
  .ite (.updSrc (.flag (.srcDisable (.flag hs)))) hs

theorem State.Canon.bobReset (hs : s.Canon) : s.bobReset.Canon :=
  .foldl (.foldl (.foldl (.resetBob hs) (fun _ _ c => .sliceGone c)) (fun _ _ c => .notCoded c))
    (fun _ _ c => .repairLost c)

theorem State.Canon.blockReset {code : Nat} {cut : Cut} (hs : s.Canon) : (s.blockReset code cut).Canon := by
  delta State.blockReset
  extract_lets _
  split
  · exact .endShadow (.bobReset (.openShadow hs))
  · exact .ckvHalt hs
  · exact .resetAudPort hs
  · exact .resetLane hs
  · exact .resetSource hs
  · exact .condemnUp hs
  · exact hs

theorem State.Canon.setHandling {l : List React} (hs : s.Canon) : (s.setHandling l).Canon :=
  .flag hs

theorem State.Canon.startReaction {r : React} {cut : Cut} (hs : s.Canon) : (s.startReaction r cut).Canon := by
  delta State.startReaction
  refine .ite hs ?_
  split
  · exact .ite (.blockReset (.setHandling hs)) hs
  · exact .ite hs (.request (.setHandling hs))
  · exact .ite hs (.ite hs (.request (.setHandling hs)))
  · exact hs

theorem State.Canon.faultOccurs {code : Nat} {cut : Cut} (hs : s.Canon) : (s.faultOccurs code cut).Canon :=
  .ite hs (.ite (.selSelf (.takeOcc hs)) (.cond (.cond (.judge (.takeOcc hs)) (fun _ c => .blockAction c))
    (fun _ c => .startReaction c)))

theorem State.Canon.startPending {done : React} {cut : Cut} {l : List React} (hs : s.Canon) :
    (s.startPending done cut l).Canon := by
  induction l generalizing s with
  | nil => exact hs
  | cons r rest ih =>
    rw [State.startPending]
    exact .ite hs (.ite (ih hs) (ih (.startReaction hs)))

theorem State.Canon.reactionDone {code : Nat} {cut : Cut} (hs : s.Canon) : (s.reactionDone code cut).Canon := by
  delta State.reactionDone
  split
  · extract_lets t
    have ht : t.Canon := .setHandling hs
    exact .ite (.ite (.startPending ht) ht) hs
  · exact hs

end

/-! Supply, contacts and sensors -/

section
variable {s : State}

theorem State.Canon.powerOn : s.powerOn.Canon := by
  delta State.powerOn
  extract_lets t
  have ht : t.Canon := rfl
  exact .setMode (.flag (.flag ht))

theorem State.Canon.holdExit {slot : Nat} (hs : s.Canon) : (s.holdExit slot).Canon :=
  .ite (.toMode (.put (.flag hs))) hs

theorem State.Canon.supplyLost {f : Fld} (hs : s.Canon) : (s.supplyLost f).Canon :=
  .ite hs (.enterHold (.flag hs))

theorem State.Canon.showTemps {tj : Int} (hs : s.Canon) : (s.showTemps tj).Canon :=
  .put (.put hs)

theorem State.Canon.warnTemps {tj : Int} (hs : s.Canon) : (s.warnTemps tj).Canon :=
  .ite hs (.stateEv (.flag hs))

theorem State.Canon.tripTemps {tj : Int} (hs : s.Canon) : (s.tripTemps tj).Canon := by
  delta State.tripTemps
  extract_lets _
  refine .ite ?_ (.ite hs hs)
  split
  · exact .ite (.supplyLost hs) hs
  · exact hs

theorem State.Canon.readSensors {temps : List Int} (hs : s.Canon) : (s.readSensors temps).Canon :=
  .tripTemps (.warnTemps (.showTemps (.advance hs)))

theorem State.Canon.readPower {vin watt : Nat} {inlet outlet : Int} (hs : s.Canon) :
    (s.readPower vin watt inlet outlet).Canon :=
  .put (.put (.put (.put (.advance hs))))

end

/-! Register writes and the host ports -/

section
variable {s : State}

theorem State.Canon.writeEqCfg {p : Nat} {v : Word} (hs : s.Canon) : (s.writeEqCfg p v).Canon :=
  .cond (.mk (.store hs)) (fun _ c => .put c)

theorem State.Canon.writeRpl {a : Nat} {v : Word} (hs : s.Canon) : (s.writeRpl a v).Canon := by
  delta State.writeRpl
  extract_lets t
  have ht : t.Canon := .store hs
  exact .ite (.setRing ht) (.ringChange ht)

theorem State.Canon.writePlainReg {a : Nat} {v : Word} (hs : s.Canon) : (s.writePlainReg a v).Canon :=
  .ite hs (.store hs)

theorem State.Canon.writeLow {a : Nat} {v : Word} (hs : s.Canon) : (s.writeLow a v).Canon :=
  .ite (.selClear hs) (.ite (.writeTypeCfg hs) (.ite (.selForce hs) (.ite (.writeHclr hs)
    (.ite (.writeClkCtl hs) (.ite (.writeTarget hs) (.ite (.writeTimCtl hs)
    (.ite (.writeDomCfg hs) (.ite (.writeUpdCtl hs) (.ite (.writeUpd hs)
    (.ite (.writeRdCtl hs) (.ite (.writeEqCfg hs) (.ite (.writeRdCfg hs)
    (.ite (.writeTapCfg hs) (.ite (.writeCkvCtl hs) (.ite (.writeCkv hs)
    (.ite (.writeAudPort hs) (.ite (.writeAudIn hs) (.writePlainReg hs))))))))))))))))))

theorem State.Canon.writeMid {a : Nat} {v : Word} (hs : s.Canon) : (s.writeMid a v).Canon :=
  .ite (.writeDrcCtl hs) (.ite (.writeDrcInj hs) (.ite (.writeLnkCfg hs)
    (.ite (.writeLnkTest hs) (.ite (.writeLnkInj hs) (.ite (.writeSrcCfg hs) (.ite (.writeAfl hs) (.writePlainReg hs)))))))

theorem State.Canon.writeHigh {a : Nat} {v : Word} (hs : s.Canon) : (s.writeHigh a v).Canon :=
  .ite (.writeCoefSel hs) (.ite (.writeCoefData hs) (.ite (.writeCoefLoad hs)
    (.ite (.writeLutSel hs) (.ite (.writeLutData hs) (.ite (.writeLutLoad hs)
    (.ite (.writeChlOut hs) (.ite (.writeRedCmd hs) (.ite (.writeEncInj hs)
    (.ite (.writeChnCtl hs) (.ite (.writeDupCmd hs) (.ite (.writeRpl hs)
    (.ite (.writeRqCfg hs) (.writePlainReg hs)))))))))))))

theorem State.Canon.writeReg {a : Nat} {v : Word} (hs : s.Canon) : (s.writeReg a v).Canon :=
  .ite (.writeLow hs) (.ite (.writeMid hs) (.writeHigh hs))

theorem State.Canon.servedRead {h a : Nat} (hs : s.Canon) : (s.servedRead h a).Canon :=
  .ite (.hostRead hs) hs

theorem State.Canon.portOff {h : Nat} (hs : s.Canon) : (s.portOff h).Canon :=
  .reqAbort (.mk (.each (.flag (.flag hs)) (fun _ _ c => .flag c)))

theorem State.Canon.portReset {h : Nat} (hs : s.Canon) : (s.portReset h).Canon :=
  .mk (.setPort (.put (.bump (.portOff hs))))

theorem State.Canon.setLink {h lstate speed width : Nat} {bme : Bool} (hs : s.Canon) :
    (s.setLink h lstate speed width bme).Canon :=
  .flag (.put (.put (.put hs)))

theorem State.Canon.resetPort {h : Nat} {byHost down : Bool} (hs : s.Canon) : (s.resetPort h byHost down).Canon :=
  .cond (.portReset hs) (fun _ c => .cond (.setLink c) (fun _ c => .raise c))

theorem State.Canon.linkChange {h lstate speed width : Nat} {bme byHost : Bool} (hs : s.Canon) :
    (s.linkChange h lstate speed width bme byHost).Canon :=
  .cond (.cond (.setLink hs) (fun _ c => .raise c)) (fun _ c => .portReset c)

end

end Sys2Proof.Machine
end

