-- ==== Sys2Proof/Proofs/StepKeepsCanon.lean ====
section
/-!
SUPPORT. Every command keeps the register table canonical, and so does a step.
-/

namespace Sys2Proof.Machine

/-- Where the outcome is a next state, its register table is canonical. -/
def NextCanon (o : Host.Outcome State Fault Refusal) : Prop :=
  ∀ t, o = .next t → t.Canon

theorem NextCanon.next {t : State} (ht : t.Canon) : NextCanon (.next t) := by
  intro u e
  cases e
  exact ht

theorem execSelftestOverdue_canon {e : Nat} {s : State} (hs : s.Canon) : NextCanon (execSelftestOverdue e s) := by
  refine .next ?_
  split
  · next ef => exact .ite (hs.fire ef) (.raisePass (hs.fire ef))
  · exact hs

/-- Each command builds its next state from the machine's operations, and each of these keeps the canonical form. -/
theorem exec_canon {i : Instr} {s : State} (hs : s.Canon) : NextCanon (exec i s) := by
  cases i with
  | powerOn => exact .next .powerOn
  | modEnableLow => exact .next (.enableLow hs)
  | holdExit => exact .next (.holdExit hs)
  | supplyGoodLoss => exact .next (.supplyLost hs)
  | junctionSensorRead => exact .next (.readSensors hs)
  | removeRequest => exact .next (.request (.setRemove hs))
  | portReset => exact .next (.resetPort hs)
  | hostLinkStateChange => exact .next (.linkChange hs)
  | hostWritePosted => exact .next (.post hs)
  | hostRegisterWrite => exact .next (.ite (.takeSysReq hs) (.takeWrite hs (fun _ c => .writeReg c)))
  | accessError => exact .next (.cond (.bump hs) (fun _ c => .setPort c))
  | readAndClear => exact .next (.servedRead hs)
  | latchingRead => exact .next (.servedRead hs)
  | chnStart => exact .next (.takeWrite hs (fun _ c => .writeChnCtl c))
  | chnRelease => exact .next (.takeWrite hs (fun _ c => .writeChnCtl c))
  | chnCommit => exact .next (.takeWrite hs (fun _ c => .store c))
  | chnGroupCommit => exact .next (.takeWrite hs (fun _ c => .store c))
  | layerCommit => exact .next (.takeWrite hs (fun _ c => .store c))
  | setCommit => exact .next (.takeWrite hs (fun _ c => .store c))
  | coefSelect => exact .next (.takeWrite hs (fun _ c => .writeCoefSel c))
  | coefDataWrite => exact .next (.takeWrite hs (fun _ c => .writeCoefData c))
  | coefLoad => exact .next (.takeWrite hs (fun _ c => .writeCoefLoad c))
  | coefLoadCheck => exact .next (.coefCheck hs)
  | lutSelect => exact .next (.takeWrite hs (fun _ c => .writeLutSel c))
  | lutDataWrite => exact .next (.takeWrite hs (fun _ c => .writeLutData c))
  | lutLoad => exact .next (.takeWrite hs (fun _ c => .writeLutLoad c))
  | lutLoadCheck => exact .next (.lutCheck hs)
  | sourceEnable => exact .next (.takeWrite hs (fun _ c => .writeSrcCfg c))
  | sourceEnableCheck => exact .next (.ite (.srcCheck (.tick hs)) hs)
  | sourceDisable => exact .next (.takeWrite hs (fun _ c => .writeSrcCfg c))
  | audioFlowEnable => exact .next (.takeWrite hs (fun _ c => .writeAfl c))
  | audPortEnable => exact .next (.takeWrite hs (fun _ c => .writeAudPort c))
  | audPortDisable => exact .next (.takeWrite hs (fun _ c => .writeAudPort c))
  | audInputEnable => exact .next (.takeWrite hs (fun _ c => .writeAudIn c))
  | audInputDisable => exact .next (.takeWrite hs (fun _ c => .writeAudIn c))
  | laneEnable => exact .next (.takeWrite hs (fun _ c => .writeLnkCfg c))
  | laneEnableCheck => exact .next (.laneCheck hs)
  | laneDisable => exact .next (.takeWrite hs (fun _ c => .writeLnkCfg c))
  | laneTestEnable => exact .next (.takeWrite hs (fun _ c => .writeLnkTest c))
  | laneTestAccept => exact .next (.testAccept hs)
  | laneTestDisable => exact .next (.takeWrite hs (fun _ c => .writeLnkTest c))
  | prbsInjectSingle => exact .next (.takeWrite hs (fun _ c => .writeLnkInj c))
  | prbsInjectBurst => exact .next (.takeWrite hs (fun _ c => .writeLnkInj c))
  | timForce => exact .next (.takeWrite hs (fun _ c => .writeTimCtl c))
  | ptpDomainEnable => exact .next (.takeWrite hs (fun _ c => .writeDomCfg c))
  | ptpDomainDisable => exact .next (.takeWrite hs (fun _ c => .writeDomCfg c))
  | egrCommit => exact .next (.takeWrite hs (fun _ c => .store c))
  | egrCommitCheck => exact .next (.egrCheck hs)
  | rplRequestStart => exact .next (.takeWrite hs (fun _ c => .writeRqCfg c))
  | rplRequestAbort => exact .next (.takeWrite hs (fun _ c => .writeRqCfg c))
  | selClearFirst => exact .next (.takeWrite hs (fun _ c => .selClear c))
  | selClearSecond => exact .next (.takeWrite hs (fun _ c => .selClear c))
  | selClearRecov => exact .next (.takeWrite hs (fun _ c => .selClear c))
  | selForce => exact .next (.takeWrite hs (fun _ c => .selForce c))
  | selTypeCfgWrite => exact .next (.takeWrite hs (fun _ c => .writeTypeCfg c))
  | ckvGo => exact .next (.takeWrite hs (fun _ c => .writeCkvCtl c))
  | ckvAbort => exact .next (.takeWrite hs (fun _ c => .writeCkvCtl c))
  | nvmUpdateGo => exact .next (.takeWrite hs (fun _ c => .writeUpdCtl c))
  | nvmUpdateAbort => exact .next (.takeWrite hs (fun _ c => .writeUpdCtl c))
  | nvmReadoutGo => exact .next (.takeWrite hs (fun _ c => .writeRdCtl c))
  | nvmReadoutAbort => exact .next (.takeWrite hs (fun _ c => .writeRdCtl c))
  | modeRequestHold => exact .next (.takeSysReq hs)
  | modeRequestRun => exact .next (.takeSysReq hs)
  | modeRequestSafe => exact .next (.takeSysReq hs)
  | modeRequestDrain => exact .next (.takeSysReq hs)
  | modeRequestLoopback => exact .next (.takeSysReq hs)
  | modeRequestSelftest => exact .next (.takeSysReq hs)
  | modeRequestService => exact .next (.takeSysReq hs)
  | modeRequestInvalid => exact .next (.takeSysReq hs)
  | refRestore => exact .next (.takeWrite hs (fun _ c => .writeClkCtl c))
  | pllTargetWrite => exact .next (.takeWrite hs (fun _ c => .writeTarget c))
  | pllTargetCheck => exact .next (.targetCheck hs)
  | dramRetrainRequest => exact .next (.takeWrite hs (fun _ c => .writeDrcCtl c))
  | dramInjectSingle => exact .next (.takeWrite hs (fun _ c => .writeDrcInj c))
  | dramInjectDouble => exact .next (.takeWrite hs (fun _ c => .writeDrcInj c))
  | engineCondemnCmd => exact .next (.takeWrite hs (fun _ c => .writeRedCmd c))
  | engineRetestCmd => exact .next (.takeWrite hs (fun _ c => .writeRedCmd c))
  | engineInjectResidue => exact .next (.takeWrite hs (fun _ c => .writeEncInj c))
  | engineInjectParity => exact .next (.takeWrite hs (fun _ c => .writeEncInj c))
  | engineInjectSig => exact .next (.takeWrite hs (fun _ c => .writeEncInj c))
  | duplexSwap => exact .next (.takeWrite hs (fun _ c => .writeDupCmd c))
  | bobHistogramClear => exact .next (.takeWrite hs (fun _ c => .writeHclr c))
  | eventQueueEnable => exact .next (.takeWrite hs (fun _ c => .writeEqCfg c))
  | tapEnable => exact .next (.takeWrite hs (fun _ c => .writeTapCfg c))
  | retrievalRingEnable => exact .next (.takeWrite hs (fun _ c => .writeRdCfg c))
  | captureFrameStart => exact .next (.frameStart hs)
  | rowDeadline => exact .next (.rowDeadline hs)
  | releaseDecision => exact .next (.releaseDecision hs)
  | rowRelease => exact .next (.rowRelease hs)
  | packetDeparture => exact .next (.packetOut hs)
  | auditPoint => exact .next (.auditPoint hs)
  | idleAuditTick => exact .next (.idleAudit hs)
  | st2110PacketReceived => exact .next (.videoPacket hs)
  | morvolosPacketReceived => exact .next (.mvPacket hs)
  | cameraPacketReceived => exact .next (.camPacket hs)
  | audioFlowPacketReceived => exact .next (.flowPacket hs)
  | pathLossTimeout => exact .next (.pathLoss hs)
  | carryForwardComplete => exact .next (.carryDone hs)
  | decodeSliceComplete => exact .next (.sliceDone hs)
  | bobTick => exact .next (.bobTick hs)
  | taskDispatch => exact .next (.dispatch hs)
  | taskExpiry => exact .next (.taskExpiry hs)
  | ingestRowComplete => exact .next (.ingestDone hs)
  | composeRowComplete => exact .next (.composeDone hs)
  | frontEndComplete => exact .next (.frontDone hs)
  | backEndComplete => exact .next (.backDone hs)
  | packRowComplete => exact .next (.packDone hs)
  | referenceRepairComplete => exact .next (.repairDone hs)
  | checkerFiring => exact .next (.checkerFires hs)
  | taskTimeLimit => exact .next (.taskLimit hs)
  | selftestIntervalStart => exact .next (.selftestStart hs)
  | selftestOverdue e => exact execSelftestOverdue_canon hs
  | selftestSliceComplete => exact .next (.selftestSlice hs)
  | laneFrameReceived => exact .next (.frameReceived hs)
  | igmpReportTimer => exact .next (.igmpSend hs)
  | laneBlockLock => exact .next (.blockLock hs)
  | laneLockLoss => exact .next (.lockLoss hs)
  | remoteFaultReceived => exact .next (.remoteFault hs)
  | lockTimeExpiry => exact .next (.lockTime hs)
  | trainingComplete => exact .next (.trainDone hs)
  | trainingTimeout => exact .next (.trainTimeout hs)
  | backoffExpiry => exact .next (.backoffOver hs)
  | upStableReset => exact .next (.upStable hs)
  | bondAlignment => exact .next (.bondAlign hs)
  | fecUncorrectable => exact .next (.fecBad hs)
  | morvolosAlignment => exact .next (.mvAlign hs)
  | morvolosAlignLoss => exact .next (.mvAlignLoss hs)
  | morvolosPolarityFlip => exact .next (.mvFlip hs)
  | prbsCheckerLock => exact .next (.prbsLock hs)
  | prbsCheckerLoss => exact .next (.prbsLoss hs)
  | refreshDue => exact .next (.refreshDue hs)
  | dramTempRead => exact .next (.tempRead hs)
  | neighbourRefresh => exact .next (.neighbour hs)
  | agePromotion => exact .next (.promote hs)
  | dramReadComplete => exact .next (.dramRead hs)
  | scrubRead => exact .next (.scrubRead hs)
  | dqsTracking => exact .next (.dqsTrack hs)
  | dramRetrainComplete => exact .next (.retrained hs)
  | dramTrainingComplete => exact .next (.trained hs)
  | dramTrainingTimeout => exact .next (.trainLate hs)
  | pllLockDeclared => exact .next (.pllLocked hs)
  | pllLockLoss => exact .next (.ite (.pllLost hs) hs)
  | pllBandSearchStep => exact .next (.bandStep hs)
  | pllTableBandTimeout => exact .next (.tableTimeout hs)
  | pllAcquireTimeout => exact .next (.acquireTimeout hs)
  | pllRetryExpiry => exact .next (.retryExpiry hs)
  | pllRampComplete => exact .next (.rampDone hs)
  | clockMonitorWindow => exact .next (.monitorWindow hs)
  | cleanerLoss => exact .next (.cleanerLost hs)
  | ptpSyncReceived => exact .next (.ptpSync hs)
  | ptpAnnounceReceived => exact .next (.ptpAnnounce hs)
  | ptpDelayRespReceived => exact .next (.ptpDelayResp hs)
  | ptpDelayReqSend => exact .next (.ptpDelayReq hs)
  | ptpQualificationComplete => exact .next (.armCheck (.ptpQualified hs))
  | ptpAnnounceTimeout => exact .next (.ptpAnnounceTimeout hs)
  | ptpSyncTimeout => exact .next (.ptpSyncTimeout hs)
  | acquisitionStep => exact .next (.acquisition hs)
  | slewComplete => exact .next (.slewComplete hs)
  | refInQualified => exact .next (.refQualified hs)
  | refInStop => exact .next (.refDisqualify hs)
  | refInRateGate => exact .next (.refGate hs)
  | refInGlitch => exact .next (.sat hs)
  | ppsInEdge => exact .next (.ppsIn hs)
  | ppsOutSecond => exact .next (.ppsOutRise hs)
  | armWaitExpiry => exact .next (.armCheck (.armWaitOver hs))
  | holdoverLongExpiry => exact .next (.holdoverLong hs)
  | slewFarExpiry => exact .next (.slewFarLong hs)
  | audioPortFrame => exact .next (.portFrame hs)
  | portPrimeDone => exact .next (.primeDone hs)
  | portStopDone => exact .next (.stopDone hs)
  | portClockValid => exact .next (.clockOk hs)
  | portClockLoss => exact .next (.ite hs (.clockLost (.flag hs)))
  | portRateGate => exact .next (.rateGate hs)
  | ringQuotaRecompute => exact .next (.quotaTick hs)
  | retrievalSearchDone => exact .next (.searchDone hs)
  | retrievalSegmentRead => exact .next (.segmentRead hs)
  | retrievalRecordDelivery => exact .next (.recordDelivered hs)
  | faultOccurrence => exact .next (.faultOccurs hs)
  | shadowClose => exact .next (.shadowClose hs)
  | reactionComplete => exact .next (.reactionDone hs)
  | quietPeriodExpiry => exact .next (.quietExpiry hs)
  | selSelfError => exact .next (.selSelf hs)
  | seltypeRereadComplete => exact .next (.rereadDone hs)
  | eventArbiterArrival => exact .next (.arrival hs)
  | eventNumbering => exact .next (.number hs)
  | modeEvaluation => exact .next (.evaluateModes hs)
  | loadComplete => exact .next (.loadDone hs)
  | calibrateTimeout => exact .next (.calibrateLate hs)
  | sourceWaitExpiry => exact .next (.srcWaitEnd hs)
  | degradedHoldExpiry => exact .next (.degradedEnd hs)
  | recoverRebuildComplete => exact .next (.recoverDone hs)
  | recoverTimeout => exact .next (.recoverLate hs)
  | drainCloseTimeout => exact .next (.drainLate hs)
  | drainSummaryWritten => exact .next (.drained hs)
  | selftestComplete => exact .next (.selftestDone hs)
  | journalWrite => exact .next (.journalWrite hs)
  | nvmUpdateWriteDone => exact .next (.updateWritten hs)
  | nvmUpdateVerifyDone => exact .next (.updateVerified hs)
  | nvmReadoutDone => exact .next (.readoutDone hs)
  | ckvDescriptorDone => exact .next (.ckvDesc hs)
  | ckvFetchError => exact .next (.ite (.raise (.ckvHalt hs)) hs)
  | eventQueueWrite => exact .next (.queueWrite hs)
  | msixModerationExpiry => exact .next (.msixExpiry hs)
  | lostHandover => exact .next (.lostHandover hs)
  | cleanerReturn => exact .next (.cleanerReturn hs)
  | ppsOutFall => exact .next (.ppsOutFall hs)
  | refInResume => exact .next (.refResume hs)
  | remoteFaultClear => exact .next (.tryUp (.flag hs))
  | dramWriteComplete => exact .next (.writeDone hs)
  | safeReconstructionDecoded => exact .next (.reconDone hs)
  | ringRecordComplete => exact .next (.recordDone hs)
  | tapRecordComplete => exact .next (.tapDone hs)
  | farClear => exact .next (.farClear hs)
  | powerMonitorUpdate => exact .next (.readPower hs)

/-- Settles O2: a step passes a nanosecond or executes the front command, and either keeps the canonical form. -/
theorem stepKeepsCanon : Obligations.StepKeepsCanon := by
  intro s t hs h
  have hstep : NextCanon (step s) := by
    unfold step
    split
    · exact .next (.advance hs)
    · exact exec_canon (.mk hs)
  exact hstep t h

end Sys2Proof.Machine
end

