-- ==== Sys2Proof/Proofs/FrameOps.lean ====
section
/-!
SUPPORT. Sys2Proof/Proofs/FrameOps.lean: the frame of a command, kept by one more operation that stays within it, and what
reads the same across a frame: a channel's state, its shape and its rows.
-/

namespace Sys2Proof.Machine

/-! Operations within a frame -/

section
variable {s t u : State} {q : List Nat} {m : List Part}

/-- A frame holds on across a step whose own frame lies within it. -/
theorem State.Frame.andThen {r : List Nat} {l : List Part} (h : s.Frame t q m) (k : t.Frame u r l) (hr : ∀ a ∈ r, a ∈ q)
    (hl : ∀ p ∈ l, p ∈ m) : s.Frame u q m :=
  h.trans k (fun a => Or.rec id (hr a)) (fun p => Or.rec id (hl p))

theorem State.Frame.setWord {a : Nat} {w : Word} (h : s.Frame t q m) (ha : a ∈ q) : s.Frame (t.setWord a w) q m :=
  h.andThen (State.frame_setWord t a w) (by simpa) (by simp)

theorem State.Frame.put {f : Fld} {v : Nat} (h : s.Frame t q m) (hf : f.addr ∈ q) : s.Frame (t.put f v) q m :=
  h.setWord hf

theorem State.Frame.flag {f : Fld} {b : Bool} (h : s.Frame t q m) (hf : f.addr ∈ q) : s.Frame (t.flag f b) q m :=
  h.put hf

theorem State.Frame.bump {f : Fld} {n : Nat} (h : s.Frame t q m) (hf : f.addr ∈ q) : s.Frame (t.bump f n) q m :=
  h.put hf

theorem State.Frame.peak {f : Fld} {n : Nat} (h : s.Frame t q m) (hf : f.addr ∈ q) : s.Frame (t.peak f n) q m :=
  h.put hf

theorem State.Frame.put64 {lo hi v : Nat} (h : s.Frame t q m) (hlo : lo ∈ q) (hhi : hi ∈ q) :
    s.Frame (t.put64 lo hi v) q m :=
  (h.setWord hlo).setWord hhi

theorem State.Frame.advance {x : Nat} (h : s.Frame t q m) (hn : .now ∈ m) (ht : .tim ∈ m) : s.Frame (t.advance x) q m :=
  h.andThen (State.frame_advance t x) (by simp) (by simp [hn, ht])

/-- An update that leaves the registers and all parts but one alone stays within a frame that names this part. -/
theorem State.Frame.part {x : Part} (h : s.Frame t q m) (hx : x ∈ m) (hr : u.regs = t.regs)
    (hp : ∀ p, p ≠ x → t.Same u p) : s.Frame u q m :=
  h.andThen (State.frame_parts (l := [x]) hr (fun p hn => hp p (by simpa using hn))) (by simp) (by simpa)

theorem State.Frame.raise {code : Nat} (h : s.Frame t q m) (hs : .sel ∈ m) : s.Frame (t.raise code) q m :=
  h.part hs rfl (fun p hp => by cases p <;> simp_all [State.Same])

theorem State.Frame.setArb {a : ArbSt} (h : s.Frame t q m) (ha : .arb ∈ m) : s.Frame { t with arb := a } q m :=
  h.part ha rfl (fun p hp => by cases p <;> simp_all [State.Same])

theorem State.Frame.setChan {n : Nat} {c : Chan} (h : s.Frame t q m) (hc : .chans ∈ m) : s.Frame (t.setChan n c) q m :=
  h.part hc rfl (fun p hp => by cases p <;> simp_all [State.Same])

theorem State.Frame.updChan {n : Nat} {f : Chan → Chan} (h : s.Frame t q m) (hc : .chans ∈ m) :
    s.Frame (t.updChan n f) q m :=
  h.setChan hc

theorem State.Frame.updRow {n k j : Nat} {f : Row → Row} (h : s.Frame t q m) (hc : .chans ∈ m) :
    s.Frame (t.updRow n k j f) q m :=
  h.updChan hc

theorem State.Frame.setFree {p g n : Nat} (h : s.Frame t q m) (hf : .poolFree ∈ m) : s.Frame (t.setFree p g n) q m :=
  h.part hf rfl (fun p hp => by cases p <;> simp_all [State.Same, State.setFree])

theorem State.Frame.ite {c : Prop} {_ : Decidable c} (ht : s.Frame t q m) (hu : s.Frame u q m) :
    s.Frame (if c then t else u) q m := by
  split
  · exact ht
  · exact hu

theorem State.Frame.foldl {α : Type} {l : List α} {f : State → α → State} (h : s.Frame t q m)
    (hf : ∀ u x, x ∈ l → s.Frame u q m → s.Frame (f u x) q m) : s.Frame (l.foldl f t) q m := by
  induction l generalizing t with
  | nil => exact h
  | cons x l ih => exact ih (hf t x List.mem_cons_self h) (fun u y hy => hf u y (List.mem_cons_of_mem x hy))

end

theorem State.Frame.aget {s t : State} {q : List Nat} {m : List Part} (h : s.Frame t q m) (ha : .act ∉ m) (f : Fld) :
    t.aget f = s.aget f := by
  simp only [State.aget, State.actWord, show t.act = s.act from h.2 .act ha]

theorem State.Frame.now {s t : State} {q : List Nat} {m : List Part} (h : s.Frame t q m) (hn : .now ∉ m) : t.now = s.now :=
  h.2 .now hn

theorem State.Frame.chan {s t : State} {q : List Nat} {m : List Part} (h : s.Frame t q m) (hc : .chans ∉ m) (n : Nat) :
    t.chan n = s.chan n := by
  simp only [State.chan, show t.chans = s.chans from h.2 .chans hc]

/-- A loop whose body leaves the state alone leaves it alone. -/
theorem State.foldl_fixed {α : Type} {l : List α} {f : State → α → State} {s : State} (hf : ∀ x ∈ l, f s x = s) :
    l.foldl f s = s := by
  induction l with
  | nil => rfl
  | cons x l ih => rw [List.foldl_cons, hf x List.mem_cons_self, ih (fun y hy => hf y (List.mem_cons_of_mem x hy))]

theorem State.cond_false (s : State) (f : State → State) : s.cond false f = s := rfl

/-! A change of the arbiter -/

@[simp] theorem State.get_setArb (s : State) (a : ArbSt) (f : Fld) : ({ s with arb := a } : State).get f = s.get f := rfl

/-! A report to SEL -/

@[simp] theorem State.get_raise (s : State) (code : Nat) (f : Fld) : (s.raise code).get f = s.get f := rfl

@[simp] theorem State.is_raise (s : State) (code : Nat) (f : Fld) : (s.raise code).is f = s.is f := rfl

@[simp] theorem State.raise_occ (s : State) (code : Nat) : (s.raise code).sel.occ = s.sel.occ ++ [(code, false)] := rfl

/-! Reading through time -/

section
variable (s : State) (x : Nat)

@[simp] theorem State.advance_now : (s.advance x).now = max s.now x := by
  unfold State.advance
  split
  · next h => exact (max_eq_left (Nat.le_of_ble_eq_true h)).symm
  · next h =>
    have hx : s.now ≤ x := by
      by_contra hn
      exact h (Nat.ble_eq_true_of_le (by omega))
    split <;> exact (max_eq_right hx).symm

@[simp] theorem State.get_advance (f : Fld) : (s.advance x).get f = s.get f := State.get_of_regs f (by simp)

@[simp] theorem State.is_advance (f : Fld) : (s.advance x).is f = s.is f := State.is_of_regs f (by simp)

@[simp] theorem State.chan_advance (n : Nat) : (s.advance x).chan n = s.chan n := by simp [State.chan]

end

/-! Channel contexts -/

section
variable (s : State) {n : Nat} (f : Chan → Chan)

@[simp] theorem State.chan_updChan : (s.updChan n f).chan n = f (s.chan n) := State.chan_setChan s n _

theorem State.chan_updChan_ne {k : Nat} (h : n ≠ k) : (s.updChan n f).chan k = s.chan k := State.chan_setChan_ne s _ h

@[simp] theorem State.get_updChan (g : Fld) : (s.updChan n f).get g = s.get g := rfl

@[simp] theorem State.updChan_now : (s.updChan n f).now = s.now := rfl

@[simp] theorem State.chan_put (g : Fld) (v k : Nat) : (s.put g v).chan k = s.chan k := rfl

@[simp] theorem State.chan_peak (g : Fld) (v k : Nat) : (s.peak g v).chan k = s.chan k := rfl

@[simp] theorem State.chan_bump (g : Fld) (v k : Nat) : (s.bump g v).chan k = s.chan k := rfl

@[simp] theorem State.chan_put64 (lo hi v k : Nat) : (s.put64 lo hi v).chan k = s.chan k := rfl

end

/-! The shape of the channels -/

/-- Between s and t no channel changes its state or its format: the active values and the two registers that these rest on
hold the same. -/
structure State.SameShape (s t : State) : Prop where
  act  : t.act = s.act
  stat : ∀ n, t.word (R.chnStat n) = s.word (R.chnStat n)
  fmt  : ∀ n, t.word (R.chnFmt n) = s.word (R.chnFmt n)

section
variable {s t : State}

theorem State.Frame.sameShape {q : List Nat} {m : List Part} (h : s.Frame t q m) (ha : .act ∉ m)
    (hs : ∀ n, R.chnStat n ∉ q) (hf : ∀ n, R.chnFmt n ∉ q) : s.SameShape t :=
  ⟨h.2 .act ha, fun n => h.word (hs n), fun n => h.word (hf n)⟩

/-- Nothing of a channel's shape changes where neither registers nor active values do. -/
theorem State.sameShape_of_regs (hr : t.regs = s.regs) (ha : t.act = s.act) : s.SameShape t :=
  ⟨ha, fun n => by simp only [State.word, hr], fun n => by simp only [State.word, hr]⟩

theorem State.sameShape_advance (s : State) (x : Nat) : s.SameShape (s.advance x) :=
  State.sameShape_of_regs (by simp) (by simp)

variable (h : s.SameShape t)
include h

theorem State.SameShape.aget (f : Fld) : t.aget f = s.aget f := by simp only [State.aget, State.actWord, h.act]

theorem State.SameShape.ais (f : Fld) : t.ais f = s.ais f := by simp only [State.ais, h.aget]

theorem State.SameShape.chState (n : Nat) : t.chState n = s.chState n := State.get_of_word _ (h.stat n)

theorem State.SameShape.admitted (n : Nat) : t.admitted n = s.admitted n := by simp only [State.admitted, h.chState]

theorem State.SameShape.runs (n : Nat) : t.runs n = s.runs n := by simp only [State.runs, h.chState]

theorem State.SameShape.leadOf (n : Nat) : t.leadOf n = s.leadOf n := by simp only [State.leadOf, h.admitted, h.aget]

theorem State.SameShape.strips (n : Nat) : t.strips n = s.strips n := by simp only [State.strips, h.aget]

theorem State.SameShape.height (n : Nat) : t.height n = s.height n := by
  have e : t.get (F.chnFmtH8 n) = s.get (F.chnFmtH8 n) := State.get_of_word _ (h.fmt n)
  simp only [State.height, State.cfg, h.admitted, h.aget, e]

theorem State.SameShape.rows (n : Nat) : t.rows n = s.rows n := by simp only [State.rows, h.height, h.leadOf]

end

/-! Values of two words -/

/-- A value that spans two registers reads what it was set to, modulo 2^64. -/
theorem State.get64_put64 (s : State) {lo hi : Nat} (v : Nat) (h : lo ≠ hi) :
    (s.put64 lo hi v).get64 lo hi = v % 2 ^ 64 := by
  simp only [State.get64, State.put64, State.word_setWord, State.word_setWord_ne _ _ h.symm, BitVec.toNat_ofNat]
  omega

theorem State.word_put64_ne (s : State) {lo hi a : Nat} (v : Nat) (hlo : lo ≠ a) (hhi : hi ≠ a) :
    (s.put64 lo hi v).word a = s.word a := by
  simp only [State.put64, State.word_setWord_ne _ _ hlo, State.word_setWord_ne _ _ hhi]

theorem State.get64_put64_ne (s : State) {lo hi lo' hi' : Nat} (v : Nat) (h1 : lo ≠ lo') (h2 : lo ≠ hi') (h3 : hi ≠ lo')
    (h4 : hi ≠ hi') : (s.put64 lo hi v).get64 lo' hi' = s.get64 lo' hi' := by
  simp only [State.get64, State.word_put64_ne _ _ h1 h3, State.word_put64_ne _ _ h2 h4]

theorem State.Frame.get64 {s t : State} {q : List Nat} {m : List Part} (h : s.Frame t q m) {lo hi : Nat} (hlo : lo ∉ q)
    (hhi : hi ∉ q) : t.get64 lo hi = s.get64 lo hi := by
  simp only [State.get64, h.word hlo, h.word hhi]

end Sys2Proof.Machine
end

