-- ==== Sys2Proof/Proofs/EventNumbering.lean ====
section
/-!
SUPPORT. Sys2Proof/Proofs/EventNumbering.lean: the event arbiter and the journal writer: an arrival, the numbering of a
single waiting event, a journal write inside a page; the statement of O19 settled.
-/

namespace Sys2Proof.Machine

/-! Arrival -/

/-- An element that leaves a list leaves its filtered sublist one shorter. -/
theorem length_filter_eraseIdx {α : Type} {l : List α} {i : Nat} {e : α} {p : α → Bool} (he : l[i]? = some e)
    (hp : p e = true) : ((l.eraseIdx i).filter p).length + 1 = (l.filter p).length := by
  obtain ⟨hi, rfl⟩ := List.getElem?_eq_some_iff.mp he
  have h := ((List.getElem_cons_eraseIdx_perm hi).filter p).length_eq
  rwa [List.filter_cons_of_pos hp, List.length_cons] at h

/-- With at most four of its source waiting, itself among them, a waiting event that opens no shadow joins the queue. -/
theorem State.arrival_of_room {s : State} {i : Nat} {e : Ev} (he : s.arb.wait[i]? = some e) (ho : e.opens = 0)
    (hroom : (s.arb.wait.filter (fun x => Nat.beq x.source e.source)).length
      + (s.arb.queue.filter (fun x => Nat.beq x.2.source e.source)).length ≤ 4) :
    s.arrival i = { s with arb := { s.arb with wait := s.arb.wait.eraseIdx i, queue := s.arb.queue ++ [(s.now / 10, e)] } } := by
  let t : State := { s with arb := { s.arb with wait := s.arb.wait.eraseIdx i } }
  have room : t.roomFor e = true := by
    have := length_filter_eraseIdx (p := fun x => Nat.beq x.source e.source) he (by simp)
    simp only [t, State.roomFor, Nat.blt, Nat.ble_eq]
    omega
  have h : s.arrival i = t.arrive e := by simp only [State.arrival, he, t]
  rw [h, State.arrive_room room ho]

/-! Numbering -/

/-- Registers written one after the other at distinct addresses hold what was written. -/
theorem State.word_foldl_setWord (s : State) {g : Nat → Nat} (w : Nat → Word) (hg : Function.Injective g) {n k : Nat}
    (hk : k < n) : ((List.range n).foldl (fun u i => u.setWord (g i) (w i)) s).word (g k) = w k := by
  induction n with
  | zero => omega
  | succ n ih =>
    rw [List.range_succ, List.foldl_append, List.foldl_cons, List.foldl_nil]
    by_cases e : k = n
    · subst e; exact State.word_setWord _ _ _
    · rw [State.word_setWord_ne _ _ (fun x => e (hg x).symm), ih (by omega)]

/-- The registers of ring record i. -/
def ringRegs (i : Nat) : List Nat := (List.range 8).map (fun k => R.selEvt (i * 8 + k))

theorem State.word_ringWrite (s : State) (i : Nat) (ws : List Word) {k : Nat} (hk : k < 8) :
    (s.ringWrite i ws).word (R.selEvt (i * 8 + k)) = ws.getD k 0 :=
  State.word_foldl_setWord s (g := fun k => R.selEvt (i * 8 + k)) (fun k => ws.getD k 0)
    (fun a b h => by simp only [R.selEvt] at h; omega) hk

/-- A ring record changes its eight registers only. -/
theorem State.frame_ringWrite (s : State) (i : Nat) (ws : List Word) : s.Frame (s.ringWrite i ws) (ringRegs i) [] :=
  (State.Frame.refl s _ _).foldl (fun _ _ hk hu => hu.setWord (List.mem_map_of_mem hk))

theorem State.word_ringWrite_ne (s : State) (i : Nat) (ws : List Word) {a : Nat} (ha : a < 0x18000) :
    (s.ringWrite i ws).word a = s.word a := by
  refine (s.frame_ringWrite i ws).word ?_
  simp only [ringRegs, List.mem_map, R.selEvt, not_exists, not_and]
  omega

theorem State.journalPush_of_room {s : State} {r : List Word} (h : s.arb.jbuf.length < 65536) :
    s.journalPush r = { s with arb := { s.arb with jbuf := s.arb.jbuf ++ [r] } } := by
  simp only [State.journalPush, Nat.blt_eq, h, if_true]

/-- What goes to the host event queues changes their records only. -/
theorem State.toQueues_eq (s : State) (l : List (Nat × Ev)) (kind : Nat) (r : List Word) :
    ∃ x, s.toQueues l kind r = { s with arb := { s.arb with eq := x } } := by
  refine List.foldlRecOn (motive := fun u : State => ∃ x, u = { s with arb := { s.arb with eq := x } }) _ _ ⟨s.arb.eq, rfl⟩ ?_
  rintro _ ⟨x, rfl⟩ h -
  split
  · exact ⟨_, rfl⟩
  · exact ⟨x, rfl⟩

/-- The instant at which the next event is numbered: 25 always-on cycles after the last one, or at once (R506). -/
def State.numberAt (s : State) : State := if Nat.beq s.arb.last 0 then s else s.advance ((s.arb.last - 1 + 25) * 10)

@[simp] theorem State.numberAt_arb (s : State) : s.numberAt.arb = s.arb := by unfold State.numberAt; split <;> simp

/-- Time and the arbiter as the numbering of event e, the only one at the arbiter, leaves them (R51, R56). -/
def State.numbered (s : State) (e : Ev) : State :=
  { s.numberAt with arb := { s.numberAt.arb with
      queue := [], next := (s.numberAt.arb.next + 1) % 2 ^ 48, last := s.numberAt.now / 10 + 1,
      ovf := Tab.del s.numberAt.arb.ovf e.source } }

theorem State.frame_numbered (s : State) (e : Ev) : s.Frame (s.numbered e) [] [.now, .tim, .arb] := by
  have h : s.Frame s.numberAt [] [.now, .tim, .arb] :=
    (State.Frame.refl s _ _).ite ((State.Frame.refl s _ _).advance (by simp) (by simp))
  exact h.setArb (by simp)

/-- The registers of a numbered event: its number in SEL_SEQ, and its record in the event ring, whose head moves on. -/
def State.showNumbered (s : State) (seq : Nat) (ws : List Word) : State :=
  ((s.put64 R.selSeqLo R.selSeqHi seq).ringWrite (s.get F.selEvtHeadIdx) ws).bump F.selEvtHeadIdx 1

section
variable (s : State) (seq : Nat) (ws : List Word)

theorem State.frame_showNumbered : s.Frame (s.showNumbered seq ws)
    ([R.selSeqLo, R.selSeqHi, R.selEvtHead] ++ ringRegs (s.get F.selEvtHeadIdx)) [] :=
  ((((State.Frame.refl s _ _).put64 (by simp) (by simp)).andThen (State.frame_ringWrite _ _ _) (by simp_all) (by simp))).bump
    (by simp [F.selEvtHeadIdx])

theorem State.showNumbered_arb : (s.showNumbered seq ws).arb = s.arb := (s.frame_showNumbered seq ws).2 .arb (by simp)

/-- Below the event ring a numbering writes SEL_SEQ and the head only. -/
theorem State.word_showNumbered {a : Nat} (ha : a < 0x18000) (hn : a ≠ R.selEvtHead) :
    (s.showNumbered seq ws).word a = (s.put64 R.selSeqLo R.selSeqHi seq).word a := by
  rw [State.showNumbered, State.word_bump_ne _ _ (by simpa [F.selEvtHeadIdx] using hn.symm), State.word_ringWrite_ne _ _ _ ha]

theorem State.showNumbered_seqLo : (s.showNumbered seq ws).word R.selSeqLo = BitVec.ofNat 32 seq := by
  rw [State.word_showNumbered _ _ _ (by decide) (by decide), State.put64, State.word_setWord_ne _ _ (by decide),
    State.word_setWord]

theorem State.showNumbered_seqHi : (s.showNumbered seq ws).word R.selSeqHi = BitVec.ofNat 32 (seq / 2 ^ 32) := by
  rw [State.word_showNumbered _ _ _ (by decide) (by decide), State.put64, State.word_setWord]

theorem State.showNumbered_head :
    (s.showNumbered seq ws).get F.selEvtHeadIdx = (s.get F.selEvtHeadIdx + 1) % 1024 := by
  have h : ((s.put64 R.selSeqLo R.selSeqHi seq).ringWrite (s.get F.selEvtHeadIdx) ws).get F.selEvtHeadIdx
      = s.get F.selEvtHeadIdx :=
    State.get_of_word _ ((State.word_ringWrite_ne _ _ _ (by decide)).trans
      (State.word_put64_ne _ _ (by decide) (by decide)))
  rw [State.showNumbered, State.get_bump _ _ _ (by decide), h]
  rfl

theorem State.showNumbered_record {k : Nat} (hk : k < 8) :
    (s.showNumbered seq ws).word (R.selEvt (s.get F.selEvtHeadIdx * 8 + k)) = ws.getD k 0 := by
  rw [State.showNumbered, State.word_bump_ne _ _ (by simp [F.selEvtHeadIdx, R.selEvtHead, R.selEvt]; omega),
    State.word_ringWrite _ _ _ hk]

end

/-- A single event that is no fault and no change of mode goes to the journal and to the host queues once it is numbered. -/
theorem State.number_single {s : State} {c : Nat} {e : Ev} (hq : s.arb.queue = [(c, e)]) (hk : e.kind ∈ [1, 3, 4]) :
    s.number = (((s.numbered e).showNumbered s.arb.next (e.words s.arb.next (Tab.get 0 s.arb.ovf e.source) false)).journalPush
      (e.words s.arb.next (Tab.get 0 s.arb.ovf e.source) true)).toQueues s.arb.queue e.kind
        (e.words s.arb.next (Tab.get 0 s.arb.ovf e.source) true) := by
  have hp : pickEvent s.arb.queue = some ((c, e), []) := by rw [hq]; rfl
  have h0 : Nat.beq e.kind 0 = false := by rw [nat_beq_eq]; simp at hk ⊢; omega
  have h2 : Nat.beq e.kind 2 = false := by rw [nat_beq_eq]; simp at hk ⊢; omega
  have ht : (if Nat.beq s.arb.last 0 then s else s.advance ((s.arb.last - 1 + 25) * 10)) = s.numberAt := rfl
  have hi : (s.numbered e).get F.selEvtHeadIdx = s.numberAt.get F.selEvtHeadIdx := rfl
  simp only [State.showNumbered, hi]
  simp only [State.number, hp, h0, h2, Bool.false_and, State.cond_false, ht, s.numberAt_arb, State.numbered]

/-- With room in the journal's buffer, the numbering changes the arbiter beside the registers that show it. -/
theorem State.number_single_arb {s u : State} {c : Nat} {e : Ev} (hq : s.arb.queue = [(c, e)]) (hk : e.kind ∈ [1, 3, 4])
    (hj : s.arb.jbuf.length < 65536)
    (hu : (s.numbered e).showNumbered s.arb.next (e.words s.arb.next (Tab.get 0 s.arb.ovf e.source) false) = u) :
    ∃ a : ArbSt, s.number = { u with arb := a } ∧ a.queue = [] ∧ a.next = (s.arb.next + 1) % 2 ^ 48
      ∧ a.jbuf = s.arb.jbuf ++ [e.words s.arb.next (Tab.get 0 s.arb.ovf e.source) true] := by
  have harb : u.arb = (s.numbered e).arb := hu ▸ State.showNumbered_arb _ _ _
  have hbuf : u.arb.jbuf = s.arb.jbuf := by rw [harb, State.numbered, s.numberAt_arb]
  rw [State.number_single hq hk, hu, State.journalPush_of_room (by rwa [hbuf])]
  obtain ⟨x, hx⟩ := State.toQueues_eq { u with arb := { u.arb with
    jbuf := u.arb.jbuf ++ [e.words s.arb.next (Tab.get 0 s.arb.ovf e.source) true] } } s.arb.queue e.kind
    (e.words s.arb.next (Tab.get 0 s.arb.ovf e.source) true)
  rw [hx]
  refine ⟨_, rfl, ?_, ?_, ?_⟩
  · rw [harb]; rfl
  · rw [harb, State.numbered, s.numberAt_arb]
  · rw [hbuf]

/-! The journal writer -/

section
variable {s : State} {r : List Word} {rest : List (List Word)}

theorem State.journalPage_inside (h : s.arb.jidx % 128 ≠ 0) (r : List Word) : s.journalPage r = s := by
  simp [State.journalPage, h]

/-- The journal's registers after its index has moved on. -/
theorem State.frame_journalNext (s : State) : s.Frame s.journalNext [R.nvmJrnHead, R.nvmCntWrap] [.arb] := by
  have h0 := (State.Frame.refl s [R.nvmJrnHead, R.nvmCntWrap] [.arb]).setArb
    (a := { s.arb with jidx := (s.arb.jidx + 1) % 2 ^ 20 }) (by simp)
  have h := h0.put (f := F.nvmJrnHeadIdx) (v := (s.arb.jidx + 1) % 2 ^ 20) (by simp [F.nvmJrnHeadIdx])
  exact (h.bump (by simp [F.nvmCntWrap])).ite h

theorem State.journalNext_arb (s : State) : s.journalNext.arb = { s.arb with jidx := (s.arb.jidx + 1) % 2 ^ 20 } := by
  simp only [State.journalNext, State.cond]
  split <;> rfl

theorem State.journalNext_head (s : State) : s.journalNext.get F.nvmJrnHeadIdx = (s.arb.jidx + 1) % 2 ^ 20 := by
  have h : ∀ u : State, (u.put F.nvmJrnHeadIdx ((s.arb.jidx + 1) % 2 ^ 20)).get F.nvmJrnHeadIdx = (s.arb.jidx + 1) % 2 ^ 20 :=
    fun u => (State.get_put u _ _ (by decide)).trans (Nat.mod_mod _ _)
  simp only [State.journalNext, State.cond]
  split
  · exact (State.get_put_ne _ _ _ _ (.inl (by decide))).trans (h _)
  · exact h _

variable (hb : s.arb.jbuf = r :: rest) (ho : s.journalOpen = true) (hp : s.arb.jidx % 128 ≠ 0)
include hb ho hp

/-- A record that reads back right stands in its cell and leaves the buffer; with no loss to report nothing more is
written. -/
theorem State.journalWrite_good (hg : s.arb.jgap = 0) : s.journalWrite true =
    State.journalNext { s with arb := { s.arb with journal := Tab.ins s.arb.journal s.arb.jidx r, jbuf := rest } } := by
  simp [State.journalWrite, hb, ho, State.journalPage_inside hp, State.cond, State.journalNext_arb, hg]

/-- A record that reads back wrong stays in the buffer; its cell holds none. -/
theorem State.journalWrite_bad : s.journalWrite false =
    ((State.journalNext { s with arb := { s.arb with journal := Tab.del s.arb.journal s.arb.jidx } }).bump F.nvmCntVerify 1).raise
      Src.nvmWrite := by
  simp [State.journalWrite, hb, ho, State.journalPage_inside hp]

end

/-- Settles O19 (R51, R506, R507, R541, R543, R608). -/
theorem eventNumbering : Obligations.EventNumbering := by
  intro s i e c r rest
  refine ⟨fun he ho hroom => ?_, fun hq hk hj => ?_, fun hb ho _ hp hg => ⟨?_, ?_⟩⟩
  · refine ⟨s.arrival i, rfl, ?_⟩
    rw [State.arrival_of_room he ho hroom]
    exact ⟨State.frame_parts rfl (fun p hp => by cases p <;> simp_all [State.Same]), rfl, rfl, rfl⟩
  · obtain ⟨ws, hws⟩ : ∃ ws, e.words s.arb.next (Tab.get 0 s.arb.ovf e.source) false = ws := ⟨_, rfl⟩
    obtain ⟨u, hu⟩ : ∃ u, (s.numbered e).showNumbered s.arb.next ws = u := ⟨_, rfl⟩
    obtain ⟨a, hn, hqueue, hnext, hbuf⟩ := State.number_single_arb hq hk hj (hws ▸ hu)
    have index : (s.numbered e).get F.selEvtHeadIdx = s.get F.selEvtHeadIdx := (s.frame_numbered e).get _ (by simp)
    have frame := (s.frame_numbered e).trans ((s.numbered e).frame_showNumbered s.arb.next ws)
      (q := [R.selSeqLo, R.selSeqHi, R.selEvtHead] ++ ringRegs (s.get F.selEvtHeadIdx)) (m := [.now, .tim, .arb])
      (by simp [index]) (by simp)
    have lo := (s.numbered e).showNumbered_seqLo s.arb.next ws
    have hi := (s.numbered e).showNumbered_seqHi s.arb.next ws
    have head := (s.numbered e).showNumbered_head s.arb.next ws
    have record : ∀ k < 8, u.word (R.selEvt (s.get F.selEvtHeadIdx * 8 + k)) = ws.getD k 0 := fun k h => by
      rw [← hu, ← index, State.showNumbered_record _ _ _ h]
    rw [hu] at frame lo hi head
    rw [index] at head
    refine ⟨s.number, rfl, ?_⟩
    rw [hn, hws]
    exact ⟨frame.setArb (by simp), hqueue, hnext, lo, hi, head, record, hbuf⟩
  · refine ⟨s.journalWrite true, rfl, ?_⟩
    rw [State.journalWrite_good hb ho hp hg]
    have h0 := (State.Frame.refl s [R.nvmJrnHead, R.nvmCntWrap] [.arb]).setArb
      (a := { s.arb with journal := Tab.ins s.arb.journal s.arb.jidx r, jbuf := rest }) (by simp)
    refine ⟨h0.andThen (State.frame_journalNext _) (by simp) (by simp), ?_, ?_, ?_, State.journalNext_head _⟩
    · rw [State.journalNext_arb]
    · rw [State.journalNext_arb]; exact Tab.get_ins_same _ _ _ _
    · rw [State.journalNext_arb]
  · refine ⟨s.journalWrite false, rfl, ?_⟩
    rw [State.journalWrite_bad hb ho hp]
    have h0 := (State.Frame.refl s [R.nvmJrnHead, R.nvmCntWrap, R.nvmCntVerify] [.arb, .sel]).setArb
      (a := { s.arb with journal := Tab.del s.arb.journal s.arb.jidx }) (by simp)
    have frame := h0.andThen (State.frame_journalNext _) (by simp) (by simp)
    refine ⟨(frame.bump (by simp [F.nvmCntVerify])).raise (by simp), ?_, ?_, ?_, ?_, ?_⟩
    · simp only [State.raise_arb, State.bump_arb, State.journalNext_arb, hb]
    · simp only [State.raise_arb, State.bump_arb, State.journalNext_arb, Tab.get_del_same]
    · simp only [State.raise_arb, State.bump_arb, State.journalNext_arb]
    · rw [State.get_raise, State.get_bump _ _ _ (by decide), (State.frame_journalNext _).get _ (by decide), State.get_setArb]
      rfl
    · rw [State.raise_occ, State.bump_sel, (State.frame_journalNext _).2 .sel (by simp)]

end Sys2Proof.Machine
end

