-- ==== Sys2Proof/Proofs/SlotsAndPackets.lean ====
section
/-!
SUPPORT. Sys2Proof/Proofs/SlotsAndPackets.lean: a row deadline without layers, the decision and the release of a row of the
safe picture, and a packet's departure; the statement of O45 settled.
-/

namespace Sys2Proof.Machine

/-! Sampler entries -/

theorem entryState_entryOf (capt age owner state : Nat) : entryState (entryOf capt age owner state) = state % 16 := by
  simp only [entryState, entryOf, BitVec.toNat_ofNat]
  omega

theorem entryOwner_entryOf (capt age owner state : Nat) : entryOwner (entryOf capt age owner state) = owner % 256 := by
  simp only [entryOwner, entryOf, BitVec.toNat_ofNat]
  omega

theorem entryAge_entryOf (capt age owner state : Nat) : entryAge (entryOf capt age owner state) = min age 0xFFFF := by
  simp only [entryAge, entryOf, BitVec.toNat_ofNat]
  omega

theorem unmarked_safeEntry (lim : Nat) : unmarked lim safeEntry = false := by
  simp [unmarked, safeEntry, entryState_entryOf]

/-! The row deadline without layers -/

section
variable {s : State} {n k j : Nat}

/-- Without a layer every tile has the background's entry (R210). -/
theorem State.candsOf_background (x : Nat) (h : s.shotOf n k = []) {e : BitVec 64} (he : e ∈ s.candsOf n k j x) :
    e = entryOf (s.markOf n k).2.1 0 0xFE 0 := by
  simp only [State.candsOf, h, List.mem_flatMap, State.tileRow, State.rowReads, List.filter_nil, List.map_nil, List.mem_map] at he
  obtain ⟨-, -, -, -, rfl⟩ := he
  rfl

theorem State.judgeRow_background (h : s.shotOf n k = []) : s.judgeRow n k j = s := by
  simp [State.judgeRow, h, State.each]

theorem State.closeLayers_background (h : s.shotOf n k = []) : s.closeLayers n k = s := by
  simp [State.closeLayers, h, State.each]

theorem State.markStale_of_no_stale (c : Nat) {l : List (BitVec 64)} (h : ∀ e ∈ l, entryState e = 0) : s.markStale c l = s := by
  refine State.foldl_fixed (fun i _ => if_neg ?_)
  simp only [List.any_eq_true, not_exists, not_and, Bool.and_eq_true]
  intro e he h2
  simp [h e he] at h2

/-- The row that a deadline begins in state s (R205, R213). -/
def State.newRow (s : State) (n k j : Nat) : Row :=
  { k := k, j := j, cands := s.candsOf n k j 0, fresh := s.cleanReads n k j, x := s.rowX n k j 0, g := s.rowG n n k j }

/-- At the deadline of a row other than the first, with no layer to read, the row begins and nothing else happens. -/
theorem State.rowDeadline_background (hst : s.strips n = [n]) (hl : s.leadOf n = n) (ha : s.admitted n = true)
    (hs : s.chState n ≠ ChState.shed) (hm : s.modeIn [Mode.safe, Mode.recover] = false) (hk : (s.chan n).cur.k = k)
    (h0 : j ≠ 0) (hj : j < s.rows n) (hr : s.row n k j = none) (hslot : (s.chan n).slot ≠ some k) (hshot : s.shotOf n k = []) :
    s.rowDeadline n k j = (s.advance (s.deadlineInstant n k j)).updChan n (fun c =>
      { c with rows := c.rows ++ [(s.advance (s.deadlineInstant n k j)).newRow n k j] }) := by
  have hs' : Nat.beq (s.chState n) ChState.shed = false := by rw [nat_beq_eq, decide_eq_false hs]
  have hslot' : ((s.chan n).slot == some k) = false := by simpa using hslot
  generalize hx : s.deadlineInstant n k j = x
  have shot : (s.advance x).shotOf n k = [] := by rw [← hshot, State.shotOf, s.chan_advance x n]; rfl
  have stale : ∀ u : State, u.markStale (n / 16) ((s.advance x).candsOf n k j 0) = u := fun u =>
    State.markStale_of_no_stale _ (fun e he => by rw [State.candsOf_background 0 shot he, entryState_entryOf])
  have hj' : Nat.blt j (s.rows n) = true := by simpa using hj
  have h0' : Nat.beq j 0 = false := by rw [nat_beq_eq, decide_eq_false h0]
  have close : ∀ f : Chan → Chan, (f (s.chan n)).shots = (s.chan n).shots →
      ((s.advance x).updChan n f).closeLayers n k = (s.advance x).updChan n f := fun f hf =>
    State.closeLayers_background (by
      rw [← shot, State.shotOf, State.chan_updChan, State.chan_advance, hf, State.shotOf, State.chan_advance])
  simp [State.rowDeadline, hl, ha, hs', hm, hk, hst, hslot', hx, hj', h0', hr, List.range_one, State.judgeRow_background shot,
    stale, close, State.newRow]

end

/-! Rows of a context -/

section
variable (s : State) {n k j : Nat}

/-- A row changed in its content stands under its picture and number as before. -/
theorem State.row_updRow {r : Row} {f : Row → Row} (hr : s.row n k j = some r) (hf : ∀ x : Row, (f x).k = x.k ∧ (f x).j = x.j) :
    (s.updRow n k j f).row n k j = some (f r) := by
  have key : (fun x : Row => Nat.beq x.k k && Nat.beq x.j j) ∘ (fun x => if Nat.beq x.k k && Nat.beq x.j j then f x else x)
      = fun x => Nat.beq x.k k && Nat.beq x.j j := by
    funext x
    simp only [Function.comp_apply]
    split <;> simp [hf]
  have hp := List.find?_some hr
  simp only [State.row, State.updRow, State.chan_updChan, List.find?_map, key]
  rw [State.row] at hr
  simp only [hr, Option.map_some, hp, if_true]

theorem State.row_updChan {f : Chan → Chan} (hf : (f (s.chan n)).rows = (s.chan n).rows) :
    (s.updChan n f).row n k j = s.row n k j := by
  simp only [State.row, State.chan_updChan, hf]

@[simp] theorem State.row_advance (x : Nat) : (s.advance x).row n k j = s.row n k j := by simp only [State.row, State.chan_advance]

@[simp] theorem State.row_peak (g : Fld) (v : Nat) : (s.peak g v).row n k j = s.row n k j := rfl

theorem State.chan_updRow_ne (k j : Nat) (f : Row → Row) {m : Nat} (h : n ≠ m) : (s.updRow n k j f).chan m = s.chan m :=
  State.chan_updChan_ne s _ h

@[simp] theorem State.updRow_now (k j : Nat) (f : Row → Row) : (s.updRow n k j f).now = s.now := rfl

/-- Rows of picture k that context n has at work. -/
def State.rowCount (s : State) (n k : Nat) : Nat := ((s.chan n).rows.filter (fun r => Nat.beq r.k k)).length

theorem State.rowCount_updRow {f : Row → Row} (hf : ∀ x : Row, (f x).k = x.k) :
    (s.updRow n k j f).rowCount n k = s.rowCount n k := by
  have key : (fun x : Row => Nat.beq x.k k) ∘ (fun x => if Nat.beq x.k k && Nat.beq x.j j then f x else x)
      = fun x => Nat.beq x.k k := by
    funext x
    simp only [Function.comp_apply]
    split <;> simp [hf]
  simp only [State.rowCount, State.updRow, State.chan_updChan, List.filter_map, List.length_map, key]

theorem State.rowCount_updChan {f : Chan → Chan} (hf : (f (s.chan n)).rows = (s.chan n).rows) :
    (s.updChan n f).rowCount n k = s.rowCount n k := by
  simp only [State.rowCount, State.chan_updChan, hf]

/-- A picture with rows to come is not final. -/
theorem State.pictureFinal_of_count (h : s.rowCount n k ≠ s.rows n) : s.pictureFinal n k = s := by
  have h' : Nat.beq ((s.chan n).rows.filter (fun r => Nat.beq r.k k)).length (s.rows n) = false := by
    rw [nat_beq_eq]; exact decide_eq_false h
  simp [State.pictureFinal, h']

@[simp] theorem State.slotKind_advance (x : Nat) : (s.advance x).slotKind n k = s.slotKind n k := by
  simp only [State.slotKind, State.chan_advance]

theorem State.slotKind_updChan {f : Chan → Chan} (hf : (f (s.chan n)).slotK = (s.chan n).slotK) :
    (s.updChan n f).slotKind n k = s.slotKind n k := by
  simp only [State.slotKind, State.chan_updChan, hf]

theorem State.slotKind_updRow (j : Nat) (f : Row → Row) : (s.updRow n k j f).slotKind n k = s.slotKind n k :=
  State.slotKind_updChan s rfl

end

/-! Decision and release in a slot of the safe picture -/

section
variable {s : State} {n k j : Nat} {r : Row}

/-- In a slot of the safe picture a row with a stored safe row is decided as it; without audio nothing is taken (R343). -/
theorem State.decideNow_safe (hl : s.leadOf n = n) (hr : s.row n k j = some r) (hk : s.slotKind n k = 2)
    (hb : (s.store_ n).bad.contains j = false) (ha : s.ais (F.egrChCfgAudEn n) = false) :
    s.decideNow n k j = s.updRow n k j (fun x => { x with dec := 3 }) := by
  have settle : s.settleSlot n k = s := by simp [State.settleSlot, hk]
  have line : s.lineOf n n k j = (3, false) := by simp [State.lineOf, hk]
  have kind : (s.updRow n k j (fun x => { x with dec := 3 })).slotKind n k = 2 := (s.slotKind_updRow _ _).trans hk
  have audio : ∀ u : State, u.act = s.act → u.audioTake n k j = u := fun u hu => by
    have : u.ais (F.egrChCfgAudEn n) = false := by rw [← ha, State.ais, State.aget, State.actWord, hu]; rfl
    simp [State.audioTake, this]
  have three : Nat.beq 3 2 = false := rfl
  have two : Nat.beq 2 1 = false := rfl
  simp only [State.decideNow, hl, hr, settle, line, kind, hb, three, two, Bool.false_and, Bool.and_false, if_false,
    State.cond_false, Bool.false_eq_true, Nat.beq_refl]
  exact audio _ rfl

theorem State.deviation_small {dev : Nat} (h : dev ≤ 1000) : s.deviation n dev = s.peak (F.chnDlyDevMax n) dev := by
  simp [State.deviation, h]

/-- In a slot of the safe picture a release moves the refresh boundary of its row, and the row's reference content is
settled (R271). -/
theorem State.releaseRefs_safe (floor : Bool) (hk : s.slotKind n k = 2) : ∃ b : Chan → List (Nat × Nat),
    s.releaseRefs n n k j 3 floor
      = (s.updChan n (fun c => { c with gdrB := b c })).updRow n k j (fun x => { x with fin := true }) := by
  have one : Nat.beq 3 1 = false := rfl
  simp only [State.releaseRefs, State.refreshRow, one, hk, Nat.beq_refl, Bool.or_true, if_true]
  exact ⟨_, rfl⟩

/-- What a context counts as a safe row with these entries leaves (R213): f and g change it so. -/
structure SafeLeft (c d : Chan) (j : Nat) (l : List (BitVec 64)) : Prop where
  rows  : d.rows = c.rows
  slotK : d.slotK = c.slotK
  nSafe : d.nSafe = c.nSafe + 1
  nRel  : d.nRel = c.nRel ||| 2 ^ j
  smp   : d.smp = Tab.put [] c.smp j l

/-- The context and CHN_DLY after a safe row has left, before its references. -/
def State.left (s : State) (n k j dev : Nat) (f g : Chan → Chan) : State :=
  (((s.updChan n f).updChan n g).peak (F.chnDlyDevMax n) dev).updRow n k j (fun x => { x with rel := true })

theorem State.frame_left (s : State) (n k j dev : Nat) (f g : Chan → Chan) :
    s.Frame (s.left n k j dev f g) [R.chnDly n] [.chans] :=
  ((((State.Frame.refl s _ _).updChan (by simp)).updChan (by simp)).peak (by simp [F.chnDlyDevMax])).updRow (by simp)

/-- A safe row leaves in a slot of its channel (R213, R346): what follows is its references' and its picture's. -/
theorem State.releaseNow_safeRow {dev : Nat} (hl : s.leadOf n = n) (hslot : (s.chan n).slot = some k)
    (hr : s.row n k j = some r) (hd : r.dec = 3) (hdev : dev ≤ 1000) :
    ∃ f g : Chan → Chan, SafeLeft (s.chan n) (g (f (s.chan n))) j ((s.oldEntries n j).map (fun _ => safeEntry))
      ∧ s.releaseNow n k j dev =
        let t := ((s.left n k j dev f g).releaseRefs n n k j 3 r.lead.floor).pictureFinal n k
        t.cond (Nat.beq (j + 1) (t.rows n)) (fun s => s.dropComposed n k) := by
  have enter : s.enterFirst n k = s := by simp [State.enterFirst, hslot]
  have one : Nat.beq 3 1 = false := rfl
  have two : Nat.beq 3 2 = false := rfl
  have marks : ∀ l : List (BitVec 64), (l.map (fun _ => safeEntry)).any (unmarked (s.limOf n k)) = false := fun l => by
    simp [unmarked_safeEntry]
  simp only [State.releaseNow, hl, enter, hr, Option.getD_some, hd, one, two, if_false, Bool.false_eq_true, marks,
    State.cond_false, State.deviation_small hdev, Nat.beq_refl, if_true]
  exact ⟨_, _, ⟨rfl, rfl, rfl, rfl, rfl⟩, rfl⟩

/-- The release of a safe row in a slot of the safe picture that neither is the last row nor completes its picture: the
refresh boundary moves and the row's reference content is settled. -/
theorem State.releaseNow_safe {dev : Nat} (hl : s.leadOf n = n) (hslot : (s.chan n).slot = some k) (hr : s.row n k j = some r)
    (hd : r.dec = 3) (hk : s.slotKind n k = 2) (hdev : dev ≤ 1000) (hlast : j + 1 ≠ s.rows n) (hcount : s.rowCount n k ≠ s.rows n) :
    ∃ (f g : Chan → Chan) (b : Chan → List (Nat × Nat)),
      SafeLeft (s.chan n) (g (f (s.chan n))) j ((s.oldEntries n j).map (fun _ => safeEntry))
      ∧ s.releaseNow n k j dev = ((s.left n k j dev f g).updChan n (fun c => { c with gdrB := b c })).updRow n k j
          (fun x => { x with fin := true }) := by
  obtain ⟨f, g, hfg, he⟩ := State.releaseNow_safeRow hl hslot hr hd hdev
  have ⟨hrows, hslotK, _, _, _⟩ := hfg
  have kind : (s.left n k j dev f g).slotKind n k = 2 := by
    rw [State.left, State.slotKind_updRow, State.slotKind, State.chan_peak, State.chan_updChan,
      State.chan_updChan, hslotK]
    exact hk
  have count : (s.left n k j dev f g).rowCount n k = s.rowCount n k := by
    rw [State.left, State.rowCount_updRow (f := fun x => { x with rel := true }) _ (fun _ => rfl), State.rowCount, State.chan_peak, State.chan_updChan,
      State.chan_updChan, hrows]
    rfl
  obtain ⟨b, hb⟩ := State.releaseRefs_safe (j := j) r.lead.floor kind
  refine ⟨f, g, b, hfg, he.trans ?_⟩
  have rows : ∀ u : State, s.Frame u [R.chnDly n] [.chans] → u.rows n = s.rows n := fun u h =>
    (h.sameShape (by simp) (by simp [R.chnStat, R.chnDly]; omega) (by simp [R.chnFmt, R.chnDly]; omega)).rows n
  have frame := ((s.frame_left n k j dev f g).updChan (n := n) (f := fun c => { c with gdrB := b c }) (by simp)).updRow (n := n)
    (k := k) (j := j) (f := fun x => { x with fin := true }) (by simp)
  have last : Nat.beq (j + 1) (s.rows n) = false := by rw [nat_beq_eq, decide_eq_false hlast]
  rw [hb, State.pictureFinal_of_count]
  · simp only [rows _ frame, last, State.cond_false]
  · rwa [rows _ frame, State.rowCount_updRow (f := fun x => { x with fin := true }) _ (fun _ => rfl),
      State.rowCount_updChan _ rfl, count]

/-- What a state is after the safe row j of access unit k has left context n: one safe row more, its tiles in state 5, and
the row released and settled. -/
structure State.SafeGone (s t : State) (n k j : Nat) (r : Row) : Prop where
  frame    : s.Frame t [R.chnDly n] [.chans]
  released : t.released n j = true
  nSafe    : (t.chan n).nSafe = (s.chan n).nSafe + 1
  entries  : ∀ e ∈ t.oldEntries n j, entryState e = 5
  row      : t.row n k j = some { r with rel := true, fin := true }
  others   : ∀ m, m ≠ n → t.chan m = s.chan m

theorem State.releaseNow_safeGone {dev : Nat} (hl : s.leadOf n = n) (hslot : (s.chan n).slot = some k) (hr : s.row n k j = some r)
    (hd : r.dec = 3) (hk : s.slotKind n k = 2) (hdev : dev ≤ 1000) (hlast : j + 1 ≠ s.rows n) (hcount : s.rowCount n k ≠ s.rows n) :
    s.SafeGone (s.releaseNow n k j dev) n k j r := by
  obtain ⟨f, g, b, ⟨hrows, -, hsafe, hrel, hsmp⟩, he⟩ := State.releaseNow_safe hl hslot hr hd hk hdev hlast hcount
  rw [he]
  refine ⟨((s.frame_left n k j dev f g).updChan (by simp)).updRow (by simp), ?_, ?_, fun e he => ?_, ?_, fun m hne => ?_⟩
  · simp [State.released, State.updRow, State.left, hrel]
  · simp [State.updRow, State.left, hsafe]
  · have : e ∈ (s.oldEntries n j).map (fun _ => safeEntry) := by
      simpa only [State.oldEntries, State.updRow, State.left, State.chan_updChan, State.chan_peak, hsmp, Tab.get_put_same] using he
    obtain ⟨-, -, rfl⟩ := List.mem_map.mp this
    exact entryState_entryOf _ _ _ _
  · have rel : (s.left n k j dev f g).row n k j = some { r with rel := true } := by
      refine State.row_updRow _ ?_ (fun x => ⟨rfl, rfl⟩)
      rwa [State.row_peak, State.row, State.chan_updChan, State.chan_updChan, hrows]
    exact State.row_updRow _ ((State.row_updChan _ rfl).trans rel) (fun x => ⟨rfl, rfl⟩)
  · rw [State.chan_updRow_ne _ _ _ _ hne.symm, State.chan_updChan_ne _ _ hne.symm, State.left,
      State.chan_updRow_ne _ _ _ _ hne.symm, State.chan_peak, State.chan_updChan_ne _ _ hne.symm,
      State.chan_updChan_ne _ _ hne.symm]

end

section
variable {s : State} {n k j : Nat} {r : Row}

/-- A due row that is not decided yet is decided as its safe row once its decision instant is reached. -/
theorem State.releaseDecision_safe (hl : s.leadOf n = n) (hdue : s.rowDue n k j = true) (hr : s.row n k j = some r)
    (hd : r.dec = 0) (hk : s.slotKind n k = 2) (hb : (s.store_ n).bad.contains j = false)
    (ha : s.ais (F.egrChCfgAudEn n) = false) : s.releaseDecision n k j
      = (s.advance (s.decisionInstant n k j)).updRow n k j (fun x => { x with dec := 3 }) := by
  have shape := s.sameShape_advance (s.decisionInstant n k j)
  rw [← State.decideNow_safe (s := s.advance _) ((shape.leadOf n).trans hl) ((s.row_advance _).trans hr)
    ((s.slotKind_advance _).trans hk) (by simpa [State.store_] using hb) ((shape.ais _).trans ha)]
  simp [State.releaseDecision, hdue, hr, hd]

/-- A decided row is not decided again. -/
theorem State.releaseDecision_of_decided (hr : s.row n k j = some r) (hd : r.dec ≠ 0) : s.releaseDecision n k j = s := by
  simp [State.releaseDecision, hr, hd]

/-- A due row of the slot in progress that is decided leaves at its release instant. -/
theorem State.rowRelease_of_decided {dev : Nat} (hl : s.leadOf n = n) (hdue : s.rowDue n k j = true)
    (hr : s.row n k j = some r) (hd : r.dec ≠ 0) (hslot : (s.chan n).slot = some k) :
    s.rowRelease n k j dev = (s.advance (s.releaseInstant n k j)).releaseNow n k j dev := by
  simp [State.rowRelease, hdue, State.releaseDecision_of_decided hr hd, hl, hslot]

end

/-! Packets -/

/-- Frames handed to a lane count on its port alone: sent or discarded (R434). -/
theorem State.frame_laneTx (s : State) (l n : Nat) :
    s.Frame (s.laneTx l n) [R.lnkCntTxFrames (s.portLane l), R.lnkCntTxDisc (s.portLane l)] [] :=
  ((State.Frame.refl s _ _).bump (by simp [F.lnkCntTxFrames])).ite ((State.Frame.refl s _ _).bump (by simp [F.lnkCntTxDisc]))

theorem State.laneTx_up {s : State} {l : Nat} (n : Nat) (h : s.laneUp l = true) :
    s.laneTx l n = s.bump (F.lnkCntTxFrames (s.portLane l)) n := if_pos h

/-- The packet that leaves on path A: time reaches its instant, it takes the next sequence number and is counted. -/
def State.sentA (s : State) (n : Nat) : State :=
  ((s.advance ((s.chan n).txAt + (s.chan n).pktA * s.gap n)).updChan n (fun c =>
    { c with pktA := c.pktA + 1, rtpSeq := (c.rtpSeq + 1) % 65536 })).bump (F.egrChCntPktA n) 1

theorem State.frame_sentA (s : State) (n : Nat) : s.Frame (s.sentA n) [R.egrChCntPktA n] [.now, .tim, .timers, .chans] :=
  (((State.Frame.refl s _ _).advance (by simp) (by simp)).updChan (by simp)).bump (by simp [F.egrChCntPktA])

theorem State.sentA_chan (s : State) (n : Nat) : (s.sentA n).chan n
    = { s.chan n with pktA := (s.chan n).pktA + 1, rtpSeq := ((s.chan n).rtpSeq + 1) % 65536 } := by
  rw [State.sentA, State.chan_bump, State.chan_updChan, State.chan_advance]

theorem State.sentA_now (s : State) (n : Nat) :
    (s.sentA n).now = max s.now ((s.chan n).txAt + (s.chan n).pktA * s.gap n) := by
  rw [State.sentA, State.bump_now, State.updChan_now, State.advance_now]

theorem State.sentA_count (s : State) (n : Nat) :
    (s.sentA n).get (F.egrChCntPktA n) = (s.get (F.egrChCntPktA n) + 1) % 2 ^ 32 := by
  rw [State.sentA, State.get_bump _ _ _ (by simp [F.egrChCntPktA]), State.get_updChan, State.get_advance]
  rfl

/-- A departure leaves the lanes' ports and their states alone. -/
theorem State.sentA_port (s : State) (n l : Nat) :
    (s.sentA n).portLane l = s.portLane l ∧ (s.sentA n).laneUp l = s.laneUp l := by
  have port : (s.sentA n).portLane l = s.portLane l := by
    have : (s.sentA n).bonded l = s.bonded l := (s.frame_sentA n).is _ (by simp [F.lnkQCfgBond, R.lnkQCfg, R.egrChCntPktA]; omega)
    simp only [State.portLane, this]
  have state : (s.sentA n).lstate (s.portLane l) = s.lstate (s.portLane l) :=
    (s.frame_sentA n).get _ (by simp [F.lnkStatLstate, R.lnkStat, R.egrChCntPktA]; omega)
  exact ⟨port, by simp only [State.laneUp, port, state]⟩

theorem State.packetOut_pathA {s : State} {n k : Nat} (hr : s.runs n = true) (hs : (s.chan n).slot = some k)
    (he : s.ais (F.egrPathCfgEn n 0) = true) : s.packetOut n 0 = (s.sentA n).laneTx (s.aget (F.egrPathCfgLane n 0)) 1 := by
  have lane : (s.sentA n).aget (F.egrPathCfgLane n 0) = s.aget (F.egrPathCfgLane n 0) :=
    (s.frame_sentA n).aget (by simp) _
  rw [← lane]
  simp [State.packetOut, hr, hs, he, State.sentA]

/-- Settles O45 (R29, R105, R213, R343, R348): a row begins, is decided and leaves as a safe row, and a packet departs. -/
theorem slotsAndPackets : Obligations.SlotsAndPackets := by
  intro s n k j dev r hn hst hl
  have hm : n % 256 = n := Nat.mod_eq_of_lt hn
  refine ⟨fun ha hs hmode hk h0 hj hr hslot hshot => ?_, fun hdue hr hk => ⟨fun hd hb ha => ?_, fun hd hslot hdev hlast hcount => ?_⟩,
    fun hruns hslot hen => ?_⟩
  · refine ⟨s.rowDeadline n k j, by simp only [exec, execRowDeadline, hm], ?_⟩
    rw [State.rowDeadline_background hst hl ha hs hmode hk h0 hj hr hslot hshot]
    refine ⟨((State.Frame.refl s _ _).advance (by simp) (by simp)).updChan (by simp), by simp, _, by simp; rfl, rfl, rfl, rfl,
      fun e he => ?_⟩
    rw [State.candsOf_background 0 (by simpa [State.shotOf] using hshot) he, entryState_entryOf, entryOwner_entryOf,
      entryAge_entryOf]
    decide
  · refine ⟨s.releaseDecision n k j, by simp only [exec, execReleaseDecision, hm], ?_⟩
    rw [State.releaseDecision_safe hl hdue hr hd hk hb ha]
    refine ⟨((State.Frame.refl s _ _).advance (by simp) (by simp)).updRow (by simp), by simp,
      State.row_updRow _ (by simpa using hr) (fun x => ⟨rfl, rfl⟩), ?_, fun m hne => ?_⟩
    · rw [State.slotKind_updRow, State.slotKind_advance, hk]
    · rw [State.chan_updRow_ne _ _ _ _ hne.symm, State.chan_advance]
  · refine ⟨s.rowRelease n k j dev, by simp only [exec, execRowRelease, hm], ?_⟩
    have shape := s.sameShape_advance (s.releaseInstant n k j)
    obtain ⟨frame, released, nSafe, entries, row, others⟩ := State.releaseNow_safeGone (dev := dev)
      (s := s.advance (s.releaseInstant n k j)) ((shape.leadOf n).trans hl) (by simpa using hslot) ((s.row_advance _).trans hr) hd
      ((s.slotKind_advance _).trans hk) hdev (by rwa [shape.rows])
      (by rw [shape.rows, State.rowCount, State.chan_advance]; exact hcount)
    rw [State.rowRelease_of_decided hl hdue hr (by omega) hslot]
    refine ⟨((State.Frame.refl s _ _).advance (by simp) (by simp)).andThen frame (by simp) (by simp), ?_, released, ?_, entries, row,
      fun m hne => (others m hne).trans (s.chan_advance _ m)⟩
    · rw [frame.now (by simp), State.advance_now]
    · rw [nSafe, State.chan_advance]
  · refine ⟨s.packetOut n 0, by simp only [exec, execPacketDeparture, hm], ?_⟩
    rw [State.packetOut_pathA hruns hslot hen]
    generalize s.aget (F.egrPathCfgLane n 0) = l at *
    have sent := s.frame_sentA n
    obtain ⟨hport, hup⟩ := s.sentA_port n l
    have tx := (s.sentA n).frame_laneTx l 1
    rw [hport] at tx
    have apart : R.egrChCntPktA n ∉ [R.lnkCntTxFrames (s.portLane l), R.lnkCntTxDisc (s.portLane l)] := by
      simp [R.egrChCntPktA, R.lnkCntTxFrames, R.lnkCntTxDisc]; omega
    refine ⟨sent.trans tx (by simp) (by simp), (tx.get _ apart).trans (s.sentA_count n), ?_, ?_, ?_, fun up => ?_⟩
    · rw [tx.chan (by simp), State.sentA_chan]
    · rw [tx.chan (by simp), State.sentA_chan]
    · rw [tx.now (by simp), State.sentA_now]
    · rw [State.laneTx_up _ (hup.trans up), hport, State.get_bump _ _ _ (by simp [F.lnkCntTxFrames]), sent.get _ ?_]
      · rfl
      · simp [F.lnkCntTxFrames, R.lnkCntTxFrames, R.egrChCntPktA]; omega

end Sys2Proof.Machine
end

