-- ==== Sys2Proof/Proofs/AuditPoints.lean ====
section
/-!
SUPPORT. Sys2Proof/Proofs/AuditPoints.lean: the audit point of a slot that carried the safe picture whole, the shared audits of
an idle module, the safe reconstruction and a lost handover; the statement of O46 settled.
-/

namespace Sys2Proof.Machine

/-! Buffers -/

section
variable {s t : State} {q : List Nat} {m : List Part}

theorem State.Frame.setBufs {b : List Buf} (h : s.Frame t q m) (hb : .bufs ∈ m) : s.Frame { t with bufs := b } q m :=
  h.part hb rfl (fun p hp => by cases p <;> simp_all [State.Same])

theorem State.Frame.markBufs {w : Buf → Bool} {f : Buf → Buf} (h : s.Frame t q m) (hb : .bufs ∈ m) (hf : .poolFree ∈ m) :
    s.Frame (t.markBufs w f) q m :=
  ((h.setBufs hb).setBufs hb).foldl (fun _ _ _ hu => hu.setFree hf)

theorem State.Frame.takeBuf {u : State} {p own tag pages : Nat} {safe w : Bool} (h : s.Frame t q m) (hb : .bufs ∈ m)
    (hf : .poolFree ∈ m) (e : t.takeBuf p own tag safe w pages = some u) : s.Frame u q m := by
  simp only [State.takeBuf] at e
  split at e
  · cases e; exact (h.setFree hf).setBufs hb
  · cases e

end

/-- The safe reconstruction of an admitted channel takes buffers where there are some, and is there (R277). -/
theorem State.reconDone_eq {s : State} {n : Nat} (ha : s.admitted n = true) (hr : (s.chan n).recon = false) :
    ∃ t, s.Frame t [] [.bufs, .poolFree] ∧ s.reconDone n = t.updChan n (fun c => { c with recon := true }) := by
  have guard : ¬ (!s.admitted n || (s.chan n).recon) = true := by simp [ha, hr]
  refine ⟨_, ?_, if_neg guard⟩
  refine (State.Frame.refl s _ _).foldl (fun u k _ hu => ?_)
  split
  · next e => exact (hu.takeBuf (by simp) (by simp) e).markBufs (by simp) (by simp)
  · exact hu

/-- A handover that is lost leaves its buffer where it was and is reported (R304). -/
theorem State.lostHandover_eq {s : State} {i : Nat} {b : Buf} (hb : s.bufs[i]? = some b) (back : Bool) :
    s.lostHandover i back = ((State.flag { s with bufs := s.bufs.set i { b with st := if back then 3 else 1 } }
      (F.sysPoolAudStuck b.pool) true).raise (Src.poolStuck b.pool)) := by
  simp only [State.lostHandover, hb]

/-! The shared audits -/

/-- With no free page in a group out of the map and no buffer in use, nothing is retired (R306). -/
theorem State.retirePool_idle {s : State} {p : Nat} (hb : s.bufs = [])
    (hf : ∀ g, g < 8 → s.is (F.drcGrpStatInMap g) = false → s.freeIn p g = 0) : s.retirePool p = s := by
  have gone : (((List.range 8).filter (fun g => !s.is (F.drcGrpStatInMap g))).map (s.freeIn p)).sum = 0 := by
    refine List.sum_eq_zero (fun x hx => ?_)
    obtain ⟨g, hg, rfl⟩ := List.mem_map.mp hx
    obtain ⟨hg, hm⟩ := List.mem_filter.mp hg
    exact hf g (List.mem_range.mp hg) (by simpa using hm)
  simp only [State.retirePool, gone, hb, List.filter_nil, List.map_nil, List.sum_nil, Nat.add_zero, Nat.beq_refl, if_true]

/-- The registers of pool p that its audit writes. -/
def poolRegs (p : Nat) : List Nat :=
  [R.sysPoolFree p, R.sysPoolIng p, R.sysPoolRef p, R.sysPoolCmp p, R.sysPoolFlt p, R.sysPoolAud p, R.sysPoolMinfree p]

section
variable (s : State) (p : Nat)

/-- The snapshot of one pool (R303). -/
def State.showPool : State :=
  let f := s.freePages p
  let s1 := ((((s.put (F.sysPoolFreePages p) f).put (F.sysPoolIngPages p) (s.ledger p 1)).put (F.sysPoolRefPages p)
    (s.ledger p 2)).put (F.sysPoolCmpPages p) (s.ledger p 3)).put (F.sysPoolFltPages p) (s.ledger p 4)
  s1.put (F.sysPoolMinfreePages p) (min (s1.get (F.sysPoolMinfreePages p)) f)

theorem State.auditPool_cases :
    s.auditPool p = s.showPool p ∨ s.auditPool p = ((s.showPool p).flag (F.sysPoolAudMismatch p) true).raise (Src.poolLedger p) := by
  exact ite_eq_or_eq _ _ _

theorem State.frame_showPool : s.Frame (s.showPool p) (poolRegs p) [] := by
  refine ((((((State.Frame.refl s _ _).put ?_).put ?_).put ?_).put ?_).put ?_).put ?_
  all_goals simp [poolRegs, F.sysPoolFreePages, F.sysPoolIngPages, F.sysPoolRefPages, F.sysPoolCmpPages, F.sysPoolFltPages,
    F.sysPoolMinfreePages]

theorem State.frame_auditPool : s.Frame (s.auditPool p) (poolRegs p) [.sel] := by
  have h := (s.frame_showPool p).mono (q := poolRegs p) (m := [.sel]) (fun _ => id) (by simp)
  rcases s.auditPool_cases p with e | e <;> rw [e]
  · exact h
  · exact (h.flag (by simp [poolRegs, F.sysPoolAudMismatch])).raise (by simp)

/-- The audit of a pool shows its free pages and the least number of them so far (R303). -/
theorem State.auditPool_pages : (s.auditPool p).get (F.sysPoolFreePages p) = s.freePages p % 2 ^ 20
    ∧ (s.auditPool p).get (F.sysPoolMinfreePages p) = min (s.get (F.sysPoolMinfreePages p)) (s.freePages p) := by
  have free : (s.showPool p).get (F.sysPoolFreePages p) = s.freePages p % 2 ^ 20 := by
    simp (disch := (dsimp only; omega)) only [State.showPool, State.get_put, State.get_put_ne, F.sysPoolFreePages,
      F.sysPoolIngPages, F.sysPoolRefPages, F.sysPoolCmpPages, F.sysPoolFltPages, F.sysPoolMinfreePages, R.sysPoolFree,
      R.sysPoolIng, R.sysPoolRef, R.sysPoolCmp, R.sysPoolFlt, R.sysPoolMinfree]
  have least : (s.showPool p).get (F.sysPoolMinfreePages p) = min (s.get (F.sysPoolMinfreePages p)) (s.freePages p) := by
    simp (disch := (dsimp only; omega)) only [State.showPool, State.get_put, State.get_put_ne, F.sysPoolFreePages,
      F.sysPoolIngPages, F.sysPoolRefPages, F.sysPoolCmpPages, F.sysPoolFltPages, F.sysPoolMinfreePages, R.sysPoolFree,
      R.sysPoolIng, R.sysPoolRef, R.sysPoolCmp, R.sysPoolFlt, R.sysPoolMinfree]
    exact Nat.mod_eq_of_lt ((Nat.min_le_left _ _).trans_lt (bitsAt_lt _ _ 20))
  rcases s.auditPool_cases p with e | e <;> rw [e]
  · exact ⟨free, least⟩
  · rw [State.get_raise, State.get_raise, State.flag, State.get_put_ne _ _ _ _ (.inl ?_), State.get_put_ne _ _ _ _ (.inl ?_)]
    · exact ⟨free, least⟩
    all_goals simp [F.sysPoolAudMismatch, F.sysPoolFreePages, F.sysPoolMinfreePages, R.sysPoolAud, R.sysPoolFree, R.sysPoolMinfree]

/-- The audit of one pool leaves the figures of another alone. -/
theorem State.auditPool_ne {i : Nat} (h : i ≠ p) : (s.auditPool i).get (F.sysPoolFreePages p) = s.get (F.sysPoolFreePages p)
    ∧ (s.auditPool i).get (F.sysPoolMinfreePages p) = s.get (F.sysPoolMinfreePages p) := by
  constructor <;> refine (s.frame_auditPool i).get _ ?_ <;>
    simp only [poolRegs, List.mem_cons, List.not_mem_nil, or_false, not_or, F.sysPoolFreePages, F.sysPoolMinfreePages, R.sysPoolFree, R.sysPoolIng,
      R.sysPoolRef, R.sysPoolCmp, R.sysPoolFlt, R.sysPoolAud, R.sysPoolMinfree] <;> omega

theorem State.Frame.freePages {s t : State} {q : List Nat} {m : List Part} (h : s.Frame t q m) (hf : .poolFree ∉ m) (p : Nat) :
    t.freePages p = s.freePages p := by
  have e : t.freeIn p = s.freeIn p := by
    funext g
    simp only [State.freeIn, show t.poolFree = s.poolFree from h.2 .poolFree hf]
  simp only [State.freePages, e]

theorem State.auditPools_eq : s.auditPools = ((s.auditPool 0).auditPool 1).auditPool 2 := by
  simp only [State.auditPools, State.each, List.foldl_cons, List.foldl_nil]

theorem State.frame_auditPools : s.Frame s.auditPools ((List.range 3).flatMap poolRegs) [.sel] := by
  have sub : ∀ i < 3, ∀ a ∈ poolRegs i, a ∈ (List.range 3).flatMap poolRegs := fun i hi a ha =>
    List.mem_flatMap.mpr ⟨i, List.mem_range.mpr hi, ha⟩
  rw [State.auditPools_eq]
  exact (((State.Frame.refl s _ _).andThen (State.frame_auditPool _ 0) (sub 0 (by decide)) (by simp)).andThen
    (State.frame_auditPool _ 1) (sub 1 (by decide)) (by simp)).andThen (State.frame_auditPool _ 2) (sub 2 (by decide)) (by simp)

variable {p}

/-- The audits of the pools show the free pages of each (R303). -/
theorem State.auditPools_pages (hp : p < 3) : s.auditPools.get (F.sysPoolFreePages p) = s.freePages p % 2 ^ 20
    ∧ s.auditPools.get (F.sysPoolMinfreePages p) = min (s.get (F.sysPoolMinfreePages p)) (s.freePages p) := by
  have pages : ∀ (u : State) (i j : Nat), (u.auditPool i).freePages j = u.freePages j := fun u i j =>
    (u.frame_auditPool i).freePages (by simp) j
  rw [State.auditPools_eq]
  interval_cases p
  · rw [(State.auditPool_ne _ 0 (i := 2) (by decide)).1, (State.auditPool_ne _ 0 (i := 2) (by decide)).2,
      (State.auditPool_ne _ 0 (i := 1) (by decide)).1, (State.auditPool_ne _ 0 (i := 1) (by decide)).2]
    exact s.auditPool_pages 0
  · rw [(State.auditPool_ne _ 1 (i := 2) (by decide)).1, (State.auditPool_ne _ 1 (i := 2) (by decide)).2,
      (State.auditPool_pages _ 1).1, (State.auditPool_pages _ 1).2, (State.auditPool_ne _ 1 (i := 0) (by decide)).2, pages]
    exact ⟨rfl, rfl⟩
  · rw [(State.auditPool_pages _ 2).1, (State.auditPool_pages _ 2).2, (State.auditPool_ne _ 2 (i := 1) (by decide)).2,
      (State.auditPool_ne _ 2 (i := 0) (by decide)).2, pages, pages]
    exact ⟨rfl, rfl⟩

end

/-- The audit of a crossing's direction writes its register (R44). -/
theorem State.frame_auditDir (s : State) (l : List Snap) (x : Nat) (out : Bool) :
    s.Frame (s.auditDir l x out) [R.clkXqStat x] [.sel] := by
  have reg : ∀ b : Bool, (if b then F.clkXqStatMinfreeOut x else F.clkXqStatMinfreeIn x).addr ∈ [R.clkXqStat x]
      ∧ (if b then F.clkXqStatErrOut x else F.clkXqStatErrIn x).addr ∈ [R.clkXqStat x] := fun b => by
    cases b <;> simp [F.clkXqStatMinfreeOut, F.clkXqStatMinfreeIn, F.clkXqStatErrOut, F.clkXqStatErrIn]
  have h := State.Frame.refl s [R.clkXqStat x] [.sel]
  exact h.ite ((h.put (reg out).1).ite (((h.put (reg out).1).flag (reg out).2).raise (by simp)))

theorem State.frame_auditCredits (s : State) (l : List Snap) :
    s.Frame (s.each (List.range 582) (fun s x => (s.auditDir l x false).auditDir l x true)) ((List.range 582).map R.clkXqStat)
      [.sel] := by
  refine (State.Frame.refl s _ _).foldl (fun u x hx hu => ?_)
  have reg : ∀ a ∈ [R.clkXqStat x], a ∈ (List.range 582).map R.clkXqStat := fun a ha =>
    List.mem_singleton.mp ha ▸ List.mem_map_of_mem hx
  exact (hu.andThen (State.frame_auditDir _ l x false) reg (by simp)).andThen (State.frame_auditDir _ l x true) reg (by simp)

/-- The registers of the task audit. -/
def taskRegs : List Nat :=
  [R.bobCreatedLo, R.bobCreatedHi, R.bobDispatchedLo, R.bobDispatchedHi, R.bobCancelledLo, R.bobCancelledHi, R.bobPending,
    R.bobAud]

theorem State.frame_auditTasks (s : State) : s.Frame s.auditTasks taskRegs [.sel] := by
  have h := State.Frame.refl s taskRegs [.sel]
  have shown := ((((h.put64 (lo := R.bobCreatedLo) (hi := R.bobCreatedHi) (v := s.bob.created) (by decide) (by decide)).put64
    (lo := R.bobDispatchedLo) (hi := R.bobDispatchedHi) (v := s.bob.dispatched) (by decide) (by decide)).put64
    (lo := R.bobCancelledLo) (hi := R.bobCancelledHi) (v := s.bob.cancelled) (by decide) (by decide)).put
    (f := F.bobPendingReady) (v := (s.bob.tasks.filter (fun t => Nat.beq t.stage 2)).length) (by decide)).put
    (f := F.bobPendingDelay) (v := (s.bob.tasks.filter (fun t => !Nat.beq t.stage 2)).length) (by decide)
  refine (shown.ite ((shown.flag (by decide)).raise (by simp))).foldl (fun u x _ hu => ?_)
  exact hu.ite ((hu.flag (by decide)).raise (by simp))

/-- The shared audits of the present tick begin (R42). -/
def State.auditing (s : State) : State := { s with sys := { s.sys with auditAt := s.now / 1000 + 1 } }

theorem State.frame_auditing (s : State) : s.Frame s.auditing [] [.sys] :=
  State.frame_parts rfl (fun p hp => by cases p <;> simp_all [State.Same, State.auditing])

/-- The audits of the credits and of the tasks. -/
def State.auditRest (s : State) (l : List Snap) : State :=
  (s.each (List.range 582) (fun s x => (s.auditDir l x false).auditDir l x true)).auditTasks

theorem State.frame_auditRest (s : State) (l : List Snap) :
    s.Frame (s.auditRest l) ((List.range 582).map R.clkXqStat ++ taskRegs) [.sel] :=
  (s.frame_auditCredits l).trans (State.frame_auditTasks _) (fun a h => List.mem_append.mpr h) (by simp)

/-- The shared audits of an idle module whose audits of the tick are still to come: nothing is retired (R42, R306). -/
theorem State.auditShared_idle {s : State} (l : List Snap) (hb : s.bufs = [])
    (hf : ∀ p g, p < 3 → g < 8 → s.is (F.drcGrpStatInMap g) = false → s.freeIn p g = 0) (ht : s.sys.auditAt ≠ s.now / 1000 + 1) :
    s.auditShared l = s.auditing.auditPools.auditRest l := by
  have guard : ¬ Nat.beq s.sys.auditAt (s.now / 1000 + 1) = true := by simpa using ht
  have retired : s.auditing.each [0, 1, 2] State.retirePool = s.auditing :=
    State.foldl_fixed (fun p hp => State.retirePool_idle hb (fun g hg hm => hf p g (by simp at hp; omega) hg hm))
  calc s.auditShared l = (s.auditing.each [0, 1, 2] State.retirePool).auditPools.auditRest l := if_neg guard
    _ = s.auditing.auditPools.auditRest l := by rw [retired]

/-! The slot of a channel ends -/

/-- The registers that an audit point of channel n writes. -/
def auditRegs (n : Nat) : List Nat :=
  (List.range 14).map (fun x => R.chnSlotLo n + 4 * x) ++ [R.chnRcCntBytesLo n, R.chnRcCntBytesHi n, R.chnFsum n]

theorem mem_auditRegs {n a : Nat} : a ∈ auditRegs n ↔ (0xC00100 + n * 0x4000 ≤ a ∧ a < 0xC00138 + n * 0x4000 ∧ a % 4 = 0)
    ∨ a = 0xC002B8 + n * 0x4000 ∨ a = 0xC002BC + n * 0x4000 ∨ a = 0xC00078 + n * 0x4000 := by
  simp only [auditRegs, List.mem_append, List.mem_map, List.mem_range, List.mem_cons, List.not_mem_nil, or_false,
    R.chnSlotLo, R.chnRcCntBytesLo, R.chnRcCntBytesHi, R.chnFsum]
  refine or_congr ⟨?_, fun h => ⟨(a - (0xC00100 + n * 0x4000)) / 4, by omega, by omega⟩⟩ Iff.rfl
  rintro ⟨x, hx, rfl⟩
  omega

section
variable (s : State) (n : Nat)

/-- A safe access unit counted in channel n (R18). -/
def State.countedSafe : State :=
  s.updChan n (fun c => { c with slots := c.slots + 1, aus := c.aus + 1, safeAu := c.safeAu + 1 })

/-- The counts of channel n shown together (R18). -/
def State.showCounts : State :=
  let c := s.chan n
  ((((((s.put64 (R.chnSlotLo n) (R.chnSlotHi n) c.slots).put64 (R.chnAuLo n) (R.chnAuHi n) c.aus).put64
    (R.chnSkipauLo n) (R.chnSkipauHi n) c.skipAu).put64 (R.chnSaferowauLo n) (R.chnSaferowauHi n) c.safeRowAu).put64
    (R.chnSafeauLo n) (R.chnSafeauHi n) c.safeAu).put64 (R.chnLaterowLo n) (R.chnLaterowHi n) c.late).put64
    (R.chnTulleLo n) (R.chnTulleHi n) c.tulle

theorem State.frame_showCounts : s.Frame (s.showCounts n) (auditRegs n) [] := by
  refine (((((((State.Frame.refl s _ _).put64 ?_ ?_).put64 ?_ ?_).put64 ?_ ?_).put64 ?_ ?_).put64 ?_ ?_).put64 ?_ ?_).put64 ?_ ?_
  all_goals
    simp only [mem_auditRegs, R.chnSlotLo, R.chnSlotHi, R.chnAuLo, R.chnAuHi, R.chnSkipauLo, R.chnSkipauHi, R.chnSaferowauLo,
      R.chnSaferowauHi, R.chnSafeauLo, R.chnSafeauHi, R.chnLaterowLo, R.chnLaterowHi, R.chnTulleLo, R.chnTulleHi]
    omega

/-- The counts of slots, of access units and of safe access units read as shown. -/
theorem State.showCounts_get64 : (s.showCounts n).get64 (R.chnSlotLo n) (R.chnSlotHi n) = (s.chan n).slots % 2 ^ 64
    ∧ (s.showCounts n).get64 (R.chnAuLo n) (R.chnAuHi n) = (s.chan n).aus % 2 ^ 64
    ∧ (s.showCounts n).get64 (R.chnSafeauLo n) (R.chnSafeauHi n) = (s.chan n).safeAu % 2 ^ 64 := by
  refine ⟨?_, ?_, ?_⟩ <;>
    simp (disch := omega) only [State.showCounts, State.get64_put64, State.get64_put64_ne, R.chnSlotLo, R.chnSlotHi,
      R.chnAuLo, R.chnAuHi, R.chnSkipauLo, R.chnSkipauHi, R.chnSaferowauLo, R.chnSaferowauHi, R.chnSafeauLo, R.chnSafeauHi,
      R.chnLaterowLo, R.chnLaterowHi, R.chnTulleLo, R.chnTulleHi]

variable {s n}

/-- The end of a slot of the safe picture that keeps the promise of R18 counts and shows its access unit. -/
theorem State.countSlot_safe (h : (s.chan n).slots = (s.chan n).aus) : s.countSlot n 3 = (s.countedSafe n).showCounts n := by
  have kept : Nat.beq ((s.chan n).slots + 1) ((s.chan n).aus + 1) = true := by rw [h, Nat.beq_refl]
  simp only [State.countSlot, State.countedSafe, State.showCounts, State.chan_updChan]
  exact if_pos kept

end

section
variable (s : State) (n : Nat)

/-- The slot of the safe picture counted and its figures shown: sei and b bytes, x stale tiles, y tiles not fresh. -/
def State.slotShown (sei b x y : Nat) : State :=
  ((((((s.countedSafe n).showCounts n).updChan n (fun c => { c with seiSize := sei, audited := s.now })).put64
    (R.chnRcCntBytesLo n) (R.chnRcCntBytesHi n) b).put (F.chnFsumStale n) x).put (F.chnFsumNotfresh n) y)

theorem State.chan_showCounts (m : Nat) : (s.showCounts n).chan m = s.chan m := (s.frame_showCounts n).chan (by simp) m

theorem State.slotShown_chan (sei b x y : Nat) : (s.slotShown n sei b x y).chan n = { s.chan n with
    slots := (s.chan n).slots + 1, aus := (s.chan n).aus + 1, safeAu := (s.chan n).safeAu + 1, seiSize := sei, audited := s.now } := by
  simp only [State.slotShown, State.chan_put, State.chan_put64, State.chan_updChan, State.chan_showCounts, State.countedSafe]

theorem State.frame_slotShown (sei b x y : Nat) : s.Frame (s.slotShown n sei b x y) (auditRegs n) [.chans] := by
  have counted : s.Frame ((s.countedSafe n).showCounts n) (auditRegs n) [.chans] :=
    ((State.Frame.refl s _ _).updChan (by simp)).andThen (State.frame_showCounts _ n) (fun _ => id) (by simp)
  refine (((counted.updChan (by simp)).put64 ?_ ?_).put ?_).put ?_ <;>
    simp [auditRegs, F.chnFsumStale, F.chnFsumNotfresh]

/-- The counts of a slot shown at its end read one more than before. -/
theorem State.slotShown_get64 (sei b x y : Nat) :
    (s.slotShown n sei b x y).get64 (R.chnSlotLo n) (R.chnSlotHi n) = ((s.chan n).slots + 1) % 2 ^ 64
    ∧ (s.slotShown n sei b x y).get64 (R.chnAuLo n) (R.chnAuHi n) = ((s.chan n).aus + 1) % 2 ^ 64
    ∧ (s.slotShown n sei b x y).get64 (R.chnSafeauLo n) (R.chnSafeauHi n) = ((s.chan n).safeAu + 1) % 2 ^ 64 := by
  have later : ((s.countedSafe n).showCounts n).Frame (s.slotShown n sei b x y)
      [R.chnRcCntBytesLo n, R.chnRcCntBytesHi n, R.chnFsum n] [.chans] := by
    refine ((((State.Frame.refl _ _ _).updChan ?_).put64 ?_ ?_).put ?_).put ?_ <;> simp [F.chnFsumStale, F.chnFsumNotfresh]
  obtain ⟨slots, aus, safe⟩ := State.showCounts_get64 (s.countedSafe n) n
  simp only [State.countedSafe, State.chan_updChan] at slots aus safe
  refine ⟨(later.get64 ?_ ?_).trans slots, (later.get64 ?_ ?_).trans aus, (later.get64 ?_ ?_).trans safe⟩ <;>
    simp only [List.mem_cons, List.not_mem_nil, or_false, R.chnSlotLo, R.chnSlotHi, R.chnAuLo, R.chnAuHi, R.chnSafeauLo,
      R.chnSafeauHi, R.chnRcCntBytesLo, R.chnRcCntBytesHi, R.chnFsum] <;> omega

/-- The slot of the safe picture in progress, k, shown at its end (R42). -/
def State.slotAudited (k sei b x y : Nat) : State := (s.advance (s.auditInstant n k)).slotShown n sei b x y

variable (k sei b x y : Nat)

theorem State.frame_slotAudited : s.Frame (s.slotAudited n k sei b x y) (auditRegs n) [.now, .tim, .timers, .chans] :=
  ((State.Frame.refl s _ _).advance (by simp) (by simp)).andThen (State.frame_slotShown _ n sei b x y) (fun _ => id) (by simp)

theorem State.slotAudited_now : (s.slotAudited n k sei b x y).now = max s.now (s.auditInstant n k) :=
  ((State.frame_slotShown _ n sei b x y).now (by simp)).trans (s.advance_now _)

theorem State.slotAudited_chan : (s.slotAudited n k sei b x y).chan n = { s.chan n with
    slots := (s.chan n).slots + 1, aus := (s.chan n).aus + 1, safeAu := (s.chan n).safeAu + 1, seiSize := sei,
    audited := max s.now (s.auditInstant n k) } := by
  rw [State.slotAudited, State.slotShown_chan, State.chan_advance, State.advance_now]

theorem State.slotAudited_get64 :
    (s.slotAudited n k sei b x y).get64 (R.chnSlotLo n) (R.chnSlotHi n) = ((s.chan n).slots + 1) % 2 ^ 64
    ∧ (s.slotAudited n k sei b x y).get64 (R.chnAuLo n) (R.chnAuHi n) = ((s.chan n).aus + 1) % 2 ^ 64
    ∧ (s.slotAudited n k sei b x y).get64 (R.chnSafeauLo n) (R.chnSafeauHi n) = ((s.chan n).safeAu + 1) % 2 ^ 64 := by
  rw [← s.chan_advance (s.auditInstant n k)]
  exact State.slotShown_get64 _ n sei b x y

end

section
variable {s : State} {n : Nat}

/-- No row is due for release once every row of the slot has left. -/
theorem State.finishRows_released {k : Nat} (hst : s.strips n = [n]) (hl : s.leadOf n = n) (hs : (s.chan n).slot = some k)
    (hr : ∀ j, j < s.rows n → s.released n j = true) : s.finishRows n k = s := by
  refine State.foldl_fixed (fun j hj => State.foldl_fixed (fun m hm => ?_))
  obtain rfl : m = n := by simpa [hst] using hm
  have due : s.rowDue m k j = false := by
    simp [State.rowDue, hl, hs, hr j (List.mem_range.mp hj)]
  have guard : (!s.rowDue m k j) = true := by simp [due]
  exact if_pos guard

theorem State.fileRecord_off (r : Rec) (h : s.filing n = false) : s.fileRecord n r = s :=
  if_pos (by simp [h])

theorem State.tapRecord_off (r : Rec) (h : ∀ p x, p < 4 → x < 16 → s.is (F.hstTapCfgEn p x) = false) : s.tapRecord n r = s := by
  refine State.foldl_fixed (fun p hp => State.foldl_fixed (fun x hx => if_neg ?_))
  simp [h p x (List.mem_range.mp hp) (List.mem_range.mp hx)]

theorem State.restartRefs_off (k : Nat) (h : (s.chan n).restart ≠ 1) : s.restartRefs n k = s :=
  if_pos (by rw [nat_beq_eq, decide_eq_false h]; rfl)

/-- A slot of channel n, its own only context, that carried the safe picture whole: every row has left, the promise of R18 is
kept and no refresh is open. -/
structure State.SafeSlot (s : State) (n k : Nat) : Prop where
  running  : s.chState n = ChState.running
  own      : s.strips n = [n]
  lead     : s.leadOf n = n
  slot     : (s.chan n).slot = some k
  kind     : s.slotKind n k = 2
  released : ∀ j, j < s.rows n → s.released n j = true
  promise  : (s.chan n).slots = (s.chan n).aus
  refresh  : (s.chan n).gdrX = []

/-- Nothing waits for the end of a slot of channel n: nothing is requested, filed or tapped. -/
structure State.Undisturbed (s : State) (n : Nat) : Prop where
  mode    : s.mode ≠ Mode.drain
  relReq  : (s.chan n).relReq = false
  want    : (s.chan n).want = 0
  restart : (s.chan n).restart ≠ 1
  commit  : s.is (F.egrChCommitCommit n) = false
  filing  : s.filing n = false
  taps    : ∀ p x, p < 4 → x < 16 → s.is (F.hstTapCfgEn p x) = false

/-- The slot after k begins in channel n with no row released (R58). -/
def State.nextSlot (s : State) (n k : Nat) : State :=
  (s.updChan n (fun c => { c with nRel := 0 })).updChan n (fun c => { c with
    slot := some (k + 1), nSkip := 0, nSafe := 0, bytes := 0, lostK := c.lostK.filter (fun x => Nat.blt k x) })

/-- With nothing waiting for the end of the slot, the next one begins. -/
theorem State.afterSlot_undisturbed {k : Nat} (hs : s.chState n = ChState.running) (hst : s.strips n = [n])
    (h : s.Undisturbed n) : s.afterSlot n k = s.nextSlot n k := by
  have drain : Nat.beq s.mode Mode.drain = false := by rw [nat_beq_eq, decide_eq_false h.mode]
  have closing : Nat.beq ChState.running ChState.closing = false := rfl
  have shed : Nat.beq 0 1 = false := rfl
  have restore : Nat.beq 0 2 = false := rfl
  simp only [State.afterSlot, hs, h.relReq, h.want, drain, closing, shed, restore, Bool.false_and, Bool.or_false,
    Bool.false_eq_true, if_false, State.restartRefs_off k h.restart, h.commit, State.cond_false, hst, State.each,
    List.foldl_cons, List.foldl_nil, State.nextSlot]

/-- The audit point of a slot that carried the safe picture whole counts and shows the slot, runs the shared audits, files
and taps the record of the access unit and ends the slot. -/
theorem State.SafeSlot.auditPoint {k : Nat} (h : s.SafeSlot n k) (u : Nat) (l : List Snap) :
    ∃ sei b x y r,
      s.auditPoint n u l = ((((s.slotAudited n k sei b x y).auditShared l).fileRecord n r).tapRecord n r).afterSlot n k := by
  have kind : (s.advance (s.auditInstant n k)).auKind n k = 3 := by
    have : (s.advance (s.auditInstant n k)).slotKind n k = 2 := (s.slotKind_advance _).trans h.kind
    simp [State.auKind, this]
  have safe : Nat.beq 3 3 = true := rfl
  have runs : s.runs n = true := by simp [State.runs, h.running, ChState.running]
  have miss : ∀ sei b x y, (((s.advance (s.auditInstant n k)).slotShown n sei b x y).chan n).gdrX = [] := fun sei b x y => by
    rw [State.slotShown_chan]; simpa using h.refresh
  simp only [State.auditPoint, h.slot, runs, Bool.not_true, Bool.false_eq_true, if_false,
    State.finishRows_released h.own h.lead h.slot h.released, kind, safe, State.cond_false,
    State.countSlot_safe (s := s.advance (s.auditInstant n k)) (n := n) (by simpa using h.promise)]
  simp only [← State.slotShown.eq_1, miss, List.any_nil, Bool.false_and, State.cond_false]
  exact ⟨_, _, _, _, _, rfl⟩

end

section
variable {s : State} {n k : Nat}

/-- Across the writes of an audit point, what waits for the end of a slot of channel n is what its context says. -/
theorem State.Frame.undisturbed {t : State} (h : s.Frame t (auditRegs n) [.now, .tim, .timers, .chans]) (hn : n < 256)
    (hs : s.Undisturbed n) (hq : (t.chan n).relReq = (s.chan n).relReq) (hw : (t.chan n).want = (s.chan n).want)
    (hr : (t.chan n).restart = (s.chan n).restart) : t.Undisturbed n := by
  refine ⟨fun e => hs.mode ((h.get _ fun hm => ?_).symm.trans e), hq.trans hs.relReq, hw.trans hs.want, hr ▸ hs.restart,
    (h.is _ fun hm => ?_).trans hs.commit, (h.is _ fun hm => ?_).trans hs.filing,
    fun p x hp hx => (h.is _ fun hm => ?_).trans (hs.taps p x hp hx)⟩
  all_goals
    simp only [mem_auditRegs, F.sysModeMode, R.sysMode, F.egrChCommitCommit, R.egrChCommit, F.rplChStatFiling,
      R.rplChStat, F.hstTapCfgEn, R.hstTapCfg] at hm
    omega

/-- What an audit point writes leaves the shape of every channel alone. -/
theorem State.Frame.auditShape {t : State} (h : s.Frame t (auditRegs n) [.now, .tim, .timers, .chans]) : s.SameShape t :=
  h.sameShape (by simp) (fun m hm => by simp only [mem_auditRegs, R.chnStat] at hm; omega)
    (fun m hm => by simp only [mem_auditRegs, R.chnFmt] at hm; omega)

/-- The audit point of an undisturbed slot of the safe picture, the shared audits of its tick done, shows the slot and begins
the next one. -/
theorem State.SafeSlot.auditPoint_undisturbed (h : s.SafeSlot n k) (hu : s.Undisturbed n) (hn : n < 256)
    (ha : s.sys.auditAt = max s.now (s.auditInstant n k) / 1000 + 1) (u : Nat) (l : List Snap) :
    ∃ sei b x y, s.auditPoint n u l = (s.slotAudited n k sei b x y).nextSlot n k := by
  obtain ⟨sei, b, x, y, r, heq⟩ := h.auditPoint u l
  refine ⟨sei, b, x, y, heq.trans ?_⟩
  have frame := s.frame_slotAudited n k sei b x y
  have now := s.slotAudited_now n k sei b x y
  have chan := s.slotAudited_chan n k sei b x y
  have sys := frame.2 .sys (by simp)
  clear heq
  generalize s.slotAudited n k sei b x y = v at *
  have rest : v.Undisturbed n := frame.undisturbed hn hu (by simp [chan]) (by simp [chan]) (by simp [chan])
  have shared : v.auditShared l = v := if_pos (by rw [show v.sys = s.sys from sys, now, ha, Nat.beq_refl])
  rw [shared, State.fileRecord_off r rest.filing, State.tapRecord_off r rest.taps,
    State.afterSlot_undisturbed ((frame.auditShape.chState n).trans h.running) ((frame.auditShape.strips n).trans h.own) rest]

end

theorem State.nextSlot_chan (s : State) (n k : Nat) : (s.nextSlot n k).chan n = { s.chan n with
    nRel := 0, slot := some (k + 1), nSkip := 0, nSafe := 0, bytes := 0, lostK := (s.chan n).lostK.filter (fun x => Nat.blt k x) } := by
  rw [State.nextSlot, State.chan_updChan, State.chan_updChan]

theorem State.frame_nextSlot (s : State) (n k : Nat) : s.Frame (s.nextSlot n k) [] [.chans] :=
  ((State.Frame.refl s _ _).updChan (by simp)).updChan (by simp)

section
variable (s : State) (l : List Snap)

/-- The audits of a tick write the registers of the pools, of the crossings and of the task audit alone. -/
theorem State.frame_audits : s.Frame (s.auditing.auditPools.auditRest l)
    ((List.range 3).flatMap poolRegs ++ (List.range 582).map R.clkXqStat ++ taskRegs) [.sys, .sel] := by
  have pools := (s.frame_auditing.trans (State.frame_auditPools _) (q := (List.range 3).flatMap poolRegs) (m := [.sys, .sel])
    (by simp) (by simp))
  refine pools.trans (State.frame_auditRest _ l) (fun a ha => ?_) (by simp)
  simpa only [List.append_assoc, List.mem_append] using ha

theorem State.audits_sys : (s.auditing.auditPools.auditRest l).sys = { s.sys with auditAt := s.now / 1000 + 1 } :=
  Eq.trans ((State.frame_auditRest _ l).2 .sys (by simp)) ((State.frame_auditPools _).2 .sys (by simp))

/-- Once the audits of a tick are done, FREE of each pool shows its free pages (R303). -/
theorem State.audits_pages {p : Nat} (hp : p < 3) :
    (s.auditing.auditPools.auditRest l).get (F.sysPoolFreePages p) = s.freePages p % 2 ^ 20
    ∧ (s.auditing.auditPools.auditRest l).get (F.sysPoolMinfreePages p)
      = min (s.get (F.sysPoolMinfreePages p)) (s.freePages p) := by
  have apart : ∀ a, a < 0x20000 → a ∉ (List.range 582).map R.clkXqStat ++ taskRegs := fun a ha hm => by
    simp only [List.mem_append, List.mem_map, List.mem_range, taskRegs, List.mem_cons, List.not_mem_nil, or_false, R.clkXqStat,
      R.bobCreatedLo, R.bobCreatedHi, R.bobDispatchedLo, R.bobDispatchedHi, R.bobCancelledLo, R.bobCancelledHi, R.bobPending,
      R.bobAud] at hm
    obtain ⟨x, -, hx⟩ | hm := hm <;> omega
  have rest := State.frame_auditRest s.auditing.auditPools l
  have pages : s.auditing.freePages p = s.freePages p := s.frame_auditing.freePages (by simp) p
  have least : s.auditing.get (F.sysPoolMinfreePages p) = s.get (F.sysPoolMinfreePages p) := s.frame_auditing.get _ (by simp)
  rw [rest.get _ (apart _ (by simp only [F.sysPoolFreePages, R.sysPoolFree]; omega)),
    rest.get _ (apart _ (by simp only [F.sysPoolMinfreePages, R.sysPoolMinfree]; omega)), ← pages, ← least]
  exact s.auditing.auditPools_pages hp

end

/-- Outside HOLD with no channel running, no buffer in use and free pages only in groups in the map, the idle audit reaches
the next 1 ms boundary and runs the shared audits there (R42). -/
theorem State.idleAudit_idle {s : State} (l : List Snap) (hmode : s.mode ≠ Mode.hold) (hany : s.anyRuns = false) (hb : s.bufs = [])
    (hf : ∀ p g, p < 3 → g < 8 → s.is (F.drcGrpStatInMap g) = false → s.freeIn p g = 0)
    (ht : s.sys.auditAt ≠ (s.now / 1000000 + 1) * 1000 + 1) :
    s.idleAudit l = (s.advance ((s.now / 1000000 + 1) * 1000000)).auditing.auditPools.auditRest l := by
  have guard : ¬ (Nat.beq s.mode Mode.hold || s.anyRuns) = true := by
    rw [nat_beq_eq, decide_eq_false hmode, hany]; simp
  have frame := s.frame_advance ((s.now / 1000000 + 1) * 1000000)
  have now : (s.advance ((s.now / 1000000 + 1) * 1000000)).now / 1000 = (s.now / 1000000 + 1) * 1000 := by
    rw [State.advance_now]; omega
  have bufs := frame.2 .bufs (by simp)
  have free := frame.2 .poolFree (by simp)
  have sys := frame.2 .sys (by simp)
  refine (if_neg guard).trans (State.auditShared_idle l (Eq.trans bufs hb) (fun p g hp hg hm => ?_) ?_)
  · rw [State.freeIn, show (s.advance _).poolFree = s.poolFree from free]
    exact hf p g hp hg (by simpa using hm)
  · rwa [now, show (s.advance _).sys = s.sys from sys]

/-- Settles O46 (R18, R42, R58, R277, R303, R304): a slot of the safe picture is audited, the idle module shows its pools, a
safe reconstruction is there, and a lost handover leaves its buffer stuck. -/
theorem auditPoints : Obligations.AuditPoints := by
  intro s n k u i l b back hn
  have hm : n % 256 = n := Nat.mod_eq_of_lt hn
  refine ⟨fun hrun hst hl hs hk hmode hr hcnt hq hw hres hg he hf ht ha => ?_, fun hmode hany hb hfree ht => ?_,
    fun ha hrec hst => ?_, fun hi => ?_⟩
  · refine ⟨s.auditPoint n u l, by simp only [exec, execAuditPoint, hm], ?_⟩
    obtain ⟨sei, b, x, y, heq⟩ := State.SafeSlot.auditPoint_undisturbed ⟨hrun, hst, hl, hs, hk, hr, hcnt, hg⟩
      ⟨hmode, hq, hw, hres, he, hf, ht⟩ hn ha u l
    rw [heq]
    obtain ⟨slots, aus, safe⟩ := s.slotAudited_get64 n k sei b x y
    have frame := s.frame_slotAudited n k sei b x y
    have now := s.slotAudited_now n k sei b x y
    have chan := s.slotAudited_chan n k sei b x y
    clear heq
    generalize s.slotAudited n k sei b x y = v at *
    have next := v.frame_nextSlot n k
    have ended : s.Frame (v.nextSlot n k) (auditRegs n) [.now, .tim, .timers, .chans] := frame.andThen next (by simp) (by simp)
    refine ⟨ended, (next.now (by simp)).trans now, ?_, ?_, ?_, ?_, (next.get64 (by simp) (by simp)).trans slots,
      (next.get64 (by simp) (by simp)).trans aus, (next.get64 (by simp) (by simp)).trans safe, ?_, ?_,
      (ended.auditShape.chState n).trans hrun⟩ <;> simp only [State.nextSlot_chan, chan]
  · refine ⟨s.idleAudit l, by simp only [exec, execIdleAuditTick], ?_⟩
    rw [State.idleAudit_idle l hmode hany hb hfree ht]
    have now : (s.advance ((s.now / 1000000 + 1) * 1000000)).now = (s.now / 1000000 + 1) * 1000000 := by
      rw [State.advance_now]; omega
    have time := s.frame_advance ((s.now / 1000000 + 1) * 1000000)
    have sys : (s.advance ((s.now / 1000000 + 1) * 1000000)).sys = s.sys := time.2 .sys (by simp)
    have pages := time.freePages (by simp)
    have least := fun p => s.get_advance ((s.now / 1000000 + 1) * 1000000) (F.sysPoolMinfreePages p)
    generalize s.advance ((s.now / 1000000 + 1) * 1000000) = v at *
    have audits := v.frame_audits l
    refine ⟨(time.mono (by simp) (by simp)).andThen audits (fun _ => id) (by simp), (audits.now (by simp)).trans now, ?_, fun p hp => ?_⟩
    · rw [State.audits_sys, sys, now, show (s.now / 1000000 + 1) * 1000000 / 1000 = (s.now / 1000000 + 1) * 1000 by omega]
    · rw [← pages p, ← least p]
      exact v.audits_pages l hp
  · refine ⟨s.reconDone n, by simp only [exec, execSafeReconstructionDecoded, hm], ?_⟩
    obtain ⟨t, frame, heq⟩ := State.reconDone_eq ha hrec
    rw [heq]
    refine ⟨(frame.mono (fun _ => id) (by simp)).updChan (by simp), by simp, fun m hne => ?_⟩
    rw [State.chan_updChan_ne _ _ hne.symm, frame.chan (by simp)]
  · refine ⟨s.lostHandover i back, by simp only [exec, execLostHandover], ?_⟩
    rw [State.lostHandover_eq hi]
    refine ⟨(((State.Frame.refl s _ _).setBufs (by simp)).flag (by simp [F.sysPoolAudStuck])).raise (by simp), ?_, ?_, ?_⟩
    · rw [State.is_raise, State.is_flag _ _ _ (by simp [F.sysPoolAudStuck]) rfl]
    · rfl
    · rw [State.raise_occ]; rfl

end Sys2Proof.Machine
end

