-- ==== Sys2Proof/Proofs/ChannelRequests.lean ====
section
/-!
SUPPORT. Sys2Proof/Proofs/ChannelRequests.lean: what a write of CHN_COMMIT leaves in its GROUP bit; the statement of O43
refuted.
-/

namespace Sys2Proof.Machine

/-- COMMIT and GROUP are set by a write of 1, and a write of 0 leaves them (w1s). -/
theorem findReg_chnCommit : ∀ n < 256, findReg (R.chnCommit n) =
    some ⟨R.chnCommit 0, (0x4000, 256), (4, 1), [⟨0, 1, .w1s, .any, false⟩, ⟨1, 1, .w1s, .any, false⟩]⟩ := by
  decide +kernel

/-- A write of all bits stores the written fields. -/
theorem maskWrite_allBits (old new : Word) : maskWrite allBits old new = new := by
  have ones : allBits = BitVec.allOnes 32 := rfl
  rw [maskWrite, ones, BitVec.and_allOnes, BitVec.not_allOnes, BitVec.and_zero, BitVec.or_zero]

/-- Of two w1s fields of one bit each, the second reads what it was or what is written. -/
theorem bitsAt_writeFields_w1s (old v : Word) :
    bitsAt (writeFields [⟨0, 1, .w1s, .any, false⟩, ⟨1, 1, .w1s, .any, false⟩] old v) 1 1
      = (bitsAt old 1 1 ||| bitsAt v 1 1) % 2 := by
  simp [writeFields, writePlain, writeRanged, bitsAt_setBitsAt_ne]

section
variable (s : State) {n : Nat} (hn : n < 256)
include hn

/-- GROUP after a write of CHN_COMMIT: what it was, or what is written. -/
theorem State.get_group_store_chnCommit (v : Word) :
    (s.store (R.chnCommit n) v allBits).get (F.chnCommitGroup n) = (s.get (F.chnCommitGroup n) ||| bitsAt v 1 1) % 2 := by
  simp only [State.store, findReg_chnCommit n hn, maskWrite_allBits, State.get, F.chnCommitGroup, State.word_setWord,
    bitsAt_writeFields_w1s]

/-- A GROUP bit that is set stays set whatever is written to CHN_COMMIT. -/
theorem State.is_group_store_chnCommit (v : Word) (hg : s.is (F.chnCommitGroup n) = true) :
    (s.store (R.chnCommit n) v allBits).is (F.chnCommitGroup n) = true := by
  have group : s.get (F.chnCommitGroup n) = 1 := Nat.eq_of_beq_eq_true hg
  have written : bitsAt v 1 1 < 2 := bitsAt_lt v 1 1
  rw [State.is, s.get_group_store_chnCommit hn, group]
  interval_cases bitsAt v 1 1 <;> rfl

end

/-- CHN_COMMIT of a channel whose group commit waits leaves GROUP at 1: its write of 0 has no effect on the w1s bit. -/
theorem State.exec_chnCommit_keeps_group {s : State} {h n : Nat} (hr : s.Ready h) (hn : n < 256)
    (hg : s.is (F.chnCommitGroup n) = true) :
    ∃ t, exec (.chnCommit h n) s = .next t ∧ t.is (F.chnCommitGroup n) = true := by
  obtain ⟨t, taken, act⟩ := State.takeWrite_ready (R.chnCommit n) 1 false (fun s => s.store (R.chnCommit n) 1 allBits) hr
  have count : (F.chnCommitGroup n).addr ∉ [R.hstCntWrites h] := by
    obtain ⟨-, port, -⟩ := hr
    simp only [F.chnCommitGroup, R.chnCommit, R.hstCntWrites, List.mem_singleton]
    omega
  exact ⟨t.store (R.chnCommit n) 1 allBits, by simp only [exec, execChnCommit, Nat.mod_eq_of_lt hn, act],
    t.is_group_store_chnCommit hn 1 ((taken.frame.is _ count).trans hg)⟩

/-- A module in RUN in which a group commit of channel 255 waits for the frame start. -/
def groupCommitWaits : State := (State.reset.put F.sysModeMode Mode.run).setWord (R.chnCommit 255) 3

theorem groupCommitWaits_ready : groupCommitWaits.Ready 3 := by
  unfold State.Ready State.Idle; decide +kernel

theorem groupCommitWaits_group : groupCommitWaits.is (F.chnCommitGroup 255) = true := by decide +kernel

/-- Refutes O43: CHN_COMMIT of a channel whose group commit waits. GROUP is a w1s bit, so that the write of COMMIT = 1 and
GROUP = 0 leaves it at 1, and GROUP does not read 0. -/
theorem not_channelRequests : ¬ Obligations.ChannelRequests := by
  intro h
  obtain ⟨-, -, commit, -⟩ := h groupCommitWaits 3 255 0 groupCommitWaits_ready (by decide)
  obtain ⟨t, step, -, -, cleared⟩ := commit
  obtain ⟨u, step', kept⟩ :=
    State.exec_chnCommit_keeps_group groupCommitWaits_ready (n := 255) (by decide) groupCommitWaits_group
  obtain rfl : t = u := Host.Outcome.next.inj (step.symm.trans step')
  exact Bool.false_ne_true (cleared.symm.trans kept)

end Sys2Proof.Machine
end

