-- ==== Sys2Proof/Proofs/TimeOps.lean ====
section
/-!
SUPPORT. Sys2Proof/Proofs/TimeOps.lean: the operations that the time block is made of: the frames of timers, events, state
fields and trackers; what a field and a timer read after each; numbers in two's complement.
-/

namespace Sys2Proof.Machine

/-! Frames -/

section
variable {s t : State} {q : List Nat} {m : List Part}

theorem State.Frame.sat {f : Fld} {n : Nat} (h : s.Frame t q m) (hf : f.addr ∈ q) : s.Frame (t.sat f n) q m :=
  h.put hf

theorem State.Frame.store {a : Nat} {v w : Word} (h : s.Frame t q m) (ha : a ∈ q) : s.Frame (t.store a v w) q m := by
  unfold State.store
  split
  · exact h.setWord ha
  · exact h

theorem State.Frame.cond {b : Bool} {f : State → State} (h : s.Frame t q m) (hf : ∀ u, s.Frame u q m → s.Frame (f u) q m) :
    s.Frame (t.cond b f) q m :=
  (hf t h).ite h

theorem State.Frame.arm {k dt : Nat} (h : s.Frame t q m) (ht : .timers ∈ m) : s.Frame (t.arm k dt) q m :=
  h.part ht rfl (fun p hp => by cases p <;> simp_all [State.Same])

theorem State.Frame.disarm {k : Nat} (h : s.Frame t q m) (ht : .timers ∈ m) : s.Frame (t.disarm k) q m :=
  h.part ht rfl (fun p hp => by cases p <;> simp_all [State.Same])

theorem State.Frame.setTim {x : TimSt} (h : s.Frame t q m) (ht : .tim ∈ m) : s.Frame { t with tim := x } q m :=
  h.part ht rfl (fun p hp => by cases p <;> simp_all [State.Same])

theorem State.Frame.setDom {d : Nat} {x : Dom} (h : s.Frame t q m) (ht : .tim ∈ m) : s.Frame (t.setDom d x) q m :=
  h.setTim ht

theorem State.Frame.fresh (h : s.Frame t q m) (hf : .free ∈ m) : s.Frame t.fresh.2 q m :=
  h.part hf rfl (fun p hp => by cases p <;> simp_all [State.Same, State.fresh])

/-- An event that opens no shadow changes the arbiter and, where it finds no place, the overflow count (R56). -/
theorem State.Frame.emit {e : Ev} (h : s.Frame t q m) (he : e.opens = 0) (hr : R.selEvtOvf ∈ q) (ha : .arb ∈ m) :
    s.Frame (t.emit e) q m := by
  have opened : ∀ u : State, u.opened e = u := fun u => by simp [State.opened, he]
  unfold State.emit
  rw [opened]
  exact (h.setArb ha).ite ((h.setArb ha).sat hr)

theorem State.Frame.stateEv {i e n d : Nat} (h : s.Frame t q m) (hr : R.selEvtOvf ∈ q) (ha : .arb ∈ m) :
    s.Frame (t.stateEv i e n d) q m :=
  h.emit rfl hr ha

theorem State.Frame.moveTo {f : Fld} {v i e n k x : Nat} (h : s.Frame t q m) (hf : f.addr ∈ q) (hr : R.selEvtOvf ∈ q)
    (ha : .arb ∈ m) : s.Frame (t.moveTo f v i e n k x) q m :=
  h.ite ((h.put hf).stateEv hr ha)

theorem State.Frame.unraise {c : Nat} (h : s.Frame t q m) (hr : R.selLive (c / 32) ∈ q) : s.Frame (t.unraise c) q m :=
  h.flag hr

theorem State.Frame.raiseLevel {c : Nat} (h : s.Frame t q m) (hr : R.selLive (c / 32) ∈ q) (hs : .sel ∈ m) :
    s.Frame (t.raiseLevel c) q m :=
  (h.flag hr).raise hs

theorem State.Frame.tim (h : s.Frame t q m) (ht : .tim ∉ m) : t.tim = s.tim := h.2 .tim ht

theorem State.Frame.armed (h : s.Frame t q m) (ht : .timers ∉ m) (k : Nat) : t.armed k = s.armed k := by
  simp only [State.armed, show t.timers = s.timers from h.2 .timers ht]

end

/-! Timers -/

/-- Timers of two kinds differ, whatever index they share. -/
theorem timerKey_ne {a b i : Nat} (h : a ≠ b) : timerKey a i ≠ timerKey b i := by
  unfold timerKey
  omega

section
variable (s : State) (k : Nat)

@[simp] theorem State.armed_arm (dt : Nat) : (s.arm k dt).armed k = true := by
  simp [State.armed, State.arm, nat_beq_eq]

theorem State.armed_arm_ne {j : Nat} (dt : Nat) (h : k ≠ j) : (s.arm k dt).armed j = s.armed j := by
  simp only [State.armed, State.arm, Tab.get_put_ne _ _ _ _ h]

@[simp] theorem State.armed_disarm : (s.disarm k).armed k = false := by
  simp [State.armed, State.disarm]

theorem State.armed_disarm_ne {j : Nat} (h : k ≠ j) : (s.disarm k).armed j = s.armed j := by
  simp only [State.armed, State.disarm, Tab.get_del_ne _ _ h]

/-- The expiry of timer k: time reaches its due instant and the timer stops. -/
def State.expired : State := (s.advance (s.dueAt k)).disarm k

theorem State.fire_of_armed {s : State} {k : Nat} (h : s.armed k = true) : s.fire k = some (s.expired k) := if_pos h

theorem State.frame_expired : s.Frame (s.expired k) [] [.now, .tim, .timers] :=
  ((State.Frame.refl s _ _).advance (by simp) (by simp)).disarm (by simp)

@[simp] theorem State.get_expired (f : Fld) : (s.expired k).get f = s.get f := (s.frame_expired k).get f (by simp)

@[simp] theorem State.is_expired (f : Fld) : (s.expired k).is f = s.is f := (s.frame_expired k).is f (by simp)

end

/-! Fields -/

/-- Two fields share no bit of a register. -/
abbrev Fld.Apart (f g : Fld) : Prop := f.addr ≠ g.addr ∨ g.lo + g.width ≤ f.lo ∨ f.lo + f.width ≤ g.lo

section
variable (s : State) {f g : Fld}

theorem State.get_put_apart (v : Nat) (h : f.Apart g) : (s.put f v).get g = s.get g := State.get_put_ne s f g v h

theorem State.get_flag_apart (b : Bool) (h : f.Apart g) : (s.flag f b).get g = s.get g := s.get_put_apart _ h

theorem State.get_sat_apart (n : Nat) (h : f.Apart g) : (s.sat f n).get g = s.get g := s.get_put_apart _ h

/-- A saturating count of a field inside its word. -/
theorem State.get_sat (n : Nat) (hw : f.lo + f.width ≤ 32) : (s.sat f n).get f = min (s.get f + n) (2 ^ f.width - 1) := by
  rw [State.sat, State.get_put _ _ _ hw]
  have := Nat.two_pow_pos f.width
  exact Nat.mod_eq_of_lt (by omega)

theorem State.get_stateEv (i e n d : Nat) (hg : g.addr ≠ R.selEvtOvf) : (s.stateEv i e n d).get g = s.get g :=
  ((State.Frame.refl s [R.selEvtOvf] [.arb]).stateEv (by simp) (by simp)).get g (by simpa)

/-- A state field reads the state it moved to. -/
theorem State.get_moveTo {v : Nat} (i e n k x : Nat) (hw : f.lo + f.width ≤ 32) (hv : v < 2 ^ f.width)
    (hf : f.addr ≠ R.selEvtOvf) : (s.moveTo f v i e n k x).get f = v := by
  unfold State.moveTo
  split
  · next h => exact Nat.eq_of_beq_eq_true h
  · rw [State.get_stateEv _ _ _ _ _ hf, State.get_put _ _ _ hw, Nat.mod_eq_of_lt hv]

theorem State.get_moveTo_apart (v i e n k x : Nat) (h : f.Apart g) (hg : g.addr ≠ R.selEvtOvf) :
    (s.moveTo f v i e n k x).get g = s.get g := by
  unfold State.moveTo
  split
  · rfl
  · rw [State.get_stateEv _ _ _ _ _ hg, State.get_put_apart _ _ h]

@[simp] theorem State.get_arm (k dt : Nat) : (s.arm k dt).get g = s.get g := rfl

@[simp] theorem State.get_disarm (k : Nat) : (s.disarm k).get g = s.get g := rfl

@[simp] theorem State.get_setTim (x : TimSt) : ({ s with tim := x } : State).get g = s.get g := rfl

theorem State.get64_arm (k dt lo hi : Nat) : (s.arm k dt).get64 lo hi = s.get64 lo hi := rfl

theorem State.get_unraise (c : Nat) (hg : g.addr ≠ R.selLive (c / 32)) : (s.unraise c).get g = s.get g :=
  s.get_flag_apart _ (.inl (Ne.symm hg))

/-- An effect that leaves a field alone leaves it alone under a condition. -/
theorem State.get_cond {b : Bool} {e : State → State} (h : ∀ u, (e u).get g = u.get g) : (s.cond b e).get g = s.get g := by
  cases b
  · rfl
  · exact h s

end

/-! Trackers -/

section
variable (s : State) (d : Nat)

@[simp] theorem State.dom_setDom (x : Dom) : (s.setDom d x).dom d = x := by simp [State.dom, State.setDom]

theorem State.dom_of_tim {s t : State} (h : t.tim.dom = s.tim.dom) (d : Nat) : t.dom d = s.dom d := by
  simp only [State.dom, h]

theorem State.dom_arm (k dt : Nat) : (s.arm k dt).dom d = s.dom d := rfl

/-- Time leaves the trackers alone. -/
theorem State.dom_advance (x : Nat) : (s.advance x).dom d = s.dom d := by
  refine State.dom_of_tim ?_ d
  unfold State.advance
  split
  · rfl
  · split <;> rfl

@[simp] theorem State.dom_expired (k : Nat) : (s.expired k).dom d = s.dom d := s.dom_advance d _

end

/-! Numbers in two's complement -/

theorem signedOf_unsignedOf {z : Int} (lo : -(2 ^ 31 : Int) ≤ z) (hi : z < 2 ^ 31) : signedOf 32 (unsignedOf 32 z) = z := by
  unfold signedOf unsignedOf
  split <;> omega

theorem unsignedOf_lt (w : Nat) (z : Int) : unsignedOf w z < 2 ^ w := by
  have pos : (0 : Int) < 2 ^ w := by positivity
  have h := Int.emod_lt_of_pos z pos
  have h0 := Int.emod_nonneg z pos.ne'
  zify
  rw [unsignedOf, Int.toNat_of_nonneg h0]
  exact h

theorem clampSigned_bounds (z : Int) : -(2 ^ 31 : Int) ≤ clampSigned 32 z ∧ clampSigned 32 z < 2 ^ 31 := by
  unfold clampSigned
  omega

/-- A signed register reads the number it was set to. -/
theorem State.getInt_put (s : State) {f : Fld} {z : Int} (h0 : f.lo = 0) (h32 : f.width = 32) (lo : -(2 ^ 31 : Int) ≤ z)
    (hi : z < 2 ^ 31) : (s.put f (unsignedOf 32 z)).getInt f = z := by
  rw [State.getInt, State.get_put _ _ _ (by omega), h32, Nat.mod_eq_of_lt (unsignedOf_lt 32 z), signedOf_unsignedOf lo hi]

end Sys2Proof.Machine
end

