-- ==== Sys2Proof/Proofs/TimeStates.lean ====
section
/-!
SUPPORT. Sys2Proof/Proofs/TimeStates.lean: the operations of network time: the frequency source, the selected domain, the time
state, the FAR flag, the slew target, and what a domain's change of state does where it moves no selection.
-/

namespace Sys2Proof.Machine

/-! The frequency source (R129) -/

section
variable (s : State)

theorem State.frame_refreshFreq : s.Frame s.refreshFreq [R.timStat] [.tim] :=
  ((State.Frame.refl s _ _).cond (fun _ h => h.setTim (by simp))).flag (by decide)

theorem State.get_refreshFreq {g : Fld} (h : F.timStatFhold.Apart g) : s.refreshFreq.get g = s.get g :=
  (State.get_flag_apart _ _ h).trans (s.get_cond (fun _ => rfl))

/-- Of the time block it may change the steer alone. -/
theorem State.refreshFreq_tim : ∃ x, s.refreshFreq.tim = { s.tim with steer := x } := by
  have held : ∀ b y, ∃ x, (s.cond b (fun s => { s with tim := { s.tim with steer := y } })).tim
      = { s.tim with steer := x } := fun b y => by
    cases b
    · exact ⟨s.tim.steer, rfl⟩
    · exact ⟨y, rfl⟩
  exact held _ _

theorem State.dom_refreshFreq (d : Nat) : s.refreshFreq.dom d = s.dom d := by
  obtain ⟨x, e⟩ := s.refreshFreq_tim
  exact State.dom_of_tim (by rw [e]) d

end

/-! The selected domain (R126) -/

section
variable (s : State) (d : Nat)

theorem State.selected_lt : s.selected < 2 := bitsAt_lt _ _ _

theorem State.frame_setSelected : s.Frame (s.setSelected d) [R.timStat, R.selEvtOvf] [.arb] :=
  (State.Frame.refl s _ _).ite (((State.Frame.refl s _ _).put (by decide)).stateEv (by simp) (by simp))

theorem State.selected_setSelected (hd : d < 2) : (s.setSelected d).selected = d := by
  unfold State.setSelected
  split
  · next h => exact Nat.eq_of_beq_eq_true h
  · rw [State.selected, State.get_stateEv _ _ _ _ _ (by decide), State.get_put _ _ _ (by decide)]
    exact Nat.mod_eq_of_lt hd

theorem State.get_setSelected {g : Fld} (h : F.timStatSelected.Apart g) (hg : g.addr ≠ R.selEvtOvf) :
    (s.setSelected d).get g = s.get g := by
  unfold State.setSelected
  split
  · rfl
  · rw [State.get_stateEv _ _ _ _ _ hg, State.get_put_apart _ _ h]

end

/-! The time state (R119, R130) -/

/-- In FREERUN time passes without a slew. -/
theorem State.advance_tim_of_freerun {s : State} (h : s.tstate = TState.freerun) (x : Nat) : (s.advance x).tim = s.tim := by
  have slews : (Nat.beq (s.get F.timStatTstate) 1 || Nat.beq (s.get F.timStatTstate) 2) = false := by
    rw [show s.get F.timStatTstate = 0 from h]; rfl
  unfold State.advance
  rw [slews]
  split <;> rfl

section
variable (s : State) (x : Nat)

theorem State.frame_setTstate :
    s.Frame (s.setTstate x) [R.timStat, R.selEvtOvf, R.selLive (Src.slewFar / 32)] [.tim, .timers, .arb] := by
  have moved := (State.Frame.refl s [R.timStat, R.selEvtOvf, R.selLive (Src.slewFar / 32)] [.tim, .timers, .arb]).moveTo
    (f := F.timStatTstate) (v := x) (i := 7) (e := 3) (n := 0) (k := 4) (x := 0) (by decide) (by decide) (by decide)
  exact (State.Frame.refl s _ _).ite ((moved.cond (fun _ h => ((h.setTim (by simp)).disarm (by simp)).unraise
    (by decide))).cond (fun _ h => (h.setTim (by simp)).arm (by simp)))

/-- Neither leaving nor entering HOLDOVER, a change of TSTATE is its event alone. -/
theorem State.setTstate_eq_moveTo (hs : s.tstate ≠ TState.holdover) (hx : x ≠ TState.holdover) :
    s.setTstate x = s.moveTo F.timStatTstate x 7 3 0 4 0 := by
  have leave : Nat.beq s.tstate TState.holdover = false := by rw [nat_beq_eq]; simpa
  have enter : Nat.beq x TState.holdover = false := by rw [nat_beq_eq]; simpa
  simp only [State.setTstate, leave, enter, State.cond_false]
  exact ite_eq_right_iff.mpr (fun h => (if_pos h).symm)

theorem State.get_setTstate {g : Fld} (h : F.timStatTstate.Apart g) (hg : g.addr ≠ R.selEvtOvf)
    (hl : g.addr ≠ R.selLive (Src.slewFar / 32)) : (s.setTstate x).get g = s.get g := by
  unfold State.setTstate
  split
  · rfl
  · dsimp only
    rw [State.get_cond, State.get_cond, State.get_moveTo_apart _ _ _ _ _ _ _ h hg]
    · intro u; rw [State.get_unraise _ Src.holdoverLong hl, State.get_disarm, State.get_setTim]
    · intro u; rw [State.get_arm, State.get_setTim]

theorem State.tstate_setTstate (hx : x < 4) : (s.setTstate x).tstate = x := by
  unfold State.setTstate
  split
  · next h => exact Nat.eq_of_beq_eq_true h
  · dsimp only [State.tstate]
    rw [State.get_cond, State.get_cond, State.get_moveTo _ _ _ _ _ _ (by decide) hx (by decide)]
    · intro u; rw [State.get_unraise _ _ (by decide), State.get_disarm, State.get_setTim]
    · intro u; rw [State.get_arm, State.get_setTim]

end

/-! The FAR flag (R120, R139) -/

section
variable (s : State)

/-- FAR takes the value `far` (R120). -/
def State.showFar (far : Bool) : State :=
  if far == s.is F.timStatFar then s
  else if far then (s.flag F.timStatFar true).arm Timer.slewFar (60 * 1000000000)
  else ((s.flag F.timStatFar false).disarm Timer.slewFar).unraise Src.slewFar

theorem State.setFar_eq : s.setFar = s.showFar (Nat.blt 1000000 s.tim.rem.natAbs) := rfl

theorem State.frame_setFar : s.Frame s.setFar [R.timStat, R.selLive (Src.slewFar / 32)] [.timers] := by
  rw [State.setFar_eq]
  have flag : ∀ b, s.Frame (s.flag F.timStatFar b) [R.timStat, R.selLive (Src.slewFar / 32)] [.timers] := fun _ =>
    (State.Frame.refl s _ _).flag (by decide)
  exact (State.Frame.refl s _ _).ite (((flag true).arm (by simp)).ite (((flag false).disarm (by simp)).unraise (by decide)))

theorem State.get_setFar {g : Fld} (h : F.timStatFar.Apart g) (hl : g.addr ≠ R.selLive (Src.slewFar / 32)) :
    s.setFar.get g = s.get g := by
  rw [State.setFar_eq, State.showFar]
  split_ifs
  · rfl
  · rw [State.get_arm, State.get_flag_apart _ _ h]
  · rw [State.get_unraise _ _ hl, State.get_disarm, State.get_flag_apart _ _ h]

theorem State.far_showFar (far : Bool) : (s.showFar far).is F.timStatFar = far := by
  unfold State.showFar
  split_ifs with same up
  · exact (eq_of_beq same).symm
  · rw [State.is, State.get_arm, State.get_flag _ _ _ (by decide) rfl, up]; rfl
  · rw [State.is, State.get_unraise _ _ (by decide), State.get_disarm, State.get_flag _ _ _ (by decide) rfl,
      Bool.eq_false_iff.mpr up]
    rfl

/-- FAR tells whether more than 1,000,000 ns remain. -/
theorem State.far_setFar : s.setFar.is F.timStatFar = Nat.blt 1000000 s.tim.rem.natAbs := s.far_showFar _

theorem State.far_setFar_of_near (h : s.tim.rem.natAbs ≤ 1000000) : s.setFar.is F.timStatFar = false := by
  rw [State.far_setFar, Bool.eq_false_iff, ne_eq, Nat.blt_eq]
  omega

theorem State.setFar_tim : s.setFar.tim = s.tim := s.frame_setFar.tim (by simp)

end

/-! The slew target (R117, R119) -/

section
variable (s : State)

theorem State.frame_lastStep : s.Frame s.lastStep [] [.tim] :=
  (State.Frame.refl s _ _).ite ((State.Frame.refl s _ _).setTim (by simp))

/-- The last step leaves nothing to slew. -/
theorem State.lastStep_rem : s.lastStep.tim.rem = 0 := by
  unfold State.lastStep
  split
  · assumption
  · rfl

variable (x : Int) (near step : Bool)

theorem State.frame_retargetTo : s.Frame (s.retargetTo x near step)
    [R.timStat, R.selEvtOvf, R.selLive (Src.slewFar / 32)] [.tim, .timers, .arb] := by
  have target := (State.Frame.refl s [R.timStat, R.selEvtOvf, R.selLive (Src.slewFar / 32)] [.tim, .timers, .arb]).setTim
    (x := { s.tim with rem := x }) (by simp)
  exact ((target.cond (fun u h => h.andThen u.frame_lastStep (by simp) (by simp))).andThen (State.frame_setTstate _ _)
    (fun _ => id) (fun _ => id)).andThen (State.frame_setFar _) (by simp) (by simp)

theorem State.tstate_retargetTo :
    (s.retargetTo x near step).tstate = if near then TState.locked else TState.slewing := by
  rw [State.retargetTo, State.tstate, State.get_setFar _ (by decide) (by decide)]
  exact State.tstate_setTstate _ _ (by cases near <;> decide)

theorem State.selected_retargetTo : (s.retargetTo x near step).selected = s.selected := by
  rw [State.retargetTo, State.selected, State.get_setFar _ (by decide) (by decide),
    State.get_setTstate _ _ (by decide) (by decide) (by decide),
    State.get_cond _ (fun u => u.frame_lastStep.get _ (by simp))]
  rfl

end

/-! A switch to another domain (R127) -/

section
variable (s : State) (d : Nat)

theorem State.frame_switchTo : s.Frame (s.switchTo d)
    [R.timStat, R.selEvtOvf, R.selLive (Src.slewFar / 32)] [.tim, .timers, .arb] :=
  ((State.Frame.refl s _ _).andThen (s.frame_setSelected d) (by simp) (by simp)).andThen (State.frame_retargetTo _ _ _ _)
    (fun _ => id) (fun _ => id)

theorem State.selected_switchTo (hd : d < 2) : (s.switchTo d).selected = d :=
  (State.selected_retargetTo _ _ _ _).trans (s.selected_setSelected d hd)

theorem State.tstate_switchTo :
    (s.switchTo d).tstate = if (s.domOfs d).natAbs ≤ 10 then TState.locked else TState.slewing := by
  rw [State.switchTo, State.tstate_retargetTo]
  simp only [Nat.ble_eq]

end

/-! Selection after a domain has moved (R126) -/

section
variable (s : State) (d old : Nat)

/-- A domain that is not QUALIFIED and was not the selected one in QUALIFIED moves no selection. -/
theorem State.select_of_unqualified (hq : s.qualified d = false) (ho : old = DState.qualified → d ≠ s.selected) :
    s.select d old = s.refreshFreq := by
  have lost : (Nat.beq old DState.qualified && !false && Nat.beq d s.selected) = false := by
    by_cases h : old = DState.qualified
    · simp [nat_beq_eq, ho h]
    · simp [nat_beq_eq, h]
  simp only [State.select, hq, Bool.false_and, Bool.false_eq_true, if_false, lost]

/-- The first domain that qualifies in FREERUN is selected, and the acquisition step is due (R118, R133). -/
theorem State.select_first (hq : s.qualified d = true) (ho : old ≠ DState.qualified) (hf : s.tstate = TState.freerun)
    (ha : s.tim.acq = false) :
    ∃ T : TimSt, T.acq = true ∧ s.select d old = (State.refreshFreq { (State.setSelected (State.flag
      { s with tim := { s.tim with everQual := true } } F.timStatArmReady true) d) with tim := T }) := by
  let u := State.flag { s with tim := { s.tim with everQual := true } } F.timStatArmReady true
  have freerun : Nat.beq u.tstate TState.freerun = true := by
    rw [nat_beq_eq, decide_eq_true_eq, State.tstate, State.get_flag_apart _ _ (by decide)]
    exact hf
  have fresh : u.tim.acq = false := ha
  have moved : (s.qualified d && !Nat.beq old DState.qualified) = true := by simp [hq, nat_beq_eq, ho]
  refine ⟨{ (u.setSelected d).tim with acq := true, selTick := s.now / 1000 + 1 }, rfl, ?_⟩
  simp only [State.select, moved, if_true]
  rw [if_pos freerun, fresh]
  rfl

end

/-! Domains that enter DISABLED, LISTENING and UNCALIBRATED (R124, R125) -/

section
variable (s : State) (d : Nat)

theorem State.frame_stopDom : s.Frame (s.stopDom d) [] [.timers] :=
  ((((State.Frame.refl s _ _).disarm (by simp)).disarm (by simp)).disarm (by simp)).disarm (by simp)

theorem State.frame_startQual : s.Frame (s.startQual d) [] [.tim, .timers] :=
  (((State.Frame.refl s _ _).setDom (by simp)).arm (by simp)).ite (((State.Frame.refl s _ _).setDom (by simp)).disarm (by simp))

theorem State.startQual_tim :
    (s.startQual d).tim = (s.setDom d { s.dom d with qStart := s.now, qNext := 0 }).tim := by
  simp only [State.startQual]
  split <;> rfl

theorem State.armed_startQual {k : Nat} (h : Timer.domQual d ≠ k) : (s.startQual d).armed k = s.armed k := by
  simp only [State.startQual]
  split
  · exact State.armed_arm_ne _ _ _ h
  · exact State.armed_disarm_ne _ _ h

/-- Domain d in DISABLED, before the selection follows. -/
def State.disabled : State :=
  ((s.stopDom d).setDom d {}).moveTo (F.timDomStatDstate d) DState.disabled 7 1 d 4 0

/-- Domain d in LISTENING, before the selection follows. -/
def State.listening : State :=
  ((s.stopDom d).setDom d { s.dom d with foreign := [], master := none, lastX := none, sync := none, t3 := none }).moveTo
    (F.timDomStatDstate d) DState.listening 7 1 d 4 0

/-- Domain d in UNCALIBRATED, before the selection follows. -/
def State.uncalibrated : State :=
  (((s.moveTo (F.timDomStatDstate d) DState.uncalibrated 7 1 d 4 0).startQual d).arm (Timer.domSync d)
    (3 * (s.dom d).syncNs)).cond (!s.armed (Timer.domDreq d)) (fun s => s.arm (Timer.domDreq d) (s.dom d).dreqNs)

theorem State.frame_disabled : s.Frame (s.disabled d) [R.timDomStat d, R.selEvtOvf] [.tim, .timers, .arb] :=
  (((State.Frame.refl s _ _).andThen (s.frame_stopDom d) (by simp) (by simp)).setDom (by simp)).moveTo
    (by simp [F.timDomStatDstate]) (by simp) (by simp)

theorem State.frame_listening : s.Frame (s.listening d) [R.timDomStat d, R.selEvtOvf] [.tim, .timers, .arb] :=
  (((State.Frame.refl s _ _).andThen (s.frame_stopDom d) (by simp) (by simp)).setDom (by simp)).moveTo
    (by simp [F.timDomStatDstate]) (by simp) (by simp)

theorem State.frame_uncalibrated : s.Frame (s.uncalibrated d) [R.timDomStat d, R.selEvtOvf] [.tim, .timers, .arb] :=
  ((((State.Frame.refl s _ _).moveTo (by simp [F.timDomStatDstate]) (by simp) (by simp)).andThen (State.frame_startQual _ d)
    (by simp) (by simp)).arm (by simp)).cond (fun _ h => h.arm (by simp))

end

end Sys2Proof.Machine
end

