-- ==== Sys2Proof/Proofs/PtpDomains.lean ====
section
/-!
SUPPORT. Sys2Proof/Proofs/PtpDomains.lean: what a domain shows and tracks after it entered DISABLED, LISTENING or UNCALIBRATED,
where it moves no selection.
-/

namespace Sys2Proof.Machine

/-! Registers and timers of a domain -/

section
variable (d : Nat)

theorem timDomStat_ne_timStat : R.timDomStat d ≠ R.timStat := by unfold R.timDomStat R.timStat; omega

theorem timDomStat_ne_selEvtOvf : R.timDomStat d ≠ R.selEvtOvf := by unfold R.timDomStat R.selEvtOvf; omega

theorem timStat_not_mem : R.timStat ∉ [R.timDomStat d, R.selEvtOvf] := by
  simp [R.timDomStat, R.timStat, R.selEvtOvf]; omega

theorem timDomCnt_not_mem : R.timDomCnt d ∉ [R.timDomStat d, R.timStat, R.selEvtOvf] := by
  simp [R.timDomCnt, R.timDomStat, R.timStat, R.selEvtOvf]; omega

theorem timDomCfg_not_mem : R.timDomCfg d ∉ [R.timDomStat d, R.timStat, R.selEvtOvf] := by
  simp [R.timDomCfg, R.timDomStat, R.timStat, R.selEvtOvf]; omega

end

/-! A domain in a new state -/

section
variable (s : State) (d : Nat)

/-- The frame of a domain's change of state that moves no selection. -/
theorem State.frame_entered {u : State} (h : s.Frame u [R.timDomStat d, R.selEvtOvf] [.tim, .timers, .arb]) :
    s.Frame u.refreshFreq [R.timDomStat d, R.timStat, R.selEvtOvf] [.tim, .timers, .arb] :=
  (h.mono (by simp) (fun _ => id)).andThen u.frame_refreshFreq (by simp) (by simp)

theorem State.dstate_refreshFreq : s.refreshFreq.dstate d = s.dstate d :=
  s.frame_refreshFreq.get _ (by simp [F.timDomStatDstate, timDomStat_ne_timStat])

theorem State.tstate_refreshFreq : s.refreshFreq.tstate = s.tstate := s.get_refreshFreq (by decide)

theorem State.selected_refreshFreq : s.refreshFreq.selected = s.selected := s.get_refreshFreq (by decide)

theorem State.armed_refreshFreq (k : Nat) : s.refreshFreq.armed k = s.armed k := s.frame_refreshFreq.armed (by simp) k

theorem State.qualified_eq_false {s : State} {d : Nat} (h : s.dstate d ≠ DState.qualified) : s.qualified d = false := by
  rw [State.qualified, nat_beq_eq]; simpa

theorem State.qualified_eq_true {s : State} {d : Nat} (h : s.dstate d = DState.qualified) : s.qualified d = true := by
  rw [State.qualified, h]; rfl

/-- A domain's state field reads the state that it moved to. -/
theorem State.dstate_moveTo {x : Nat} (hx : x < 4) : (s.moveTo (F.timDomStatDstate d) x 7 1 d 4 0).dstate d = x :=
  s.get_moveTo _ _ _ _ _ (by simp [F.timDomStatDstate]) hx (timDomStat_ne_selEvtOvf d)

theorem State.dstate_disabled : (s.disabled d).dstate d = DState.disabled := State.dstate_moveTo _ _ (by decide)

theorem State.dstate_listening : (s.listening d).dstate d = DState.listening := State.dstate_moveTo _ _ (by decide)

theorem State.get_uncalibrated {g : Fld} : (s.uncalibrated d).get g
    = (s.moveTo (F.timDomStatDstate d) DState.uncalibrated 7 1 d 4 0).get g := by
  rw [State.uncalibrated, State.get_cond _ (fun u => u.get_arm _ _), State.get_arm,
    (State.frame_startQual _ d).get _ (by simp)]

theorem State.dstate_uncalibrated : (s.uncalibrated d).dstate d = DState.uncalibrated :=
  (s.get_uncalibrated d).trans (s.dstate_moveTo d (by decide))

theorem State.dom_listening : (s.listening d).dom d
    = { s.dom d with foreign := [], master := none, lastX := none, sync := none, t3 := none } :=
  (State.dom_of_tim (by rw [State.listening, State.moveTo_tim]) d).trans (State.dom_setDom (s.stopDom d) d _)

theorem State.dom_uncalibrated : (s.uncalibrated d).dom d = { s.dom d with qStart := s.now, qNext := 0 } := by
  let u := s.moveTo (F.timDomStatDstate d) DState.uncalibrated 7 1 d 4 0
  have tracker : u.dom d = s.dom d := State.dom_of_tim (by rw [State.moveTo_tim]) d
  have now : u.now = s.now := State.moveTo_now _ _ _ _ _ _ _ _
  have counted : (u.startQual d).dom d = { s.dom d with qStart := s.now, qNext := 0 } := by
    rw [State.dom_of_tim (congrArg TimSt.dom (u.startQual_tim d)) d, State.dom_setDom, tracker, now]
  have timed : ∀ (w : State) (b : Bool), (w.cond b (fun s => s.arm (Timer.domDreq d) (s.dom d).dreqNs)).dom d = w.dom d :=
    fun w b => by cases b <;> rfl
  rw [State.uncalibrated, timed]
  exact counted

theorem State.armed_moveTo (f : Fld) (v i e n k x j : Nat) : (s.moveTo f v i e n k x).armed j = s.armed j :=
  ((State.Frame.refl s [f.addr, R.selEvtOvf] [.arb]).moveTo (by simp) (by simp) (by simp)).armed (by simp) j

/-- The timers of UNCALIBRATED: Sync is awaited, and beside the domain's own ones no timer changes. -/
theorem State.armed_uncalibrated_sync : (s.uncalibrated d).armed (Timer.domSync d) = true := by
  have other : Timer.domDreq d ≠ Timer.domSync d := timerKey_ne (by decide)
  rw [State.uncalibrated, State.cond]
  split
  · rw [State.armed_arm_ne _ _ _ other, State.armed_arm]
  · exact State.armed_arm _ _ _

theorem State.armed_uncalibrated_announce :
    (s.uncalibrated d).armed (Timer.domAnnounce d) = s.armed (Timer.domAnnounce d) := by
  have dreq : Timer.domDreq d ≠ Timer.domAnnounce d := timerKey_ne (by decide)
  have sync : Timer.domSync d ≠ Timer.domAnnounce d := timerKey_ne (by decide)
  have qual : Timer.domQual d ≠ Timer.domAnnounce d := timerKey_ne (by decide)
  have rest : ∀ dt, (((s.moveTo (F.timDomStatDstate d) DState.uncalibrated 7 1 d 4 0).startQual d).arm (Timer.domSync d)
      dt).armed (Timer.domAnnounce d) = s.armed (Timer.domAnnounce d) := fun dt => by
    rw [State.armed_arm_ne _ _ _ sync, State.armed_startQual _ _ qual, State.armed_moveTo]
  rw [State.uncalibrated, State.cond]
  split
  · rw [State.armed_arm_ne _ _ _ dreq, rest]
  · exact rest _

/-- A domain that enters UNCALIBRATED and was not the selected QUALIFIED one moves no selection. -/
theorem State.domUncal_eq {s : State} {d : Nat} (h : s.dstate d = DState.qualified → d ≠ s.selected) :
    s.domUncal d = (s.uncalibrated d).refreshFreq :=
  State.select_of_unqualified (s.uncalibrated d) d _ (State.qualified_eq_false (by rw [State.dstate_uncalibrated]; decide))
    (fun e => by
      rw [State.selected, (s.frame_uncalibrated d).get _ (timStat_not_mem d)]
      exact h e)

theorem State.domListen_eq {s : State} {d : Nat} (h : s.dstate d ≠ DState.qualified) :
    s.domListen d = (s.listening d).refreshFreq :=
  State.select_of_unqualified (s.listening d) d _ (State.qualified_eq_false (by rw [State.dstate_listening]; decide))
    (absurd · h)

theorem State.domDisable_eq {s : State} {d : Nat} (h : s.dstate d ≠ DState.qualified) :
    s.domDisable d = (s.disabled d).refreshFreq :=
  State.select_of_unqualified (s.disabled d) d _ (State.qualified_eq_false (by rw [State.dstate_disabled]; decide))
    (absurd · h)

theorem State.class_entered :
    (s.uncalibrated d).refreshFreq.get (F.timDomStatClass d) = s.get (F.timDomStatClass d) := by
  rw [State.get_refreshFreq _ (g := F.timDomStatClass d) (.inl (timDomStat_ne_timStat d).symm), State.get_uncalibrated]
  exact State.get_moveTo_apart _ _ _ _ _ _ _ (.inr (.inr (by simp [F.timDomStatDstate, F.timDomStatClass])))
    (timDomStat_ne_selEvtOvf d)

/-- Neither TSTATE nor the selection follows a domain's change of state that moves no selection. -/
theorem State.stat_entered {u : State} (h : s.Frame u [R.timDomStat d, R.selEvtOvf] [.tim, .timers, .arb]) :
    u.refreshFreq.tstate = s.tstate ∧ u.refreshFreq.selected = s.selected :=
  ⟨u.tstate_refreshFreq.trans (h.get _ (timStat_not_mem d)), u.selected_refreshFreq.trans (h.get _ (timStat_not_mem d))⟩

end

end Sys2Proof.Machine
end

