-- ==== Sys2Proof/Proofs/PtpMessages.lean ====
section
/-!
SUPPORT. Sys2Proof/Proofs/PtpMessages.lean: what the PTP messages do to the tracker of their domain; the statement of
O20 settled.
-/

namespace Sys2Proof.Machine

/-! A Sync (R123) -/

theorem timDomCntSync_apart (d : Nat) : (F.timDomCntSync d).Apart (F.timDomOfsOfs d) :=
  .inl (by simp [F.timDomCntSync, F.timDomOfsOfs, R.timDomCnt, R.timDomOfs])

section
variable (s : State) (d : Nat)

theorem State.frame_countSync : s.Frame (s.countSync d) [] [.tim, .timers] :=
  (((State.Frame.refl s _ _).andThen (s.frame_startQual d) (by simp) (by simp)).setDom (by simp)).ite
    (((State.Frame.refl s _ _).setDom (by simp)).ite (State.Frame.refl s _ _))

theorem State.countSync_off : (s.countSync d).tim.off = s.tim.off := by
  simp only [State.countSync]
  split
  · show (s.startQual d).tim.off = s.tim.off
    rw [State.startQual_tim]
    rfl
  · split <;> rfl

theorem State.armed_countSync {k : Nat} (h : Timer.domQual d ≠ k) : (s.countSync d).armed k = s.armed k := by
  simp only [State.countSync]
  split
  · exact s.armed_startQual d h
  · split <;> rfl

/-- A Sync counts in UNCALIBRATED alone. -/
def State.countsSync : State := s.cond (Nat.beq (s.dstate d) DState.uncalibrated) (fun s => s.countSync d)

theorem State.frame_countsSync : s.Frame (s.countsSync d) [] [.tim, .timers] :=
  (State.Frame.refl s _ _).cond (fun _ h => h.andThen (State.frame_countSync _ d) (by simp) (by simp))

theorem State.countsSync_off : (s.countsSync d).tim.off = s.tim.off := by
  rw [State.countsSync, State.cond]
  split
  · exact s.countSync_off d
  · rfl

theorem State.armed_countsSync : (s.countsSync d).armed (Timer.domSync d) = s.armed (Timer.domSync d) := by
  have other : Timer.domQual d ≠ Timer.domSync d := timerKey_ne (by decide)
  rw [State.countsSync, State.cond]
  split
  · exact s.armed_countSync d other
  · rfl

/-- What follows an accepted x: while the time state is LOCKED or SLEWING on the domain, the slew target and the steer. -/
def State.followSync (x f : Int) : State :=
  let lockedOn := Nat.beq d s.selected && (Nat.beq s.tstate TState.locked || Nat.beq s.tstate TState.slewing)
  let t := s.cond lockedOn (fun s => s.retarget x (Nat.beq s.tstate TState.slewing))
  let steers := lockedOn && (Nat.beq (t.get F.timCtlFsrc) 0
    || (Nat.beq (t.get F.timCtlFsrc) 1 && !Nat.beq (t.get F.timRefRstate) 2))
  t.cond steers (fun s => { s with tim := { s.tim with steer := f } })

theorem State.followSync_of_freerun {s : State} (h : s.tstate = TState.freerun) (x f : Int) : s.followSync d x f = s := by
  simp only [State.followSync, h]
  simp [TState.freerun, TState.locked, TState.slewing, State.cond]

/-- The x of a Sync (R123): its departure, corrected, less its stamp, less the latency, on the LTC. -/
def State.syncX (t1 corr : Int) (t2 : Nat) : Int :=
  t1 + corr + s.getInt (F.timDomAsymAsym d) + (s.dom d).mpd
    - ((t2 : Int) - (s.get (F.timDomLatIngLat d) : Int) + s.tim.off)

/-- An accepted x is shown and counted, and the Sync timer runs. -/
def State.acceptSync (x : Int) (logInt : Int) : State :=
  ((s.put (F.timDomOfsOfs d) (unsignedOf 32 (clampSigned 32 x))).sat (F.timDomCntSync d) 1).arm (Timer.domSync d)
    (3 * logNs logInt)

/-- In FREERUN the first Sync of the selected master is accepted, whatever x it gives. -/
theorem State.ptpSync_first {s : State} {d port t2 : Nat} {t1 corr logInt : Int} (ht : s.tracking d = true)
    (hm : (s.dom d).master = some port) (hx : (s.dom d).lastX = none) (lo : -7 ≤ logInt) (hi : logInt ≤ 0)
    (hf : s.tstate = TState.freerun) :
    ∃ (T : TimSt) (f : Int), T.off = s.tim.off ∧ s.ptpSync d port t1 corr t2 logInt =
      ((State.acceptSync { s.advance t2 with tim := T } d (s.syncX d t1 corr t2) logInt).countsSync d).followSync d
        (s.syncX d t1 corr t2) f := by
  have guard : (!s.tracking d || !((s.dom d).master == some port) || Decidable.decide (logInt < -7)
      || Decidable.decide (0 < logInt)) = false := by
    simp [ht, hm]; omega
  have outlier : ∀ n (y : Int), Nat.blt n (y - y).natAbs = false := fun n y => by rw [sub_self]; rfl
  have int : (s.advance t2).getInt (F.timDomAsymAsym d) = s.getInt (F.timDomAsymAsym d) := by
    simp only [State.getInt, State.get_advance]
  refine ⟨?T, ?f, ?off, ?eq⟩
  case eq =>
    rw [State.ptpSync, guard, if_neg Bool.false_ne_true]
    simp only [hx, outlier, Bool.false_eq_true, if_false, State.advance_tim_of_freerun hf, int, State.get_advance]
    rfl
  case off => exact State.advance_tim_of_freerun hf t2 ▸ rfl

theorem State.frame_acceptSync (x logInt : Int) :
    s.Frame (s.acceptSync d x logInt) [R.timDomOfs d, R.timDomCnt d] [.timers] :=
  (((State.Frame.refl s _ _).put (by simp [F.timDomOfsOfs])).sat (by simp [F.timDomCntSync])).arm (by simp)

theorem State.domOfs_acceptSync (x logInt : Int) : (s.acceptSync d x logInt).domOfs d = clampSigned 32 x := by
  have ofs : (s.acceptSync d x logInt).get (F.timDomOfsOfs d)
      = (s.put (F.timDomOfsOfs d) (unsignedOf 32 (clampSigned 32 x))).get (F.timDomOfsOfs d) := by
    rw [State.acceptSync, State.get_arm, State.get_sat_apart _ _ (timDomCntSync_apart d)]
  obtain ⟨lo, hi⟩ := clampSigned_bounds x
  rw [State.domOfs, State.getInt, ofs]
  exact State.getInt_put s rfl rfl lo hi

theorem State.count_acceptSync (x logInt : Int) :
    (s.acceptSync d x logInt).get (F.timDomCntSync d) = min (s.get (F.timDomCntSync d) + 1) (2 ^ 16 - 1) := by
  rw [State.acceptSync, State.get_arm, State.get_sat _ _ (by simp [F.timDomCntSync]),
    State.get_put_apart _ _ (.inl (by simp [F.timDomCntSync, F.timDomOfsOfs, R.timDomCnt, R.timDomOfs]))]
  rfl

/-- A first Sync is shown as TIM_DOM_OFS and counted, the Sync timer runs and off stays. -/
theorem State.ptpSync_first_shows {s : State} {d port t2 : Nat} {t1 corr logInt : Int} (ht : s.tracking d = true)
    (hm : (s.dom d).master = some port) (hx : (s.dom d).lastX = none) (lo : -7 ≤ logInt) (hi : logInt ≤ 0)
    (hf : s.tstate = TState.freerun) :
    ∃ t, s.ptpSync d port t1 corr t2 logInt = t ∧ s.Frame t [R.timDomOfs d, R.timDomCnt d] [.now, .tim, .timers]
      ∧ t.domOfs d = clampSigned 32 (s.syncX d t1 corr t2)
      ∧ t.get (F.timDomCntSync d) = min (s.get (F.timDomCntSync d) + 1) (2 ^ 16 - 1)
      ∧ t.armed (Timer.domSync d) = true ∧ t.tim.off = s.tim.off := by
  obtain ⟨T, f, off, e⟩ := State.ptpSync_first (corr := corr) (t1 := t1) (t2 := t2) ht hm hx lo hi hf
  have fw : s.Frame { s.advance t2 with tim := T } [] [.now, .tim] :=
    ((State.Frame.refl s _ _).advance (by simp) (by simp)).setTim (by simp)
  obtain ⟨w, hw⟩ : ∃ w, w = ({ s.advance t2 with tim := T } : State) := ⟨_, rfl⟩
  have kept : w.tim.off = s.tim.off := hw ▸ off
  rw [← hw] at e fw
  let u := w.acceptSync d (s.syncX d t1 corr t2) logInt
  have fu : w.Frame u [R.timDomOfs d, R.timDomCnt d] [.timers] := w.frame_acceptSync d _ _
  have ft : u.Frame (u.countsSync d) [] [.tim, .timers] := u.frame_countsSync d
  have frame : s.Frame (u.countsSync d) [R.timDomOfs d, R.timDomCnt d] [.now, .tim, .timers] :=
    ((fw.mono (by simp) (by simp)).andThen fu (fun _ => id) (by simp)).andThen ft (by simp) (by simp)
  have freerun : (u.countsSync d).tstate = TState.freerun :=
    (frame.get _ (by simp [F.timStatTstate, R.timStat, R.timDomOfs, R.timDomCnt]; omega)).trans hf
  have shown : u.domOfs d = clampSigned 32 (s.syncX d t1 corr t2) := w.domOfs_acceptSync d _ _
  refine ⟨u.countsSync d, by rw [e, State.followSync_of_freerun d freerun], frame, ?_, ?_, ?_, ?_⟩
  · rw [State.domOfs, State.getInt, ft.get _ (by simp)]
    exact shown
  · rw [ft.get _ (by simp), w.count_acceptSync, fw.get _ (by simp)]
  · rw [State.armed_countsSync]; exact State.armed_arm _ _ _
  · rw [State.countsSync_off, fu.tim (by simp), kept]

end

/-! Announce (R121, R124) -/

/-- The data set of the master that domain d shows. -/
def State.showMaster (s : State) (d : Nat) (a : Announce) : State :=
  ((s.put (F.timDomStatClass d) a.cls).put (F.timDomStatUtcOff d) (unsignedOf 16 a.utc)).put64 (R.timDomGmLo d)
    (R.timDomGmHi d) a.gm

/-- Domain d follows the sender of Announce a, heard twice. -/
def State.followMaster (s : State) (d : Nat) (a : Announce) : State :=
  ((s.setDom d { s.dom d with foreign := [⟨a, 2, s.now⟩], master := some a.port, logAnn := a.logInt }).showMaster d a).arm
    (Timer.domAnnounce d) (3 * logNs a.logInt)

section
variable {s : State} {d : Nat} {a : Announce} (hd : s.dstate d = DState.listening) (lo : -3 ≤ a.logInt) (hi : a.logInt ≤ 1)
include hd lo hi

theorem State.announce_heard : (Nat.beq (s.dstate d) DState.disabled || Decidable.decide (a.logInt < -3)
    || Decidable.decide (1 < a.logInt)) = false := by
  have outside : ¬ a.logInt < -3 ∧ ¬ 1 < a.logInt := by omega
  simp [hd, DState.listening, DState.disabled, outside, nat_beq_eq]

/-- The first Announce of a sender lists it. -/
theorem State.ptpAnnounce_first (hf : (s.dom d).foreign = []) :
    s.ptpAnnounce d a = s.setDom d { s.dom d with foreign := [⟨a, 1, s.now⟩] } := by
  have heard : hearForeign [] a s.now = [⟨a, 1, s.now⟩] := rfl
  have best : bestForeign [⟨a, 1, s.now⟩] = none := rfl
  simp only [State.ptpAnnounce, State.announce_heard hd lo hi, Bool.false_eq_true, if_false, hf, heard, best]

/-- The second Announce of the one sender in time makes it the master, and the domain UNCALIBRATED. -/
theorem State.ptpAnnounce_second {l : Nat} (hf : (s.dom d).foreign = [⟨a, 1, l⟩]) (hl : s.now - l ≤ 4 * logNs a.logInt) :
    s.ptpAnnounce d a = (s.followMaster d a).domUncal d := by
  have heard : hearForeign [⟨a, 1, l⟩] a s.now = [⟨a, 2, s.now⟩] := by
    simp [hearForeign, Nat.sub_le_iff_le_add.mp hl]
  have best : bestForeign [⟨a, 2, s.now⟩] = some ⟨a, 2, s.now⟩ := rfl
  have listening : Nat.beq (s.dstate d) DState.listening = true := by rw [hd]; rfl
  have same : Nat.beq a.port a.port = true := by simp
  simp only [State.ptpAnnounce, State.announce_heard hd lo hi, Bool.false_eq_true, if_false, hf, heard, best, listening, same,
    if_true]
  rfl

end

section
variable (s : State) (d : Nat) (a : Announce)

theorem State.frame_showMaster : s.Frame (s.showMaster d a) [R.timDomStat d, R.timDomGmLo d, R.timDomGmHi d] [] :=
  (((State.Frame.refl s _ _).put (by simp [F.timDomStatClass])).put (by simp [F.timDomStatUtcOff])).put64 (by simp) (by simp)

/-- The fields of TIM_DOM_STAT do not lie in the grandmaster's words. -/
theorem State.get_showMaster {g : Fld} (hg : g.addr = R.timDomStat d) : (s.showMaster d a).get g
    = ((s.put (F.timDomStatClass d) a.cls).put (F.timDomStatUtcOff d) (unsignedOf 16 a.utc)).get g :=
  State.get_of_word _ (State.word_put64_ne _ _ (by rw [hg]; simp [R.timDomGmLo, R.timDomStat])
    (by rw [hg]; simp [R.timDomGmHi, R.timDomStat]))

theorem State.dstate_showMaster : (s.showMaster d a).dstate d = s.dstate d := by
  rw [State.dstate, State.get_showMaster _ _ _ rfl,
    State.get_put_apart _ _ (.inr (.inl (by simp [F.timDomStatDstate, F.timDomStatUtcOff]))),
    State.get_put_apart _ _ (.inr (.inl (by simp [F.timDomStatDstate, F.timDomStatClass])))]
  rfl

theorem State.class_showMaster : (s.showMaster d a).get (F.timDomStatClass d) = a.cls % 256 := by
  rw [State.get_showMaster _ _ _ rfl, State.get_put_apart _ _ (.inr (.inl (by simp [F.timDomStatClass, F.timDomStatUtcOff]))),
    State.get_put _ _ _ (by simp [F.timDomStatClass])]
  rfl

theorem State.gm_showMaster : (s.showMaster d a).get64 (R.timDomGmLo d) (R.timDomGmHi d) = a.gm % 2 ^ 64 :=
  State.get64_put64 _ _ (by simp [R.timDomGmLo, R.timDomGmHi])

theorem State.frame_followMaster :
    s.Frame (s.followMaster d a) [R.timDomStat d, R.timDomGmLo d, R.timDomGmHi d] [.tim, .timers] :=
  (((State.Frame.refl s _ _).setDom (by simp)).andThen (State.frame_showMaster _ d a) (fun _ => id) (by simp)).arm (by simp)

theorem State.dstate_followMaster : (s.followMaster d a).dstate d = s.dstate d := by
  rw [State.followMaster, State.dstate, State.get_arm]
  exact State.dstate_showMaster _ d a

theorem State.class_followMaster : (s.followMaster d a).get (F.timDomStatClass d) = a.cls % 256 := by
  rw [State.followMaster, State.get_arm, State.class_showMaster]

theorem State.gm_followMaster : (s.followMaster d a).get64 (R.timDomGmLo d) (R.timDomGmHi d) = a.gm % 2 ^ 64 := by
  rw [State.followMaster, State.get64_arm, State.gm_showMaster]

theorem State.master_followMaster : ((s.followMaster d a).dom d).master = some a.port := by
  rw [State.followMaster, State.dom_arm]
  exact congrArg Dom.master (State.dom_setDom s d _)

theorem State.armed_followMaster : (s.followMaster d a).armed (Timer.domAnnounce d) = true := by
  rw [State.followMaster, State.armed_arm]

end

/-! Delay_Req and Delay_Resp (R121, R123) -/

section
variable {s : State} {d : Nat}

/-- A Delay_Resp after a Sync and a Delay_Req moves the mean path delay by a sixteenth of the difference. -/
theorem State.ptpDelayResp_eq {t4 corr logInt t3 u1 u2 : Int} (ht : s.tracking d = true) (hs : (s.dom d).sync = some (u1, u2))
    (h3 : (s.dom d).t3 = some t3) {mpd : Int}
    (hm : mpd = (s.dom d).mpd + (((u2 - u1) + (t4 - corr - t3)) / 2 - (s.dom d).mpd) / 16) :
    s.ptpDelayResp d t4 corr logInt = (s.setDom d { s.dom d with mpd := mpd, t3 := none, logDreq := some logInt }).put
      (F.timDomMpdMpd d) (unsignedOf 32 (clampSigned 32 mpd)) := by
  subst hm
  simp only [State.ptpDelayResp, hs, h3, ht, if_true]

/-- A Delay_Req of a tracking domain is stamped at its instant, and its interval runs again. -/
theorem State.ptpDelayReq_eq (ht : s.tracking d = true) (ha : s.armed (Timer.domDreq d) = true) : s.ptpDelayReq d =
    let u := s.expired (Timer.domDreq d)
    (u.setDom d { u.dom d with t3 := some ((u.now : Int) + (u.get (F.timDomLatEgrLat d) : Int)) }).arm (Timer.domDreq d)
      (u.dom d).dreqNs := by
  have tracks : (s.expired (Timer.domDreq d)).tracking d = true := by
    rw [State.tracking, State.dstate, State.get_expired]; exact ht
  simp only [State.ptpDelayReq, State.fire_of_armed ha, tracks, if_true]

end

/-- Settles O20 (R121, R123, R124). -/
theorem ptpMessages : Obligations.PtpMessages := by
  intro s d port t2 l t1 corr logInt t4 t3 u1 u2 a hd
  have hm : d % 2 = d := Nat.mod_eq_of_lt hd
  refine ⟨fun ht hm' hx lo hi hf => ?_, fun hl lo hi => ⟨fun hf => ?_, fun hf hnow => ?_⟩,
    fun ht hs h3 => ?_, fun ht ha => ?_⟩
  · obtain ⟨t, e, shown⟩ := State.ptpSync_first_shows (corr := corr) (t1 := t1) (t2 := t2) ht hm' hx lo hi hf
    exact ⟨t, by simp only [exec, execPtpSyncReceived, hm, e], shown⟩
  · refine ⟨s.ptpAnnounce d a, by simp only [exec, execPtpAnnounceReceived, hm], ?_⟩
    rw [State.ptpAnnounce_first hl lo hi hf]
    exact ⟨(State.Frame.refl s _ _).setDom (by simp), by rw [State.dom_setDom], by rw [State.dom_setDom]⟩
  · have fv := s.frame_followMaster d a
    have cls := s.class_followMaster d a
    have gm := s.gm_followMaster d a
    have master := s.master_followMaster d a
    have announce := s.armed_followMaster d a
    have result : s.ptpAnnounce d a = ((s.followMaster d a).uncalibrated d).refreshFreq := by
      rw [State.ptpAnnounce_second hl lo hi hf hnow, State.domUncal_eq]
      intro qualified
      rw [State.dstate_followMaster, hl] at qualified
      exact absurd qualified (by decide)
    refine ⟨s.ptpAnnounce d a, by simp only [exec, execPtpAnnounceReceived, hm], ?_⟩
    rw [result]
    generalize s.followMaster d a = v at *
    have frame := v.frame_entered d (v.frame_uncalibrated d)
    refine ⟨?_, ?_, ?_, ?_, ?_, ?_, ?_⟩
    · exact (fv.mono (by simp) (by simp)).andThen frame (by simp) (by simp)
    · rw [State.dstate_refreshFreq, State.dstate_uncalibrated]
    · rw [State.dom_refreshFreq, State.dom_uncalibrated]; exact master
    · rw [State.class_entered, cls]
    · rw [frame.get64 (by simp [R.timDomGmLo, R.timDomStat, R.timStat, R.selEvtOvf]; omega)
        (by simp [R.timDomGmHi, R.timDomStat, R.timStat, R.selEvtOvf]; omega), gm]
    · rw [State.armed_refreshFreq, State.armed_uncalibrated_announce, announce]
    · rw [State.armed_refreshFreq, State.armed_uncalibrated_sync]
  · refine ⟨s.ptpDelayResp d t4 corr logInt, by simp only [exec, execPtpDelayRespReceived, hm], ?_⟩
    rw [State.ptpDelayResp_eq ht hs h3 rfl]
    generalize (s.dom d).mpd + (((u2 - u1) + (t4 - corr - t3)) / 2 - (s.dom d).mpd) / 16 = mpd
    obtain ⟨lo, hi⟩ := clampSigned_bounds mpd
    have tracker : ∀ x n, ((s.setDom d x).put (F.timDomMpdMpd d) n).dom d = x := fun x n => State.dom_setDom s d x
    dsimp only
    rw [tracker]
    exact ⟨((State.Frame.refl s _ _).setDom (by simp)).put (by simp [F.timDomMpdMpd]), rfl,
      State.getInt_put _ rfl rfl lo hi, rfl⟩
  · refine ⟨s.ptpDelayReq d, by simp only [exec, execPtpDelayReqSend, hm], ?_⟩
    rw [State.ptpDelayReq_eq ht ha]
    dsimp only
    rw [State.dom_arm, State.dom_setDom, State.get_expired, State.armed_arm]
    exact ⟨(((s.frame_expired _).mono (by simp) (by simp)).setDom (by simp)).arm (by simp), rfl, rfl⟩

end Sys2Proof.Machine
end

