-- ==== Sys2Proof/Proofs/PtpDomainStates.lean ====
section
/-!
SUPPORT. Sys2Proof/Proofs/PtpDomainStates.lean: a domain qualifies, times out, is enabled and disabled; the statement
of O21 settled.
-/

namespace Sys2Proof.Machine

/-! Qualification (R124, R126) -/

/-- What the first qualification in FREERUN shows. -/
theorem State.select_first_shows {s : State} {d old : Nat} (hd : d < 2) (hq : s.qualified d = true)
    (ho : old ≠ DState.qualified) (hf : s.tstate = TState.freerun) (ha : s.tim.acq = false) :
    ∃ t, s.select d old = t ∧ s.Frame t [R.timStat, R.selEvtOvf] [.tim, .arb] ∧ t.is F.timStatArmReady = true
      ∧ t.selected = d ∧ t.tim.acq = true ∧ t.tstate = TState.freerun := by
  obtain ⟨T, acq, e⟩ := State.select_first s d old hq ho hf ha
  obtain ⟨u, hu⟩ : ∃ u, u = State.flag { s with tim := { s.tim with everQual := true } } F.timStatArmReady true :=
    ⟨_, rfl⟩
  have fu : s.Frame u [R.timStat, R.selEvtOvf] [.tim, .arb] :=
    hu ▸ ((State.Frame.refl s _ _).setTim (by simp)).flag (by decide)
  have ready : u.get F.timStatArmReady = 1 := hu ▸ State.get_flag _ _ _ (by decide) rfl
  have freerun : u.tstate = TState.freerun := by
    rw [hu, State.tstate, State.get_flag_apart _ _ (by decide)]
    exact hf
  rw [← hu] at e
  refine ⟨_, e, ?_, ?_, ?_, ?_, ?_⟩
  · exact ((fu.andThen (u.frame_setSelected d) (fun _ => id) (by simp)).setTim (by simp)).andThen
      (State.frame_refreshFreq _) (by simp) (by simp)
  · rw [State.is, State.get_refreshFreq _ (by decide), State.get_setTim, State.get_setSelected _ _ (by decide) (by decide),
      ready]
    rfl
  · rw [State.selected_refreshFreq]
    exact u.selected_setSelected d hd
  · obtain ⟨x, ex⟩ := State.refreshFreq_tim { u.setSelected d with tim := T }
    rw [ex]
    exact acq
  · rw [State.tstate_refreshFreq]
    exact (u.get_setSelected d (by decide) (by decide)).trans freerun

/-- Outside ARM nothing ends it (R536). -/
theorem State.armCheck_of_mode {s : State} (h : s.mode ≠ Mode.arm) : s.armCheck = s := by
  simp [State.armCheck, nat_beq_eq, h]

section
variable {s : State} {d : Nat}

/-- A count with a Sync in every interval makes the domain QUALIFIED (R124). -/
theorem State.ptpQualified_eq (ha : s.armed (Timer.domQual d) = true) (hd : s.dstate d = DState.uncalibrated)
    (hn : 10000000000 / max 1 (s.dom d).syncNs ≤ (s.dom d).qNext) : s.ptpQualified d =
    ((s.expired (Timer.domQual d)).moveTo (F.timDomStatDstate d) DState.qualified 7 1 d 4 0).select d DState.uncalibrated := by
  have state : Nat.beq ((s.expired (Timer.domQual d)).dstate d) DState.uncalibrated = true := by
    rw [State.dstate, State.get_expired, nat_beq_eq, decide_eq_true_eq]
    exact hd
  have syncs : Nat.ble (10000000000 / max 1 ((s.expired (Timer.domQual d)).dom d).syncNs)
      ((s.expired (Timer.domQual d)).dom d).qNext = true := by
    rw [State.dom_expired]
    exact Nat.ble_eq_true_of_le hn
  simp only [State.ptpQualified, State.fire_of_armed ha, state, syncs, if_true]

end

/-! Timeouts (R124) -/

/-- A timeout of domain d: its timer has expired and TIMEOUT has counted it. -/
def State.timedOut (s : State) (d k : Nat) : State := (s.expired k).sat (F.timDomCntTimeout d) 1

section
variable (s : State) (d k : Nat)

theorem State.frame_timedOut : s.Frame (s.timedOut d k) [R.timDomCnt d] [.now, .tim, .timers] :=
  ((s.frame_expired k).mono (by simp) (fun _ => id)).sat (by simp [F.timDomCntTimeout])

theorem State.dstate_timedOut : (s.timedOut d k).dstate d = s.dstate d :=
  (s.frame_timedOut d k).get _ (by simp [F.timDomStatDstate, R.timDomStat, R.timDomCnt])

theorem State.count_timedOut : (s.timedOut d k).get (F.timDomCntTimeout d) = min (s.get (F.timDomCntTimeout d) + 1) 255 := by
  rw [State.timedOut, State.get_sat _ _ (by simp [F.timDomCntTimeout]), State.get_expired]
  rfl

theorem State.stat_timedOut : (s.timedOut d k).tstate = s.tstate ∧ (s.timedOut d k).selected = s.selected := by
  have stat : R.timStat ∉ [R.timDomCnt d] := by simp [R.timStat, R.timDomCnt]; omega
  exact ⟨(s.frame_timedOut d k).get _ stat, (s.frame_timedOut d k).get _ stat⟩

/-- What follows a timeout of a domain that then moves no selection. -/
theorem State.entered_timedOut {u : State}
    (h : (s.timedOut d k).Frame u [R.timDomStat d, R.selEvtOvf] [.tim, .timers, .arb]) :
    s.Frame u.refreshFreq [R.timDomCnt d, R.timDomStat d, R.timStat, R.selEvtOvf] [.now, .tim, .timers, .arb]
      ∧ u.refreshFreq.get (F.timDomCntTimeout d) = min (s.get (F.timDomCntTimeout d) + 1) 255
      ∧ u.refreshFreq.tstate = s.tstate ∧ u.refreshFreq.selected = s.selected := by
  have frame := State.frame_entered _ d h
  obtain ⟨tstate, selected⟩ := State.stat_entered _ d h
  obtain ⟨tstate', selected'⟩ := s.stat_timedOut d k
  exact ⟨((s.frame_timedOut d k).mono (by simp) (by simp)).andThen frame (by simp) (by simp),
    (frame.get _ (timDomCnt_not_mem d)).trans (s.count_timedOut d k), tstate.trans tstate', selected.trans selected'⟩

variable {s d}

theorem State.tracking_expired (h : s.tracking d = true) : (s.expired k).tracking d = true := by
  rw [State.tracking, State.dstate, State.get_expired]
  exact h

theorem State.ptpAnnounceTimeout_eq (ha : s.armed (Timer.domAnnounce d) = true) (ht : s.tracking d = true) :
    s.ptpAnnounceTimeout d = (s.timedOut d (Timer.domAnnounce d)).domListen d := by
  simp only [State.ptpAnnounceTimeout, State.fire_of_armed ha, State.tracking_expired _ ht, if_true]
  rfl

theorem State.ptpSyncTimeout_eq (ha : s.armed (Timer.domSync d) = true) (ht : s.tracking d = true) :
    s.ptpSyncTimeout d = (s.timedOut d (Timer.domSync d)).domUncal d := by
  simp only [State.ptpSyncTimeout, State.fire_of_armed ha, State.tracking_expired _ ht, if_true]
  rfl

theorem State.tracking_of_dstate {x : Nat} (h : s.dstate d = x) (hx : 2 ≤ x) : s.tracking d = true := by
  rw [State.tracking, h]
  exact Nat.ble_eq_true_of_le hx

end

/-! TIM_DOM_CFG (R124) -/

theorem findReg_timDomCfg : ∀ d < 2, findReg (R.timDomCfg d) = some ⟨R.timDomCfg 0, (0x100, 2), (4, 1),
    [⟨0, 8, .rw, .any, true⟩, ⟨8, 8, .rw, .any, true⟩, ⟨16, 12, .rw, .any, true⟩, ⟨28, 1, .rw, .any, true⟩,
      ⟨29, 1, .rw, .any, true⟩]⟩ := by
  decide +kernel

theorem State.dstate_store_timDomCfg (s : State) (d : Nat) (v : Word) :
    (s.store (R.timDomCfg d) v allBits).dstate d = s.dstate d :=
  ((State.Frame.refl s [R.timDomCfg d] []).store (by simp)).get _ (by simp [F.timDomStatDstate, R.timDomStat, R.timDomCfg])

section
variable (s : State) {d : Nat} (hd : d < 2) (v : Word)
include hd

/-- EN takes the bit that is written. -/
theorem State.en_store_timDomCfg {x : Nat} (hx : x < 2) :
    (s.store (R.timDomCfg d) (setBitsAt v 29 1 x) allBits).get (F.timDomCfgEn d) = x := by
  simp only [State.store, findReg_timDomCfg d hd, maskWrite_allBits, State.get, F.timDomCfgEn, State.word_setWord]
  simp [writeFields, writePlain, writeRanged, Rng.takes, bitsAt_setBitsAt_ne, Nat.mod_eq_of_lt hx]

/-- EN = 1 takes a DISABLED domain to LISTENING. -/
theorem State.writeDomCfg_enable (hs : s.dstate d = DState.disabled) : s.writeDomCfg d (setBitsAt v 29 1 1) =
    ((s.store (R.timDomCfg d) (setBitsAt v 29 1 1) allBits).listening d).refreshFreq := by
  have state := (s.dstate_store_timDomCfg d (setBitsAt v 29 1 1)).trans hs
  have en : (s.store (R.timDomCfg d) (setBitsAt v 29 1 1) allBits).is (F.timDomCfgEn d) = true := by
    rw [State.is, s.en_store_timDomCfg hd v (by decide)]; rfl
  rw [State.writeDomCfg, State.domCfgEffect, en, if_pos rfl, state, Nat.beq_refl, if_pos rfl,
    State.domListen_eq (by rw [state]; decide)]

/-- EN = 0 takes a domain that is LISTENING or UNCALIBRATED to DISABLED. -/
theorem State.writeDomCfg_disable (hs : s.dstate d = DState.listening ∨ s.dstate d = DState.uncalibrated) :
    s.writeDomCfg d (setBitsAt v 29 1 0) =
      ((s.store (R.timDomCfg d) (setBitsAt v 29 1 0) allBits).disabled d).refreshFreq := by
  have state := s.dstate_store_timDomCfg d (setBitsAt v 29 1 0)
  have en : (s.store (R.timDomCfg d) (setBitsAt v 29 1 0) allBits).is (F.timDomCfgEn d) = false := by
    rw [State.is, s.en_store_timDomCfg hd v (by decide)]; rfl
  have on : Nat.beq (s.dstate d) DState.disabled = false := by rcases hs with e | e <;> rw [e] <;> rfl
  have other : s.dstate d ≠ DState.qualified := by rcases hs with e | e <;> rw [e] <;> decide
  rw [State.writeDomCfg, State.domCfgEffect, en, if_neg Bool.false_ne_true, state, on, if_neg Bool.false_ne_true,
    State.domDisable_eq (state ▸ other)]

end

/-- A write of TIM_DOM_CFG, taken at once, by which the domain enters another state and moves no selection: EN shows the bit
written. -/
theorem State.timDomCfg_taken {s : State} {h d x : Nat} {v : Word} {enter : State → State} (hr : s.Ready h) (hd : d < 2)
    (hx : x < 2) (fe : ∀ u : State, u.Frame (enter u) [R.timDomStat d, R.selEvtOvf] [.tim, .timers, .arb])
    (he : ∀ t : State, t.dstate d = s.dstate d → t.writeDomCfg d (setBitsAt v 29 1 x)
      = (enter (t.store (R.timDomCfg d) (setBitsAt v 29 1 x) allBits)).refreshFreq) :
    ∃ u, s.takeWrite h (R.timDomCfg d) (setBitsAt v 29 1 x) false (fun s => s.writeDomCfg d (setBitsAt v 29 1 x))
        = (enter u).refreshFreq
      ∧ s.Frame (enter u).refreshFreq (R.hstCntWrites h :: [R.timDomCfg d, R.timDomStat d, R.timStat, R.selEvtOvf])
          (takingParts ++ [.timers])
      ∧ (enter u).refreshFreq.get (F.timDomCfgEn d) = x := by
  obtain ⟨t, taken, act⟩ := State.takeWrite_ready (R.timDomCfg d) (setBitsAt v 29 1 x) false
    (fun s => s.writeDomCfg d (setBitsAt v 29 1 x)) hr
  have port : h < 4 := hr.2.1
  have count : R.timDomStat d ∉ [R.hstCntWrites h] := by simp [R.timDomStat, R.hstCntWrites]; omega
  let u := t.store (R.timDomCfg d) (setBitsAt v 29 1 x) allBits
  have entered := State.frame_entered u d (fe u)
  refine ⟨u, act.trans (he t (taken.frame.get _ count)), ?_, ?_⟩
  · exact ((taken.frame.mono (by simp) (by simp; tauto)).store (by simp)).andThen entered (by simp) (by simp [takingParts])
  · rw [entered.get _ (timDomCfg_not_mem d)]
    exact t.en_store_timDomCfg hd v hx

/-- Settles O21 (R124, R126, R133). -/
theorem ptpDomainStates : Obligations.PtpDomainStates := by
  intro s h d v hd
  have hm : d % 2 = d := Nat.mod_eq_of_lt hd
  refine ⟨fun ha hs hmode hn hf hacq => ?_, fun ha hs => ?_, fun ha hs hsel => ?_, fun hr hs => ?_, fun hr hs => ?_⟩
  · let u := (s.expired (Timer.domQual d)).moveTo (F.timDomStatDstate d) DState.qualified 7 1 d 4 0
    have fu : s.Frame u [R.timDomStat d, R.selEvtOvf] [.now, .tim, .timers, .arb] :=
      ((s.frame_expired _).mono (by simp) (by simp)).moveTo (by simp [F.timDomStatDstate]) (by simp) (by simp)
    have state : u.dstate d = DState.qualified := State.dstate_moveTo _ d (by decide)
    have freerun : u.tstate = TState.freerun := (fu.get _ (timStat_not_mem d)).trans hf
    have acq : u.tim.acq = false := by
      rw [State.moveTo_tim]
      exact (congrArg TimSt.acq (State.advance_tim_of_freerun hf _)).trans hacq
    obtain ⟨t, e, frame, ready, selected, due, tstate⟩ :=
      State.select_first_shows (old := DState.uncalibrated) hd (State.qualified_eq_true state) (by decide) freerun acq
    have all : s.Frame t [R.timDomStat d, R.timStat, R.selEvtOvf] [.now, .tim, .timers, .arb] :=
      (fu.mono (by simp) (fun _ => id)).andThen frame (by simp) (by simp)
    have mode : t.mode ≠ Mode.arm := by
      rwa [State.mode, all.get _ (by simp [F.sysModeMode, R.sysMode, R.timDomStat, R.timStat, R.selEvtOvf]; omega)]
    refine ⟨t, ?_, all, ?_, ready, selected, due, tstate⟩
    · simp only [exec, execPtpQualificationComplete, hm]
      rw [State.ptpQualified_eq ha hs hn, e, State.armCheck_of_mode mode]
    · exact (frame.get _ (by simp [F.timDomStatDstate, timDomStat_ne_timStat, timDomStat_ne_selEvtOvf])).trans state
  · let u := s.timedOut d (Timer.domAnnounce d)
    have tracks : s.tracking d = true := State.tracking_of_dstate hs (by decide)
    have state : u.dstate d ≠ DState.qualified := by rw [State.dstate_timedOut, hs]; decide
    obtain ⟨frame, count, tstate, -⟩ := State.entered_timedOut _ d _ (u.frame_listening d)
    refine ⟨s.ptpAnnounceTimeout d, by simp only [exec, execPtpAnnounceTimeout, hm], ?_⟩
    rw [State.ptpAnnounceTimeout_eq ha tracks, State.domListen_eq state]
    exact ⟨frame, by rw [State.dstate_refreshFreq, State.dstate_listening], by rw [State.dom_refreshFreq, State.dom_listening],
      count, tstate⟩
  · let u := s.timedOut d (Timer.domSync d)
    have tracks : s.tracking d = true := State.tracking_of_dstate hs (by decide)
    have unselected : d ≠ u.selected := by rw [(s.stat_timedOut d _).2]; exact Ne.symm hsel
    obtain ⟨frame, count, tstate, selected⟩ := State.entered_timedOut _ d _ (u.frame_uncalibrated d)
    refine ⟨s.ptpSyncTimeout d, by simp only [exec, execPtpSyncTimeout, hm], ?_⟩
    rw [State.ptpSyncTimeout_eq ha tracks, State.domUncal_eq (fun _ => unselected)]
    exact ⟨frame, by rw [State.dstate_refreshFreq, State.dstate_uncalibrated], count,
      by rw [State.armed_refreshFreq, State.armed_uncalibrated_sync], selected, tstate⟩
  · obtain ⟨u, e, frame, en⟩ := State.timDomCfg_taken (v := v) (x := 1) hr hd (by decide)
      (fun u => u.frame_listening d) (fun t same => t.writeDomCfg_enable hd v (same.trans hs))
    refine ⟨_, by simp only [exec, execPtpDomainEnable, hm, e], frame, ?_, ?_⟩
    · rw [State.is, en]; rfl
    · rw [State.dstate_refreshFreq, State.dstate_listening]
  · obtain ⟨u, e, frame, en⟩ := State.timDomCfg_taken (v := v) (x := 0) hr hd (by decide)
      (fun u => u.frame_disabled d) (fun t same => t.writeDomCfg_disable hd v (same.symm ▸ hs))
    refine ⟨_, by simp only [exec, execPtpDomainDisable, hm, e], frame, ?_, ?_⟩
    · rw [State.is, en]; rfl
    · rw [State.dstate_refreshFreq, State.dstate_disabled]

end Sys2Proof.Machine
end

