-- ==== Sys2Proof/Proofs/TimeSelection.lean ====
section
/-!
SUPPORT. Sys2Proof/Proofs/TimeSelection.lean: the acquisition step, the slew and its ends, and the FORCE of TIM_CTL; the
statement of O22 settled.
-/

namespace Sys2Proof.Machine

/-! The acquisition step (R118) -/

section
variable (s : State)

/-- The acquisition step by x: off moves by x at once, and nothing remains. -/
def State.stepped (x : Int) : State :=
  { s with tim := { s.tim with off := s.tim.off + x, rem := 0, slewAcc := 0, acq := false } }

theorem State.offsetOf_of_same {s t : State} (hr : t.regs = s.regs) (ht : t.tim = s.tim) (d : Nat) :
    t.offsetOf d = s.offsetOf d := by
  have ofs : t.domOfs d = s.domOfs d := by rw [State.domOfs, State.getInt, State.get_of_regs _ hr]; rfl
  have dom : t.dom d = s.dom d := State.dom_of_tim (by rw [ht]) d
  simp only [State.offsetOf, ofs, dom, ht]

/-- Within the range of TIM_DOM_OFS the register holds the whole offset, and at its ends the last accepted x does (log 91). -/
theorem State.off_add_offsetOf {d n : Nat} {y : Int} (hx : (s.dom d).lastX = some (y, n))
    (hd : s.domOfs d = clampSigned 32 (y - s.tim.off)) : s.tim.off + s.offsetOf d = y := by
  simp only [State.offsetOf, hx]
  split_ifs with inside
  · simp only [hd, clampSigned, Bool.and_eq_true, decide_eq_true_eq] at inside ⊢
    omega
  · omega

/-- ACQUISITION_STEP in FREERUN with the step due: off steps at the tick, TSTATE becomes LOCKED. -/
theorem State.acquisition_eq {s : State} (ha : s.tim.acq = true) (hf : s.tstate = TState.freerun) : s.acquisition =
    (((s.tick.stepped (s.offsetOf s.selected)).stateEv 7 5 s.selected (unsignedOf 64 (s.offsetOf s.selected))).moveTo
      F.timStatTstate TState.locked 7 3 0 4 0).refreshFreq := by
  have guard : (s.tim.acq && Nat.beq s.tstate TState.freerun) = true := by rw [ha, hf]; rfl
  have selected : s.tick.selected = s.selected := State.get_advance _ _ _
  have offset : s.tick.offsetOf s.selected = s.offsetOf s.selected :=
    State.offsetOf_of_same (State.advance_regs _ _) (State.advance_tim_of_freerun hf _) _
  have freerun : ∀ x, ((s.tick.stepped x).stateEv 7 5 s.selected (unsignedOf 64 x)).tstate = TState.freerun := fun x => by
    rw [State.tstate, State.get_stateEv _ _ _ _ _ (by decide)]
    exact (State.get_advance s _ F.timStatTstate).trans hf
  have e : s.acquisition = (((s.tick.stepped (s.tick.offsetOf s.tick.selected)).stateEv 7 5 s.tick.selected
      (unsignedOf 64 (s.tick.offsetOf s.tick.selected))).setTstate TState.locked).refreshFreq := if_pos guard
  rw [e, selected, offset, State.setTstate_eq_moveTo _ _ (by rw [freerun]; decide) (by decide)]

section
variable {s : State} (ha : s.tim.acq = true) (hf : s.tstate = TState.freerun)
include ha hf

theorem State.frame_acquisition : s.Frame s.acquisition [R.timStat, R.selEvtOvf] [.now, .tim, .arb] := by
  rw [State.acquisition_eq ha hf]
  have stepped : s.Frame (s.tick.stepped (s.offsetOf s.selected)) [R.timStat, R.selEvtOvf] [.now, .tim, .arb] :=
    ((State.Frame.refl s _ _).advance (by simp) (by simp)).setTim (by simp)
  exact ((stepped.stateEv (by simp) (by simp)).moveTo (by decide) (by simp) (by simp)).andThen (State.frame_refreshFreq _)
    (by simp) (by simp)

/-- The acquisition step moves off by the offset of the selected domain, and nothing remains. -/
theorem State.acquisition_tim : s.acquisition.tim.off = s.tim.off + s.offsetOf s.selected ∧ s.acquisition.tim.rem = 0
    ∧ s.acquisition.tim.acq = false := by
  have tick : s.tick.tim = s.tim := State.advance_tim_of_freerun hf _
  rw [State.acquisition_eq ha hf]
  obtain ⟨x, e⟩ := State.refreshFreq_tim (((s.tick.stepped (s.offsetOf s.selected)).stateEv 7 5 s.selected
    (unsignedOf 64 (s.offsetOf s.selected))).moveTo F.timStatTstate TState.locked 7 3 0 4 0)
  rw [e, State.moveTo_tim, State.stateEv_tim]
  simp only [State.stepped, tick, and_self]

/-- The acquisition step leaves the selection and makes the time state LOCKED. -/
theorem State.acquisition_stat : s.acquisition.tstate = TState.locked ∧ s.acquisition.selected = s.selected := by
  rw [State.acquisition_eq ha hf, State.tstate_refreshFreq, State.selected_refreshFreq]
  constructor
  · exact State.get_moveTo _ _ _ _ _ _ (by decide) (by decide) (by decide)
  · rw [State.selected, State.get_moveTo_apart _ _ _ _ _ _ _ (by decide) (by decide), State.get_stateEv _ _ _ _ _ (by decide)]
    exact State.get_advance _ _ _

end

end

/-! Slewing (R117, R119, R120) -/

theorem State.advance_of_le {s : State} {x : Nat} (h : x ≤ s.now) : s.advance x = s := if_pos (Nat.ble_eq_true_of_le h)

section
variable {s : State} (hs : s.tstate = TState.slewing)
include hs

/-- What remains after time has passed to x while off slews. -/
theorem State.advance_rem {x : Nat} (hx : s.now < x) : (s.advance x).tim.rem.natAbs
    = s.tim.rem.natAbs - (s.tim.slewAcc + (x - s.now) * s.get F.timCtlSlewMax) / 1000000000 := by
  have later : Nat.ble x s.now = false := by
    rw [Bool.eq_false_iff]
    exact fun h => absurd (Nat.le_of_ble_eq_true h) (by omega)
  have slews : (Nat.beq (s.get F.timStatTstate) 1 || Nat.beq (s.get F.timStatTstate) 2) = true := by
    rw [show s.get F.timStatTstate = 2 from hs]; rfl
  simp only [State.advance, later, slews, Bool.false_eq_true, if_false, if_true]
  generalize (s.tim.slewAcc + (x - s.now) * s.get F.timCtlSlewMax) / 1000000000 = n
  split <;> omega

/-- After the time that off needs to slew until n ns remain, at most n ns remain. -/
theorem State.slewTime_rem (hm : s.get F.timCtlSlewMax ≠ 0) (ha : s.tim.slewAcc < 1000000000) (n : Nat) :
    (s.advance (s.now + s.slewTime n)).tim.rem.natAbs ≤ n := by
  rcases le_or_gt s.tim.rem.natAbs n with near | far
  · have none : s.slewTime n = 0 := by
      rw [State.slewTime, Nat.sub_eq_zero_of_le near, Nat.zero_mul, Nat.zero_sub, Nat.zero_add]
      exact Nat.div_eq_of_lt (by omega)
    rw [none, Nat.add_zero, State.advance_of_le (Nat.le_refl _)]
    exact near
  · have key : (s.tim.rem.natAbs - n) * 1000000000 ≤ s.tim.slewAcc + s.slewTime n * s.get F.timCtlSlewMax := by
      have h := Nat.div_add_mod ((s.tim.rem.natAbs - n) * 1000000000 - s.tim.slewAcc + s.get F.timCtlSlewMax - 1)
        (s.get F.timCtlSlewMax)
      have lt := Nat.mod_lt ((s.tim.rem.natAbs - n) * 1000000000 - s.tim.slewAcc + s.get F.timCtlSlewMax - 1)
        (Nat.pos_of_ne_zero hm)
      rw [Nat.mul_comm] at h
      unfold State.slewTime
      omega
    have pos : 0 < s.slewTime n := by
      rcases Nat.eq_zero_or_pos (s.slewTime n) with e | e
      · rw [e] at key; omega
      · exact e
    rw [State.advance_rem hs (by omega), Nat.add_sub_cancel_left]
    omega

/-- SLEW_COMPLETE with SLEW_MAX not 0: at most 10 ns remain as TSTATE becomes LOCKED and FAR follows. -/
theorem State.slewComplete_eq (hm : s.get F.timCtlSlewMax ≠ 0) (ha : s.tim.slewAcc < 1000000000) :
    ∃ u, s.Frame u [] [.now, .tim] ∧ u.tim.rem.natAbs ≤ 10
      ∧ s.slewComplete = (u.moveTo F.timStatTstate TState.locked 7 3 0 4 0).setFar := by
  obtain ⟨t, et⟩ : ∃ t, t = if Nat.ble s.tim.rem.natAbs 10 then s else s.advance (s.now + s.slewTime 10) := ⟨_, rfl⟩
  have ft : s.Frame t [] [.now, .tim] := by
    rw [et]
    exact (State.Frame.refl s _ _).ite ((State.Frame.refl s _ _).advance (by simp) (by simp))
  have near : t.tim.rem.natAbs ≤ 10 := by
    rw [et]
    split
    · next h => exact Nat.le_of_ble_eq_true h
    · exact State.slewTime_rem hs hm ha 10
  have fu : s.Frame (t.cond t.mayStep State.lastStep) [] [.now, .tim] :=
    ft.cond (fun u h => h.andThen u.frame_lastStep (by simp) (by simp))
  have slewing : (t.cond t.mayStep State.lastStep).tstate ≠ TState.holdover := by
    rw [State.tstate, fu.get _ (by simp)]
    exact fun h => absurd (hs.symm.trans h) (by decide)
  have guard : (Nat.beq s.tstate TState.slewing && !Nat.beq (s.get F.timCtlSlewMax) 0) = true := by
    rw [hs]; simp [nat_beq_eq, hm]
  refine ⟨t.cond t.mayStep State.lastStep, fu, ?_, ?_⟩
  · rw [State.cond]
    split
    · rw [State.lastStep_rem]; decide
    · exact near
  · rw [← State.setTstate_eq_moveTo _ _ slewing (by decide), et, State.slewComplete, guard]
    exact if_pos rfl

/-- FAR_CLEAR with FAR set and SLEW_MAX not 0. -/
theorem State.farClear_eq (hf : s.is F.timStatFar = true) (hm : s.get F.timCtlSlewMax ≠ 0) :
    s.farClear = (s.advance (s.now + s.slewTime 1000000)).setFar := by
  have guard : (s.is F.timStatFar && Nat.beq s.tstate TState.slewing && !Nat.beq (s.get F.timCtlSlewMax) 0) = true := by
    rw [hs, hf]; simp [nat_beq_eq, hm]
  rw [State.farClear, guard]
  exact if_pos rfl

end

/-! A write of TIM_CTL (R126) -/

/-- TIM_CTL as its rw fields are stored, before FORCE: the references and the frequency source follow FSRC. -/
def State.ctlStored (s : State) (v : Word) : State := ((s.store R.timCtl v allBits).refUse).refreshFreq

section
variable (s : State)

theorem State.frame_refUse : s.Frame s.refUse [R.timRef, R.selEvtOvf] [.tim, .timers, .arb] := by
  have moved : ∀ x, s.Frame (s.moveTo F.timRefRstate x 7 4 0 4 0) [R.timRef, R.selEvtOvf] [.tim, .timers, .arb] := fun x =>
    (State.Frame.refl s _ _).moveTo (by decide) (by simp) (by simp)
  exact ((((moved 1).arm (by simp)).setTim (by simp)).ite (State.Frame.refl s _ _)).ite ((moved 0).disarm (by simp))

variable (v : Word)

theorem State.frame_stored : s.Frame ((s.store R.timCtl v allBits).refUse) [R.timCtl, R.timRef, R.selEvtOvf]
    [.tim, .timers, .arb] :=
  ((State.Frame.refl s _ _).store (by simp)).andThen (State.frame_refUse _) (by simp) (fun _ => id)

theorem State.frame_ctlStored : s.Frame (s.ctlStored v) [R.timCtl, R.timStat, R.timRef, R.selEvtOvf] [.tim, .timers, .arb] :=
  ((s.frame_stored v).mono (by simp) (fun _ => id)).andThen (State.frame_refreshFreq _) (by simp) (by simp)

/-- TIM_STAT changes in FHOLD alone. -/
theorem State.get_ctlStored {g : Fld} (ha : g.addr = R.timStat) (h : F.timStatFhold.Apart g) :
    (s.ctlStored v).get g = s.get g := by
  rw [State.ctlStored, State.get_refreshFreq _ h, (s.frame_stored v).get _ (by rw [ha]; decide)]

theorem State.selected_ctlStored : (s.ctlStored v).selected = s.selected := s.get_ctlStored v rfl (by decide)

theorem State.tstate_ctlStored : (s.ctlStored v).tstate = s.tstate := s.get_ctlStored v rfl (by decide)

theorem State.qualified_ctlStored (d : Nat) : (s.ctlStored v).qualified d = s.qualified d := by
  rw [State.qualified, State.dstate, (s.frame_ctlStored v).get _ (by
    simp [F.timDomStatDstate, R.timDomStat, R.timCtl, R.timStat, R.timRef, R.selEvtOvf]; omega)]
  rfl

theorem State.domOfs_ctlStored (d : Nat) : (s.ctlStored v).domOfs d = s.domOfs d := by
  rw [State.domOfs, State.getInt, (s.frame_ctlStored v).get _ (by
    simp [F.timDomOfsOfs, R.timDomOfs, R.timCtl, R.timStat, R.timRef, R.selEvtOvf]; omega)]
  rfl

/-- A write with FORCE = 1 switches to the other domain where that is QUALIFIED, and counts in FORCE_NQ where it is not. -/
theorem State.writeTimCtl_force {v : Word} (hv : bitsAt v 2 1 = 1) : s.writeTimCtl v =
    if s.qualified (1 - s.selected) then ((s.ctlStored v).switchTo (1 - s.selected)).refreshFreq
    else (s.ctlStored v).sat F.timStatForceNq 1 := by
  have force : s.writeTimCtl v = if (s.ctlStored v).qualified (1 - (s.ctlStored v).selected) then
      ((s.ctlStored v).switchTo (1 - (s.ctlStored v).selected)).refreshFreq
    else (s.ctlStored v).sat F.timStatForceNq 1 := if_pos (by rw [hv]; rfl)
  rw [force, s.selected_ctlStored, s.qualified_ctlStored]

/-- What the switch shows: the other domain, LOCKED with its TIM_DOM_OFS within 10 ns, else SLEWING (R127). -/
theorem State.switched_shows {o : Nat} (ho : o < 2) :
    let t := ((s.ctlStored v).switchTo o).refreshFreq
    s.Frame t [R.timCtl, R.timStat, R.timRef, R.selEvtOvf, R.selLive (Src.slewFar / 32)] [.tim, .timers, .arb]
      ∧ t.selected = o ∧ t.tstate = if (s.domOfs o).natAbs ≤ 10 then TState.locked else TState.slewing := by
  refine ⟨?_, ?_, ?_⟩
  · exact (((s.frame_ctlStored v).mono (by simp) (fun _ => id)).andThen (State.frame_switchTo _ o) (by simp)
      (fun _ => id)).andThen (State.frame_refreshFreq _) (by simp) (by simp)
  · rw [State.selected_refreshFreq, State.selected_switchTo _ _ ho]
  · rw [State.tstate_refreshFreq, State.tstate_switchTo, State.domOfs_ctlStored]

/-- A refused FORCE counts, saturating, and leaves the selection and the time state. -/
theorem State.refused_shows :
    let t := (s.ctlStored v).sat F.timStatForceNq 1
    s.Frame t [R.timCtl, R.timStat, R.timRef, R.selEvtOvf] [.tim, .timers, .arb] ∧ t.selected = s.selected
      ∧ t.tstate = s.tstate ∧ t.get F.timStatForceNq = min (s.get F.timStatForceNq + 1) 255 := by
  refine ⟨(s.frame_ctlStored v).sat (by decide), ?_, ?_, ?_⟩
  · exact (State.get_sat_apart _ _ (by decide)).trans (s.selected_ctlStored v)
  · exact (State.get_sat_apart _ _ (by decide)).trans (s.tstate_ctlStored v)
  · rw [State.get_sat _ _ (by decide), s.get_ctlStored v rfl (by decide)]
    rfl

end

/-- A TIM_FORCE taken at once writes TIM_CTL with FORCE = 1 in a state that shows what it showed before. -/
theorem State.timForce_taken {s : State} {h : Nat} (v : Word) (hr : s.Ready h) : ∃ (t : State) (w : Word),
    bitsAt w 2 1 = 1 ∧ s.Frame t [R.hstCntWrites h] takingParts ∧ exec (.timForce h v) s = .next (t.writeTimCtl w)
      ∧ (∀ f : Fld, f.addr < 0x60000 → t.get f = s.get f) := by
  obtain ⟨t, taken, act⟩ := State.takeWrite_ready R.timCtl (setBitsAt v 2 1 1) false
    (fun s => s.writeTimCtl (setBitsAt v 2 1 1)) hr
  refine ⟨t, setBitsAt v 2 1 1, bitsAt_setBitsAt _ _ _ _ (by decide), taken.frame, by rw [← act]; rfl, fun f hf => ?_⟩
  exact taken.frame.get f (by simp [R.hstCntWrites]; omega)

section
variable {s t : State} (same : ∀ f : Fld, f.addr < 0x60000 → t.get f = s.get f) {d : Nat} (hd : d < 2)
include same hd

theorem State.qualified_of_same : t.qualified d = s.qualified d := by
  rw [State.qualified, State.dstate, same _ (by simp [F.timDomStatDstate, R.timDomStat]; omega)]
  rfl

theorem State.domOfs_of_same : t.domOfs d = s.domOfs d := by
  rw [State.domOfs, State.getInt, same _ (by simp [F.timDomOfsOfs, R.timDomOfs]; omega)]
  rfl

end

/-- Settles O22 (R118, R119, R120, R126, R127). -/
theorem timeSelection : Obligations.TimeSelection := by
  intro s h v hacc
  refine ⟨fun ha hf => ?_, fun hs hm => ?_, fun hs hfar hm => ?_, fun hr hq => ?_, fun hr hq => ?_⟩
  · obtain ⟨off, rem, done⟩ := State.acquisition_tim ha hf
    obtain ⟨tstate, selected⟩ := State.acquisition_stat ha hf
    exact ⟨s.acquisition, rfl, State.frame_acquisition ha hf, tstate, off, rem, done, selected,
      fun y n hx hd => off.trans (State.off_add_offsetOf s hx hd)⟩
  · obtain ⟨u, fu, near, e⟩ := State.slewComplete_eq hs hm hacc
    refine ⟨s.slewComplete, rfl, ?_⟩
    rw [e]
    have rem : (u.moveTo F.timStatTstate TState.locked 7 3 0 4 0).tim.rem.natAbs ≤ 10 := by rwa [State.moveTo_tim]
    refine ⟨?_, ?_, ?_, State.far_setFar_of_near _ (rem.trans (by decide))⟩
    · exact ((fu.mono (by simp) (by simp)).moveTo (by decide) (by simp) (by simp)).andThen (State.frame_setFar _)
        (by simp) (by simp)
    · rw [State.tstate, State.get_setFar _ (by decide) (by decide)]
      exact State.get_moveTo _ _ _ _ _ _ (by decide) (by decide) (by decide)
    · rwa [State.setFar_tim]
  · have rem := State.slewTime_rem hs hm hacc 1000000
    refine ⟨s.farClear, rfl, ?_⟩
    rw [State.farClear_eq hs hfar hm]
    refine ⟨?_, ?_, State.far_setFar_of_near _ rem, ?_⟩
    · exact ((State.Frame.refl s _ _).advance (by simp) (by simp)).andThen (State.frame_setFar _) (by simp) (by simp)
    · rwa [State.setFar_tim]
    · rw [State.tstate, State.get_setFar _ (by decide) (by decide), State.get_advance]
      exact hs
  · obtain ⟨t, w, hw, ft, e, same⟩ := State.timForce_taken v hr
    have selected : t.selected = s.selected := same _ (by decide)
    have lt := s.selected_lt
    have other : t.qualified (1 - t.selected) = true := by
      rw [selected, State.qualified_of_same same (by omega), hq]
    have ofs := State.domOfs_of_same same (d := 1 - s.selected) (by omega)
    obtain ⟨frame, sel, tstate⟩ := t.switched_shows w (o := 1 - s.selected) (by omega)
    refine ⟨_, e, ?_⟩
    rw [t.writeTimCtl_force hw, if_pos other, selected]
    exact ⟨(ft.mono (by simp) (by simp; tauto)).andThen frame (by simp) (by simp [takingParts]), sel, ofs ▸ tstate⟩
  · obtain ⟨t, w, hw, ft, e, same⟩ := State.timForce_taken v hr
    have selected : t.selected = s.selected := same _ (by decide)
    have lt := s.selected_lt
    have other : t.qualified (1 - t.selected) = false := by
      rw [selected, State.qualified_of_same same (by omega), hq]
    obtain ⟨frame, sel, tstate, count⟩ := t.refused_shows w
    refine ⟨_, e, ?_⟩
    rw [t.writeTimCtl_force hw, if_neg (by rw [other]; exact Bool.false_ne_true)]
    exact ⟨(ft.mono (by simp) (by simp; tauto)).andThen frame (by simp) (by simp [takingParts]), sel.trans selected,
      tstate.trans (same _ (by decide)), by rw [count, same _ (by decide)]⟩

end Sys2Proof.Machine
end

