-- ==== Sys2Proof/Proofs/TimeReferences.lean ====
section
/-!
SUPPORT. Sys2Proof/Proofs/TimeReferences.lean: REF_IN, PPS_IN and PPS_OUT, and the expiries that end a wait or raise a fault
of the time block; the statements of O23 and O24 settled.
-/

namespace Sys2Proof.Machine

/-! REF_IN (R128, R129) -/

section
variable (s : State)

theorem State.rstate_refreshFreq : s.refreshFreq.get F.timRefRstate = s.get F.timRefRstate := s.get_refreshFreq (by decide)

/-- RSTATE reads the state that it moved to. -/
theorem State.rstate_moveTo {x : Nat} (hx : x < 4) : (s.moveTo F.timRefRstate x 7 4 0 4 0).get F.timRefRstate = x :=
  s.get_moveTo _ _ _ _ _ (by decide) hx (by decide)

/-- REF_IN in DISQUALIFIED, before the frequency source follows: with a steer of its own where it was QUALIFIED. -/
def State.disqualified : State :=
  let t := (s.moveTo F.timRefRstate 3 7 4 0 4 0).disarm Timer.refQual
  State.cond { t with tim := { t.tim with refBad := 0 } } (Nat.beq (s.get F.timRefRstate) 2) (fun s =>
    let f := s.fresh
    { f.2 with tim := { f.2.tim with steer := (f.1 : Int) } })

theorem State.refDisqualify_eq {s : State} (h : s.get F.timRefRstate = 1 ∨ s.get F.timRefRstate = 2) :
    s.refDisqualify = s.disqualified.refreshFreq :=
  if_pos (by rcases h with e | e <;> rw [e] <;> rfl)

theorem State.frame_disqualified : s.Frame s.disqualified [R.timRef, R.selEvtOvf] [.free, .tim, .timers, .arb] := by
  have moved : s.Frame ((s.moveTo F.timRefRstate 3 7 4 0 4 0).disarm Timer.refQual) [R.timRef, R.selEvtOvf]
      [.free, .tim, .timers, .arb] :=
    ((State.Frame.refl s _ _).moveTo (by decide) (by simp) (by simp)).disarm (by simp)
  exact (moved.setTim (by simp)).cond (fun _ h => (h.fresh (by simp)).setTim (by simp))

theorem State.get_disqualified (g : Fld) : s.disqualified.get g = (s.moveTo F.timRefRstate 3 7 4 0 4 0).get g :=
  State.get_cond _ (fun _ => rfl)

/-- A REF_IN that is disqualified: DISQUALIFIED, and its glitch count stays (R128). -/
theorem State.refDisqualify_shows {s : State} (h : s.get F.timRefRstate = 1 ∨ s.get F.timRefRstate = 2) :
    s.Frame s.refDisqualify [R.timRef, R.timStat, R.selEvtOvf] [.free, .tim, .timers, .arb]
      ∧ s.refDisqualify.get F.timRefRstate = 3 ∧ s.refDisqualify.get F.timRefGlitch = s.get F.timRefGlitch := by
  rw [State.refDisqualify_eq h]
  refine ⟨?_, ?_, ?_⟩
  · exact (s.frame_disqualified.mono (by simp) (fun _ => id)).andThen (State.frame_refreshFreq _) (by simp) (by simp)
  · rw [State.rstate_refreshFreq, State.get_disqualified, State.rstate_moveTo _ (by decide)]
  · rw [State.get_refreshFreq _ (by decide), State.get_disqualified,
      State.get_moveTo_apart _ _ _ _ _ _ _ (by decide) (by decide)]

variable {s}

/-- 10 s of stable reference make it QUALIFIED. -/
theorem State.refQualified_eq (ha : s.armed Timer.refQual = true) (h : s.get F.timRefRstate = 1) :
    s.refQualified = ((s.expired Timer.refQual).moveTo F.timRefRstate 2 7 4 0 4 0).refreshFreq := by
  simp only [State.refQualified, State.fire_of_armed ha, State.get_expired, h, Nat.beq_refl, if_true]

/-- The gates of REF_IN: inside FMON_PPM, first outside, second outside in a row. -/
theorem State.refGate_inside {periods : Nat} (h : ((periods : Int) - 1000000).natAbs ≤ s.get F.timRefFmonPpm) :
    s.refGate periods = { s with tim := { s.tim with refBad := 0 } } := by
  rw [State.refGate]
  exact if_neg (by rw [Nat.blt_eq]; omega)

theorem State.refGate_outside {periods : Nat} (h : s.get F.timRefFmonPpm < ((periods : Int) - 1000000).natAbs) :
    s.refGate periods = if s.tim.refBad = 0 then { s with tim := { s.tim with refBad := 1 } } else s.refDisqualify := by
  rw [State.refGate]
  refine (if_pos (by rw [Nat.blt_eq]; exact h)).trans ?_
  simp only [nat_beq_eq, decide_eq_true_eq]

/-- An edge after a disqualification starts the count again. -/
theorem State.refResume_eq (h : s.get F.timRefRstate = 3) : ∃ (T : TimSt) (n : Nat), s.refResume =
    { (s.moveTo F.timRefRstate 1 7 4 0 4 0).arm Timer.refQual n with tim := T } :=
  ⟨_, _, if_pos (by rw [h]; rfl)⟩

end

/-! PPS_IN (R131) -/

theorem ppsErr_bounds (t : Int) : -(2 ^ 31 : Int) ≤ ppsErr t ∧ ppsErr t < 2 ^ 31 := by
  unfold ppsErr
  split <;> omega

theorem unsignedOf_cast (w : Nat) (z : Int) : ((unsignedOf w z : Nat) : Int) = z % 2 ^ w :=
  Int.toNat_of_nonneg (Int.emod_nonneg z (by positivity))

/-- PPS_IN_EDGE holds the LTC modulo 2^64. -/
theorem State.ppsIn_stamp (s : State) : ((s.ppsIn.get64 R.timPpsinLo R.timPpsinHi : Nat) : Int) = s.ltc % 2 ^ 64 := by
  have apart : s.ppsIn.get64 R.timPpsinLo R.timPpsinHi
      = (s.put64 R.timPpsinLo R.timPpsinHi (unsignedOf 64 s.ltc)).get64 R.timPpsinLo R.timPpsinHi := by
    simp only [State.ppsIn, State.get64, State.word_put_ne _ _ (show F.timPpsinErrErr.addr ≠ R.timPpsinLo by decide),
      State.word_put_ne _ _ (show F.timPpsinErrErr.addr ≠ R.timPpsinHi by decide)]
  rw [apart, State.get64_put64 _ _ (by decide), Nat.mod_eq_of_lt (unsignedOf_lt 64 _), unsignedOf_cast]

/-! PPS_OUT (R132) -/

section
variable {s : State}

/-- With nothing to slew off stays as time passes. -/
theorem State.advance_of_rem_zero (h : s.tim.rem = 0) (x : Nat) :
    (s.advance x).tim.off = s.tim.off := by
  simp only [State.advance, h]
  split_ifs <;> simp

/-- The next LTC second, with nothing to slew, comes when the nanoseconds of the present one have passed. -/
theorem State.ltc_nextSecond (h : s.tim.rem = 0) : (s.advance s.nextSecond).ltc % 1000000000 = 0 := by
  have next : s.nextSecond = s.now + (1000000000 - s.ltc % 1000000000).toNat := by
    simp [State.nextSecond, h]
  rw [State.ltc, State.advance_of_rem_zero h, State.advance_now, next]
  unfold State.ltc
  omega

theorem State.ppsMay_advance (x : Nat) : (s.advance x).ppsMay = s.ppsMay := by
  simp only [State.ppsMay, State.writesAct, State.mode, State.tstate, State.get_advance, State.is_advance]

theorem State.ppsOutRise_eq (h : s.ppsMay = true) : ∃ n, s.ppsOutRise =
    State.arm { s.advance s.nextSecond with tim := { (s.advance s.nextSecond).tim with ppsOut := true } } Timer.ppsFall n :=
  ⟨_, if_pos ((State.ppsMay_advance _).trans h)⟩

theorem State.ppsOutFall_eq (h : s.armed Timer.ppsFall = true) : s.ppsOutFall =
    { s.expired Timer.ppsFall with tim := { (s.expired Timer.ppsFall).tim with ppsOut := false } } := by
  simp only [State.ppsOutFall, State.fire_of_armed h]

end

/-- Settles O23 (R128, R131, R132). -/
theorem timeReferences : Obligations.TimeReferences := by
  intro s periods
  refine ⟨fun ha hr => ?_, fun hr => ⟨?_, fun ho hb => ?_⟩, fun ho hb => ?_, fun hi => ?_, ?_, fun hr => ?_, ?_,
    fun hp hz => ?_, fun ha => ?_⟩
  · refine ⟨s.refQualified, rfl, ?_⟩
    rw [State.refQualified_eq ha hr]
    exact ⟨(((s.frame_expired _).mono (by simp) (by simp)).moveTo (by decide) (by simp) (by simp)).andThen
      (State.frame_refreshFreq _) (by simp) (by simp), (State.rstate_refreshFreq _).trans (State.rstate_moveTo _ (by decide))⟩
  · exact ⟨s.refDisqualify, rfl, State.refDisqualify_shows hr⟩
  · obtain ⟨frame, state, -⟩ := State.refDisqualify_shows hr
    exact ⟨s.refDisqualify, congrArg Host.Outcome.next ((State.refGate_outside ho).trans (if_neg hb)), frame, state⟩
  · refine ⟨s.refGate periods, rfl, ?_⟩
    rw [(State.refGate_outside ho).trans (if_pos hb)]
    exact ⟨(State.Frame.refl s _ _).setTim (by simp), rfl⟩
  · refine ⟨s.refGate periods, rfl, ?_⟩
    rw [State.refGate_inside hi]
    exact ⟨(State.Frame.refl s _ _).setTim (by simp), rfl⟩
  · exact ⟨s.sat F.timRefGlitch 1, rfl, (State.Frame.refl s _ _).sat (by decide), State.get_sat _ _ (by decide),
      State.get_sat_apart _ _ (by decide)⟩
  · obtain ⟨T, n, e⟩ := State.refResume_eq hr
    refine ⟨s.refResume, rfl, ?_⟩
    rw [e]
    refine ⟨(((State.Frame.refl s _ _).moveTo (by decide) (by simp) (by simp)).arm (by simp)).setTim (by simp), ?_, ?_⟩
    · rw [State.get_setTim, State.get_arm, State.rstate_moveTo _ (by decide)]
    · exact State.armed_arm _ _ _
  · obtain ⟨lo, hi⟩ := ppsErr_bounds s.ltc
    exact ⟨s.ppsIn, rfl, ((State.Frame.refl s _ _).put64 (by simp) (by simp)).put (by decide), s.ppsIn_stamp,
      State.getInt_put _ rfl rfl lo hi⟩
  · obtain ⟨n, e⟩ := State.ppsOutRise_eq hp
    refine ⟨s.ppsOutRise, rfl, ?_⟩
    rw [e]
    exact ⟨(((State.Frame.refl s _ _).advance (by simp) (by simp)).setTim (by simp)).arm (by simp), rfl,
      State.ltc_nextSecond hz, State.armed_arm _ _ _⟩
  · refine ⟨s.ppsOutFall, rfl, ?_⟩
    rw [State.ppsOutFall_eq ha]
    exact ⟨(s.frame_expired _).setTim (by simp), rfl, State.armed_disarm _ _⟩

/-! ARM_WAIT, HOLDOVER_LONG and SLEW_FAR (R133, R139) -/

section
variable {s : State}

theorem State.Frame.srcWaiting {t : State} {q : List Nat} {m : List Part} (h : s.Frame t q m)
    (hc : ∀ i < 512, R.ingSrcCfg i ∉ q) (hs : ∀ i < 512, R.ingSrcStat i ∉ q) : t.srcWaiting = s.srcWaiting := by
  rw [State.srcWaiting, State.srcWaiting, Bool.eq_iff_iff, List.any_eq_true, List.any_eq_true]
  refine exists_congr (fun i => and_congr_right (fun hi => ?_))
  rw [h.is _ (hc i (List.mem_range.mp hi)), State.sstate, h.get _ (hs i (List.mem_range.mp hi))]
  rfl

/-- While a source is waited for ARM does not end (R538). -/
theorem State.armCheck_of_waiting (hw : s.srcWaiting = true) (ho : s.sys.srcWaitOver = false) : s.armCheck = s := by
  simp [State.armCheck, hw, ho]

theorem State.armWaitOver_eq (ha : s.armed Timer.armWait = true) (hm : s.mode = Mode.arm) :
    s.armWaitOver = (s.expired Timer.armWait).flag F.timStatArmReady true := by
  have mode : (s.expired Timer.armWait).mode = Mode.arm := (s.get_expired _ _).trans hm
  simp only [State.armWaitOver, State.fire_of_armed ha, mode, Nat.beq_refl, if_true]

theorem State.holdoverLong_eq (ha : s.armed Timer.holdoverLong = true) (hs : s.tstate = TState.holdover) :
    s.holdoverLong = (s.expired Timer.holdoverLong).raiseLevel Src.holdoverLong := by
  have state : (s.expired Timer.holdoverLong).tstate = TState.holdover := (s.get_expired _ _).trans hs
  simp only [State.holdoverLong, State.fire_of_armed ha, state, Nat.beq_refl, if_true]

theorem State.slewFarLong_eq (ha : s.armed Timer.slewFar = true) (hf : s.is F.timStatFar = true) :
    s.slewFarLong = (s.expired Timer.slewFar).raiseLevel Src.slewFar := by
  simp only [State.slewFarLong, State.fire_of_armed ha, State.is_expired, hf, if_true]

/-- An expiry that raises a level source: its live bit is 1 and one occurrence of it waits for SEL. -/
theorem State.raised_expired (s : State) (k c : Nat) :
    let t := (s.expired k).raiseLevel c
    s.Frame t [R.selLive (c / 32)] [.now, .tim, .timers, .sel] ∧ t.is (selBit F.selLiveLive c) = true
      ∧ t.sel.occ = s.sel.occ ++ [(c, false)] := by
  refine ⟨?_, ?_, ?_⟩
  · exact ((s.frame_expired k).mono (by simp) (by simp)).raiseLevel (by simp) (by simp)
  · exact (State.is_raise _ _ _).trans (State.is_flag _ _ _ (by simp [selBit]; omega) rfl)
  · exact congrArg (fun x : SelSt => x.occ ++ [(c, false)]) ((s.frame_expired k).2 .sel (by simp))

end

/-- Settles O24 (R133, R139). -/
theorem timeLimits : Obligations.TimeLimits := by
  intro s
  refine ⟨fun ha hm ho hw => ?_, fun ha hs => ?_, fun ha hf => ?_⟩
  · have frame : s.Frame ((s.expired Timer.armWait).flag F.timStatArmReady true) [R.timStat] [.now, .tim, .timers] :=
      ((s.frame_expired _).mono (by simp) (fun _ => id)).flag (by decide)
    have waiting : ((s.expired Timer.armWait).flag F.timStatArmReady true).srcWaiting = true :=
      (frame.srcWaiting (fun i _ => by simp [R.ingSrcCfg, R.timStat]; omega)
        (fun i _ => by simp [R.ingSrcStat, R.timStat]; omega)).trans hw
    have unended : ((s.expired Timer.armWait).flag F.timStatArmReady true).sys.srcWaitOver = false :=
      (congrArg SysSt.srcWaitOver (frame.2 .sys (by simp))).trans ho
    refine ⟨(s.expired Timer.armWait).flag F.timStatArmReady true, ?_, frame, State.is_flag _ _ _ (by decide) rfl,
      (frame.get _ (by decide)).trans hm⟩
    exact congrArg Host.Outcome.next ((congrArg State.armCheck (State.armWaitOver_eq ha hm)).trans
      (State.armCheck_of_waiting waiting unended))
  · exact ⟨s.holdoverLong, rfl, State.holdoverLong_eq ha hs ▸ s.raised_expired _ _⟩
  · exact ⟨s.slewFarLong, rfl, State.slewFarLong_eq ha hf ▸ s.raised_expired _ _⟩

end Sys2Proof.Machine
end

