-- ==== Sys2Proof/Proofs/InputOps.lean ====
section
/-!
SUPPORT. Sys2Proof/Proofs/InputOps.lean: the operations that lanes, sources and audio inputs are made of: their frames, and what
each table reads after them.
-/

namespace Sys2Proof.Machine

/-! Frames -/

section
variable {s t : State} {q : List Nat} {m : List Part}

theorem State.Frame.setLane {l : Nat} {x : Lane} (h : s.Frame t q m) (hl : .lanes ∈ m) : s.Frame (t.setLane l x) q m :=
  h.part hl rfl (fun p hp => by cases p <;> simp_all [State.Same])

theorem State.Frame.setSrc {i : Nat} {x : Src} (h : s.Frame t q m) (hs : .srcs ∈ m) : s.Frame (t.setSrc i x) q m :=
  h.part hs rfl (fun p hp => by cases p <;> simp_all [State.Same])

theorem State.Frame.updSrc {i : Nat} {f : Src → Src} (h : s.Frame t q m) (hs : .srcs ∈ m) : s.Frame (t.updSrc i f) q m :=
  h.setSrc hs

theorem State.Frame.setAin {i : Nat} {x : AIn} (h : s.Frame t q m) (ha : .ains ∈ m) : s.Frame (t.setAin i x) q m :=
  h.part ha rfl (fun p hp => by cases p <;> simp_all [State.Same])

theorem State.Frame.setIgmp {x : List Igmp} (h : s.Frame t q m) (hi : .igmp ∈ m) : s.Frame { t with igmp := x } q m :=
  h.part hi rfl (fun p hp => by cases p <;> simp_all [State.Same])

/-- A report that is scheduled joins the schedule. -/
theorem State.Frame.igmpChange {l vlan group kind : Nat} (h : s.Frame t q m) (hi : .igmp ∈ m) :
    s.Frame (t.igmpChange l vlan group kind) q m :=
  (h.setIgmp hi).ite h

theorem State.Frame.igmpAll {l kind : Nat} (h : s.Frame t q m) (hi : .igmp ∈ m) : s.Frame (t.igmpAll l kind) q m :=
  h.foldl (fun _ _ _ hu => hu.igmpChange hi)

/-- An executor whose work ends changes the scheduler only. -/
theorem State.Frame.release {e : Nat} (h : s.Frame t q m) (hb : .bob ∈ m) : s.Frame (t.release e) q m :=
  h.part hb rfl (fun p hp => by cases p <;> simp_all [State.Same, State.release])

theorem State.Frame.refusalEv {i e n d : Nat} (h : s.Frame t q m) (hr : R.selEvtOvf ∈ q) (ha : .arb ∈ m) :
    s.Frame (t.refusalEv i e n d) q m :=
  h.emit rfl hr ha

theorem State.Frame.lane (h : s.Frame t q m) (hl : .lanes ∉ m) (l : Nat) : t.lane l = s.lane l := by
  simp only [State.lane, show t.lanes = s.lanes from h.2 .lanes hl]

theorem State.Frame.src (h : s.Frame t q m) (hs : .srcs ∉ m) (i : Nat) : t.src i = s.src i := by
  simp only [State.src, show t.srcs = s.srcs from h.2 .srcs hs]

theorem State.Frame.occ (h : s.Frame t q m) (hs : .sel ∉ m) : t.sel.occ = s.sel.occ :=
  congrArg SelSt.occ (h.2 .sel hs)

end

/-! Tables -/

section
variable (s : State)

@[simp] theorem State.lane_setLane (l : Nat) (x : Lane) : (s.setLane l x).lane l = x := by
  simp [State.lane, State.setLane]

@[simp] theorem State.src_setSrc (i : Nat) (x : Src) : (s.setSrc i x).src i = x := by
  simp [State.src, State.setSrc]

@[simp] theorem State.src_updSrc (i : Nat) (f : Src → Src) : (s.updSrc i f).src i = f (s.src i) := s.src_setSrc i _

@[simp] theorem State.get_setLane (l : Nat) (x : Lane) (g : Fld) : (s.setLane l x).get g = s.get g := rfl

@[simp] theorem State.get_setSrc (i : Nat) (x : Src) (g : Fld) : (s.setSrc i x).get g = s.get g := rfl

@[simp] theorem State.get_setIgmp (x : List Igmp) (g : Fld) : ({ s with igmp := x } : State).get g = s.get g := rfl

@[simp] theorem State.get_updSrc (i : Nat) (f : Src → Src) (g : Fld) : (s.updSrc i f).get g = s.get g := rfl

end

/-! Fields -/

section
variable (s : State) {f g : Fld}

theorem State.is_put_apart (v : Nat) (h : f.Apart g) : (s.put f v).is g = s.is g := by
  rw [State.is, State.get_put_apart _ _ h]; rfl

theorem State.is_flag_apart (b : Bool) (h : f.Apart g) : (s.flag f b).is g = s.is g := s.is_put_apart _ h

theorem State.get_bump_apart (n : Nat) (h : f.Apart g) : (s.bump f n).get g = s.get g := s.get_put_apart _ h

theorem State.is_stateEv (i e n d : Nat) (hg : g.addr ≠ R.selEvtOvf) : (s.stateEv i e n d).is g = s.is g := by
  rw [State.is, State.get_stateEv _ _ _ _ _ hg]; rfl

theorem State.is_arm (k dt : Nat) : (s.arm k dt).is g = s.is g := rfl

theorem State.get_raiseLevel (c : Nat) (hg : g.addr ≠ R.selLive (c / 32)) : (s.raiseLevel c).get g = s.get g :=
  s.get_flag_apart true (.inl (Ne.symm hg))

/-- A level condition that arises holds its live bit (R490). -/
theorem State.live_raiseLevel (c : Nat) : (s.raiseLevel c).is (selBit F.selLiveLive c) = true :=
  s.is_flag _ true (by simp [selBit]; omega) rfl

/-- Setting a field to what it reads leaves its register as it was. -/
theorem setBitsAt_bitsAt (w : Word) (lo width : Nat) : setBitsAt w lo width (bitsAt w lo width) = w := by
  refine BitVec.eq_of_toNat_eq (Nat.eq_of_testBit_eq (fun i => ?_))
  rw [testBit_setBitsAt]
  by_cases hi : i < 32
  · by_cases hin : lo ≤ i ∧ i < lo + width
    · have inside : i - lo < width := by omega
      have place : lo + (i - lo) = i := by omega
      simp [hi, hin, testBit_bitsAt, inside, place]
    · simp [hi, hin]
  · have above : w.toNat.testBit i = false :=
      Nat.testBit_lt_two_pow (Nat.lt_of_lt_of_le w.isLt (Nat.pow_le_pow_right (by omega) (by omega)))
    simp [hi, above]

/-- A counter that counts nothing changes no register. -/
theorem State.word_bump_zero (a : Nat) : (s.bump f 0).word a = s.word a := by
  by_cases ha : f.addr = a
  · subst ha
    rw [State.bump, State.put, State.word_setWord, Nat.add_zero, State.get, setBitsAt_bitsAt]
  · exact State.word_bump_ne _ _ ha

end

end Sys2Proof.Machine
end

