-- ==== Sys2Proof/Proofs/LaneStates.lean ====
section
/-!
SUPPORT. Sys2Proof/Proofs/LaneStates.lean: bonded alignment, and an unbonded Morvolos lane that comes UP, loses alignment or
flips its polarity; the statement of O34 settled.
-/

namespace Sys2Proof.Machine

/-! Ports of one lane (R432) -/

section
variable {s t : State} {l : Nat}

theorem State.portLane_of_unbonded (h : s.bonded l = false) : s.portLane l = l := by
  simp [State.portLane, h]

theorem State.laneUp_of_unbonded (h : s.bonded l = false) (hs : s.lstate l = LState.up) : s.laneUp l = true := by
  rw [State.laneUp, State.portLane_of_unbonded h, hs]; rfl

theorem State.Frame.bonded {q : List Nat} {m : List Part} (h : s.Frame t q m) (hq : R.lnkQCfg (l / 4) ∉ q) :
    t.bonded l = s.bonded l :=
  h.is _ hq

end

/-! Bonded alignment (R439) -/

section
variable {s : State} {q map skew : Nat}

/-- A port with a lane that is not LOCKING does not enter UP. -/
theorem State.tryUp_of_not_locking {l : Nat} (hl : l ∈ s.portLanes l) (hs : s.lstate l ≠ LState.locking) : s.tryUp l = s := by
  refine if_neg (fun h => hs ?_)
  have lane := List.all_eq_true.mp h l hl
  rw [Bool.and_eq_true] at lane
  exact Nat.eq_of_beq_eq_true lane.1

theorem State.bondAlign_far (hb : s.is (F.lnkQCfgBond q) = true) (h : 180 < skew) :
    s.bondAlign q map skew = s.put (F.lnkQStatSkew q) (min skew 255) := by
  simp only [State.bondAlign, hb, if_true, Nat.blt_eq, h]

/-- Skew within 180 ns aligns the port; a first lane that is not LOCKING keeps it from entering UP. -/
theorem State.bondAlign_near (hb : s.is (F.lnkQCfgBond q) = true) (hs : s.lstate (4 * q) ≠ LState.locking) (h : skew ≤ 180) :
    ∃ n, s.bondAlign q map skew
      = ((s.put (F.lnkQStatSkew q) (min skew 255)).flag (F.lnkQStatAlign q) true).put (F.lnkQStatMap q) n := by
  have near : ¬ Nat.blt 180 skew = true := by rw [Nat.blt_eq]; omega
  simp only [State.bondAlign, hb, if_true, near, if_false, Bool.false_eq_true]
  refine ⟨_, State.tryUp_of_not_locking ?_ ?_⟩
  · have bonded : ∀ u : State, s.Frame u [R.lnkQStat q] [] → u.bonded (4 * q) = true := fun u hu => by
      rw [hu.bonded (by simp [R.lnkQCfg, R.lnkQStat]), State.bonded, Nat.mul_div_cancel_left q (by decide), hb]
    rw [State.portLanes, bonded _ ((((State.Frame.refl s _ _).put (by simp [F.lnkQStatSkew])).flag
      (by simp [F.lnkQStatAlign])).put (by simp [F.lnkQStatMap])), if_pos rfl, Nat.mul_div_cancel_left q (by decide)]
    simp [Nat.mul_comm]
  · have other : R.lnkStat (4 * q) ∉ [R.lnkQStat q] := by simp [R.lnkStat, R.lnkQStat]; omega
    rwa [State.lstate, ((((State.Frame.refl s [R.lnkQStat q] []).put (by simp [F.lnkQStatSkew])).flag
      (by simp [F.lnkQStatAlign])).put (by simp [F.lnkQStatMap])).get _ other]

end

/-! A lane's change of state (R434) -/

section
variable (s : State) (l new d : Nat)

theorem State.frame_laneStop : s.Frame (s.laneStop l) [] [.timers] :=
  ((((State.Frame.refl s _ _).disarm (by simp)).disarm (by simp)).disarm (by simp)).disarm (by simp)

/-- Lane l in a new state, with its timers stopped and its event sent, before what leaving or entering UP adds. -/
def State.laneMoved : State :=
  (((s.laneStop l).put (F.lnkStatLstate l) new).flag (F.lnkStatUp l) (Nat.beq new LState.up)).stateEv 10 1 l d

theorem State.frame_laneMoved : s.Frame (s.laneMoved l new d) [R.lnkStat l, R.selEvtOvf] [.timers, .arb] :=
  ((((State.Frame.refl s _ _).andThen (s.frame_laneStop l) (by simp) (by simp)).put (by simp [F.lnkStatLstate])).flag
    (by simp [F.lnkStatUp])).stateEv (by simp) (by simp)

variable {l}

theorem lnkStat_ne_selEvtOvf : R.lnkStat l ≠ R.selEvtOvf := by unfold R.lnkStat R.selEvtOvf; omega

theorem State.lstate_laneMoved (h : new < 8) : (s.laneMoved l new d).lstate l = new := by
  rw [State.lstate, State.laneMoved, State.get_stateEv _ _ _ _ _ lnkStat_ne_selEvtOvf,
    State.get_flag_apart _ _ (.inr (.inl (by simp [F.lnkStatLstate, F.lnkStatUp]))),
    State.get_put _ _ _ (by simp [F.lnkStatLstate])]
  exact Nat.mod_eq_of_lt h

theorem State.up_laneMoved : (s.laneMoved l new d).is (F.lnkStatUp l) = Nat.beq new LState.up := by
  rw [State.laneMoved, State.is_stateEv _ _ _ _ _ lnkStat_ne_selEvtOvf, State.is_flag _ _ _ (by simp [F.lnkStatUp]) rfl]

/-- Fields of LNK_STAT beside LSTATE and UP keep their values. -/
theorem State.get_laneMoved {g : Fld} (ha : g.addr = R.lnkStat l) (hlo : 4 ≤ g.lo) : (s.laneMoved l new d).get g = s.get g := by
  rw [State.laneMoved, State.get_stateEv _ _ _ _ _ (ha ▸ lnkStat_ne_selEvtOvf),
    State.get_flag_apart _ _ (.inr (.inr (by simpa [F.lnkStatUp])) ),
    State.get_put_apart _ _ (.inr (.inr (by simp [F.lnkStatLstate]; omega))), (s.frame_laneStop l).get _ (by simp)]

end

section
variable {s : State} {l : Nat}

theorem State.bonded_laneMoved (new d : Nat) : (s.laneMoved l new d).bonded l = s.bonded l :=
  (s.frame_laneMoved l new d).bonded (by simp [R.lnkQCfg, R.lnkStat, R.selEvtOvf]; omega)

/-- An unbonded lane that enters UP from LOCKING ends LNK_DOWN, starts the 10 s of R441 and reports its groups (R444). -/
theorem State.setLstate_up (hb : s.bonded l = false) (hs : s.lstate l = LState.locking) : ∃ d,
    s.setLstate l LState.up 0 = (((s.laneMoved l LState.up d).unraise (Src.lnkDown l)).arm (Timer.laneUp l)
      10000000000).igmpAll l 0 := by
  have port : ∀ d, (s.laneMoved l LState.up d).portLane l = l := fun d =>
    State.portLane_of_unbonded ((State.bonded_laneMoved _ d).trans hb)
  have moves : Nat.beq LState.locking LState.up = false := rfl
  have up : Nat.beq LState.up LState.locking = false := rfl
  have train : Nat.beq LState.up LState.train = false := rfl
  simp only [State.laneMoved, Nat.beq_refl] at port ⊢
  simp only [State.setLstate, hs, moves, up, train, Nat.beq_refl, Bool.not_true, Bool.not_false, Bool.and_false, Bool.false_and,
    State.cond, State.laneUnlock, if_false, Bool.false_eq_true, if_true, port]
  exact ⟨_, rfl⟩

theorem State.laneEthernet_of_morvolos (h : s.laneMorvolos l = true) : s.laneEthernet l = false := by
  simp only [State.laneMorvolos, State.laneEthernet, nat_beq_eq, Bool.or_eq_true, decide_eq_true_eq, Bool.or_eq_false_iff,
    decide_eq_false_iff_not] at h ⊢
  omega

theorem State.Frame.laneEthernet {t : State} {q : List Nat} {m : List Part} (h : s.Frame t q m) (hq : R.lnkCfg l ∉ q) :
    t.laneEthernet l = s.laneEthernet l := by
  simp only [State.laneEthernet, h.get (F.lnkCfgMode l) hq]

/-- An unbonded Morvolos lane that leaves UP for LOCKING counts the loss, and LNK_DOWN arises. -/
theorem State.setLstate_locking (hb : s.bonded l = false) (hs : s.lstate l = LState.up) (hm : s.laneMorvolos l = true)
    (hl : l < 256) : ∃ d, s.setLstate l LState.locking 1 = ((((s.put (F.lnkStatDcause l) 1).laneMoved l LState.locking d).bump
      (F.lnkCntLockLoss l) 1).raiseLevel (Src.lnkDown l)) := by
  have frame : ∀ d, s.Frame ((s.put (F.lnkStatDcause l) 1).laneMoved l LState.locking d)
      [R.lnkStat l, R.selEvtOvf, R.lnkCntLockLoss l, R.selLive (Src.lnkDown l / 32)] [.timers, .arb, .sel] := fun d =>
    ((State.Frame.refl s _ _).put (by simp [F.lnkStatDcause])).andThen (State.frame_laneMoved _ _ _ d) (by simp) (by simp)
  have port : ∀ d, ((s.put (F.lnkStatDcause l) 1).laneMoved l LState.locking d).portLane l = l := fun d => by
    refine State.portLane_of_unbonded (((frame d).bonded ?_).trans hb)
    simp [R.lnkQCfg, R.lnkStat, R.selEvtOvf, R.lnkCntLockLoss, R.selLive, Src.lnkDown]
    omega
  have link : ∀ d, ((((s.put (F.lnkStatDcause l) 1).laneMoved l LState.locking d).bump (F.lnkCntLockLoss l)
      1).raiseLevel (Src.lnkDown l)).laneEthernet l = false := fun d => by
    rw [(((frame d).bump (by simp [F.lnkCntLockLoss])).raiseLevel (by simp) (by simp)).laneEthernet,
      State.laneEthernet_of_morvolos hm]
    simp [R.lnkCfg, R.lnkStat, R.selEvtOvf, R.lnkCntLockLoss, R.selLive, Src.lnkDown]
    omega
  have moves : Nat.beq LState.up LState.locking = false := rfl
  have leaves : Nat.beq LState.locking LState.up = false := rfl
  have train : Nat.beq LState.locking LState.train = false := rfl
  have cause : Nat.beq 1 0 = false := rfl
  simp only [State.laneMoved, leaves] at port link ⊢
  simp only [State.setLstate, hs, moves, leaves, train, cause, Nat.beq_refl, Bool.not_true, Bool.not_false, Bool.and_false,
    Bool.false_and, Bool.true_and, State.cond, State.laneUnlock, if_false, Bool.false_eq_true, if_true, port, link]
  exact ⟨_, rfl⟩

/-! Morvolos lanes (R445, R446) -/

/-- Lane l with its block lock shown as `lock` and its credits at n. -/
def State.creditsAt (s : State) (l : Nat) (lock : Bool) (n : Nat) : State :=
  (s.flag (F.lnkStatRxlock l) lock).setLane l { s.lane l with cred := n }

theorem State.frame_creditsAt (s : State) (lock : Bool) (n : Nat) :
    s.Frame (s.creditsAt l lock n) [R.lnkStat l] [.lanes] :=
  ((State.Frame.refl s _ _).flag (by simp [F.lnkStatRxlock])).setLane (by simp)

theorem State.cred_creditsAt (s : State) (lock : Bool) (n : Nat) : ((s.creditsAt l lock n).lane l).cred = n :=
  congrArg Lane.cred (State.lane_setLane _ l _)

/-- Fields of LNK_STAT beside RXLOCK keep their values. -/
theorem State.get_creditsAt (s : State) (lock : Bool) (n : Nat) {g : Fld} (h : (F.lnkStatRxlock l).Apart g) :
    (s.creditsAt l lock n).get g = s.get g :=
  (State.get_setLane _ l _ g).trans (s.get_flag_apart lock h)

theorem State.lstate_creditsAt (s : State) (lock : Bool) (n : Nat) : (s.creditsAt l lock n).lstate l = s.lstate l :=
  s.get_creditsAt lock n (.inr (.inl (by simp [F.lnkStatRxlock, F.lnkStatLstate])))

theorem State.bonded_creditsAt (s : State) (lock : Bool) (n : Nat) : (s.creditsAt l lock n).bonded l = s.bonded l :=
  (s.frame_creditsAt lock n).bonded (by simp [R.lnkQCfg, R.lnkStat]; omega)

/-- Comma alignment takes an unbonded lane from LOCKING to UP with the initial credits. -/
theorem State.mvAlign_eq (hb : s.bonded l = false) (hs : s.lstate l = LState.locking) (hm : s.laneMorvolos l = true)
    (hp : s.is (F.lnkQStatPllLock (l / 4)) = true) : ∃ d, s.mvAlign l =
      ((((s.creditsAt l true (s.get F.ingCtlMvInitCred)).laneMoved l LState.up d).unraise (Src.lnkDown l)).arm
        (Timer.laneUp l) 10000000000).igmpAll l 0 := by
  obtain ⟨d, e⟩ := State.setLstate_up ((s.bonded_creditsAt true (s.get F.ingCtlMvInitCred)).trans hb)
    ((s.lstate_creditsAt true (s.get F.ingCtlMvInitCred)).trans hs)
  refine ⟨d, Eq.trans ?_ e⟩
  simp only [State.mvAlign, hs, hm, hp, Nat.beq_refl, Bool.and_self, if_true]
  rfl

/-- An unbonded lane in UP that loses its alignment hunts again without credits. -/
theorem State.mvAlignLoss_eq (hb : s.bonded l = false) (hs : s.lstate l = LState.up) (hm : s.laneMorvolos l = true)
    (hl : l < 256) (bad : Nat) : ∃ d, s.mvAlignLoss l bad =
      (((((s.bump (F.lnkCntBlkErr l) bad).creditsAt l false 0).put (F.lnkStatDcause l) 1).laneMoved l LState.locking d).bump
        (F.lnkCntLockLoss l) 1).raiseLevel (Src.lnkDown l) := by
  have frame : s.Frame ((s.bump (F.lnkCntBlkErr l) bad).creditsAt l false 0) [R.lnkCntBlkErr l, R.lnkStat l] [.lanes] :=
    ((State.Frame.refl s _ _).bump (by simp [F.lnkCntBlkErr])).andThen (State.frame_creditsAt _ _ _) (by simp) (by simp)
  have state : ((s.bump (F.lnkCntBlkErr l) bad).creditsAt l false 0).lstate l = LState.up := by
    rw [State.lstate_creditsAt]
    exact (s.get_bump_apart bad (.inl (by simp [F.lnkCntBlkErr, F.lnkStatLstate, R.lnkCntBlkErr, R.lnkStat]))).trans hs
  have mode : ((s.bump (F.lnkCntBlkErr l) bad).creditsAt l false 0).laneMorvolos l = true := by
    rw [← hm, State.laneMorvolos, frame.get _ (by simp [F.lnkCfgMode, R.lnkCfg, R.lnkCntBlkErr, R.lnkStat])]; rfl
  obtain ⟨d, e⟩ := State.setLstate_locking ((frame.bonded (by simp [R.lnkQCfg, R.lnkCntBlkErr, R.lnkStat]; omega)).trans hb)
    state mode hl
  refine ⟨d, Eq.trans ?_ e⟩
  rw [State.mvAlignLoss, if_pos hm, State.mvHunt]
  exact if_pos ((congrArg (Nat.beq · LState.up) state).trans (Nat.beq_refl _))

/-- Lane l with its receiver inverted, without block lock and without credits (R446). -/
def State.flipped (s : State) (l : Nat) : State :=
  ((s.flag (F.lnkStatRxInvAct l) (!s.is (F.lnkStatRxInvAct l))).bump (F.lnkCntPolFlip l) 1).creditsAt l false 0

theorem State.frame_flipped (s : State) : s.Frame (s.flipped l) [R.lnkStat l, R.lnkCntPolFlip l] [.lanes] :=
  (((State.Frame.refl s _ _).flag (by simp [F.lnkStatRxInvAct])).bump (by simp [F.lnkCntPolFlip])).andThen
    (State.frame_creditsAt _ _ _) (by simp) (by simp)

theorem State.lstate_flipped (s : State) : (s.flipped l).lstate l = s.lstate l := by
  rw [State.flipped, State.lstate_creditsAt, State.lstate,
    State.get_bump_apart _ _ (.inl (by simp [F.lnkCntPolFlip, F.lnkStatLstate, R.lnkCntPolFlip, R.lnkStat])),
    State.get_flag_apart _ _ (.inr (.inl (by simp [F.lnkStatRxInvAct, F.lnkStatLstate])))]
  rfl

theorem State.rxInv_flipped (s : State) : (s.flipped l).is (F.lnkStatRxInvAct l) = !s.is (F.lnkStatRxInvAct l) := by
  rw [State.is, State.flipped, State.get_creditsAt _ _ _ (.inr (.inr (by simp [F.lnkStatRxlock, F.lnkStatRxInvAct]))),
    State.get_bump_apart _ _ (.inl (by simp [F.lnkCntPolFlip, F.lnkStatRxInvAct, R.lnkCntPolFlip, R.lnkStat]))]
  exact State.is_flag _ _ _ (by simp [F.lnkStatRxInvAct]) rfl

theorem State.polFlip_flipped (s : State) :
    (s.flipped l).get (F.lnkCntPolFlip l) = (s.get (F.lnkCntPolFlip l) + 1) % 2 ^ 32 := by
  rw [State.flipped, (State.frame_creditsAt _ _ _).get _ (by simp [F.lnkCntPolFlip, R.lnkCntPolFlip, R.lnkStat]),
    State.get_bump _ _ _ (by simp [F.lnkCntPolFlip]),
    State.get_flag_apart _ _ (.inl (by simp [F.lnkCntPolFlip, F.lnkStatRxInvAct, R.lnkCntPolFlip, R.lnkStat]))]
  rfl

/-- A flip in LOCKING inverts the receiver and goes on hunting. -/
theorem State.mvFlip_eq (hs : s.lstate l = LState.locking) (hm : s.laneMorvolos l = true) : s.mvFlip l = s.flipped l := by
  have hunting : (s.flipped l).lstate l ≠ LState.up := by rw [State.lstate_flipped, hs]; decide
  simp only [State.mvFlip, hm, hs, Nat.beq_refl, Bool.true_or, Bool.and_self, if_true]
  exact if_neg (fun h => hunting (Nat.eq_of_beq_eq_true h))

/-- Comma alignment shows the lane UP with its initial credits. -/
theorem State.mvAlign_shows (hb : s.bonded l = false) (hs : s.lstate l = LState.locking) (hm : s.laneMorvolos l = true)
    (hp : s.is (F.lnkQStatPllLock (l / 4)) = true) (hl : l < 256) :
    s.Frame (s.mvAlign l) [R.lnkStat l, R.selLive (Src.lnkDown l / 32), R.selEvtOvf] [.lanes, .timers, .arb, .igmp]
      ∧ (s.mvAlign l).lstate l = LState.up ∧ (s.mvAlign l).is (F.lnkStatUp l) = true
      ∧ ((s.mvAlign l).lane l).cred = s.get F.ingCtlMvInitCred := by
  obtain ⟨d, e⟩ := State.mvAlign_eq hb hs hm hp
  have credits := s.frame_creditsAt (l := l) true (s.get F.ingCtlMvInitCred)
  have cred := s.cred_creditsAt (l := l) true (s.get F.ingCtlMvInitCred)
  rw [e]
  generalize s.creditsAt l true (s.get F.ingCtlMvInitCred) = u at *
  have moved := u.frame_laneMoved l LState.up d
  have last : (u.laneMoved l LState.up d).Frame
      ((((u.laneMoved l LState.up d).unraise (Src.lnkDown l)).arm (Timer.laneUp l) 10000000000).igmpAll l 0)
      [R.selLive (Src.lnkDown l / 32)] [.timers, .igmp] :=
    (((State.Frame.refl _ _ _).unraise (by simp)).arm (by simp)).igmpAll (by simp)
  have apart : R.lnkStat l ∉ [R.selLive (Src.lnkDown l / 32)] := by
    simp [R.lnkStat, R.selLive, Src.lnkDown]; omega
  refine ⟨((credits.mono (by simp) (by simp)).andThen moved (by simp) (by simp)).andThen last (by simp) (by simp),
    (last.get _ apart).trans (u.lstate_laneMoved _ d (by decide)), ?_, ?_⟩
  · rw [last.is _ apart, u.up_laneMoved]; rfl
  · rw [last.lane (by simp), moved.lane (by simp), cred]

/-- A loss of alignment in UP counts the errors and the loss, and shows the lane LOCKING with cause 1 and without credits. -/
theorem State.mvAlignLoss_shows (hb : s.bonded l = false) (hs : s.lstate l = LState.up) (hm : s.laneMorvolos l = true)
    (hl : l < 256) (bad : Nat) :
    s.Frame (s.mvAlignLoss l bad) [R.lnkStat l, R.lnkCntBlkErr l, R.lnkCntLockLoss l, R.selLive (Src.lnkDown l / 32),
        R.selEvtOvf] [.lanes, .timers, .arb, .sel]
      ∧ (s.mvAlignLoss l bad).lstate l = LState.locking ∧ (s.mvAlignLoss l bad).get (F.lnkStatDcause l) = 1
      ∧ ((s.mvAlignLoss l bad).lane l).cred = 0
      ∧ (s.mvAlignLoss l bad).get (F.lnkCntBlkErr l) = (s.get (F.lnkCntBlkErr l) + bad) % 2 ^ 32
      ∧ (s.mvAlignLoss l bad).get (F.lnkCntLockLoss l) = (s.get (F.lnkCntLockLoss l) + 1) % 2 ^ 32
      ∧ (s.mvAlignLoss l bad).sel.occ = s.sel.occ ++ [(Src.lnkDown l, false)] := by
  obtain ⟨d, e⟩ := State.mvAlignLoss_eq hb hs hm hl bad
  rw [e]
  have counted : s.Frame ((s.bump (F.lnkCntBlkErr l) bad).creditsAt l false 0) [R.lnkCntBlkErr l, R.lnkStat l] [.lanes] :=
    ((State.Frame.refl s _ _).bump (by simp [F.lnkCntBlkErr])).andThen (State.frame_creditsAt _ _ _) (by simp) (by simp)
  have errors : ((s.bump (F.lnkCntBlkErr l) bad).creditsAt l false 0).get (F.lnkCntBlkErr l)
      = (s.get (F.lnkCntBlkErr l) + bad) % 2 ^ 32 := by
    rw [(State.frame_creditsAt _ _ _).get _ (by simp [F.lnkCntBlkErr, R.lnkCntBlkErr, R.lnkStat]),
      State.get_bump _ _ _ (by simp [F.lnkCntBlkErr])]
    rfl
  have cred := (s.bump (F.lnkCntBlkErr l) bad).cred_creditsAt (l := l) false 0
  generalize (s.bump (F.lnkCntBlkErr l) bad).creditsAt l false 0 = u at *
  have moved : u.Frame ((u.put (F.lnkStatDcause l) 1).laneMoved l LState.locking d) [R.lnkStat l, R.selEvtOvf] [.timers, .arb] :=
    ((State.Frame.refl u _ _).put (by simp [F.lnkStatDcause])).andThen (State.frame_laneMoved _ _ _ _) (by simp) (by simp)
  have state := (u.put (F.lnkStatDcause l) 1).lstate_laneMoved (l := l) LState.locking d (by decide)
  have cause : ((u.put (F.lnkStatDcause l) 1).laneMoved l LState.locking d).get (F.lnkStatDcause l) = 1 := by
    rw [State.get_laneMoved _ _ _ rfl (by simp [F.lnkStatDcause]), State.get_put _ _ _ (by simp [F.lnkStatDcause])]
    rfl
  generalize (u.put (F.lnkStatDcause l) 1).laneMoved l LState.locking d = w at *
  have last : w.Frame ((w.bump (F.lnkCntLockLoss l) 1).raiseLevel (Src.lnkDown l))
      [R.lnkCntLockLoss l, R.selLive (Src.lnkDown l / 32)] [.sel] :=
    ((State.Frame.refl w _ _).bump (by simp [F.lnkCntLockLoss])).raiseLevel (by simp) (by simp)
  have stat : R.lnkStat l ∉ [R.lnkCntLockLoss l, R.selLive (Src.lnkDown l / 32)] := by
    simp [R.lnkStat, R.lnkCntLockLoss, R.selLive, Src.lnkDown]; omega
  refine ⟨((counted.mono (by simp) (by simp)).andThen moved (by simp) (by simp)).andThen last (by simp) (by simp),
    (last.get _ stat).trans state, (last.get _ stat).trans cause, ?_, ?_, ?_, ?_⟩
  · rw [last.lane (by simp), moved.lane (by simp), cred]
  · rw [last.get _ ?_, moved.get _ ?_, errors]
    · simp [F.lnkCntBlkErr, R.lnkCntBlkErr, R.lnkStat, R.selEvtOvf]; omega
    · simp [F.lnkCntBlkErr, R.lnkCntBlkErr, R.lnkCntLockLoss, R.selLive, Src.lnkDown]; omega
  · rw [State.get_raiseLevel _ _ ?_, State.get_bump _ _ _ (by simp [F.lnkCntLockLoss]), moved.get _ ?_, counted.get _ ?_]
    · rfl
    · simp [F.lnkCntLockLoss, R.lnkCntLockLoss, R.lnkCntBlkErr, R.lnkStat]
    · simp [F.lnkCntLockLoss, R.lnkCntLockLoss, R.lnkStat, R.selEvtOvf]; omega
    · simp [F.lnkCntLockLoss, R.lnkCntLockLoss, R.selLive, Src.lnkDown]; omega
  · exact congrArg (· ++ [(Src.lnkDown l, false)]) ((moved.occ (by simp)).trans (counted.occ (by simp)))

end

/-- BOND_ALIGNMENT shows the skew, and the alignment that it allows. -/
theorem State.bondAlign_shows {s : State} {q skew : Nat} (map : Nat) (hb : s.is (F.lnkQCfgBond q) = true)
    (hs : s.lstate (4 * q) ≠ LState.locking) : s.Frame (s.bondAlign q map skew) [R.lnkQStat q] []
      ∧ (s.bondAlign q map skew).get (F.lnkQStatSkew q) = min skew 255
      ∧ (s.bondAlign q map skew).is (F.lnkQStatAlign q) = (if skew ≤ 180 then true else s.is (F.lnkQStatAlign q)) := by
  have shown : (s.put (F.lnkQStatSkew q) (min skew 255)).get (F.lnkQStatSkew q) = min skew 255 := by
    rw [State.get_put _ _ _ (by simp [F.lnkQStatSkew])]
    exact Nat.mod_eq_of_lt (by simp [F.lnkQStatSkew])
  by_cases near : skew ≤ 180
  · obtain ⟨n, e⟩ := State.bondAlign_near (map := map) hb hs near
    rw [e, if_pos near]
    refine ⟨(((State.Frame.refl s _ _).put (by simp [F.lnkQStatSkew])).flag (by simp [F.lnkQStatAlign])).put
      (by simp [F.lnkQStatMap]), ?_, ?_⟩
    · rw [State.get_put_apart _ _ (.inr (.inr (by simp [F.lnkQStatMap, F.lnkQStatSkew]))),
        State.get_flag_apart _ _ (.inr (.inr (by simp [F.lnkQStatAlign, F.lnkQStatSkew]))), shown]
    · rw [State.is_put_apart _ _ (.inr (.inl (by simp [F.lnkQStatMap, F.lnkQStatAlign]))),
        State.is_flag _ _ _ (by simp [F.lnkQStatAlign]) rfl]
  · rw [State.bondAlign_far hb (by omega), if_neg near]
    exact ⟨(State.Frame.refl s _ _).put (by simp [F.lnkQStatSkew]), shown,
      State.is_put_apart _ _ (.inr (.inl (by simp [F.lnkQStatSkew, F.lnkQStatAlign])))⟩

/-- An uncorrectable codeword of an unbonded lane counts on the lane and occurs as LNK_FEC (R438). -/
theorem State.fecBad_shows {s : State} {l : Nat} (corrected : Nat) (hb : s.bonded l = false) :
    s.Frame (s.fecBad l corrected) [R.lnkCntFecCorr l, R.lnkCntFecUncorr l] [.sel]
      ∧ (s.fecBad l corrected).get (F.lnkCntFecCorr l) = (s.get (F.lnkCntFecCorr l) + corrected) % 2 ^ 32
      ∧ (s.fecBad l corrected).get (F.lnkCntFecUncorr l) = (s.get (F.lnkCntFecUncorr l) + 1) % 2 ^ 32
      ∧ (s.fecBad l corrected).sel.occ = s.sel.occ ++ [(Src.lnkFec l, false)] := by
  have other : (F.lnkCntFecUncorr l).addr ≠ (F.lnkCntFecCorr l).addr := by
    simp [F.lnkCntFecUncorr, F.lnkCntFecCorr, R.lnkCntFecUncorr, R.lnkCntFecCorr]
  rw [State.fecBad, State.portLane_of_unbonded hb]
  refine ⟨(((State.Frame.refl s _ _).bump (by simp [F.lnkCntFecCorr])).bump (by simp [F.lnkCntFecUncorr])).raise (by simp),
    ?_, ?_, rfl⟩
  · rw [State.get_raise, State.get_bump_apart _ _ (.inl other)]
    exact State.get_bump _ _ _ (by simp [F.lnkCntFecCorr])
  · rw [State.get_raise, State.get_bump _ _ _ (by simp [F.lnkCntFecUncorr]), State.get_bump_apart _ _ (.inl other.symm)]
    rfl

/-- Settles O34 (R165, R438, R439, R445, R446). -/
theorem bondsAndMorvolos : Obligations.BondsAndMorvolos := by
  intro s l q map skew bad corrected hl hq
  have lm : l % 256 = l := Nat.mod_eq_of_lt hl
  have qm : q % 64 = q := Nat.mod_eq_of_lt hq
  refine ⟨fun hb hs => ?_, fun hb => ⟨?_, fun hm => ⟨fun hs hp => ?_, fun hs => ?_, fun hs => ?_⟩⟩⟩
  · exact ⟨s.bondAlign q map skew, by simp only [exec, execBondAlignment, qm], State.bondAlign_shows map hb hs⟩
  · exact ⟨s.fecBad l corrected, by simp only [exec, execFecUncorrectable, lm], State.fecBad_shows corrected hb⟩
  · exact ⟨s.mvAlign l, by simp only [exec, execMorvolosAlignment, lm], State.mvAlign_shows hb hs hm hp hl⟩
  · exact ⟨s.mvAlignLoss l bad, by simp only [exec, execMorvolosAlignLoss, lm], State.mvAlignLoss_shows hb hs hm hl bad⟩
  · refine ⟨s.mvFlip l, by simp only [exec, execMorvolosPolarityFlip, lm], ?_⟩
    rw [State.mvFlip_eq hs hm]
    exact ⟨s.frame_flipped, s.rxInv_flipped, s.lstate_flipped.trans hs, s.polFlip_flipped⟩

end Sys2Proof.Machine
end

