-- ==== Sys2Proof/Proofs/LaneFrames.lean ====
section
/-!
SUPPORT. Sys2Proof/Proofs/LaneFrames.lean: a frame received on an unbonded lane that is UP counts once, by the first check that
it fails, and a scheduled IGMP report leaves on it; the statement of O35 settled.
-/

namespace Sys2Proof.Machine

/-! The acceptance checks in order (R443) -/

section
variable {s : State} {l : Nat} {f : Sys2Proof.Frame} (hb : s.bonded l = false) (hs : s.lstate l = LState.up)
include hb hs

theorem State.frameReceived_fcs (hf : f.fcs = false) : s.frameReceived l f = s.bump (F.lnkCntRxFcs l) 1 := by
  simp only [State.frameReceived, State.portLane_of_unbonded hb, State.laneUp_of_unbonded hb hs, hf, Bool.not_true,
    Bool.not_false, Bool.false_eq_true, if_false, if_true]

variable (hf : f.fcs = true)
include hf

theorem State.frameReceived_len (hn : f.len < 64 ∨ 9022 < f.len) : s.frameReceived l f = s.bump (F.lnkCntRxLen l) 1 := by
  simp only [State.frameReceived, State.portLane_of_unbonded hb, State.laneUp_of_unbonded hb hs, hf, Bool.not_true,
    Bool.false_eq_true, if_false, Bool.or_eq_true, Nat.blt_eq, hn, if_true]

variable (lo : 64 ≤ f.len) (hi : f.len ≤ 9022)
include lo hi

theorem State.frameReceived_mac (hm : f.dst ≠ s.get (F.egrLnMacLoMac l) + s.get (F.egrLnMacHiMac l) * 2 ^ 32)
    (hall : f.dst ≠ 0xFFFFFFFFFFFF) (hg : f.dst / 2 ^ 24 ≠ 0x01005E) :
    s.frameReceived l f = s.bump (F.lnkCntRxMac l) 1 := by
  have fits : ¬ (f.len < 64 ∨ 9022 < f.len) := by omega
  simp only [State.frameReceived, State.portLane_of_unbonded hb, State.laneUp_of_unbonded hb hs, hf, Bool.not_true,
    Bool.false_eq_true, if_false, Bool.or_eq_true, Nat.blt_eq, fits, nat_beq_eq, decide_eq_false hm, decide_eq_false hall,
    decide_eq_false hg, Bool.or_self, Bool.not_false, if_true]

/-- A good UDP frame to the broadcast address counts by whether a flow entry matches it. -/
theorem State.frameReceived_udp (hd : f.dst = 0xFFFFFFFFFFFF) (he : f.ety = 0x0800) (hip : f.ipOk = true) (hfr : f.frag = false)
    (hp : f.proto = 17) : s.frameReceived l f =
      if s.flowMatch l f then s.bump (F.lnkCntRxFrames l) 1 else s.bump (F.lnkCntRxNoflow l) 1 := by
  have fits : ¬ (f.len < 64 ∨ 9022 < f.len) := by omega
  have broadcast : Nat.beq f.dst 0xFFFFFFFFFFFF = true := by rw [hd, Nat.beq_refl]
  have pause : Nat.beq f.ety 0x8808 = false := by rw [he]; rfl
  have arp : Nat.beq f.ety 0x0806 = false := by rw [he]; rfl
  have ip : Nat.beq f.ety 0x0800 = true := by rw [he]; rfl
  have igmp : Nat.beq f.proto 2 = false := by rw [hp]; rfl
  have udp : Nat.beq f.proto 17 = true := by rw [hp]; rfl
  simp only [State.frameReceived, State.portLane_of_unbonded hb, State.laneUp_of_unbonded hb hs, hf, hip, hfr, broadcast,
    pause, arp, ip, igmp, udp, Bool.not_true, Bool.false_eq_true, if_false, Bool.or_eq_true, Nat.blt_eq, fits, Bool.or_true,
    Bool.true_or]
  cases s.flowMatch l f <;> simp only [Bool.not_true, Bool.not_false, Bool.false_eq_true, if_false, if_true]

end

/-- A received frame that adds one to a counter, modulo 2^32, changes nothing else. -/
theorem State.frameReceived_counts {s : State} {l : Nat} {f : Sys2Proof.Frame} {g : Fld} (hl : l < 256) (h0 : g.lo = 0)
    (h32 : g.width = 32) (e : s.frameReceived l f = s.bump g 1) :
    s.Does (.laneFrameReceived l f) [g.addr] [] (fun t => t.get g = (s.get g + 1) % 2 ^ 32) := by
  refine ⟨s.bump g 1, ?_, (State.Frame.refl s _ _).bump (by simp), ?_⟩
  · simp only [exec, execLaneFrameReceived, Nat.mod_eq_of_lt hl, e]
  · exact (s.get_bump g 1 (by omega)).trans (by rw [h32])

/-! A scheduled report (R338) -/

/-- The lane's counters after a report sent at instant x. -/
def State.reportSent (s : State) (l x : Nat) : State :=
  ((s.advance x).bump (F.lnkCntTxFrames l) 1).sat (F.egrLnCntIgmpTx l) 1

section
variable (s : State) (l x : Nat)

theorem State.frame_reportSent : s.Frame (s.reportSent l x) [R.lnkCntTxFrames l, R.egrLnCnt l] [.now, .tim] :=
  (((State.Frame.refl s _ _).advance (by simp) (by simp)).bump (by simp [F.lnkCntTxFrames])).sat (by simp [F.egrLnCntIgmpTx])

theorem State.count_reportSent (hl : l < 256) :
    (s.reportSent l x).get (F.lnkCntTxFrames l) = (s.get (F.lnkCntTxFrames l) + 1) % 2 ^ 32 := by
  have other : (F.egrLnCntIgmpTx l).addr ≠ (F.lnkCntTxFrames l).addr := by
    simp [F.egrLnCntIgmpTx, F.lnkCntTxFrames, R.egrLnCnt, R.lnkCntTxFrames]; omega
  rw [State.reportSent, State.get_sat_apart _ _ (.inl other), State.get_bump _ _ _ (by simp [F.lnkCntTxFrames]),
    State.get_advance]
  rfl

end

/-- A report of an unbonded lane that is UP is sent and counted, and leaves the schedule or falls due again 1 s later. -/
theorem State.igmpSend_eq {s : State} {l i : Nat} {g : Igmp} (hb : s.bonded l = false) (hs : s.lstate l = LState.up)
    (hg : s.igmp[i]? = some g) (hl : g.lane = l) : s.igmpSend i = { s.reportSent l g.due with
      igmp := if g.left ≤ 1 then s.igmp.eraseIdx i
        else s.igmp.set i { g with left := g.left - 1, due := g.due + 1000000000 } } := by
  have unbonded : (s.advance g.due).bonded l = false := (s.is_advance _ _).trans hb
  have up : (s.advance g.due).laneUp l = true := State.laneUp_of_unbonded unbonded ((s.get_advance _ _).trans hs)
  have tx : (s.advance g.due).laneTx l 1 = (s.advance g.due).bump (F.lnkCntTxFrames l) 1 := by
    rw [State.laneTx_up 1 up, State.portLane_of_unbonded unbonded]
  have port : ((s.advance g.due).bump (F.lnkCntTxFrames l) 1).portLane l = l :=
    State.portLane_of_unbonded ((((State.Frame.refl _ [R.lnkCntTxFrames l] []).bump (by simp [F.lnkCntTxFrames])).bonded
      (by simp [R.lnkQCfg, R.lnkCntTxFrames]; omega)).trans unbonded)
  have same : (s.reportSent l g.due).igmp = s.igmp := (s.frame_reportSent l g.due).2 .igmp (by simp)
  simp only [State.igmpSend, hg, hl, tx, up, State.cond, if_true, port, Nat.ble_eq]
  rw [← State.reportSent, same]
  split <;> rfl

/-- Settles O35 (R142, R338, R443). -/
theorem framesOnALane : Obligations.FramesOnALane := by
  intro s l i f g hl hb hs
  refine ⟨fun hf => ?_, fun hf hn => ?_,
    fun hf lo hi => ⟨fun hm hall hgrp => ?_, fun hd he hip hfr hp => ⟨fun hy => ?_, fun hn => ?_⟩⟩, fun hi hgl => ?_⟩
  · exact State.frameReceived_counts hl rfl rfl (State.frameReceived_fcs hb hs hf)
  · exact State.frameReceived_counts hl rfl rfl (State.frameReceived_len hb hs hf hn)
  · exact State.frameReceived_counts hl rfl rfl (State.frameReceived_mac hb hs hf lo hi hm hall hgrp)
  · exact State.frameReceived_counts hl rfl rfl ((State.frameReceived_udp hb hs hf lo hi hd he hip hfr hp).trans (if_pos hy))
  · exact State.frameReceived_counts hl rfl rfl
      ((State.frameReceived_udp hb hs hf lo hi hd he hip hfr hp).trans (if_neg (Bool.eq_false_iff.mp hn)))
  · refine ⟨s.igmpSend i, rfl, ?_⟩
    rw [State.igmpSend_eq hb hs hi hgl]
    exact ⟨((s.frame_reportSent l g.due).mono (fun _ => id) (by simp)).setIgmp (by simp),
      (State.get_setIgmp _ _ _).trans (s.count_reportSent l g.due hl), rfl⟩

end Sys2Proof.Machine
end

