-- ==== Sys2Proof/Proofs/FieldWrites.lean ====
section
/-!
SUPPORT. Sys2Proof/Proofs/FieldWrites.lean: what a host write leaves in a field that takes every value (R8) and in one whose range
leaves the value out (R607), and a write that is taken at once.
-/

namespace Sys2Proof.Machine

/-! The fields of a written word -/

/-- Two fields of a register row share no bit. -/
abbrev FSpec.Apart (f g : FSpec) : Prop := g.lo + g.width ≤ f.lo ∨ f.lo + f.width ≤ g.lo

section
variable {v w old : Word} {f g : FSpec}

theorem bitsAt_writePlain_apart (h : f.Apart g) : bitsAt (writePlain v w f) g.lo g.width = bitsAt w g.lo g.width := by
  have taken : ∀ b : Bool, bitsAt (if b = true then setBitsAt w f.lo f.width (bitsAt v f.lo f.width) else w) g.lo g.width
      = bitsAt w g.lo g.width := fun b => by
    cases b
    · rfl
    · exact bitsAt_setBitsAt_ne _ _ _ _ _ _ h
  unfold writePlain
  split
  · exact taken _
  · exact bitsAt_setBitsAt_ne _ _ _ _ _ _ h
  · exact bitsAt_setBitsAt_ne _ _ _ _ _ _ h
  · rfl

theorem bitsAt_writeRanged_apart (h : f.Apart g) : bitsAt (writeRanged old w f) g.lo g.width = bitsAt w g.lo g.width := by
  unfold writeRanged
  split
  · split
    · rfl
    · exact bitsAt_setBitsAt_ne _ _ _ _ _ _ h
  · rfl

/-- A field that takes every value. -/
structure FSpec.Free (f : FSpec) : Prop where
  acc  : f.acc = .rw
  rng  : f.rng = .any
  fits : f.lo + f.width ≤ 32

variable (hf : f.Free)
include hf

theorem FSpec.Free.writePlain : bitsAt (writePlain v w f) f.lo f.width = bitsAt v f.lo f.width := by
  simp only [Machine.writePlain, hf.acc, hf.rng, if_true, bitsAt_setBitsAt _ _ _ _ hf.fits]
  exact Nat.mod_eq_of_lt (bitsAt_lt _ _ _)

theorem FSpec.Free.writeRanged : Machine.writeRanged old w f = w := by
  simp only [Machine.writeRanged, hf.acc, hf.rng, Rng.takes, if_true]

variable {fs : List FSpec} (apart : ∀ g ∈ fs, g = f ∨ g.Apart f)
include apart

theorem FSpec.Free.foldl_writePlain (h : f ∈ fs ∨ bitsAt w f.lo f.width = bitsAt v f.lo f.width) :
    bitsAt (fs.foldl (Machine.writePlain v) w) f.lo f.width = bitsAt v f.lo f.width := by
  induction fs generalizing w with
  | nil => exact h.resolve_left List.not_mem_nil
  | cons g fs ih =>
    refine ih (fun k hk => apart k (List.mem_cons_of_mem g hk)) ?_
    rcases apart g List.mem_cons_self with rfl | hg
    · exact .inr hf.writePlain
    · rcases h with hm | hw
      · rcases List.mem_cons.mp hm with rfl | hm
        · exact .inr hf.writePlain
        · exact .inl hm
      · exact .inr ((bitsAt_writePlain_apart hg).trans hw)

theorem FSpec.Free.foldl_writeRanged : bitsAt (fs.foldl (Machine.writeRanged old) w) f.lo f.width = bitsAt w f.lo f.width := by
  induction fs generalizing w with
  | nil => rfl
  | cons g fs ih =>
    refine (ih (fun k hk => apart k (List.mem_cons_of_mem g hk))).trans ?_
    rcases apart g List.mem_cons_self with rfl | hg
    · rw [hf.writeRanged]
    · exact bitsAt_writeRanged_apart hg

/-- A field that takes every value reads what is written to it. -/
theorem FSpec.Free.writeFields (h : f ∈ fs) : bitsAt (writeFields fs old v) f.lo f.width = bitsAt v f.lo f.width :=
  (hf.foldl_writeRanged apart).trans (hf.foldl_writePlain apart (.inl h))

end

/-- A field whose range leaves out the value that a write gives it (R607). -/
structure FSpec.Refuses (f : FSpec) (v : Word) : Prop where
  acc  : f.acc = .rw
  fits : f.lo + f.width ≤ 32
  out  : ∃ lo hi, f.rng = .between lo hi ∧ (Nat.ble lo (bitsAt v f.lo f.width) && Nat.ble (bitsAt v f.lo f.width) hi) = false

section
variable {v w old : Word} {f : FSpec} (hf : f.Refuses v)
include hf

theorem FSpec.Refuses.writePlain : Machine.writePlain v w f = w := by
  obtain ⟨acc, -, lo, hi, rng, out⟩ := hf
  simp only [Machine.writePlain, acc, rng, out, Bool.false_eq_true, if_false]

theorem FSpec.Refuses.writeRanged (h : bitsAt w f.lo f.width = bitsAt old f.lo f.width) :
    bitsAt (Machine.writeRanged old w f) f.lo f.width = bitsAt old f.lo f.width := by
  obtain ⟨acc, fits, -⟩ := hf
  simp only [Machine.writeRanged, acc]
  split
  · exact h
  · rw [bitsAt_setBitsAt _ _ _ _ fits]
    exact Nat.mod_eq_of_lt (bitsAt_lt _ _ _)

/-- A field keeps its value when the value written to it is outside its range. -/
theorem FSpec.Refuses.writeFields {fs : List FSpec} (apart : ∀ g ∈ fs, g = f ∨ g.Apart f) :
    bitsAt (writeFields fs old v) f.lo f.width = bitsAt old f.lo f.width := by
  have plain : bitsAt (fs.foldl (Machine.writePlain v) old) f.lo f.width = bitsAt old f.lo f.width :=
    List.foldlRecOn (motive := fun w => bitsAt w f.lo f.width = bitsAt old f.lo f.width) fs _ rfl (fun w h g hg => by
      rcases apart g hg with rfl | hg
      · rwa [hf.writePlain]
      · exact (bitsAt_writePlain_apart hg).trans h)
  exact List.foldlRecOn (motive := fun w => bitsAt w f.lo f.width = bitsAt old f.lo f.width) fs _ plain (fun w h g hg => by
    rcases apart g hg with rfl | hg
    · exact hf.writeRanged h
    · exact (bitsAt_writeRanged_apart hg).trans h)

end

/-- Bits inside the mask of a write are those written. -/
theorem bitsAt_maskWrite {mask : Word} (old new : Word) {lo width : Nat} (h : bitsAt mask lo width = 2 ^ width - 1) :
    bitsAt (maskWrite mask old new) lo width = bitsAt new lo width := by
  refine Nat.eq_of_testBit_eq (fun i => ?_)
  rw [testBit_bitsAt, testBit_bitsAt]
  by_cases hi : i < width
  · have one : mask.toNat.testBit (lo + i) = true := by
      have := testBit_bitsAt mask lo width i
      rw [h, Nat.testBit_two_pow_sub_one] at this
      simpa [hi] using this.symm
    rw [BitVec.testBit_toNat] at one
    simp only [maskWrite, BitVec.testBit_toNat, BitVec.getLsbD_or, BitVec.getLsbD_and, BitVec.getLsbD_not, one]
    simp
  · simp [hi]

/-- A field that takes every value reads, after a store through a mask that covers it, what was written. -/
theorem State.get_store {s : State} {a : Nat} {v mask : Word} {r : RegRow} {f : FSpec} (hr : findReg a = some r)
    (hf : f.Free) (hm : f ∈ r.fields) (apart : ∀ g ∈ r.fields, g = f ∨ g.Apart f)
    (hmask : bitsAt mask f.lo f.width = 2 ^ f.width - 1) : (s.store a v mask).get ⟨a, f.lo, f.width⟩ = bitsAt v f.lo f.width := by
  simp only [State.store, hr, State.get, State.word_setWord]
  rw [bitsAt_maskWrite _ _ hmask, hf.writeFields apart hm]

/-- A field keeps its value, in a store of all bits, when the value written to it is outside its range. -/
theorem State.get_store_refused {s : State} {a : Nat} {v : Word} {r : RegRow} {f : FSpec} (hr : findReg a = some r)
    (hf : f.Refuses v) (apart : ∀ g ∈ r.fields, g = f ∨ g.Apart f) :
    (s.store a v allBits).get ⟨a, f.lo, f.width⟩ = s.get ⟨a, f.lo, f.width⟩ := by
  simp only [State.store, hr, State.get, State.word_setWord, maskWrite_allBits]
  exact hf.writeFields apart

/-! Writes that are taken at once -/

/-- A command whose effect on the state that its write leaves stays within a frame, where P holds after it. -/
theorem State.writes_of_taken {s : State} {h a : Nat} {v : Word} {c : Instr} {eff : State → State} {regs : List Nat}
    {parts : List Part} {P : State → Prop} (hr : s.Ready h) (he : exec c s = .next (s.takeWrite h a v false eff))
    (hp : ∀ t, s.Taken t h a v → t.Frame (eff t) regs (takingParts ++ parts) ∧ P (eff t)) : s.Writes h c regs parts P := by
  obtain ⟨t, taken, act⟩ := State.takeWrite_ready a v false eff hr
  obtain ⟨frame, holds⟩ := hp t taken
  refine ⟨eff t, he.trans (congrArg Host.Outcome.next act), ?_, holds⟩
  exact (taken.frame.mono (by simp) (fun p hp => List.mem_append_left _ hp)).andThen frame
    (fun a ha => List.mem_cons_of_mem _ ha) (fun _ => id)

end Sys2Proof.Machine
end

