-- ==== Sys2Proof/Proofs/SourceOps.lean ====
section
/-!
SUPPORT. Sys2Proof/Proofs/SourceOps.lean: the state field and the paths of a source: their frames, and what ING_SRC_STAT reads
after them.
-/

namespace Sys2Proof.Machine

section
variable (s : State) (i x : Nat)

@[simp] theorem pathUpFld_addr : (pathUpFld i x).addr = R.ingSrcStat i := by
  unfold pathUpFld; split <;> rfl

theorem pathUpFld_width : (pathUpFld i x).width = 1 := by
  unfold pathUpFld; split <;> rfl

/-- PATH_A_UP and PATH_B_UP are bits 2 and 3. -/
theorem pathUpFld_lo : 2 ≤ (pathUpFld i x).lo ∧ (pathUpFld i x).lo ≤ 3 := by
  unfold pathUpFld; split <;> simp [F.ingSrcStatPathAUp, F.ingSrcStatPathBUp]

theorem pathUpFld_zero : pathUpFld i 0 = F.ingSrcStatPathAUp i := rfl

theorem ingSrcStatState_apart_pathUpFld : (F.ingSrcStatState i).Apart (pathUpFld i x) :=
  .inr (.inr (pathUpFld_lo i x).1)

theorem pathUpFld_apart_ingSrcStatState : (pathUpFld i x).Apart (F.ingSrcStatState i) :=
  .inr (.inl (pathUpFld_lo i x).1)

theorem ingSrcStat_ne_selEvtOvf : R.ingSrcStat i ≠ R.selEvtOvf := by unfold R.ingSrcStat R.selEvtOvf; omega

theorem ingSrcStat_ne_selLive_srcLost : R.ingSrcStat i ≠ R.selLive (Src.srcLost i / 32) := by
  simp only [R.ingSrcStat, R.selLive, Src.srcLost]
  omega

/-! SSTATE -/

theorem State.Frame.setSstate {t : State} {q : List Nat} {m : List Part} {v : Nat} (h : s.Frame t q m)
    (hs : R.ingSrcStat i ∈ q) (hr : R.selEvtOvf ∈ q) (ha : .arb ∈ m) : s.Frame (t.setSstate i v) q m :=
  h.moveTo hs hr ha

theorem State.sstate_setSstate {v : Nat} (hv : v < 4) : (s.setSstate i v).sstate i = v :=
  s.get_moveTo _ _ _ _ _ (by simp [F.ingSrcStatState]) hv (ingSrcStat_ne_selEvtOvf i)

theorem State.get_setSstate (v : Nat) {g : Fld} (h : (F.ingSrcStatState i).Apart g) (hg : g.addr ≠ R.selEvtOvf) :
    (s.setSstate i v).get g = s.get g :=
  s.get_moveTo_apart _ _ _ _ _ _ h hg

theorem State.pathUp_setSstate (v : Nat) : (s.setSstate i v).is (pathUpFld i x) = s.is (pathUpFld i x) := by
  rw [State.is, s.get_setSstate i v (ingSrcStatState_apart_pathUpFld i x)
    (by rw [pathUpFld_addr]; exact ingSrcStat_ne_selEvtOvf i)]
  rfl

/-! Paths (R160) -/

theorem State.Frame.setPath {t : State} {q : List Nat} {m : List Part} {up : Bool} (h : s.Frame t q m)
    (hs : R.ingSrcStat i ∈ q) (hr : R.selEvtOvf ∈ q) (ha : .arb ∈ m) : s.Frame (t.setPath i x up) q m :=
  h.ite ((h.flag (by simpa)).stateEv hr ha)

theorem State.pathUp_setPath (up : Bool) : (s.setPath i x up).is (pathUpFld i x) = up := by
  unfold State.setPath
  split
  · next h => exact eq_of_beq h
  · rw [State.is_stateEv _ _ _ _ _ (by rw [pathUpFld_addr]; exact ingSrcStat_ne_selEvtOvf i), State.is_flag]
    · rw [pathUpFld_width]; have := pathUpFld_lo i x; omega
    · exact pathUpFld_width i x

theorem State.get_setPath (up : Bool) {g : Fld} (h : (pathUpFld i x).Apart g) (hg : g.addr ≠ R.selEvtOvf) :
    (s.setPath i x up).get g = s.get g := by
  unfold State.setPath
  split
  · rfl
  · rw [State.get_stateEv _ _ _ _ _ hg, State.get_flag_apart _ _ h]

theorem State.sstate_setPath (up : Bool) : (s.setPath i x up).sstate i = s.sstate i :=
  s.get_setPath i x up (pathUpFld_apart_ingSrcStatState i x) (ingSrcStat_ne_selEvtOvf i)

theorem State.frame_pathSeen : s.Frame (s.pathSeen i x) [R.ingSrcStat i, R.selEvtOvf] [.arb, .timers] :=
  (State.Frame.setPath s i x (State.Frame.refl s _ _) (by simp) (by simp) (by simp)).arm (by simp)

theorem State.sstate_pathSeen : (s.pathSeen i x).sstate i = s.sstate i :=
  (State.get_arm _ _ _).trans (s.sstate_setPath i x true)

/-- A path that delivers a packet is up. -/
theorem State.pathUp_pathSeen : (s.pathSeen i x).is (pathUpFld i x) = true :=
  (State.is_arm _ _ _).trans (s.pathUp_setPath i x true)

end

end Sys2Proof.Machine
end

