-- ==== Sys2Proof/Proofs/SourceEnables.lean ====
section
/-!
SUPPORT. Sys2Proof/Proofs/SourceEnables.lean: writes of a source's registers, the check of its enable, and its disable; the
statements of O36 and O58 settled.
-/

namespace Sys2Proof.Machine

/-! The fields of an enabled source (R144) -/

section
variable {s : State} {a n : Nat}

/-- The offsets of a source's registers that an enabled source locks. -/
structure SourceField (a n : Nat) : Prop where
  source : n < 512
  lo     : R.ingSrcCfg n < a
  hi     : a ≤ R.ingSrcMerge n
  offset : a - R.ingSrcCfg n = 0x4 ∨ a - R.ingSrcCfg n = 0x8 ∨ 0x10 ≤ a - R.ingSrcCfg n

theorem SourceField.locked (h : SourceField a n) : s.locked a = s.is (F.ingSrcCfgEn n) := by
  obtain ⟨hn, lo, hi, offset⟩ := h
  simp only [R.ingSrcCfg, R.ingSrcMerge] at lo hi offset
  have place : (a - R.ingSrcCfg 0) / 0x400 = n := by simp only [R.ingSrcCfg]; omega
  have rest : (a - R.ingSrcCfg 0) % 0x400 = a - R.ingSrcCfg n := by simp only [R.ingSrcCfg]; omega
  have inside : (Nat.ble (R.ingSrcCfg 0) a && Nat.blt a (R.ingSrcCfg 512)) = true := by
    simp only [Bool.and_eq_true, Nat.ble_eq, Nat.blt_eq, R.ingSrcCfg]; omega
  have chn : ¬ (Nat.ble 0x00C00000 a && Nat.blt a 0x01000000) = true := by
    simp only [Bool.and_eq_true, Nat.ble_eq, Nat.blt_eq]; omega
  have ing : (Nat.ble 0x00400000 a && Nat.blt a 0x00600000) = true := by
    simp only [Bool.and_eq_true, Nat.ble_eq, Nat.blt_eq]; omega
  have covered : (Nat.beq (a - R.ingSrcCfg n) 0x4 || Nat.beq (a - R.ingSrcCfg n) 0x8
      || (Nat.ble 0x10 (a - R.ingSrcCfg n) && Nat.blt (a - R.ingSrcCfg n) 0x30) || Nat.beq (a - R.ingSrcCfg n) 0x30) = true := by
    simp only [Bool.or_eq_true, Bool.and_eq_true, nat_beq_eq, decide_eq_true_eq, Nat.ble_eq, Nat.blt_eq, R.ingSrcCfg]
    omega
  rw [State.locked, if_neg chn, if_pos ing, State.lockedIng, if_pos inside, rest, place]
  dsimp only
  rw [covered, Bool.true_and]

/-- A write to such a register stores its fields, or has no effect while the source is enabled. -/
theorem SourceField.writeReg (h : SourceField a n) (v : Word) :
    s.writeReg a v = if s.is (F.ingSrcCfgEn n) then s else s.store a v allBits := by
  have locks := h.locked (s := s)
  obtain ⟨hn, lo, hi, -⟩ := h
  simp only [R.ingSrcCfg, R.ingSrcMerge] at lo hi
  have low : ¬ Nat.blt a 0x00100000 = true := by rw [Nat.blt_eq]; omega
  have mid : Nat.blt a 0x00600000 = true := by rw [Nat.blt_eq]; omega
  have below : ∀ b st m, b + (m - 1) * st < 0x00401000 → isInst a b st m = false := fun b st m hb => isInst_of_gt (by omega)
  have cfg : isInst a (R.ingSrcCfg 0) 0x400 512 = false := by
    refine Bool.eq_false_iff.mpr (fun e => ?_)
    simp only [isInst, nat_beq_eq, Bool.and_eq_true, decide_eq_true_eq, R.ingSrcCfg] at e
    omega
  have afl : isInst a (R.ingAflCfg 0) 0x20 32 = false := isInst_of_lt (by unfold R.ingAflCfg; omega)
  rw [State.writeReg, if_neg low, if_pos mid, State.writeMid, below (R.drcCtl 0) _ _ (by decide),
    below (R.drcInj 0) _ _ (by decide), below (R.lnkCfg 0) _ _ (by decide), below (R.lnkTest 0) _ _ (by decide),
    below (R.lnkInj 0) _ _ (by decide), cfg, afl]
  simp only [Bool.false_eq_true, if_false, State.writePlainReg, locks]

theorem sourceField_of_mem {x : Nat} (hn : n < 512) (hx : x < 2) (ha : a ∈ [R.ingSrcFmt n, R.ingSrcSize n, R.ingSrcMerge n,
    R.ingSrcPath n x, R.ingSrcGrp n x, R.ingSrcFlt n x, R.ingSrcUdp n x]) : SourceField a n := by
  simp only [List.mem_cons, List.not_mem_nil, or_false, R.ingSrcFmt, R.ingSrcSize, R.ingSrcMerge, R.ingSrcPath, R.ingSrcGrp,
    R.ingSrcFlt, R.ingSrcUdp] at ha
  refine ⟨hn, ?_, ?_, ?_⟩ <;> simp only [R.ingSrcCfg, R.ingSrcMerge] <;> omega

end

/-- Settles O58 (R144). -/
theorem sourceFieldsLocked : Obligations.SourceFieldsLocked := by
  intro s h n x a v hr hn hx ha
  have field := sourceField_of_mem hn hx ha
  obtain ⟨t, taken, act⟩ := State.takeWrite_ready a v false (fun s => s.writeReg a v) hr
  have other : a ≠ R.sysReq := by
    have := field.lo
    simp only [R.ingSrcCfg, R.sysReq] at this ⊢
    omega
  have same : t.is (F.ingSrcCfgEn n) = s.is (F.ingSrcCfgEn n) := taken.frame.is _ (by
    have port : h < 4 := hr.2.1
    simp [F.ingSrcCfgEn, R.ingSrcCfg, R.hstCntWrites]; omega)
  have step : exec (.hostRegisterWrite h a v) s = .next (t.writeReg a v) := by
    simp only [exec, execHostRegisterWrite, nat_beq_eq, decide_eq_false other, Bool.false_eq_true, if_false, act]
  rw [field.writeReg, same] at step
  refine ⟨fun on => ⟨t, ?_, taken⟩, fun off => ⟨t, taken, ?_⟩⟩
  · rw [step, on, if_pos rfl]
  · rw [step, off, if_neg Bool.false_ne_true]

/-! ING_SRC_CFG -/

theorem findReg_ingSrcCfg : ∀ i < 512, findReg (R.ingSrcCfg i) = some ⟨R.ingSrcCfg 0, (0x400, 512), (4, 1),
    [⟨0, 2, .rw, .any, true⟩, ⟨2, 1, .rw, .any, true⟩, ⟨3, 1, .rw, .any, true⟩, ⟨4, 1, .rw, .any, true⟩,
      ⟨5, 2, .rw, .between 1 2, true⟩, ⟨7, 1, .rw, .any, true⟩, ⟨8, 2, .rw, .any, true⟩,
      ⟨16, 8, .rw, .between 1 255, true⟩]⟩ := by
  decide +kernel

section
variable (s : State) {i : Nat} (hi : i < 512) (v : Word)
include hi

/-- EN takes the bit that is written, through either mask of a write of ING_SRC_CFG. -/
theorem State.en_store_ingSrcCfg {mask : Word} {x : Nat} (hx : x < 2) (hm : bitsAt mask 2 1 = 1) :
    (s.store (R.ingSrcCfg i) (setBitsAt v 2 1 x) mask).get (F.ingSrcCfgEn i) = x := by
  refine (State.get_store (f := ⟨2, 1, .rw, .any, true⟩) (findReg_ingSrcCfg i hi) ⟨rfl, rfl, by decide⟩ (by simp)
    (by decide) hm).trans ?_
  exact (bitsAt_setBitsAt v 2 1 x (by decide)).trans (Nat.mod_eq_of_lt hx)

/-- EN = 1 written to a disabled source waits for its check. -/
theorem State.writeSrcCfg_enable (off : s.is (F.ingSrcCfgEn i) = false) : s.writeSrcCfg i (setBitsAt v 2 1 1) =
    (s.store (R.ingSrcCfg i) (setBitsAt v 2 1 1) allBits).updSrc i (fun x => { x with enWait := true }) := by
  have on : (s.store (R.ingSrcCfg i) (setBitsAt v 2 1 1) allBits).is (F.ingSrcCfgEn i) = true := by
    rw [State.is, s.en_store_ingSrcCfg hi v (by decide) (by decide)]; rfl
  simp only [State.writeSrcCfg, off, Bool.false_eq_true, if_false, on, Bool.not_false, Bool.and_self, if_true]

/-- EN = 0 written to an enabled source disables it. -/
theorem State.writeSrcCfg_disable (on : s.is (F.ingSrcCfgEn i) = true) : s.writeSrcCfg i (setBitsAt v 2 1 0) =
    (s.store (R.ingSrcCfg i) (setBitsAt v 2 1 0) 0xFFFFFFFC).srcDisable i := by
  have off : (s.store (R.ingSrcCfg i) (setBitsAt v 2 1 0) 0xFFFFFFFC).is (F.ingSrcCfgEn i) = false := by
    rw [State.is, s.en_store_ingSrcCfg hi v (by decide) (by decide)]; rfl
  simp only [State.writeSrcCfg, on, if_true, off, Bool.false_and, Bool.not_false, Bool.and_self, Bool.false_eq_true, if_false]

end

theorem State.frame_store (s : State) (a : Nat) (v mask : Word) : s.Frame (s.store a v mask) [a] [] :=
  (State.Frame.refl s _ _).store (by simp)

/-- SOURCE_ENABLE of a disabled source, taken at once. -/
theorem State.sourceEnable_writes {s : State} {h i : Nat} (v : Word) (hi : i < 512) (hr : s.Ready h)
    (off : s.is (F.ingSrcCfgEn i) = false) : s.Writes h (.sourceEnable h i v) [R.ingSrcCfg i] [.srcs] (fun t =>
      t.is (F.ingSrcCfgEn i) = true ∧ (t.src i).enWait = true ∧ t.sstate i = s.sstate i) := by
  have port : h < 4 := hr.2.1
  refine State.writes_of_taken (a := R.ingSrcCfg i) (v := setBitsAt v 2 1 1) (eff := fun s => s.writeSrcCfg i (setBitsAt v 2 1 1))
    hr (by simp only [exec, execSourceEnable, Nat.mod_eq_of_lt hi]) (fun t taken => ?_)
  have off' : t.is (F.ingSrcCfgEn i) = false :=
    (taken.frame.is _ (by simp [F.ingSrcCfgEn, R.ingSrcCfg, R.hstCntWrites]; omega)).trans off
  have stored := t.frame_store (R.ingSrcCfg i) (setBitsAt v 2 1 1) allBits
  rw [t.writeSrcCfg_enable hi v off']
  refine ⟨(stored.mono (fun _ => id) (by simp)).updSrc (by simp), ?_, ?_, ?_⟩
  · rw [State.is, State.get_updSrc, t.en_store_ingSrcCfg hi v (by decide) (by decide)]; rfl
  · exact congrArg Src.enWait (State.src_updSrc _ i _)
  · rw [State.sstate, State.get_updSrc, stored.get _ (by simp [F.ingSrcStatState, R.ingSrcStat, R.ingSrcCfg])]
    exact taken.frame.get _ (by simp [F.ingSrcStatState, R.ingSrcStat, R.hstCntWrites]; omega)

/-! The check of an enable (R145) -/

section
variable {s t : State} {i : Nat}

/-- The check of R145 looks at registers only: any other state of the same registers gives the same answer. -/
theorem State.srcRefuse_of_regs (h : t.regs = s.regs) : t.srcRefuse i = s.srcRefuse i := by
  have only : t.srcRefuse i = ({ s with regs := t.regs } : State).srcRefuse i := rfl
  rw [only, h]

theorem State.srcRefuse_le (s : State) (i : Nat) : s.srcRefuse i ≤ 8 := by
  unfold State.srcRefuse
  dsimp only
  split_ifs <;> decide

end

section
variable (s : State) (i : Nat)

/-- An enable that is refused with reason r. -/
def State.srcRefused (r : Nat) : State :=
  ((((s.setSrc i {}).flag (F.ingSrcCfgEn i) false).put (F.ingSrcStatErr i) r).flag (F.ingSrcStatRefused i) true).refusalEv 11 3 i r

theorem State.frame_srcRefused (r : Nat) : s.Frame (s.srcRefused i r) [R.ingSrcCfg i, R.ingSrcStat i, R.selEvtOvf] [.srcs, .arb] :=
  (((((State.Frame.refl s _ _).setSrc (by simp)).flag (by simp [F.ingSrcCfgEn])).put (by simp [F.ingSrcStatErr])).flag
    (by simp [F.ingSrcStatRefused])).refusalEv (by simp) (by simp)

theorem State.srcRefused_shows {r : Nat} (hr : r < 16) : (s.srcRefused i r).is (F.ingSrcCfgEn i) = false
    ∧ (s.srcRefused i r).is (F.ingSrcStatRefused i) = true ∧ (s.srcRefused i r).get (F.ingSrcStatErr i) = r
    ∧ ((s.srcRefused i r).src i).enWait = false := by
  have cfg : R.ingSrcStat i ≠ R.ingSrcCfg i := by simp [R.ingSrcStat, R.ingSrcCfg]
  have event := (State.Frame.refl ((((s.setSrc i {}).flag (F.ingSrcCfgEn i) false).put (F.ingSrcStatErr i) r).flag
    (F.ingSrcStatRefused i) true) [R.selEvtOvf] [.arb]).refusalEv (i := 11) (e := 3) (n := i) (d := r) (by simp) (by simp)
  have stat : R.ingSrcStat i ∉ [R.selEvtOvf] := by simpa using ingSrcStat_ne_selEvtOvf i
  refine ⟨?_, ?_, ?_, ?_⟩
  · rw [State.srcRefused, event.is _ (by simp [F.ingSrcCfgEn, R.ingSrcCfg, R.selEvtOvf]; omega), State.is_flag_apart _ _ (.inl cfg),
      State.is_put_apart _ _ (.inl cfg), State.is_flag _ _ _ (by simp [F.ingSrcCfgEn]) rfl]
  · rw [State.srcRefused, event.is _ stat, State.is_flag _ _ _ (by simp [F.ingSrcStatRefused]) rfl]
  · rw [State.srcRefused, event.get _ stat, State.get_flag_apart _ _ (.inr (.inl (by simp [F.ingSrcStatRefused, F.ingSrcStatErr]))),
      State.get_put _ _ _ (by simp [F.ingSrcStatErr])]
    exact Nat.mod_eq_of_lt hr
  · rw [State.srcRefused, event.src (by simp)]
    exact congrArg Src.enWait (State.src_setSrc s i {})

theorem State.srcCheck_refused (h : s.srcRefuse i ≠ 0) : s.srcCheck i = s.srcRefused i (s.srcRefuse i) := by
  have refused : ¬ Nat.beq (s.srcRefuse i) 0 = true := by rwa [nat_beq_eq, decide_eq_true_eq]
  rw [State.srcCheck]
  exact if_neg refused

/-- The counters of an enabled source (R173) and of its decoder (R194). -/
def srcCounts (i : Nat) : List Nat :=
  (List.range 13).map (fun k => R.ingSrcCntFrames i + 4 * k) ++ (List.range 13).map (fun k => R.decSrcCntAuRx i + 4 * k)

theorem State.frame_clearSrcCounts : s.Frame (s.clearSrcCounts i) (srcCounts i) [] := by
  refine ((State.Frame.refl s _ _).foldl (fun _ k hk hu => hu.setWord ?_)).foldl (fun _ k hk hu => hu.setWord ?_)
  · exact List.mem_append_left _ (List.mem_map.mpr ⟨k, hk, by simp only [R.ingSrcCntFrames]⟩)
  · exact List.mem_append_right _ (List.mem_map_of_mem hk)

theorem State.word_clearSrcCounts {k : Nat} (hk : k < 13) :
    (s.clearSrcCounts i).word (R.ingSrcCntFrames i + 4 * k) = 0 := by
  have first := s.word_foldl_setWord (g := fun k => R.ingSrcCntFrames i + 4 * k) (fun _ => 0) (fun a b h => by
    simp only at h; omega) hk
  have rest : ∀ u : State, (u.each (List.range 13) (fun s k => s.setWord (R.decSrcCntAuRx i + 4 * k) 0)).word
      (R.ingSrcCntFrames i + 4 * k) = u.word (R.ingSrcCntFrames i + 4 * k) := fun u =>
    ((State.Frame.refl u ((List.range 13).map (fun k => R.decSrcCntAuRx i + 4 * k)) []).foldl
      (fun _ _ hk hu => hu.setWord (List.mem_map_of_mem hk))).word (by
        simp only [List.mem_map, List.mem_range, R.decSrcCntAuRx, R.ingSrcCntFrames, not_exists, not_and]; omega)
  exact (rest _).trans first

/-- An enable that is accepted: its counters and EN, then its state and paths, before its reports. -/
def State.srcReset : State := ((s.setSrc i {}).clearSrcCounts i).flag (F.ingSrcCfgEn i) true

def State.srcStarted : State :=
  ((((s.srcReset i).put (F.ingSrcStatFrame i) 0).flag (F.ingSrcStatPathAUp i) false).flag (F.ingSrcStatPathBUp i) false).setSstate i 1

theorem State.frame_srcReset_srcStarted : (s.srcReset i).Frame (s.srcStarted i) [R.ingSrcStat i, R.selEvtOvf] [.arb] :=
  ((((State.Frame.refl _ _ _).put (by simp [F.ingSrcStatFrame])).flag (by simp [F.ingSrcStatPathAUp])).flag
    (by simp [F.ingSrcStatPathBUp])).moveTo (by simp [F.ingSrcStatState]) (by simp) (by simp)

theorem srcCounts_bounds {a : Nat} (ha : a ∈ srcCounts i) :
    R.ingSrcCntFrames i ≤ a ∧ a ≤ R.ingSrcCntCrcErr i ∨ R.decLoad < a := by
  simp only [srcCounts, List.mem_append, List.mem_map, List.mem_range] at ha
  simp only [R.ingSrcCntFrames, R.ingSrcCntCrcErr, R.decSrcCntAuRx, R.decLoad] at ha ⊢
  rcases ha with ⟨k, hk, rfl⟩ | ⟨k, hk, rfl⟩
  · exact .inl (by omega)
  · exact .inr (by omega)

theorem State.frame_srcStarted :
    s.Frame (s.srcStarted i) ([R.ingSrcCfg i, R.ingSrcStat i, R.selEvtOvf] ++ srcCounts i) [.srcs, .arb] := by
  have cleared := ((State.Frame.refl s ([R.ingSrcCfg i, R.ingSrcStat i, R.selEvtOvf] ++ srcCounts i) [.srcs, .arb]).setSrc
    (i := i) (x := {}) (by simp)).andThen (State.frame_clearSrcCounts _ i) (fun _ h => List.mem_append_right _ h) (by simp)
  exact (cleared.flag (by simp [F.ingSrcCfgEn])).andThen (s.frame_srcReset_srcStarted i) (by simp) (by simp)

/-- What an accepted enable shows (R145, R173). -/
structure State.SrcStarted (t : State) (i : Nat) : Prop where
  en     : t.is (F.ingSrcCfgEn i) = true
  state  : t.sstate i = SState.wait
  pathA  : t.is (F.ingSrcStatPathAUp i) = false
  pathB  : t.is (F.ingSrcStatPathBUp i) = false
  frame  : t.get (F.ingSrcStatFrame i) = 0
  taken  : (t.src i).enWait = false
  counts : ∀ k, k < 13 → t.word (R.ingSrcCntFrames i + 4 * k) = 0

theorem State.srcStarted_shows (hi : i < 512) : (s.srcStarted i).SrcStarted i := by
  let w := ((((s.srcReset i).put (F.ingSrcStatFrame i) 0).flag (F.ingSrcStatPathAUp i) false).flag (F.ingSrcStatPathBUp i) false)
  have stat := s.frame_srcReset_srcStarted i
  have all : ((s.setSrc i {}).clearSrcCounts i).Frame (s.srcStarted i) [R.ingSrcCfg i, R.ingSrcStat i, R.selEvtOvf] [.arb] :=
    ((State.Frame.refl _ _ _).flag (by simp [F.ingSrcCfgEn])).andThen stat (by simp) (by simp)
  have ovf := ingSrcStat_ne_selEvtOvf i
  refine ⟨?_, State.sstate_setSstate _ i (by decide), ?_, ?_, ?_, ?_, fun k hk => ?_⟩
  · exact (stat.is _ (by simp [F.ingSrcCfgEn, R.ingSrcCfg, R.ingSrcStat, R.selEvtOvf]; omega)).trans
      (State.is_flag _ _ _ (by simp [F.ingSrcCfgEn]) rfl)
  · refine (State.pathUp_setSstate w i 0 1).trans ((State.is_flag_apart _ _ (.inr (.inl ?_))).trans
      (State.is_flag _ _ _ (by simp [F.ingSrcStatPathAUp]) rfl))
    exact (pathUpFld_zero i).symm ▸ by simp [F.ingSrcStatPathAUp, F.ingSrcStatPathBUp]
  · exact (State.pathUp_setSstate w i 1 1).trans (State.is_flag _ _ _ (by simp [F.ingSrcStatPathBUp]) rfl)
  · rw [State.srcStarted, State.get_setSstate _ i 1 (.inr (.inr (by simp [F.ingSrcStatState, F.ingSrcStatFrame]))) ovf,
      State.get_flag_apart _ _ (.inr (.inr (by simp [F.ingSrcStatPathBUp, F.ingSrcStatFrame]))),
      State.get_flag_apart _ _ (.inr (.inr (by simp [F.ingSrcStatPathAUp, F.ingSrcStatFrame]))),
      State.get_put _ _ _ (by simp [F.ingSrcStatFrame])]
    rfl
  · exact congrArg Src.enWait (((all.src (by simp) i).trans ((State.frame_clearSrcCounts _ i).src (by simp) i)).trans
      (State.src_setSrc s i {}))
  · refine (all.word ?_).trans (State.word_clearSrcCounts _ i hk)
    simp [R.ingSrcCntFrames, R.ingSrcCfg, R.ingSrcStat, R.selEvtOvf]; omega

/-- What an accepted enable shows stays while reports are scheduled. -/
theorem State.SrcStarted.of_frame {t u : State} {i : Nat} (h : t.SrcStarted i) (f : t.Frame u [] [.igmp]) : u.SrcStarted i where
  en     := (f.is _ (by simp)).trans h.en
  state  := (f.get _ (by simp)).trans h.state
  pathA  := (f.is _ (by simp)).trans h.pathA
  pathB  := (f.is _ (by simp)).trans h.pathB
  frame  := (f.get _ (by simp)).trans h.frame
  taken  := (congrArg Src.enWait (f.src (by simp) i)).trans h.taken
  counts := fun k hk => (f.word (by simp)).trans (h.counts k hk)

/-- KIND of a source that is being enabled. -/
theorem State.skind_srcStarted (hi : i < 512) : (s.srcStarted i).skind i = s.skind i := by
  have counts : R.ingSrcCfg i ∉ srcCounts i := fun h => by
    have := srcCounts_bounds i h
    simp only [R.ingSrcCfg, R.ingSrcCntFrames, R.ingSrcCntCrcErr, R.decLoad] at this
    omega
  rw [State.skind, (s.frame_srcReset_srcStarted i).get _ (by
    simp [F.ingSrcCfgKind, R.ingSrcCfg, R.ingSrcStat, R.selEvtOvf]; omega), State.srcReset,
    State.get_flag_apart _ _ (.inr (.inl (by simp [F.ingSrcCfgEn, F.ingSrcCfgKind]))),
    (State.frame_clearSrcCounts _ i).get _ counts]
  rfl

/-- An accepted enable of a source that is not a camera schedules its reports at most. -/
theorem State.srcCheck_accepted (hi : i < 512) (hk : s.skind i ≠ 2) (h : s.srcRefuse i = 0) :
    ∃ t, (s.srcStarted i).Frame t [] [.igmp] ∧ s.srcCheck i = t := by
  have reports : (s.srcStarted i).Frame (if Nat.beq ((s.srcStarted i).skind i) 3 then s.srcStarted i
      else (s.srcStarted i).each ((s.srcStarted i).srcPaths i) (fun s x =>
        s.igmpChange (s.get (F.ingSrcPathLane i x)) (s.get (F.ingSrcPathVlan i x)) (s.get (F.ingSrcGrpAddr i x)) 0)) [] [.igmp] :=
    (State.Frame.refl _ _ _).ite ((State.Frame.refl _ _ _).foldl (fun _ _ _ hu => hu.igmpChange (by simp)))
  refine ⟨_, reports, ?_⟩
  rw [State.srcCheck, h]
  refine (if_pos rfl).trans (if_neg (fun cam => hk ?_))
  exact (s.skind_srcStarted i hi).symm.trans ((reports.get _ (by simp)).symm.trans (Nat.eq_of_beq_eq_true cam))

end

section
variable (s : State)

theorem State.frame_tick : s.Frame s.tick [] [.now, .tim] := s.frame_advance _

/-- A check falls on a 1 µs tick (R609). -/
theorem State.tick_now : s.tick.now % 1000 = 0 := by
  rw [State.tick, State.advance_now, State.nextTick]
  omega

end

/-- SOURCE_ENABLE_CHECK of a waiting enable that is refused. -/
theorem State.sourceEnableCheck_refused {s : State} {i : Nat} (hi : i < 512) (hw : (s.src i).enWait = true)
    (h : s.srcRefuse i ≠ 0) :
    s.Does (.sourceEnableCheck i) [R.ingSrcCfg i, R.ingSrcStat i, R.selEvtOvf] [.now, .tim, .timers, .srcs, .arb] (fun t =>
      t.is (F.ingSrcCfgEn i) = false ∧ t.is (F.ingSrcStatRefused i) = true ∧ t.get (F.ingSrcStatErr i) = s.srcRefuse i
        ∧ (t.src i).enWait = false ∧ t.now % 1000 = 0) := by
  have same : s.tick.srcRefuse i = s.srcRefuse i := State.srcRefuse_of_regs (by simp [State.tick])
  have frame := s.tick.frame_srcRefused i (s.srcRefuse i)
  obtain ⟨en, refused, err, waits⟩ := s.tick.srcRefused_shows i (r := s.srcRefuse i)
    (Nat.lt_of_le_of_lt (s.srcRefuse_le i) (by decide))
  refine ⟨s.tick.srcRefused i (s.srcRefuse i), ?_, (s.frame_tick.mono (by simp) (by simp)).andThen frame (by simp) (by simp), en,
    refused, err, waits, ?_⟩
  · simp only [exec, execSourceEnableCheck, Nat.mod_eq_of_lt hi, hw, if_true]
    rw [State.srcCheck_refused _ _ (same ▸ h), same]
  · rw [frame.now (by simp), s.tick_now]

/-- SOURCE_ENABLE_CHECK of a waiting enable that is accepted. -/
theorem State.sourceEnableCheck_accepted {s : State} {i : Nat} (hi : i < 512) (hw : (s.src i).enWait = true)
    (hk : s.skind i ≠ 2) (h : s.srcRefuse i = 0) : s.Does (.sourceEnableCheck i)
      ([R.ingSrcCfg i, R.ingSrcStat i, R.selEvtOvf] ++ srcCounts i) [.now, .tim, .timers, .srcs, .arb, .igmp]
      (fun t => t.SrcStarted i ∧ t.now % 1000 = 0) := by
  have same : s.tick.srcRefuse i = s.srcRefuse i := State.srcRefuse_of_regs (by simp [State.tick])
  have started := s.tick.frame_srcStarted i
  obtain ⟨t, reports, e⟩ := s.tick.srcCheck_accepted i hi (by rwa [State.skind, s.frame_tick.get _ (by simp)]) (same.trans h)
  refine ⟨t, ?_, ?_, (s.tick.srcStarted_shows i hi).of_frame reports, ?_⟩
  · simp only [exec, execSourceEnableCheck, Nat.mod_eq_of_lt hi, hw, if_true, e]
  · exact ((s.frame_tick.mono (by simp) (by simp)).andThen started (fun _ => id) (by simp)).andThen reports (by simp) (by simp)
  · rw [reports.now (by simp), started.now (by simp), s.tick_now]

/-! The disable of a source without open frame, decode task or buffer (R152) -/

section
variable {s t : State} {q : List Nat} {m : List Part}

theorem State.cancelTasks_none {c : Nat} {p : Task → Bool} (none : ∀ k ∈ s.bob.tasks, p k = false) :
    s.cancelTasks c p = s.bump (F.bobCancel c) 0 := by
  have gone : s.bob.tasks.filter p = [] := List.filter_eq_nil_iff.mpr (fun k hk => by simp [none k hk])
  have kept : s.bob.tasks.filter (fun k => !p k) = s.bob.tasks := List.filter_eq_self.mpr (fun k hk => by simp [none k hk])
  simp only [State.cancelTasks, gone, kept, List.length_nil, Nat.add_zero, List.foldl_nil]

/-- Cancelling no task changes nothing. -/
theorem State.frame_cancelTasks_none {c : Nat} {p : Task → Bool} (none : ∀ k ∈ s.bob.tasks, p k = false) :
    s.Frame (s.cancelTasks c p) [] [] := by
  rw [State.cancelTasks_none none]
  exact ⟨fun a _ => s.word_bump_zero a, ((State.Frame.refl s [(F.bobCancel c).addr] []).bump (by simp)).2⟩

theorem State.dropBufs_nil {p : Buf → Bool} (h : s.bufs = []) : s.dropBufs p = s := by
  have same : ({ s with bufs := [] } : State) = s := by rw [← h]
  simpa only [State.dropBufs, State.markBufs, State.sweepBufs, h, List.map_nil, List.filter_nil, List.foldl_nil] using same

theorem State.closeFrame_of_closed {i : Nat} (h : (s.src i).isOpen = false) : s.closeFrame i = s := by
  simp only [State.closeFrame, h, Bool.not_false, if_true]

theorem State.Frame.setDecState {i v : Nat} (h : s.Frame t q m) (hd : R.decSrcStat i ∈ q) (hr : R.selEvtOvf ∈ q)
    (ha : .arb ∈ m) : s.Frame (t.setDecState i v) q m :=
  h.moveTo hd hr ha

theorem State.Frame.showDec (h : s.Frame t q m) (hl : R.decLoad ∈ q) : s.Frame t.showDec q m :=
  (h.put hl).put hl

end

section
variable (s : State) (i : Nat)

/-- The tasks that decode source i. -/
def decodes (k : Task) : Bool := Nat.beq k.typ 1 && Nat.beq k.own i

/-- A source without open frame, decode task or buffer that goes off, after its reports: its registers of ING, its timers, then
its decoder. -/
def State.srcIdled : State := ((s.setSstate i 0).unraise (Src.srcLost i)).cancelTasks Cancel.release (decodes i)

def State.srcUntimed : State := ((s.srcIdled i).disarm (Timer.path i 0)).disarm (Timer.path i 1)

def State.srcCleared : State :=
  (((s.srcUntimed i).flag (F.ingSrcStatPathAUp i) false).flag (F.ingSrcStatPathBUp i) false).setSrc i {}

def State.srcOff : State := (((s.srcCleared i).setDecState i 0).put (F.decSrcStatQueued i) 0).showDec

/-- The reports that a disabled source leaves with (R143). -/
def State.srcLeaves : State :=
  if Nat.beq (s.skind i) 3 then s else s.each (s.srcPaths i) (fun s x =>
    s.igmpChange (s.get (F.ingSrcPathLane i x)) (s.get (F.ingSrcPathVlan i x)) (s.get (F.ingSrcGrpAddr i x)) 1)

theorem State.frame_srcLeaves : s.Frame (s.srcLeaves i) [] [.igmp] :=
  (State.Frame.refl s _ _).ite ((State.Frame.refl s _ _).foldl (fun _ _ _ hu => hu.igmpChange (by simp)))

/-- A source has nothing to give back: no open frame, no decode task and no buffer. -/
structure State.Spent (s : State) (i : Nat) : Prop where
  closed  : (s.src i).isOpen = false
  undue   : ∀ k ∈ s.bob.tasks, decodes i k = false
  nothing : s.bufs = []

theorem State.Spent.of_frame {s t : State} {i : Nat} {q : List Nat} {m : List Part} (h : s.Spent i) (f : s.Frame t q m)
    (hs : .srcs ∉ m) (hb : .bob ∉ m) (hf : .bufs ∉ m) : t.Spent i where
  closed  := (congrArg Src.isOpen (f.src hs i)).trans h.closed
  undue   := (show t.bob = s.bob from f.2 .bob hb) ▸ h.undue
  nothing := (show t.bufs = s.bufs from f.2 .bufs hf).trans h.nothing

variable {s i}

theorem State.frame_setSstate_unraise (v : Nat) : s.Frame ((s.setSstate i v).unraise (Src.srcLost i))
    [R.ingSrcStat i, R.selLive (Src.srcLost i / 32), R.selEvtOvf] [.arb] :=
  (State.Frame.setSstate s i (State.Frame.refl s _ _) (by simp) (by simp) (by simp)).unraise (by simp)

theorem State.frame_srcOff : (s.srcCleared i).Frame (s.srcOff i) [R.decSrcStat i, R.decLoad, R.selEvtOvf] [.arb] :=
  (((State.Frame.refl _ _ _).setDecState (by simp) (by simp) (by simp)).put (by simp [F.decSrcStatQueued])).showDec (by simp)

variable (h : s.Spent i)
include h

theorem State.frame_srcIdled : ((s.setSstate i 0).unraise (Src.srcLost i)).Frame (s.srcIdled i) [] [] :=
  State.frame_cancelTasks_none (h.of_frame (State.frame_setSstate_unraise 0) (by simp) (by simp) (by simp)).undue

theorem State.spent_srcUntimed : (s.srcUntimed i).Spent i := by
  have idled := (State.frame_setSstate_unraise (i := i) (s := s) 0).andThen (State.frame_srcIdled h) (by simp) (by simp)
  exact h.of_frame (((idled.mono (fun _ => id) (m := [.arb, .timers]) (by simp)).disarm (by simp)).disarm (by simp))
    (by simp) (by simp) (by simp)

theorem State.srcDisable_of_spent (on : s.srcOn i = true) : s.srcDisable i = (s.srcLeaves i).srcOff i := by
  have spent := h.of_frame (s.frame_srcLeaves i) (by simp) (by simp) (by simp)
  have untimed := State.dropBufs_nil (p := fun b => Nat.beq b.pool 0 && Nat.beq b.own i) (State.spent_srcUntimed spent).nothing
  rw [State.srcDisable, on]
  refine (if_neg (by simp)).trans ?_
  change ((((((((((s.srcLeaves i).closeFrame i).setSstate i 0).unraise (Src.srcLost i)).cancelTasks Cancel.release
    (decodes i)).disarm (Timer.path i 0)).disarm (Timer.path i 1)).dropBufs _).flag _ false |>.flag _ false |>.setSrc i {}
    |>.setDecState i 0).put _ 0).showDec = _
  rw [State.closeFrame_of_closed spent.closed]
  exact congrArg (fun u : State => ((((u.flag (F.ingSrcStatPathAUp i) false).flag (F.ingSrcStatPathBUp i) false).setSrc i
    {}).setDecState i 0 |>.put (F.decSrcStatQueued i) 0).showDec) untimed

/-- What a source that goes off shows. -/
structure State.SrcOff (t : State) (i : Nat) : Prop where
  state  : t.sstate i = SState.idle
  pathA  : t.is (F.ingSrcStatPathAUp i) = false
  pathB  : t.is (F.ingSrcStatPathBUp i) = false
  timerA : t.armed (Timer.path i 0) = false
  timerB : t.armed (Timer.path i 1) = false

theorem State.frame_srcCleared : s.Frame (s.srcCleared i) [R.ingSrcStat i, R.selLive (Src.srcLost i / 32), R.selEvtOvf]
    [.arb, .timers, .srcs] := by
  have idled := (State.frame_setSstate_unraise (i := i) (s := s) 0).andThen (State.frame_srcIdled h) (by simp) (by simp)
  have untimed := ((idled.mono (fun _ => id) (m := [.arb, .timers, .srcs]) (by simp)).disarm
    (k := Timer.path i 0) (by simp)).disarm (k := Timer.path i 1) (by simp)
  exact ((untimed.flag (by simp [F.ingSrcStatPathAUp])).flag (by simp [F.ingSrcStatPathBUp])).setSrc (by simp)

theorem State.srcCleared_shows : (s.srcCleared i).SrcOff i := by
  have two : Timer.path i 1 ≠ Timer.path i 0 := by simp [Timer.path, timerKey]
  have timers : ∀ k, (s.srcCleared i).armed k = (s.srcUntimed i).armed k := fun k =>
    ((((State.Frame.refl (s.srcUntimed i) [R.ingSrcStat i] [.srcs]).flag (by simp [F.ingSrcStatPathAUp])).flag
      (by simp [F.ingSrcStatPathBUp])).setSrc (by simp)).armed (by simp) k
  refine ⟨?_, ?_, ?_, ?_, ?_⟩
  · rw [State.sstate, State.srcCleared, State.get_setSrc,
      State.get_flag_apart _ _ (.inr (.inl (by simp [F.ingSrcStatPathBUp, F.ingSrcStatState]))),
      State.get_flag_apart _ _ (.inr (.inl (by simp [F.ingSrcStatPathAUp, F.ingSrcStatState]))), State.srcUntimed,
      State.get_disarm, State.get_disarm, (State.frame_srcIdled h).get _ (by simp),
      State.get_unraise _ _ (ingSrcStat_ne_selLive_srcLost i)]
    exact s.sstate_setSstate i (by decide)
  · rw [State.is, State.srcCleared, State.get_setSrc,
      State.get_flag_apart _ _ (.inr (.inl (by simp [F.ingSrcStatPathAUp, F.ingSrcStatPathBUp]))),
      State.get_flag _ _ _ (by simp [F.ingSrcStatPathAUp]) rfl]
    rfl
  · rw [State.is, State.srcCleared, State.get_setSrc, State.get_flag _ _ _ (by simp [F.ingSrcStatPathBUp]) rfl]
    rfl
  · rw [timers, State.srcUntimed, State.armed_disarm_ne _ _ two, State.armed_disarm]
  · rw [timers, State.srcUntimed, State.armed_disarm]

theorem State.srcOff_shows (hi : i < 512) : (s.srcOff i).SrcOff i := by
  obtain ⟨state, pathA, pathB, timerA, timerB⟩ := State.srcCleared_shows h
  have off := s.frame_srcOff (i := i)
  have stat : R.ingSrcStat i ∉ [R.decSrcStat i, R.decLoad, R.selEvtOvf] := by
    simp [R.ingSrcStat, R.decSrcStat, R.decLoad, R.selEvtOvf]; omega
  exact ⟨(off.get _ stat).trans state, (off.is _ stat).trans pathA, (off.is _ stat).trans pathB,
    (off.armed (by simp) _).trans timerA, (off.armed (by simp) _).trans timerB⟩

end

/-- SOURCE_DISABLE of an enabled source that has nothing to give back, taken at once. -/
theorem State.sourceDisable_writes {s : State} {h i : Nat} (v : Word) (hi : i < 512) (hr : s.Ready h)
    (en : s.is (F.ingSrcCfgEn i) = true) (on : s.srcOn i = true) (spent : s.Spent i) : s.Writes h (.sourceDisable h i v)
      [R.ingSrcCfg i, R.ingSrcStat i, R.decSrcStat i, R.decLoad, R.selLive (Src.srcLost i / 32), R.selEvtOvf]
      [.srcs, .igmp, .timers] (fun t => t.is (F.ingSrcCfgEn i) = false ∧ t.SrcOff i) := by
  have port : h < 4 := hr.2.1
  refine State.writes_of_taken (a := R.ingSrcCfg i) (v := setBitsAt v 2 1 0) (eff := fun s => s.writeSrcCfg i (setBitsAt v 2 1 0))
    hr (by simp only [exec, execSourceDisable, Nat.mod_eq_of_lt hi]) (fun t taken => ?_)
  have stored := t.frame_store (R.ingSrcCfg i) (setBitsAt v 2 1 0) 0xFFFFFFFC
  have off := t.en_store_ingSrcCfg hi v (mask := 0xFFFFFFFC) (x := 0) (by decide) (by decide)
  rw [t.writeSrcCfg_disable hi v ((taken.frame.is _ (by simp [F.ingSrcCfgEn, R.ingSrcCfg, R.hstCntWrites]; omega)).trans en)]
  generalize t.store (R.ingSrcCfg i) (setBitsAt v 2 1 0) 0xFFFFFFFC = u at *
  have written : s.Frame u [R.hstCntWrites h, R.ingSrcCfg i] takingParts :=
    (taken.frame.mono (by simp) (fun _ => id)).andThen stored (by simp) (by simp)
  have spent' := spent.of_frame written (by simp [takingParts]) (by simp [takingParts]) (by simp [takingParts])
  have still : u.srcOn i = true := by
    rw [State.srcOn, written.get _ (by simp [F.ingSrcStatState, R.ingSrcStat, R.ingSrcCfg, R.hstCntWrites]; omega)]
    exact on
  rw [State.srcDisable_of_spent spent' still]
  have leaves := u.frame_srcLeaves i
  have idle := spent'.of_frame leaves (by simp) (by simp) (by simp)
  have rest := ((State.frame_srcCleared idle).mono (q := [R.ingSrcStat i, R.decSrcStat i, R.decLoad,
    R.selLive (Src.srcLost i / 32), R.selEvtOvf]) (by simp) (fun _ => id)).andThen State.frame_srcOff (by simp) (by simp)
  have all := (leaves.mono (m := [.igmp, .arb, .timers, .srcs]) (by simp) (by simp)).andThen rest (fun _ => id) (by simp)
  refine ⟨(stored.mono (by simp) (by simp)).andThen all (fun _ => List.mem_cons_of_mem _) (by simp [takingParts]), ?_,
    State.srcOff_shows idle hi⟩
  rw [State.is, all.get _ (by
    simp [F.ingSrcCfgEn, R.ingSrcCfg, R.ingSrcStat, R.decSrcStat, R.decLoad, R.selLive, Src.srcLost, R.selEvtOvf]; omega), off]
  rfl

/-- Settles O36 (R144, R145, R152, R173, R609). -/
theorem sourceEnables : Obligations.SourceEnables := by
  intro s h i v hi
  refine ⟨fun hr off => State.sourceEnable_writes v hi hr off,
    fun hw hk => ⟨State.sourceEnableCheck_refused hi hw, fun accepts => ?_⟩, fun hr en on closed undue nothing => ?_⟩
  · obtain ⟨t, step, frame, shows, now⟩ := State.sourceEnableCheck_accepted hi hw hk accepts
    rw [srcCounts, ← List.append_assoc] at frame
    exact ⟨t, step, frame, shows.en, shows.state, shows.pathA, shows.pathB, shows.frame, shows.taken, shows.counts, now⟩
  · have spent : s.Spent i := ⟨closed, fun k hk => by
      by_cases typ : k.typ = 1
      · rw [decodes, nat_beq_eq k.own, decide_eq_false (undue k hk typ), Bool.and_false]
      · simp [decodes, typ], nothing⟩
    obtain ⟨t, step, frame, en', shows⟩ := State.sourceDisable_writes v hi hr en on spent
    exact ⟨t, step, frame, en', shows.state, shows.pathA, shows.pathB, shows.timerA, shows.timerB⟩

end Sys2Proof.Machine
end

