-- ==== Sys2Proof/Proofs/SourcePackets.lean ====
section
/-!
SUPPORT. Sys2Proof/Proofs/SourcePackets.lean: packets of ST 2110-20 and Morvolos-link sources that complete no row; the
statements of O37 and O38 settled.
-/

namespace Sys2Proof.Machine

/-! The samples of a frame (R151) -/

theorem seqLess_self (a : Nat) : seqLess a a = false := by simp [seqLess, Nat.beq_refl]

/-- The first line of a source row lies inside the frame. -/
theorem first_line_of_row {h r : Nat} (hr : r < rowsOf h) : 0 < min 64 (h - 64 * r) := by
  simp only [rowsOf] at hr
  omega

section
variable {s : State} {i : Nat}

/-- While the first line of every row is short, no row completes and the frame stays open. -/
theorem State.checkRows_of_short (none : (s.src i).fRows = []) (rows : 0 < s.srcRows i)
    (short : ∀ r, r < s.srcRows i → (s.src i).lineFull (s.get (F.ingSrcSizeW i)) (64 * r) = false) : s.checkRows i = s := by
  have complete : (List.range (s.srcRows i)).filter (fun r => ((s.src i).fRows.find? (fun v => Nat.beq v.1 r)).isNone
      && (List.range (min 64 (s.get (F.ingSrcSizeH i) - 64 * r))).all
        (fun l => (s.src i).lineFull (s.get (F.ingSrcSizeW i)) (64 * r + l))) = [] := by
    refine List.filter_eq_nil_iff.mpr (fun r hr full => ?_)
    have hr := List.mem_range.mp hr
    have all := List.all_eq_true.mp (Bool.and_eq_true_iff.mp full).2 0 (List.mem_range.mpr (first_line_of_row hr))
    rw [Nat.add_zero, short r hr] at all
    exact Bool.false_ne_true all
  have unfinished : ¬ Nat.beq (s.src i).fRows.length (s.srcRows i) = true := by
    rw [none, nat_beq_eq, decide_eq_true_eq]
    exact Nat.ne_of_lt rows
  simp only [State.checkRows, complete, State.each, List.foldl_nil]
  exact if_neg unfinished

/-- Samples that complete no row join the frame, and that is all. -/
theorem State.writeSegs_of_short {l : List (Nat × Nat × Nat)} (none : (s.src i).fRows = []) (rows : 0 < s.srcRows i)
    (short : ∀ r, r < s.srcRows i →
      Src.lineFull { s.src i with got := (s.src i).got ++ l } (s.get (F.ingSrcSizeW i)) (64 * r) = false) :
    s.writeSegs i l = s.updSrc i (fun x => { x with got := x.got ++ l }) := by
  refine State.checkRows_of_short ?_ rows (fun r hr => ?_) <;> rw [State.src_updSrc]
  · exact none
  · exact short r hr

/-- An accepted packet changes the state of a LOST source only. -/
theorem State.findSource_of_receiving (h : s.sstate i = SState.receiving) : s.findSource i = s := by
  have found : ¬ Nat.beq (s.sstate i) 3 = true := by rw [h]; decide
  exact if_neg found

end

/-! Counters of a source whose path A delivered a packet -/

/-- A 32-bit counter of source i (R173). -/
structure SrcCounter (c : Fld) (i : Nat) : Prop where
  lo    : c.lo = 0
  width : c.width = 32
  place : ∃ k, k < 13 ∧ c.addr = R.ingSrcCntFrames i + 4 * k

section
variable {s u : State} {c : Fld} {i : Nat}

theorem SrcCounter.ne_stat (h : SrcCounter c i) : R.ingSrcStat i ≠ c.addr := by
  obtain ⟨-, -, k, hk, e⟩ := h
  simp only [R.ingSrcStat, e, R.ingSrcCntFrames]
  omega

theorem SrcCounter.ne_ovf (h : SrcCounter c i) : c.addr ≠ R.selEvtOvf := by
  obtain ⟨-, -, k, hk, e⟩ := h
  simp only [R.selEvtOvf, e, R.ingSrcCntFrames]
  omega

theorem srcCounter_pktDup (i : Nat) : SrcCounter (F.ingSrcCntPktDup i) i :=
  ⟨rfl, rfl, 3, by decide, by simp only [F.ingSrcCntPktDup, R.ingSrcCntPktDup, R.ingSrcCntFrames]; omega⟩

theorem srcCounter_pktLate (i : Nat) : SrcCounter (F.ingSrcCntPktLate i) i :=
  ⟨rfl, rfl, 4, by decide, by simp only [F.ingSrcCntPktLate, R.ingSrcCntPktLate, R.ingSrcCntFrames]; omega⟩

theorem srcCounter_badHdr (i : Nat) : SrcCounter (F.ingSrcCntBadHdr i) i :=
  ⟨rfl, rfl, 5, by decide, by simp only [F.ingSrcCntBadHdr, R.ingSrcCntBadHdr, R.ingSrcCntFrames]; omega⟩

theorem srcCounter_pathFirstA (i : Nat) : SrcCounter (F.ingSrcCntPathFirstA i) i :=
  ⟨rfl, rfl, 9, by decide, by simp only [F.ingSrcCntPathFirstA, R.ingSrcCntPathFirstA, R.ingSrcCntFrames]; omega⟩

theorem srcCounter_creditOvf (i : Nat) : SrcCounter (F.ingSrcCntCreditOvf i) i :=
  ⟨rfl, rfl, 11, by decide, by simp only [F.ingSrcCntCreditOvf, R.ingSrcCntCreditOvf, R.ingSrcCntFrames]; omega⟩

theorem srcCounter_crcErr (i : Nat) : SrcCounter (F.ingSrcCntCrcErr i) i :=
  ⟨rfl, rfl, 12, by decide, by simp only [F.ingSrcCntCrcErr, R.ingSrcCntCrcErr, R.ingSrcCntFrames]; omega⟩

/-- A counter counts modulo 2^32. -/
theorem SrcCounter.get_bump (h : SrcCounter c i) (s : State) : (s.bump c 1).get c = (s.get c + 1) % 2 ^ 32 := by
  rw [State.get_bump _ _ _ (by rw [h.lo, h.width]), h.width]

/-- A packet of path A that is counted, with what it leaves in the source's record: what the source shows. -/
structure State.Delivered (s t : State) (c : Fld) (i : Nat) : Prop where
  count : t.get c = (s.get c + 1) % 2 ^ 32
  path  : t.is (F.ingSrcStatPathAUp i) = true
  state : t.sstate i = s.sstate i

theorem SrcCounter.delivered (h : SrcCounter c i) (same : (s.pathSeen i 0).Frame u [] [.srcs]) :
    s.Delivered (u.bump c 1) c i where
  count := by
    rw [h.get_bump, same.get _ (by simp), (s.frame_pathSeen i 0).get _ (by simp [h.ne_stat.symm, h.ne_ovf])]
  path := by
    rw [State.is, State.get_bump_apart _ _ (.inl h.ne_stat.symm), same.get _ (by simp)]
    exact s.pathUp_pathSeen i 0
  state := by
    rw [State.sstate, State.get_bump_apart _ _ (.inl h.ne_stat.symm), same.get _ (by simp)]
    exact s.sstate_pathSeen i 0

/-- What is written to a source's record shows in no register. -/
theorem State.Delivered.updSrc {t : State} (h : s.Delivered t c i) (f : Src → Src) : s.Delivered (t.updSrc i f) c i :=
  ⟨(State.get_updSrc _ _ _ _).trans h.count, h.path, (State.get_updSrc _ _ _ _).trans h.state⟩

theorem State.src_pathSeen (s : State) (i x j : Nat) : (s.pathSeen i x).src j = s.src j := (s.frame_pathSeen i x).src (by simp) j

theorem State.src_bump (s : State) (c : Fld) (n j : Nat) : (s.bump c n).src j = s.src j :=
  ((State.Frame.refl s [c.addr] []).bump (by simp)).src (by simp) j

end

/-- The size of a source does not change while its packets count. -/
theorem State.size_of_frame {s u : State} {i : Nat} {m : List Part}
    (h : s.Frame u [R.ingSrcStat i, R.ingSrcCntPathFirstA i, R.selEvtOvf] m) :
    u.srcRows i = s.srcRows i ∧ u.get (F.ingSrcSizeW i) = s.get (F.ingSrcSizeW i) := by
  have size : R.ingSrcSize i ∉ [R.ingSrcStat i, R.ingSrcCntPathFirstA i, R.selEvtOvf] := by
    simp [R.ingSrcSize, R.ingSrcStat, R.ingSrcCntPathFirstA, R.selEvtOvf]; omega
  exact ⟨congrArg rowsOf (h.get (F.ingSrcSizeH i) size), h.get (F.ingSrcSizeW i) size⟩

/-! ST 2110-20 (R146 to R158) -/

section
variable {s : State} {i : Nat} {p : VideoPkt}

/-- A packet of path A reaches an enabled source. -/
structure State.Reaches (s : State) (i : Nat) (p : VideoPkt) : Prop where
  on   : s.srcOn i = true
  kind : s.skind i = 1
  en   : s.is (F.ingSrcPathEn i 0) = true
  path : p.path = 0

variable (h : s.Reaches i p)
include h

theorem State.videoPacket_early (wait : s.sstate i = SState.wait) (pt : p.pt = s.get (F.ingSrcFmtPt i))
    (unmarked : (s.src i).marked = false) : s.videoPacket i p =
      ((s.pathSeen i 0).updSrc i (fun y => { y with marked := p.marker })).bump (F.ingSrcCntPktLate i) 1 := by
  obtain ⟨on, kind, en, path⟩ := h
  have waits : Nat.beq (s.sstate i) 1 = true := by rw [wait]; rfl
  simp only [State.videoPacket, path, Nat.zero_mod, on, kind, en, waits, pt, State.src_pathSeen, unmarked, Nat.beq_refl,
    Bool.not_true, Bool.or_self, Bool.false_eq_true, if_false, Bool.true_and]
  rfl

theorem State.videoPacket_started (started : s.sstate i ≠ SState.wait) : s.videoPacket i p =
    if p.pt = s.get (F.ingSrcFmtPt i) then s.videoIn i p else s.bump (F.ingSrcCntBadHdr i) 1 := by
  obtain ⟨on, kind, en, path⟩ := h
  have waits : Nat.beq (s.sstate i) 1 = false := by rw [nat_beq_eq]; exact decide_eq_false started
  have same : { p with path := 0 } = p := by rw [← path]
  simp only [State.videoPacket, path, Nat.zero_mod, on, kind, en, waits, same, nat_beq_eq p.pt, Nat.beq_refl,
    Bool.not_true, Bool.or_self, Bool.false_eq_true, if_false, Bool.false_and]
  by_cases pt : p.pt = s.get (F.ingSrcFmtPt i) <;> simp [pt]

end

/-- A source's record with a packet accepted whose number is higher than every other (R158). -/
def Src.accepting (x : Src) (seq now : Nat) : Src :=
  { x with
    seqs := (seq :: x.seqs).take 65536
    hi := some seq
    hiAt := now
    seq0 := if Nat.beq x.nseq 0 || seqLess seq x.seq0 then seq else x.seq0
    seq1 := if Nat.beq x.nseq 0 || seqLess x.seq1 seq then seq else x.seq1
    nseq := x.nseq + 1 }

section
variable {s : State} {i : Nat} {p : VideoPkt}

theorem State.videoIn_duplicate (path : p.path = 0) (old : (s.src i).seqs.contains p.seq = true) :
    s.videoIn i p = (s.pathSeen i 0).bump (F.ingSrcCntPktDup i) 1 := by
  have known : s.mergeFate i p.seq = 1 := if_pos old
  have merged : s.mergeIn i p.path p.seq = ((s.pathSeen i 0).bump (F.ingSrcCntPktDup i) 1, false) := by
    rw [State.mergeIn, path, known]
    rfl
  rw [State.videoIn, merged]
  rfl

theorem State.mergeFate_higher (fresh : (s.src i).seqs.contains p.seq = false)
    (higher : ∀ n, (s.src i).hi = some n → seqLess n p.seq = true ∧ seqLess p.seq n = false) : s.mergeFate i p.seq = 0 := by
  unfold State.mergeFate
  dsimp only
  rw [fresh]
  cases hi : (s.src i).hi with
  | none => rfl
  | some n =>
    simp only [(higher n hi).2, Bool.and_false, Bool.false_and, Bool.false_eq_true, if_false]

theorem State.acceptPkt_higher (state : s.sstate i = SState.receiving)
    (higher : ∀ n, (s.src i).hi = some n → seqLess n p.seq = true ∧ seqLess p.seq n = false) :
    s.acceptPkt i 0 p.seq =
      (s.setSrc i ((s.src i).accepting p.seq s.now)).bump (F.ingSrcCntPathFirstA i) 1 := by
  have still : ((s.setSrc i ((s.src i).accepting p.seq s.now)).bump (F.ingSrcCntPathFirstA i) 1).sstate i = SState.receiving :=
    (State.get_bump_apart _ _ (.inl (srcCounter_pathFirstA i).ne_stat.symm)).trans state
  refine Eq.trans ?_ (State.findSource_of_receiving still)
  unfold State.acceptPkt Src.accepting
  dsimp only
  cases hi : (s.src i).hi with
  | none => rfl
  | some n =>
    simp only [(higher n hi).1, if_true]
    rfl

/-- A packet of the open frame with a number higher than every other, whose segments pass R148. -/
theorem State.videoIn_open (path : p.path = 0) (state : s.sstate i = SState.receiving) (isOpen : (s.src i).isOpen = true)
    (nobuf : (s.src i).nobuf = false) (fts : (s.src i).fts = p.ts) (fresh : (s.src i).seqs.contains p.seq = false)
    (higher : ∀ n, (s.src i).hi = some n → seqLess n p.seq = true ∧ seqLess p.seq n = false)
    (good : ∀ g, g ∈ p.segs → s.segBad i g = false) : s.videoIn i p =
      (((s.pathSeen i 0).setSrc i ((s.src i).accepting p.seq s.now)).bump (F.ingSrcCntPathFirstA i) 1).writeSegs i p.segs := by
  have merged : s.mergeIn i 0 p.seq = (s, true) := by
    rw [State.mergeIn, State.mergeFate_higher fresh higher]
    rfl
  have passes : p.segs.any (s.segBad i) = false := List.any_eq_false.mpr (fun g hg => by rw [good g hg]; exact Bool.false_ne_true)
  have src := s.src_pathSeen i 0 i
  have accepted := State.acceptPkt_higher (s := s.pathSeen i 0) (p := p) ((s.sstate_pathSeen i 0).trans state) (by rwa [src])
  rw [src, (s.frame_pathSeen i 0).now (by simp)] at accepted
  simp only [State.videoIn, path, merged, isOpen, nobuf, fts, seqLess_self, Nat.beq_refl, passes, accepted, Bool.not_true,
    Bool.true_or, Bool.false_and, Bool.and_false, Bool.or_self, Bool.true_and, Bool.not_false, Bool.false_eq_true, if_false]

end

/-- Settles O37 (R146, R148, R158, R161). -/
theorem videoPackets : Obligations.VideoPackets := by
  intro s i p hi on kind en path
  have reaches : s.Reaches i p := ⟨on, kind, en, path⟩
  have step : exec (.st2110PacketReceived i p) s = .next (s.videoPacket i p) := by
    simp only [exec, execSt2110PacketReceived, Nat.mod_eq_of_lt hi]
  have seen := s.frame_pathSeen i 0
  refine ⟨fun wait pt unmarked => ?_, fun started => ⟨fun other => ?_, fun pt old => ?_⟩,
    fun state pt isOpen nobuf fts fresh higher good none rows short => ?_⟩
  · rw [State.videoPacket_early reaches wait pt unmarked] at step
    have delivered := (srcCounter_pktLate i).delivered (s := s)
      ((State.Frame.refl (s.pathSeen i 0) [] [.srcs]).updSrc (i := i) (f := fun y => { y with marked := p.marker }) (by simp))
    refine ⟨_, step, ((seen.mono (by simp) (by simp)).updSrc (by simp)).bump (by simp [F.ingSrcCntPktLate]), delivered.count, ?_,
      delivered.state.trans wait, delivered.path⟩
    rw [State.src_bump, State.src_updSrc]
  · rw [State.videoPacket_started reaches started, if_neg other] at step
    exact ⟨_, step, (State.Frame.refl _ _ _).bump (by simp [F.ingSrcCntBadHdr]), (srcCounter_badHdr i).get_bump s⟩
  · rw [State.videoPacket_started reaches started, if_pos pt, State.videoIn_duplicate path old] at step
    have delivered := (srcCounter_pktDup i).delivered (State.Frame.refl (s.pathSeen i 0) [] [.srcs])
    exact ⟨_, step, (seen.mono (by simp) (fun _ => id)).bump (by simp [F.ingSrcCntPktDup]), delivered.count, delivered.path,
      delivered.state⟩
  · rw [State.videoPacket_started reaches (by rw [state]; decide), if_pos pt,
      State.videoIn_open path state isOpen nobuf fts fresh higher good] at step
    have counted := (srcCounter_pathFirstA i).delivered
      ((State.Frame.refl (s.pathSeen i 0) [] [.srcs]).setSrc (i := i) (x := (s.src i).accepting p.seq s.now) (by simp))
    have frame := ((seen.mono (q := [R.ingSrcStat i, R.ingSrcCntPathFirstA i, R.selEvtOvf]) (m := [.srcs, .arb, .timers]) (by simp)
      (by simp)).setSrc (i := i) (x := (s.src i).accepting p.seq s.now) (by simp)).bump
      (f := F.ingSrcCntPathFirstA i) (n := 1) (by simp [F.ingSrcCntPathFirstA])
    have src : (((s.pathSeen i 0).setSrc i ((s.src i).accepting p.seq s.now)).bump (F.ingSrcCntPathFirstA i) 1).src i
        = (s.src i).accepting p.seq s.now := (State.src_bump _ _ _ _).trans (State.src_setSrc _ _ _)
    generalize ((s.pathSeen i 0).setSrc i ((s.src i).accepting p.seq s.now)).bump (F.ingSrcCntPathFirstA i) 1 = u at *
    obtain ⟨rows', width⟩ := State.size_of_frame frame
    rw [State.writeSegs_of_short (by rw [src]; exact none) (by rwa [rows']) (by rw [src, rows', width]; exact short)] at step
    have delivered := counted.updSrc (fun x => { x with got := x.got ++ p.segs })
    refine ⟨_, step, frame.updSrc (by simp), delivered.count, ?_, ?_, ?_, delivered.path, delivered.state.trans state⟩ <;>
      rw [State.src_updSrc, src]
    · rfl
    · rfl
    · simp [Src.accepting]

/-! Morvolos link (R163 to R165) -/

section
variable {s : State} {i : Nat} {p : MvPkt}

/-- A packet whose CRC-32C fails, whatever it spells. -/
theorem State.mvIn_crc (crc : p.crc = false) : s.mvIn i p = s.bump (F.ingSrcCntCrcErr i) 1 := by
  simp only [State.mvIn, crc, Bool.not_false, if_true]

theorem State.mvIn_late (crc : p.crc = true) (typ : p.typ = 2 ∨ p.typ = 3) (nobuf : (s.src i).nobuf = false)
    (shut : (s.src i).isOpen = false ∨ (s.src i).fts ≠ p.frame) : s.mvIn i p = s.bump (F.ingSrcCntPktLate i) 1 := by
  have start : Nat.beq p.typ 1 = false := by rcases typ with h | h <;> rw [h] <;> rfl
  have late : (!(s.src i).isOpen || !Nat.beq (s.src i).fts p.frame) = true := by
    rcases shut with h | h
    · rw [h]; rfl
    · rw [nat_beq_eq, decide_eq_false h, Bool.not_false, Bool.or_true]
  simp only [State.mvIn, crc, start, nobuf, late, Bool.not_true, Bool.false_and, Bool.false_eq_true, if_false, if_true]

/-- A well-formed LINE of the open frame. -/
structure State.LineFits (s : State) (i : Nat) (p : MvPkt) : Prop where
  crc    : p.crc = true
  typ    : p.typ = 2
  nobuf  : (s.src i).nobuf = false
  isOpen : (s.src i).isOpen = true
  fts    : (s.src i).fts = p.frame
  even   : p.b % 2 = 0
  groups : p.c % 5 = 0
  low    : 5 ≤ p.c
  high   : p.c ≤ 2000
  good   : s.segBad i (p.a, p.b, p.c / 5 * 2) = false

theorem State.mvIn_line (h : s.LineFits i p) (state : s.sstate i = SState.receiving) :
    s.mvIn i p = (s.bump (F.ingSrcCntPathFirstA i) 1).writeSegs i [(p.a, p.b, p.c / 5 * 2)] := by
  obtain ⟨crc, typ, nobuf, isOpen, fts, even, groups, low, high, good⟩ := h
  have short : Nat.blt p.c 5 = false := Bool.eq_false_iff.mpr (fun e => by rw [Nat.blt_eq] at e; omega)
  have long : Nat.blt 2000 p.c = false := Bool.eq_false_iff.mpr (fun e => by rw [Nat.blt_eq] at e; omega)
  have start : Nat.beq 2 1 = false := rfl
  have ends : Nat.beq 2 3 = false := rfl
  simp only [State.mvIn, crc, typ, start, ends, nobuf, isOpen, fts, even, groups, short, long, good, Nat.beq_refl,
    State.findSource_of_receiving state, Bool.not_true, Bool.false_and, Bool.or_self, Bool.false_eq_true, if_false]

variable (on : s.srcOn i = true) (kind : s.skind i = 3) (up : s.laneUp (s.get (F.ingSrcPathLane i 0)) = true)
include on kind up

theorem State.mvPacket_discarded (none : (s.lane (s.get (F.ingSrcPathLane i 0))).cred = 0) :
    s.mvPacket i p = s.bump (F.ingSrcCntCreditOvf i) 1 := by
  simp only [State.mvPacket, on, kind, up, none, Nat.beq_refl, Bool.not_true, Bool.or_self, Bool.false_eq_true, if_false, if_true]

theorem State.mvPacket_started (some : (s.lane (s.get (F.ingSrcPathLane i 0))).cred ≠ 0) (started : s.sstate i ≠ SState.wait) :
    s.mvPacket i p = (s.pathSeen i 0).mvIn i p := by
  have credit : Nat.beq (s.lane (s.get (F.ingSrcPathLane i 0))).cred 0 = false := by rw [nat_beq_eq]; exact decide_eq_false some
  have waits : Nat.beq (s.sstate i) 1 = false := by rw [nat_beq_eq]; exact decide_eq_false started
  simp only [State.mvPacket, on, kind, up, credit, waits, Nat.beq_refl, Bool.not_true, Bool.or_self, Bool.false_and,
    Bool.false_eq_true, if_false]

end

section
variable {s : State} {i : Nat} {p : MvPkt}

/-- What R148 looks at is the same in states with the same record and size of the source. -/
theorem State.segBad_congr {s t : State} (src : t.src i = s.src i) (w : t.get (F.ingSrcSizeW i) = s.get (F.ingSrcSizeW i))
    (h : t.get (F.ingSrcSizeH i) = s.get (F.ingSrcSizeH i)) (g : Nat × Nat × Nat) : t.segBad i g = s.segBad i g := by
  simp only [State.segBad, src, w, h]

theorem State.LineFits.pathSeen (h : s.LineFits i p) : (s.pathSeen i 0).LineFits i p := by
  have src := s.src_pathSeen i 0 i
  have size : R.ingSrcSize i ∉ [R.ingSrcStat i, R.selEvtOvf] := by
    simp [R.ingSrcSize, R.ingSrcStat, R.selEvtOvf]; omega
  have seen := s.frame_pathSeen i 0
  exact { h with
    nobuf  := by rw [src]; exact h.nobuf
    isOpen := by rw [src]; exact h.isOpen
    fts    := by rw [src]; exact h.fts
    good   := (State.segBad_congr src (seen.get _ size) (seen.get _ size) _).trans h.good }

end

/-- Settles O38 (R163, R164, R165). -/
theorem morvolosPackets : Obligations.MorvolosPackets := by
  intro s i p hi on kind up
  have step : exec (.morvolosPacketReceived i p) s = .next (s.mvPacket i p) := by
    simp only [exec, execMorvolosPacketReceived, Nat.mod_eq_of_lt hi]
  have seen := s.frame_pathSeen i 0
  have src := s.src_pathSeen i 0 i
  refine ⟨fun none => ?_, fun some started => ?_⟩
  · rw [State.mvPacket_discarded on kind up none] at step
    exact ⟨_, step, (State.Frame.refl _ _ _).bump (by simp [F.ingSrcCntCreditOvf]), (srcCounter_creditOvf i).get_bump s⟩
  rw [State.mvPacket_started on kind up some started] at step
  refine ⟨fun crc => ?_, fun crc typ nobuf shut => ?_,
    fun crc typ state nobuf isOpen fts even groups low high good none rows short => ?_⟩
  · rw [State.mvIn_crc crc] at step
    have delivered := (srcCounter_crcErr i).delivered (State.Frame.refl (s.pathSeen i 0) [] [.srcs])
    exact ⟨_, step, (seen.mono (by simp) (fun _ => id)).bump (by simp [F.ingSrcCntCrcErr]), delivered.count, delivered.path⟩
  · rw [State.mvIn_late crc typ (by rwa [src]) (by rwa [src])] at step
    have delivered := (srcCounter_pktLate i).delivered (State.Frame.refl (s.pathSeen i 0) [] [.srcs])
    exact ⟨_, step, (seen.mono (by simp) (fun _ => id)).bump (by simp [F.ingSrcCntPktLate]), delivered.count, delivered.path⟩
  · have fits : s.LineFits i p := ⟨crc, typ, nobuf, isOpen, fts, even, groups, low, high, good⟩
    rw [State.mvIn_line fits.pathSeen ((s.sstate_pathSeen i 0).trans state)] at step
    have counted := (srcCounter_pathFirstA i).delivered (State.Frame.refl (s.pathSeen i 0) [] [.srcs])
    have frame := (seen.mono (q := [R.ingSrcStat i, R.ingSrcCntPathFirstA i, R.selEvtOvf]) (m := [.srcs, .arb, .timers]) (by simp)
      (by simp)).bump (f := F.ingSrcCntPathFirstA i) (n := 1) (by simp [F.ingSrcCntPathFirstA])
    have src' : ((s.pathSeen i 0).bump (F.ingSrcCntPathFirstA i) 1).src i = s.src i := (State.src_bump _ _ _ _).trans src
    generalize (s.pathSeen i 0).bump (F.ingSrcCntPathFirstA i) 1 = u at *
    obtain ⟨rows', width⟩ := State.size_of_frame frame
    rw [State.writeSegs_of_short (by rw [src']; exact none) (by rwa [rows']) (by rw [src', rows', width]; exact short)] at step
    have delivered := counted.updSrc (fun x => { x with got := x.got ++ [(p.a, p.b, p.c / 5 * 2)] })
    refine ⟨_, step, frame.updSrc (by simp), delivered.count, ?_, delivered.path⟩
    rw [State.src_updSrc, src']

end Sys2Proof.Machine
end

