-- ==== Sys2Proof/Proofs/SourceRows.lean ====
section
/-!
SUPPORT. Sys2Proof/Proofs/SourceRows.lean: the change bits and carried rows of a source, and the loss of a path; the statement
of O39 settled.
-/

namespace Sys2Proof.Machine

/-! Executors -/

section
variable (s : State) (e : Nat)

theorem State.frame_release : s.Frame (s.release e) [] [.bob] := (State.Frame.refl s _ _).release (by simp)

theorem State.tasks_release : (s.release e).bob.tasks = s.bob.tasks := rfl

/-- A released executor runs nothing. -/
theorem State.running_release : (s.release e).running e = none := by
  have none : (s.bob.run.filter (fun r => !Nat.beq r.1 e)).find? (fun r => Nat.beq r.1 e) = none := by
    refine List.find?_eq_none.mpr (fun r hr runs => ?_)
    have other := (List.mem_filter.mp hr).2
    rw [runs] at other
    exact Bool.false_ne_true other
  simp only [State.running, State.release, none]

theorem State.Frame.running {s t : State} {q : List Nat} {m : List Part} (h : s.Frame t q m) (hb : .bob ∉ m) (e : Nat) :
    t.running e = s.running e := by
  simp only [State.running, show t.bob = s.bob from h.2 .bob hb]

end

/-- A list in which the entry of a key was replaced answers the new entry. -/
theorem find_replaced {α : Type} (l : List (Nat × α)) (k : Nat) (v : α) :
    ((l.filter (fun c => !Nat.beq c.1 k)) ++ [(k, v)]).find? (fun c => Nat.beq c.1 k) = some (k, v) := by
  have none : (l.filter (fun c => !Nat.beq c.1 k)).find? (fun c => Nat.beq c.1 k) = none := by
    refine List.find?_eq_none.mpr (fun r hr same => ?_)
    have other := (List.mem_filter.mp hr).2
    rw [same] at other
    exact Bool.false_ne_true other
  rw [List.find?_append, none, Option.none_or]
  exact List.find?_cons_of_pos (Nat.beq_refl k)

/-! Change bits (R169, R171) -/

/-- A source's record with a row's change bits and scroll hints. -/
def Src.changed (x : Src) (k : Task) (mask : Nat) (hints : List (Nat × Int × Int × Nat)) : Src :=
  { x with
    chg := (x.chg.filter (fun c => !Nat.beq c.1 k.row)) ++ [(k.row, mask)]
    chgF := (x.chgF.filter (fun c => !Nat.beq c.1 k.row)) ++ [(k.row, k.frame)]
    hints := (x.hints.filter (fun c => !Nat.beq c.1 k.row)) ++ [(k.row, hints)] }

/-- The change count of the last frame follows its rows' bits (R171). -/
def State.countTiles (s : State) (i : Nat) (last : Bool) : State :=
  s.cond last (fun s => s.put (F.ingSrcChgTiles i)
    (((s.src i).chg.map (fun c => ((List.range 512).filter (fun b => Nat.testBit c.2 b)).length)).sum))

section
variable {s : State} {e i mask : Nat} {hints : List (Nat × Int × Int × Nat)} {k : Task}

theorem State.frame_countTiles (s : State) (i : Nat) (last : Bool) : s.Frame (s.countTiles i last) [R.ingSrcChg i] [] :=
  (State.Frame.refl s _ _).cond (fun _ hu => hu.put (by simp [F.ingSrcChgTiles]))

theorem State.ingestDone_eq (run : s.running e = some k) (own : k.own = i) (scrl : s.is (F.ingSrcCfgScrlEn i) = false) :
    s.ingestDone e mask hints = ((s.release e).setSrc i ((s.src i).changed k mask hints)).countTiles i
      (Nat.beq (s.src i).lno k.frame && (s.src i).hasL) := by
  simp only [State.ingestDone, run, own, scrl, Bool.false_eq_true, if_false]
  rfl

/-- A row unit that is done leaves its change bits and is free. -/
theorem State.ingestRowComplete_does (run : s.running (144 + e % 16) = some k) (own : k.own = i)
    (scrl : s.is (F.ingSrcCfgScrlEn i) = false) : s.Does (.ingestRowComplete e mask hints) [R.ingSrcChg i] [.bob, .srcs] (fun t =>
      t.running (144 + e % 16) = none ∧ t.bob.tasks = s.bob.tasks
        ∧ (t.src i).chg.find? (fun c => Nat.beq c.1 k.row) = some (k.row, mask)
        ∧ (t.src i).chgF.find? (fun c => Nat.beq c.1 k.row) = some (k.row, k.frame)
        ∧ ((s.src i).lno ≠ k.frame → t.word (R.ingSrcChg i) = s.word (R.ingSrcChg i))) := by
  let u := (s.release (144 + e % 16)).setSrc i ((s.src i).changed k mask hints)
  have free : (s.release (144 + e % 16)).Frame u [] [.srcs] := (State.Frame.refl _ _ _).setSrc (by simp)
  have frame := ((s.frame_release (144 + e % 16)).mono (fun _ => id) (m := [.bob, .srcs]) (by simp)).andThen free (by simp) (by simp)
  have counted := u.frame_countTiles i (Nat.beq (s.src i).lno k.frame && (s.src i).hasL)
  have src := counted.src (by simp) i
  refine ⟨_, congrArg Host.Outcome.next (State.ingestDone_eq run own scrl), (frame.mono (by simp) (fun _ => id)).andThen counted
    (fun _ => id) (by simp), ?_, ?_, ?_, ?_, fun older => ?_⟩
  · rw [counted.running (by simp), free.running (by simp), State.running_release]
  · exact (congrArg BobSt.tasks (show _ = u.bob from counted.2 .bob (by simp))).trans (s.tasks_release _)
  · rw [src, State.src_setSrc]; exact find_replaced _ _ _
  · rw [src, State.src_setSrc]; exact find_replaced _ _ _
  · have other : Nat.beq (s.src i).lno k.frame = false := by rw [nat_beq_eq]; exact decide_eq_false older
    rw [other]
    exact frame.word (by simp)

end

/-! Carried rows (R153) -/

/-- An absent row of the last frame that a copy has filled. -/
def carriedRow (row : Nat) (v : Nat × Ver) : Nat × Ver :=
  if Nat.beq v.1 row && v.2.absent then (v.1, { v.2 with carried := true, absent := false }) else v

theorem carriedRow_eq (row : Nat) (v : Nat × Ver) : carriedRow row v =
    if v.1 = row ∧ v.2.absent = true then (v.1, { v.2 with carried := true, absent := false }) else v := by
  simp only [carriedRow, nat_beq_eq, Bool.and_eq_true, decide_eq_true_eq]

section
variable {s : State} {e i : Nat} {k : Task}

theorem State.carryDone_eq (run : s.running e = some k) (own : k.own = i) (typ : k.typ = 6) (which : k.which = 0)
    (last : (s.src i).lno = k.frame) : s.carryDone e =
      (s.release e).setSrc i { s.src i with lRows := (s.src i).lRows.map (carriedRow k.row) } := by
  simp only [State.carryDone, run, own, typ, which, last, Nat.beq_refl, Bool.and_self, if_true]
  rfl

/-- A copy into the last frame that is done fills its row and is free. -/
theorem State.carryForwardComplete_does (run : s.running (168 + e % 4) = some k) (own : k.own = i) (typ : k.typ = 6)
    (which : k.which = 0) (last : (s.src i).lno = k.frame) : s.Does (.carryForwardComplete e) [] [.bob, .srcs] (fun t =>
      t.running (168 + e % 4) = none ∧ t.bob.tasks = s.bob.tasks
        ∧ (t.src i).lRows = (s.src i).lRows.map (carriedRow k.row)) := by
  have free : (s.release (168 + e % 4)).Frame ((s.release (168 + e % 4)).setSrc i
      { s.src i with lRows := (s.src i).lRows.map (carriedRow k.row) }) [] [.srcs] := (State.Frame.refl _ _ _).setSrc (by simp)
  refine ⟨_, congrArg Host.Outcome.next (State.carryDone_eq run own typ which last),
    ((s.frame_release _).mono (fun _ => id) (by simp)).andThen free (by simp) (by simp), ?_, rfl, ?_⟩
  · rw [free.running (by simp), State.running_release]
  · exact congrArg Src.lRows (State.src_setSrc _ _ _)

end

/-! Path loss (R160) -/

section
variable {s : State} {i x : Nat}

/-- The source after the loss time of path x has passed, before it is known whether another path feeds it. -/
def State.pathDown (s : State) (i x : Nat) : State := (s.expired (Timer.path i x)).setPath i x false

theorem State.frame_pathDown (s : State) (i x : Nat) :
    s.Frame (s.pathDown i x) [R.ingSrcStat i, R.selEvtOvf] [.now, .tim, .timers, .arb] :=
  State.Frame.setPath s i x ((s.frame_expired _).mono (by simp) (by simp)) (by simp) (by simp) (by simp)

theorem State.pathUp_pathDown : (s.pathDown i x).is (pathUpFld i x) = false := State.pathUp_setPath _ i x false

theorem State.sstate_pathDown : (s.pathDown i x).sstate i = s.sstate i :=
  (State.sstate_setPath _ i x false).trans (s.get_expired _ _)

/-- The loss of one path leaves the other as it was. -/
theorem State.otherPath_pathDown (hx : x < 2) : (s.pathDown i x).is (pathUpFld i (1 - x)) = s.is (pathUpFld i (1 - x)) := by
  have apart : (pathUpFld i x).Apart (pathUpFld i (1 - x)) := by
    have cases : x = 0 ∨ x = 1 := by omega
    rcases cases with rfl | rfl
    · exact .inr (.inr (by simp [pathUpFld, F.ingSrcStatPathAUp, F.ingSrcStatPathBUp]))
    · exact .inr (.inl (by simp [pathUpFld, F.ingSrcStatPathAUp, F.ingSrcStatPathBUp]))
  rw [State.is, State.pathDown, State.get_setPath _ i x false apart (by rw [pathUpFld_addr]; exact ingSrcStat_ne_selEvtOvf i),
    State.get_expired]
  rfl

theorem State.pathLoss_receiving (armed : s.armed (Timer.path i x) = true) (state : s.sstate i = SState.receiving) :
    s.pathLoss i x = if (s.pathDown i x).feedsDown i then (s.pathDown i x).loseSource i else s.pathDown i x := by
  have receiving : Nat.beq ((s.pathDown i x).sstate i) 2 = true := by rw [State.sstate_pathDown, state]; rfl
  rw [State.pathLoss, State.fire_of_armed armed]
  change (if Nat.beq ((s.pathDown i x).sstate i) 2 && (s.pathDown i x).feedsDown i then _ else _) = _
  rw [receiving, Bool.true_and]
  rfl

theorem State.feedsDown_eq (s : State) (i : Nat) :
    s.feedsDown i = (!s.is (pathUpFld i 0) && !(s.is (F.ingSrcCfgMerge i) && s.is (pathUpFld i 1))) := rfl

/-- A source is fed by path A, and by path B where it merges. -/
theorem State.feedsDown_pathDown (hx : x < 2) : (s.pathDown i x).feedsDown i =
    !(s.is (pathUpFld i (1 - x)) && (Nat.beq x 1 || s.is (F.ingSrcCfgMerge i))) := by
  have down := s.pathUp_pathDown (i := i) (x := x)
  have other := s.otherPath_pathDown (i := i) hx
  have merge : (s.pathDown i x).is (F.ingSrcCfgMerge i) = s.is (F.ingSrcCfgMerge i) := (s.frame_pathDown i x).is _ (by
    simp [F.ingSrcCfgMerge, R.ingSrcCfg, R.ingSrcStat, R.selEvtOvf]; omega)
  have cases : x = 0 ∨ x = 1 := by omega
  rw [State.feedsDown_eq, merge]
  rcases cases with rfl | rfl
  · rw [down, other, Bool.and_comm (s.is (F.ingSrcCfgMerge i))]
    rfl
  · rw [down, other, Bool.and_false, Bool.not_false, Bool.and_true]
    exact congrArg (!·) (Bool.and_true _).symm

/-- A source without open frame that enters LOST. -/
theorem State.frame_loseSource (closed : (s.src i).isOpen = false) : s.Frame (s.loseSource i)
    [R.ingSrcStat i, R.selLive (Src.srcLost i / 32), R.selEvtOvf] [.arb, .sel] := by
  rw [State.loseSource, State.closeFrame_of_closed closed]
  exact (State.Frame.setSstate s i (State.Frame.refl s _ _) (by simp) (by simp) (by simp)).raiseLevel (by simp) (by simp)

theorem State.loseSource_shows (closed : (s.src i).isOpen = false) : (s.loseSource i).sstate i = SState.lost
    ∧ (s.loseSource i).is (pathUpFld i x) = s.is (pathUpFld i x)
    ∧ (s.loseSource i).is (selBit F.selLiveLive (Src.srcLost i)) = true
    ∧ (s.loseSource i).sel.occ = s.sel.occ ++ [(Src.srcLost i, false)] := by
  have live := ingSrcStat_ne_selLive_srcLost i
  rw [State.loseSource, State.closeFrame_of_closed closed]
  refine ⟨?_, ?_, State.live_raiseLevel _ _, ?_⟩
  · rw [State.sstate, State.get_raiseLevel _ _ live]
    exact s.sstate_setSstate i (by decide)
  · rw [State.is, State.get_raiseLevel _ _ (by rwa [pathUpFld_addr])]
    exact s.pathUp_setSstate i x 3
  · have occ := (State.Frame.setSstate s i (v := 3) (State.Frame.refl s [R.ingSrcStat i, R.selEvtOvf] [.arb]) (by simp) (by simp)
      (by simp)).occ (by simp)
    exact congrArg (· ++ [(Src.srcLost i, false)]) occ

end

/-- Settles O39 (R153, R160, R169, R171). -/
theorem sourceRowsAndLoss : Obligations.SourceRowsAndLoss := by
  intro s e i x mask hints k hi hx
  refine ⟨State.ingestRowComplete_does, fun run own typ which last => ?_, fun armed state up => ?_⟩
  · obtain ⟨t, step, frame, free, tasks, rows⟩ := State.carryForwardComplete_does run own typ which last
    refine ⟨t, step, frame, free, tasks, by rw [rows, List.length_map], fun v hv => ?_⟩
    rw [rows, ← carriedRow_eq]
    exact List.mem_map_of_mem hv
  have step : exec (.pathLossTimeout i x) s = .next (s.pathLoss i x) := by
    simp only [exec, execPathLossTimeout, Nat.mod_eq_of_lt hi, Nat.mod_eq_of_lt hx]
  have frame := s.frame_pathDown i x
  rw [State.pathLoss_receiving armed state, State.feedsDown_pathDown hx] at step
  refine ⟨fun other feeds => ?_, fun other closed => ?_⟩
  · have fed : (Nat.beq x 1 || s.is (F.ingSrcCfgMerge i)) = true := by
      rw [Bool.or_eq_true, nat_beq_eq, decide_eq_true_eq]; exact feeds
    rw [other, fed] at step
    exact ⟨s.pathDown i x, step, frame, State.pathUp_pathDown, (State.otherPath_pathDown hx).trans other,
      State.sstate_pathDown.trans state⟩
  · rw [other] at step
    have still : ((s.pathDown i x).src i).isOpen = false := (congrArg Src.isOpen (frame.src (by simp) i)).trans closed
    obtain ⟨lost, path, live, occ⟩ := State.loseSource_shows (x := x) still
    have all := (frame.mono (q := [R.ingSrcStat i, R.selLive (Src.srcLost i / 32), R.selEvtOvf])
      (m := [.now, .tim, .timers, .arb, .sel]) (by simp) (by simp)).andThen (State.frame_loseSource still) (fun _ => id) (by simp)
    exact ⟨(s.pathDown i x).loseSource i, step, all, path.trans State.pathUp_pathDown, lost, live,
      occ.trans (congrArg (· ++ _) (frame.occ (by simp)))⟩

end Sys2Proof.Machine
end

