-- ==== Sys2Proof/Proofs/AudioFlows.lean ====
section
/-!
SUPPORT. Sys2Proof/Proofs/AudioFlows.lean: a write of ING_AFL_CFG whose channel count lies outside its range; the statement of
O57 settled.
-/

namespace Sys2Proof.Machine

/-- CH, the channels of a flow, takes 1 to 8. -/
theorem findReg_ingAflCfg : ∀ f < 32, findReg (R.ingAflCfg f) = some ⟨R.ingAflCfg 0, (0x20, 32), (4, 1),
    [⟨0, 8, .rw, .any, true⟩, ⟨8, 8, .rw, .any, true⟩, ⟨16, 4, .rw, .between 1 8, true⟩, ⟨20, 1, .rw, .any, true⟩,
      ⟨21, 1, .rw, .any, true⟩, ⟨22, 1, .rw, .any, true⟩, ⟨23, 1, .rw, .any, true⟩]⟩ := by
  decide +kernel

section
variable {s : State} {f : Nat}

/-- Switching a flow changes its reports and its merge beside its register. -/
theorem State.frame_writeAfl (s : State) (f : Nat) (v : Word) :
    (s.store (R.ingAflCfg f) v (if s.is (F.ingAflCfgEn f) then 0x800000 else allBits)).Frame (s.writeAfl f v) [] [.igmp, .ains] :=
  (State.Frame.refl _ _ _).ite ((((State.Frame.refl _ _ _).igmpChange (by simp)).cond
    (fun _ hu => hu.igmpChange (by simp))).setAin (by simp))

/-- CH of a disabled flow keeps its value when 9 is written to it. -/
theorem State.ch_writeAfl (hf : f < 32) (off : s.is (F.ingAflCfgEn f) = false) {v : Word} (hv : bitsAt v 16 4 = 9) :
    (s.writeAfl f v).get (F.ingAflCfgCh f) = s.get (F.ingAflCfgCh f) := by
  have frame := s.frame_writeAfl f v
  rw [off, if_neg Bool.false_ne_true] at frame
  have refuses : FSpec.Refuses ⟨16, 4, .rw, .between 1 8, true⟩ v := ⟨rfl, by decide, 1, 8, rfl, by rw [hv]; rfl⟩
  exact (frame.get _ (by simp)).trans (State.get_store_refused (findReg_ingAflCfg f hf) refuses
    (by simp [FSpec.Apart]))

/-- AUDIO_FLOW_ENABLE of a disabled flow, taken at once, with CH written as 9, leaves CH as it was. -/
theorem State.exec_audioFlowEnable_keeps_ch {h : Nat} (hr : s.Ready h) (hf : f < 32) (off : s.is (F.ingAflCfgEn f) = false)
    {v : Word} (hv : bitsAt v 16 4 = 9) :
    ∃ t, exec (.audioFlowEnable h f v) s = .next t ∧ t.get (F.ingAflCfgCh f) = s.get (F.ingAflCfgCh f) := by
  obtain ⟨t, taken, act⟩ := State.takeWrite_ready (R.ingAflCfg f) v false (fun s => s.writeAfl f v) hr
  have port : h < 4 := hr.2.1
  have count : R.ingAflCfg f ∉ [R.hstCntWrites h] := by
    simp only [R.ingAflCfg, R.hstCntWrites, List.mem_singleton]
    omega
  exact ⟨t.writeAfl f v, by simp only [exec, execAudioFlowEnable, Nat.mod_eq_of_lt hf, act],
    (State.ch_writeAfl hf ((taken.frame.is _ count).trans off) hv).trans (taken.frame.get _ count)⟩

end

/-- A module in RUN in which audio flow 0 is off. -/
def flowOff : State := State.reset.put F.sysModeMode Mode.run

theorem flowOff_ready : flowOff.Ready 3 := by
  unfold State.Ready State.Idle; decide +kernel

theorem flowOff_disabled : flowOff.is (F.ingAflCfgEn 0) = false := by decide +kernel

theorem flowOff_ch : flowOff.get (F.ingAflCfgCh 0) ≠ 9 := by decide +kernel

/-- A write of ING_AFL_CFG with EN = 1 and CH = 9, which the range 1 to 8 of CH leaves out. -/
def nineChannels : Word := 0x00890000

/-- Refutes O57: AUDIO_FLOW_ENABLE that writes 9 to CH. The field takes 1 to 8 and keeps its value otherwise (R607), so that it
does not read what is written. -/
theorem not_audioSamples : ¬ Obligations.AudioSamples := by
  intro h
  obtain ⟨enable, -, -⟩ := h flowOff 3 0 0 nineChannels ⟨[], false, 0⟩ ⟨0, 0, 0, []⟩ [] (by decide) (by decide)
  obtain ⟨t, step, -, -, ch, -⟩ := enable flowOff_ready flowOff_disabled (by decide)
  obtain ⟨u, step', kept⟩ := State.exec_audioFlowEnable_keeps_ch flowOff_ready (f := 0) (by decide) flowOff_disabled
    (v := nineChannels) (by decide)
  obtain rfl : t = u := Host.Outcome.next.inj (step.symm.trans step')
  exact flowOff_ch (kept.symm.trans (ch.trans (by decide)))

end Sys2Proof.Machine
end

