-- ==== Sys2Proof/Proofs/CameraStreams.lean ====
section
/-!
SUPPORT. Sys2Proof/Proofs/CameraStreams.lean: the packets of a camera source and the slices of its first access unit while more
of them are left; the statement of O40 settled.
-/

namespace Sys2Proof.Machine

/-! Packets (R146, R158, R178) -/

/-- A camera packet as the merge of R158 sees it. -/
def mergedPkt (p : CamPkt) : VideoPkt := ⟨p.path, p.seq, p.ts, p.pt, p.marker, []⟩

section
variable {s : State} {i : Nat} {p : CamPkt} {au : CamAu}

/-- A packet that reaches a camera source by its enabled path A after WAIT has ended. -/
theorem State.camPacket_started (on : s.srcOn i = true) (camera : s.isCamera i = true) (en : s.is (F.ingSrcPathEn i 0) = true)
    (path : p.path = 0) (started : s.sstate i ≠ SState.wait) : s.camPacket i p =
      if p.pt = s.get (F.ingSrcFmtPt i) then s.camIn i p else s.bump (F.ingSrcCntBadHdr i) 1 := by
  have waits : Nat.beq (s.sstate i) 1 = false := by rw [nat_beq_eq]; exact decide_eq_false started
  have same : { p with path := 0 } = p := by rw [← path]
  simp only [State.camPacket, path, Nat.zero_mod, on, camera, en, waits, same, nat_beq_eq p.pt, Bool.not_true, Bool.or_self,
    Bool.false_eq_true, if_false, Bool.false_and]
  by_cases pt : p.pt = s.get (F.ingSrcFmtPt i) <;> simp [pt]

/-- A packet that goes on with the open access unit starts none (R179). -/
theorem State.auStart_of_open {ts : Nat} (isOpen : (s.src i).auOpen = true) (fts : (s.src i).fts = ts) : s.auStart i ts = s := by
  simp only [State.auStart, isOpen, fts, Nat.beq_refl, Bool.and_self, if_true]

/-- A packet of path A, numbered above every accepted one, that ends the access unit begun with its timestamp. -/
structure State.EndsAu (s : State) (i : Nat) (p : CamPkt) (au : CamAu) : Prop where
  path   : p.path = 0
  state  : s.sstate i = SState.receiving
  fresh  : (s.src i).seqs.contains p.seq = false
  higher : ∀ n, (s.src i).hi = some n → seqLess n p.seq = true ∧ seqLess p.seq n = false
  isOpen : (s.src i).auOpen = true
  fts    : (s.src i).fts = p.ts
  before : p.before = none
  ends   : p.ends = some au
  known  : p.known = true

/-- Path A has delivered a packet with this number, higher than every other, and it was accepted. -/
def State.accepted (s : State) (i seq : Nat) : State :=
  ((s.pathSeen i 0).setSrc i ((s.src i).accepting seq s.now)).bump (F.ingSrcCntPathFirstA i) 1

theorem State.frame_accepted (s : State) (i seq : Nat) : s.Frame (s.accepted i seq)
    [R.ingSrcStat i, R.ingSrcCntPathFirstA i, R.selEvtOvf] [.srcs, .arb, .timers] :=
  (((s.frame_pathSeen i 0).mono (by simp) (by simp)).setSrc (by simp)).bump (by simp [F.ingSrcCntPathFirstA])

theorem State.src_accepted (s : State) (i seq : Nat) : (s.accepted i seq).src i = (s.src i).accepting seq s.now :=
  (State.src_bump _ _ _ _).trans (State.src_setSrc _ _ _)

theorem State.EndsAu.camIn (h : s.EndsAu i p au) : s.camIn i p = (s.accepted i p.seq).auComplete i au := by
  have merged : s.mergeIn i 0 p.seq = (s, true) := by
    have fate : s.mergeFate i p.seq = 0 := State.mergeFate_higher (p := mergedPkt p) h.fresh h.higher
    rw [State.mergeIn, fate]
    rfl
  have src := s.src_pathSeen i 0 i
  have accepted : (s.pathSeen i 0).acceptPkt i 0 p.seq = s.accepted i p.seq := by
    refine (State.acceptPkt_higher (p := mergedPkt p) ((s.sstate_pathSeen i 0).trans h.state)
      (by rw [src]; exact h.higher)).trans ?_
    rw [src, (s.frame_pathSeen i 0).now (by simp)]
    rfl
  have found : Nat.beq (s.sstate i) 3 = false := by rw [h.state]; rfl
  have goesOn : (s.accepted i p.seq).auStart i p.ts = s.accepted i p.seq :=
    State.auStart_of_open (by rw [State.src_accepted]; exact h.isOpen) (by rw [State.src_accepted]; exact h.fts)
  simp only [State.camIn, h.path, merged, accepted, found, h.before, goesOn, h.known, h.ends, Bool.not_true, Bool.false_and,
    Bool.false_eq_true, if_false, if_true]

end

/-! Access units (R179, R193) -/

/-- AU_RX counts an access unit and the size of its sequence set is shown. -/
def State.auShown (s : State) (i : Nat) (au : CamAu) : State :=
  ((s.bump (F.decSrcCntAuRx i) 1).put (F.decSrcSpsW i) au.w).put (F.decSrcSpsH i) au.h

section
variable {s : State} {i : Nat} {au : CamAu}

theorem State.frame_auShown (s : State) (i : Nat) (au : CamAu) :
    s.Frame (s.auShown i au) [R.decSrcCntAuRx i, R.decSrcSps i] [] :=
  (((State.Frame.refl s _ _).bump (by simp [F.decSrcCntAuRx])).put (by simp [F.decSrcSpsW])).put (by simp [F.decSrcSpsH])

theorem State.get_auShown_auRx : (s.auShown i au).get (F.decSrcCntAuRx i) = (s.get (F.decSrcCntAuRx i) + 1) % 2 ^ 32 := by
  have apart : R.decSrcSps i ≠ R.decSrcCntAuRx i := by simp only [R.decSrcSps, R.decSrcCntAuRx]; omega
  rw [State.auShown, State.get_put_apart _ _ (.inl apart), State.get_put_apart _ _ (.inl apart)]
  exact s.get_bump _ 1 (by simp [F.decSrcCntAuRx])

theorem State.get_auShown_w (hw : au.w < 2 ^ 16) : (s.auShown i au).get (F.decSrcSpsW i) = au.w := by
  rw [State.auShown, State.get_put_apart _ _ (.inr (.inl (by simp [F.decSrcSpsW, F.decSrcSpsH]))),
    State.get_put _ _ _ (by simp [F.decSrcSpsW])]
  exact Nat.mod_eq_of_lt hw

theorem State.get_auShown_h (hh : au.h < 2 ^ 16) : (s.auShown i au).get (F.decSrcSpsH i) = au.h := by
  rw [State.auShown, State.get_put _ _ _ (by simp [F.decSrcSpsH])]
  exact Nat.mod_eq_of_lt hh

/-- A parked decoder shows an access unit, which is then no longer open, and PARKED_AU counts it. -/
def State.auParked (s : State) (i : Nat) (au : CamAu) : State :=
  ((s.auShown i au).updSrc i (fun x => { x with auOpen := false })).bump (F.decSrcCntParkedAu i) 1

theorem State.auComplete_parked (parked : s.decState i = DState.parked) : s.auComplete i au = s.auParked i au := by
  simp only [State.auComplete, parked]
  rfl

theorem State.frame_auParked (s : State) (i : Nat) (au : CamAu) :
    s.Frame (s.auParked i au) [R.decSrcCntAuRx i, R.decSrcCntParkedAu i, R.decSrcSps i] [.srcs] :=
  (((s.frame_auShown i au).mono (by simp) (by simp)).updSrc (by simp)).bump (by simp [F.decSrcCntParkedAu])

theorem State.src_auParked : (s.auParked i au).src i = { s.src i with auOpen := false } := by
  rw [State.auParked, State.src_bump, State.src_updSrc, (s.frame_auShown i au).src (by simp)]

theorem State.get_auParked {g : Fld} (h : R.decSrcCntParkedAu i ≠ g.addr) :
    (s.auParked i au).get g = (s.auShown i au).get g := by
  rw [State.auParked, State.get_bump_apart _ _ (.inl h), State.get_updSrc]

theorem State.get_auParked_parkedAu :
    (s.auParked i au).get (F.decSrcCntParkedAu i) = (s.get (F.decSrcCntParkedAu i) + 1) % 2 ^ 32 := by
  have kept := (s.frame_auShown i au).get (F.decSrcCntParkedAu i)
    (by simp [F.decSrcCntParkedAu, R.decSrcCntParkedAu, R.decSrcCntAuRx, R.decSrcSps])
  rw [State.auParked, State.get_bump _ _ _ (by simp [F.decSrcCntParkedAu]), State.get_updSrc, kept]
  rfl

/-- The registers of a decoder that an access unit is told by are none of those that its packet changes. -/
theorem decSrc_not_mem_accepted {a : Nat} (ha : a ∈ [R.decSrcStat i, R.decSrcCntAuRx i, R.decSrcCntParkedAu i]) :
    a ∉ [R.ingSrcStat i, R.ingSrcCntPathFirstA i, R.selEvtOvf] := by
  simp only [List.mem_cons, List.not_mem_nil, or_false, R.decSrcStat, R.decSrcCntAuRx, R.decSrcCntParkedAu, R.ingSrcStat,
    R.ingSrcCntPathFirstA, R.selEvtOvf] at *
  omega

/-- A packet that ends an access unit while DEC is parked. -/
theorem State.EndsAu.camIn_parked {p : CamPkt} (h : s.EndsAu i p au) (parked : s.decState i = DState.parked) :
    s.camIn i p = (s.accepted i p.seq).auParked i au := by
  rw [h.camIn, State.auComplete_parked]
  exact ((s.frame_accepted i p.seq).get (F.decSrcStatDstate i)
    (decSrc_not_mem_accepted (by simp [F.decSrcStatDstate]))).trans parked

theorem State.frame_parkedPacket (s : State) (i seq : Nat) (au : CamAu) : s.Frame ((s.accepted i seq).auParked i au)
    [R.ingSrcStat i, R.ingSrcCntPathFirstA i, R.decSrcCntAuRx i, R.decSrcCntParkedAu i, R.decSrcSps i, R.selEvtOvf]
    [.srcs, .arb, .timers] :=
  ((s.frame_accepted i seq).mono (by simp) (fun _ => id)).andThen (State.frame_auParked _ i au) (by simp) (by simp)

/-- The counters, the size and the queue after it (R193). -/
theorem State.parkedPacket_shows (s : State) (i seq : Nat) (au : CamAu) :
    ((s.accepted i seq).auParked i au).get (F.decSrcCntAuRx i) = (s.get (F.decSrcCntAuRx i) + 1) % 2 ^ 32
      ∧ ((s.accepted i seq).auParked i au).get (F.decSrcCntParkedAu i) = (s.get (F.decSrcCntParkedAu i) + 1) % 2 ^ 32
      ∧ (au.w < 2 ^ 16 → ((s.accepted i seq).auParked i au).get (F.decSrcSpsW i) = au.w)
      ∧ (au.h < 2 ^ 16 → ((s.accepted i seq).auParked i au).get (F.decSrcSpsH i) = au.h)
      ∧ (((s.accepted i seq).auParked i au).src i).queue = (s.src i).queue
      ∧ (((s.accepted i seq).auParked i au).src i).auOpen = false := by
  have kept (f : Fld) (hf : f.addr ∈ [R.decSrcStat i, R.decSrcCntAuRx i, R.decSrcCntParkedAu i]) :
      (s.accepted i seq).get f = s.get f := (s.frame_accepted i seq).get f (decSrc_not_mem_accepted hf)
  have src := s.src_accepted i seq
  generalize s.accepted i seq = u at *
  have sps : R.decSrcCntParkedAu i ≠ R.decSrcSps i := by simp only [R.decSrcCntParkedAu, R.decSrcSps]; omega
  have auRx : R.decSrcCntParkedAu i ≠ R.decSrcCntAuRx i := by simp only [R.decSrcCntParkedAu, R.decSrcCntAuRx]; omega
  refine ⟨?_, ?_, fun hw => ?_, fun hh => ?_, ?_, ?_⟩
  · rw [State.get_auParked auRx, State.get_auShown_auRx, kept _ (by simp [F.decSrcCntAuRx])]
  · rw [State.get_auParked_parkedAu, kept _ (by simp [F.decSrcCntParkedAu])]
  · rw [State.get_auParked sps, State.get_auShown_w hw]
  · rw [State.get_auParked sps, State.get_auShown_h hh]
  · rw [State.src_auParked, src]; rfl
  · rw [State.src_auParked]

end

/-! Slices (R183, R186, R188) -/

section
variable (s : State) (i c r : Nat)

theorem State.frame_conceal : s.Frame (s.conceal i c)
    [R.decSrcCntConcEnter i, R.decSrcConc i, R.decSrcStat i, R.selEvtOvf] [.arb] :=
  (((((State.Frame.refl s _ _).put (by simp [F.decSrcConcCause])).put (by simp [F.decSrcConcPics])).bump
    (by simp [F.decSrcCntConcEnter])).setDecState (by simp) (by simp) (by simp)).ite (State.Frame.refl s _ _)

theorem State.decState_setDecState {v : Nat} (hv : v < 8) : (s.setDecState i v).decState i = v :=
  s.get_moveTo _ _ _ _ _ (by simp [F.decSrcStatDstate]) hv (by simp only [F.decSrcStatDstate, R.decSrcStat, R.selEvtOvf]; omega)

theorem State.get_setDecState (v : Nat) {g : Fld} (hd : R.decSrcStat i ≠ g.addr) (hg : g.addr ≠ R.selEvtOvf) :
    (s.setDecState i v).get g = s.get g :=
  s.get_moveTo_apart _ _ _ _ _ _ (.inl hd) hg

/-- From DECODING a cause starts concealment: what DEC shows of it. -/
theorem State.conceal_shows {s : State} {i c : Nat} (decoding : s.decState i = DState.decoding) (hc : c < 8) :
    (s.conceal i c).decState i = DState.concealing ∧ (s.conceal i c).get (F.decSrcConcCause i) = c
      ∧ (s.conceal i c).get (F.decSrcConcPics i) = 0
      ∧ (s.conceal i c).get (F.decSrcCntConcEnter i) = (s.get (F.decSrcCntConcEnter i) + 1) % 2 ^ 32 := by
  have decodes : Nat.beq (s.decState i) 2 = true := by rw [decoding]; rfl
  have apart : R.decSrcCntConcEnter i ≠ R.decSrcConc i := by simp only [R.decSrcCntConcEnter, R.decSrcConc]; omega
  rw [State.conceal, if_pos decodes]
  refine ⟨State.decState_setDecState _ i (by decide), ?_, ?_, ?_⟩
  · rw [State.get_setDecState _ i _ (by simp only [F.decSrcConcCause, R.decSrcStat, R.decSrcConc]; omega)
        (by simp only [F.decSrcConcCause, R.decSrcConc, R.selEvtOvf]; omega),
      State.get_bump_apart _ _ (.inl apart), State.get_put_apart _ _ (.inr (.inl (by simp [F.decSrcConcCause, F.decSrcConcPics]))),
      State.get_put _ _ _ (by simp [F.decSrcConcCause])]
    exact Nat.mod_eq_of_lt hc
  · rw [State.get_setDecState _ i _ (by simp only [F.decSrcConcPics, R.decSrcStat, R.decSrcConc]; omega)
        (by simp only [F.decSrcConcPics, R.decSrcConc, R.selEvtOvf]; omega),
      State.get_bump_apart _ _ (.inl apart), State.get_put _ _ _ (by simp [F.decSrcConcPics]), Nat.zero_mod]
  · rw [State.get_setDecState _ i _ (by simp only [F.decSrcCntConcEnter, R.decSrcStat, R.decSrcCntConcEnter]; omega)
        (by simp only [F.decSrcCntConcEnter, R.decSrcCntConcEnter, R.selEvtOvf]; omega),
      State.get_bump _ _ _ (by simp [F.decSrcCntConcEnter]),
      State.get_put_apart _ _ (.inl apart.symm), State.get_put_apart _ _ (.inl apart.symm)]
    rfl

/-- The damage begins at the row of a damaged slice, or above it (R188). -/
theorem State.damage_damageAt : ∃ d, ((s.damageAt i r).src i).damage = some d ∧ d ≤ r := by
  rw [State.damageAt, State.src_updSrc]
  cases (s.src i).damage with
  | none => exact ⟨r, rfl, Nat.le_refl r⟩
  | some d => exact ⟨min d r, rfl, Nat.min_le_right d r⟩

/-- A slice that refers to a missing picture: counted, concealed with cause 1, its rows damaged (R186). -/
def State.refMissing : State := ((s.bump (F.decSrcCntRefMissing i) 1).conceal i 1).damageAt i r

theorem State.frame_refMissing : s.Frame (s.refMissing i r)
    [R.decSrcCntRefMissing i, R.decSrcCntConcEnter i, R.decSrcConc i, R.decSrcStat i, R.selEvtOvf] [.srcs, .arb] :=
  (((State.Frame.refl s _ _).bump (by simp [F.decSrcCntRefMissing])).andThen (State.frame_conceal _ i 1)
    (fun _ => List.mem_cons_of_mem _) (by simp)).updSrc (by simp)

theorem State.damage_refMissing : ∃ d, ((s.refMissing i r).src i).damage = some d ∧ d ≤ r := State.damage_damageAt _ i r

theorem State.refMissing_shows {s : State} {i r : Nat} (decoding : s.decState i = DState.decoding) :
    (s.refMissing i r).decState i = DState.concealing ∧ (s.refMissing i r).get (F.decSrcConcCause i) = 1
      ∧ (s.refMissing i r).get (F.decSrcConcPics i) = 0
      ∧ (s.refMissing i r).get (F.decSrcCntRefMissing i) = (s.get (F.decSrcCntRefMissing i) + 1) % 2 ^ 32
      ∧ (s.refMissing i r).get (F.decSrcCntConcEnter i) = (s.get (F.decSrcCntConcEnter i) + 1) % 2 ^ 32 := by
  have stat : R.decSrcCntRefMissing i ≠ R.decSrcStat i := by simp only [R.decSrcCntRefMissing, R.decSrcStat]; omega
  have enter : R.decSrcCntRefMissing i ≠ R.decSrcCntConcEnter i := by
    simp only [R.decSrcCntRefMissing, R.decSrcCntConcEnter]; omega
  have conc : R.decSrcCntRefMissing i ≠ R.decSrcConc i := by simp only [R.decSrcCntRefMissing, R.decSrcConc]; omega
  have ovf : R.decSrcCntRefMissing i ≠ R.selEvtOvf := by simp only [R.decSrcCntRefMissing, R.selEvtOvf]; omega
  obtain ⟨state, cause, pics, entered⟩ := State.conceal_shows (c := 1)
    ((State.get_bump_apart s (f := F.decSrcCntRefMissing i) (g := F.decSrcStatDstate i) 1 (.inl stat)).trans decoding) (by decide)
  rw [State.get_bump_apart s 1 (.inl enter)] at entered
  refine ⟨state, cause, pics, ?_, entered⟩
  have kept := (State.frame_conceal (s.bump (F.decSrcCntRefMissing i) 1) i 1).get (F.decSrcCntRefMissing i)
    (by simp [F.decSrcCntRefMissing, stat, enter, conc, ovf])
  exact kept.trans (s.get_bump _ 1 (by simp [F.decSrcCntRefMissing]))

/-- What the result of a slice that begins at row r does: 0 nothing; another one is counted, concealed and damages. -/
def State.judged (result : Nat) : State :=
  if Nat.beq result 0 then s else ((s.countCause i result).conceal i result).damageAt i r

end

/-- The slice of access unit q that task k decodes. -/
def Queued.slice (q : Queued) (k : Task) : CamSlice := q.au.slices.getD k.row ⟨true, 0, 0⟩

/-- Executor e decodes a slice of the first access unit of source i, and more of its slices are left. -/
structure State.DecodesFirst (s : State) (e i : Nat) (k : Task) (q : Queued) (rest : List Queued) : Prop where
  run   : s.running e = some k
  typ   : k.typ = 1
  own   : k.own = i
  queue : (s.src i).queue = q :: rest
  no    : q.no = k.frame
  left  : 2 ≤ q.left

section
variable {s : State} {e i : Nat} {k : Task} {q : Queued} {rest : List Queued}

/-- A picture stays open while slices of it are left. -/
theorem State.pictureCheck_of_left (queue : (s.src i).queue = q :: rest) (left : q.left ≠ 0) : s.pictureCheck i = s := by
  have more : Nat.beq q.left 0 = false := by rw [nat_beq_eq]; exact decide_eq_false left
  simp only [State.pictureCheck, queue, more, Bool.false_eq_true, if_false]

/-- The rows of the filling picture that a slice of access unit q completes, up to row `done`. -/
def State.rowsDecoded (s : State) (i : Nat) (q : Queued) (done : Nat) : List (Nat × Ver) :=
  ((List.range (min done (s.srcRows i))).filter (fun r => ((s.src i).fRows.find? (fun w => Nat.beq w.1 r)).isNone)).map
    (fun r => (r, ⟨(s.src i).fno, s.now, q.capt, q.capt, false, Nat.beq (s.decState i) 3, false⟩))

/-- One slice fewer is left in the first access unit, and the rows that it completed are there. -/
def State.sliced (s : State) (i : Nat) (q : Queued) (rest : List Queued) (done : Nat) (lost : Bool) : State :=
  s.updSrc i (fun x => { x with
    queue := { q with left := q.left - 1, lost := lost } :: rest
    fRows := x.fRows ++ s.rowsDecoded i q done })

theorem State.frame_sliced (s : State) (i : Nat) (q : Queued) (rest : List Queued) (done : Nat) (lost : Bool) :
    s.Frame (s.sliced i q rest done lost) [] [.srcs] := (State.Frame.refl _ _ _).updSrc (by simp)

theorem State.sliced_shows (s : State) (i : Nat) (q : Queued) (rest : List Queued) (done : Nat) (lost : Bool) :
    ((s.sliced i q rest done lost).src i).queue = { q with left := q.left - 1, lost := lost } :: rest
      ∧ ((s.sliced i q rest done lost).src i).damage = (s.src i).damage := by
  rw [State.sliced, State.src_updSrc]
  exact ⟨rfl, rfl⟩

variable (h : s.DecodesFirst e i k q rest)
include h

theorem State.DecodesFirst.queue_release : ((s.release e).src i).queue = q :: rest := h.queue

/-- A slice that is not the last one of its picture closes none. -/
theorem State.DecodesFirst.sliceDone_eq (result : Nat) : s.sliceDone e result =
    ((s.release e).judged i (q.slice k).row result).sliced i q rest (q.slice k).done (q.lost || !Nat.beq result 0) := by
  have two := h.left
  have first : Nat.beq q.no k.frame = true := by rw [h.no]; exact Nat.beq_refl _
  refine Eq.trans ?_ (State.pictureCheck_of_left (State.sliced_shows _ i q rest _ _).1 (show q.left - 1 ≠ 0 by omega))
  simp only [State.sliceDone, h.run, h.own, h.queue_release, h.typ, first, Nat.beq_refl, Bool.and_self, if_true]
  rfl

theorem State.DecodesFirst.sliceDone_intact :
    s.sliceDone e 0 = (s.release e).sliced i q rest (q.slice k).done q.lost := by
  rw [h.sliceDone_eq, Nat.beq_refl, Bool.not_true, Bool.or_false]
  rfl

theorem State.DecodesFirst.sliceDone_refMissing : s.sliceDone e 1 =
    ((s.release e).refMissing i (q.slice k).row).sliced i q rest (q.slice k).done true := by
  rw [h.sliceDone_eq, show Nat.beq 1 0 = false from rfl, Bool.not_false, Bool.or_true]
  rfl

/-- An intact slice of the first access unit keeps DECODING. -/
theorem State.DecodesFirst.intact_does (he : e < 128) (decoding : s.decState i = DState.decoding) :
    s.Does (.decodeSliceComplete e 0) [] [.bob, .srcs] (fun t => t.running e = none
      ∧ (t.src i).queue = { q with left := q.left - 1 } :: rest ∧ t.decState i = DState.decoding
      ∧ (t.src i).damage = (s.src i).damage) := by
  have step : exec (.decodeSliceComplete e 0) s = .next (s.sliceDone e 0) := by
    simp only [exec, execDecodeSliceComplete, Nat.mod_eq_of_lt he, Nat.beq_refl, Bool.true_or, if_true]
  obtain ⟨queue, damage⟩ := (s.release e).sliced_shows i q rest (q.slice k).done q.lost
  have sliced := (s.release e).frame_sliced i q rest (q.slice k).done q.lost
  rw [h.sliceDone_intact] at step
  exact ⟨_, step, ((s.frame_release e).mono (fun _ => id) (by simp)).andThen sliced (by simp) (by simp),
    (sliced.running (by simp) e).trans (s.running_release e), queue, (sliced.get _ (by simp)).trans decoding, damage⟩

/-- A slice of the first access unit with a missing reference starts concealment with cause 1 from its first row on. -/
theorem State.DecodesFirst.refMissing_does (he : e < 128) (decoding : s.decState i = DState.decoding) :
    s.Does (.decodeSliceComplete e 1) [R.decSrcCntRefMissing i, R.decSrcCntConcEnter i, R.decSrcConc i, R.decSrcStat i, R.selEvtOvf]
      [.bob, .srcs, .arb] (fun t => t.running e = none ∧ (t.src i).queue = { q with left := q.left - 1, lost := true } :: rest
      ∧ t.decState i = DState.concealing ∧ t.get (F.decSrcConcCause i) = 1 ∧ t.get (F.decSrcConcPics i) = 0
      ∧ t.get (F.decSrcCntRefMissing i) = (s.get (F.decSrcCntRefMissing i) + 1) % 2 ^ 32
      ∧ t.get (F.decSrcCntConcEnter i) = (s.get (F.decSrcCntConcEnter i) + 1) % 2 ^ 32
      ∧ ∃ d, (t.src i).damage = some d ∧ d ≤ (q.slice k).row) := by
  have step : exec (.decodeSliceComplete e 1) s = .next (s.sliceDone e 1) := by
    simp only [exec, execDecodeSliceComplete, Nat.mod_eq_of_lt he, Nat.beq_refl, Bool.or_true, if_true]
  have missing := (s.release e).frame_refMissing i (q.slice k).row
  obtain ⟨state, cause, pics, count, entered⟩ := State.refMissing_shows (s := s.release e) (r := (q.slice k).row) decoding
  have damaged := (s.release e).damage_refMissing i (q.slice k).row
  rw [h.sliceDone_refMissing] at step
  generalize (s.release e).refMissing i (q.slice k).row = u at *
  obtain ⟨queue, damage⟩ := u.sliced_shows i q rest (q.slice k).done true
  have sliced := u.frame_sliced i q rest (q.slice k).done true
  have reads (f : Fld) := sliced.get f (by simp)
  have before := ((s.frame_release e).mono (m := [.bob, .srcs, .arb]) (by simp) (by simp)).andThen missing (fun _ => id) (by simp)
  refine ⟨_, step, before.andThen sliced (by simp) (by simp), ?_, queue, (reads _).trans state, (reads _).trans cause, (reads _).trans pics,
    (reads _).trans count, (reads _).trans entered, damage ▸ damaged⟩
  rw [sliced.running (by simp), missing.running (by simp), State.running_release]

end

/-- Settles O40 (R179, R182, R186, R188, R193). -/
theorem cameraStreams : Obligations.CameraStreams := by
  intro s e i p au k q rest hi camera
  refine ⟨fun on en path => ?_, fun he run typ own queue no left decoding => ?_⟩
  · have step : exec (.cameraPacketReceived i p) s = .next (s.camPacket i p) := by
      simp only [exec, execCameraPacketReceived, Nat.mod_eq_of_lt hi]
    refine ⟨fun started pt => ?_, fun state pt parked fresh higher isOpen fts before ends known => ?_⟩
    · rw [State.camPacket_started on camera en path started, if_neg pt] at step
      exact ⟨_, step, (State.Frame.refl _ _ _).bump (by simp [F.ingSrcCntBadHdr]), (srcCounter_badHdr i).get_bump s⟩
    · have endsAu : s.EndsAu i p au := ⟨path, state, fresh, higher, isOpen, fts, before, ends, known⟩
      rw [State.camPacket_started on camera en path (by rw [state]; decide), if_pos pt, endsAu.camIn_parked parked] at step
      exact ⟨_, step, State.frame_parkedPacket s i p.seq au, State.parkedPacket_shows s i p.seq au⟩
  · have decodes : s.DecodesFirst e i k q rest := ⟨run, typ, own, queue, no, left⟩
    exact ⟨decodes.intact_does he decoding, decodes.refMissing_does he decoding⟩

end Sys2Proof.Machine
end

