-- ==== Sys2Proof/Proofs/LayerAndTableWrites.lean ====
section
/-!
SUPPORT. Sys2Proof/Proofs/LayerAndTableWrites.lean: a field that is set by a write of 1 (R8); the contexts of the compositors;
the writes that request a commit or a load (R200, R237) and those that stage coefficients and tables (R237, R239); the statement
of O41 settled.
-/

namespace Sys2Proof.Machine

/-! A field that is set by a write of 1 (R8) -/

section
variable {v w old : Word} {f : FSpec}

/-- A field whose bits are set by a write of 1 and stay as they are at a write of 0. -/
structure FSpec.Sets (f : FSpec) : Prop where
  acc  : f.acc = .w1s
  fits : f.lo + f.width ≤ 32

variable (hf : f.Sets)
include hf

theorem FSpec.Sets.writePlain :
    bitsAt (writePlain v w f) f.lo f.width = bitsAt w f.lo f.width ||| bitsAt v f.lo f.width := by
  simp only [Machine.writePlain, hf.acc, bitsAt_setBitsAt _ _ _ _ hf.fits]
  exact Nat.mod_eq_of_lt (Nat.or_lt_two_pow (bitsAt_lt _ _ _) (bitsAt_lt _ _ _))

theorem FSpec.Sets.writeRanged : Machine.writeRanged old w f = w := by
  simp only [Machine.writeRanged, hf.acc]

variable {fs : List FSpec} (apart : ∀ g ∈ fs, g = f ∨ g.Apart f)
include apart

/-- A field that is still to be written reads `old`; setting the same bits once more changes nothing. -/
theorem FSpec.Sets.foldl_writePlain (h : (f ∈ fs ∧ bitsAt w f.lo f.width = bitsAt old f.lo f.width)
    ∨ bitsAt w f.lo f.width = bitsAt old f.lo f.width ||| bitsAt v f.lo f.width) :
    bitsAt (fs.foldl (Machine.writePlain v) w) f.lo f.width = bitsAt old f.lo f.width ||| bitsAt v f.lo f.width := by
  induction fs generalizing w with
  | nil => exact h.resolve_left (fun ⟨hm, _⟩ => List.not_mem_nil hm)
  | cons g fs ih =>
    refine ih (fun k hk => apart k (List.mem_cons_of_mem g hk)) ?_
    by_cases hg : g = f
    · subst hg
      refine .inr (hf.writePlain.trans ?_)
      rcases h with ⟨-, hw⟩ | hw
      · rw [hw]
      · rw [hw, Nat.or_assoc, Nat.or_self]
    · rw [bitsAt_writePlain_apart ((apart g List.mem_cons_self).resolve_left hg)]
      exact h.imp_left (fun ⟨hm, hw⟩ => ⟨(List.mem_cons.mp hm).resolve_left (Ne.symm hg), hw⟩)

/-- After a write the field reads the bits that it held and those that are written. -/
theorem FSpec.Sets.writeFields (h : f ∈ fs) :
    bitsAt (writeFields fs old v) f.lo f.width = bitsAt old f.lo f.width ||| bitsAt v f.lo f.width :=
  List.foldlRecOn (motive := fun w => bitsAt w f.lo f.width = bitsAt old f.lo f.width ||| bitsAt v f.lo f.width) fs _
    (hf.foldl_writePlain apart (.inl ⟨h, rfl⟩)) (fun w hw g hg => by
      rcases apart g hg with rfl | hg
      · rwa [hf.writeRanged]
      · exact (bitsAt_writeRanged_apart hg).trans hw)

end

section
variable {a : Nat} {fs : List FSpec}

/-- A register whose bit 0 is a request that a write of 1 sets; `fs` are its other fields. -/
structure RequestReg (a : Nat) (fs : List FSpec) : Prop where
  row   : (findReg a).map RegRow.fields = some (⟨0, 1, .w1s, .any, false⟩ :: fs)
  above : ∀ g ∈ fs, 1 ≤ g.lo

/-- A request bit reads 1 after a write of 1. -/
theorem RequestReg.is_store (hr : RequestReg a fs) (s : State) (v : Word) :
    (s.store a (setBitsAt v 0 1 1) allBits).is ⟨a, 0, 1⟩ = true := by
  obtain ⟨r, row, fields⟩ := Option.map_eq_some_iff.mp hr.row
  have sets : FSpec.Sets ⟨0, 1, .w1s, .any, false⟩ := ⟨rfl, by decide⟩
  have apart : ∀ g ∈ (⟨0, 1, .w1s, .any, false⟩ : FSpec) :: fs, g = ⟨0, 1, .w1s, .any, false⟩ ∨
      g.Apart ⟨0, 1, .w1s, .any, false⟩ := fun g hg => (List.mem_cons.mp hg).imp_right (fun hm => .inl (hr.above g hm))
  have set := sets.writeFields (v := setBitsAt v 0 1 1) (old := s.word a) apart List.mem_cons_self
  have one : bitsAt (setBitsAt v 0 1 1) 0 1 = 1 := bitsAt_setBitsAt v 0 1 1 (by decide)
  have held : bitsAt (s.word a) 0 1 < 2 := bitsAt_lt _ _ _
  simp only [State.is, State.get, State.store, row, fields, State.word_setWord, maskWrite_allBits, set, one]
  interval_cases bitsAt (s.word a) 0 1 <;> rfl

/-- A write of 1 to a request bit, taken at once: the bit reads 1 and nothing else changes. -/
theorem RequestReg.writes (hr : RequestReg a fs) {s : State} {h : Nat} {c : Instr} {v : Word} (ready : s.Ready h)
    (step : exec c s = .next (s.takeWrite h a (setBitsAt v 0 1 1) false (fun s => s.store a (setBitsAt v 0 1 1) allBits))) :
    s.Writes h c [a] [] (fun t => t.is ⟨a, 0, 1⟩ = true) :=
  State.writes_of_taken ready step (fun t _ =>
    ⟨(t.frame_store a _ allBits).mono (fun _ => id) (by simp), hr.is_store t v⟩)

end

theorem requestReg_cmpLyrCommit : ∀ c < 16, ∀ i < 64, RequestReg (R.cmpLyrCommit c i) [] := by
  have row : ∀ c < 16, ∀ i < 64, (findReg (R.cmpLyrCommit c i)).map RegRow.fields = some [⟨0, 1, .w1s, .any, false⟩] := by
    decide +kernel
  exact fun c hc i hi => ⟨row c hc i hi, by simp⟩

theorem requestReg_cmpChlCommit : ∀ c < 16, ∀ m < 16, RequestReg (R.cmpChlCommit c m)
    [⟨1, 1, .w1c, .any, false⟩, ⟨4, 4, .ro, .any, false⟩, ⟨8, 6, .ro, .any, false⟩] := by
  have row : ∀ c < 16, ∀ m < 16, (findReg (R.cmpChlCommit c m)).map RegRow.fields = some
      [⟨0, 1, .w1s, .any, false⟩, ⟨1, 1, .w1c, .any, false⟩, ⟨4, 4, .ro, .any, false⟩, ⟨8, 6, .ro, .any, false⟩] := by
    decide +kernel
  exact fun c hc m hm => ⟨row c hc m hm, by simp⟩

theorem requestReg_cmpCoefLoad : ∀ c < 16, RequestReg (R.cmpCoefLoad c)
    [⟨4, 3, .ro, .any, false⟩, ⟨8, 6, .ro, .any, false⟩] := by
  have row : ∀ c < 16, (findReg (R.cmpCoefLoad c)).map RegRow.fields = some
      [⟨0, 1, .w1s, .any, false⟩, ⟨4, 3, .ro, .any, false⟩, ⟨8, 6, .ro, .any, false⟩] := by
    decide +kernel
  exact fun c hc => ⟨row c hc, by simp⟩

theorem requestReg_cmpLutLoad : ∀ c < 16, RequestReg (R.cmpLutLoad c) [⟨4, 3, .ro, .any, false⟩] := by
  have row : ∀ c < 16, (findReg (R.cmpLutLoad c)).map RegRow.fields = some
      [⟨0, 1, .w1s, .any, false⟩, ⟨4, 3, .ro, .any, false⟩] := by
    decide +kernel
  exact fun c hc => ⟨row c hc, by simp⟩

/-! The contexts of the compositors -/

section
variable {s t : State} {q : List Nat} {m : List Part}

theorem State.Frame.setCmp {c : Nat} {x : Cmp} (h : s.Frame t q m) (hc : .cmps ∈ m) : s.Frame (t.setCmp c x) q m :=
  h.part hc rfl (fun p hp => by cases p <;> simp_all [State.Same, State.setCmp])

theorem State.Frame.cmpr (h : s.Frame t q m) (hc : .cmps ∉ m) (c : Nat) : t.cmpr c = s.cmpr c := by
  simp only [State.cmpr, show t.cmps = s.cmps from h.2 .cmps hc]

theorem State.Taken.cmpr {h a : Nat} {v : Word} (taken : s.Taken t h a v) (c : Nat) : t.cmpr c = s.cmpr c :=
  taken.frame.cmpr (by simp [takingParts]) c

end

section
variable (s : State) (c : Nat) (x : Cmp)

@[simp] theorem State.cmpr_setCmp : (s.setCmp c x).cmpr c = x := by
  simp [State.cmpr, State.setCmp]

theorem State.cmpr_setCmp_ne {d : Nat} (h : d ≠ c) : (s.setCmp c x).cmpr d = s.cmpr d := by
  simp only [State.cmpr, State.setCmp, Tab.get_put_ne _ _ _ _ h.symm]

@[simp] theorem State.get_setCmp (g : Fld) : (s.setCmp c x).get g = s.get g := rfl

end

/-! Selections (R237, R239) -/

theorem findReg_cmpCoefSel : ∀ c < 16, findReg (R.cmpCoefSel c) = some ⟨R.cmpCoefSel 0, (0x10000, 16), (4, 1),
    [⟨0, 4, .rw, .any, false⟩, ⟨4, 2, .rw, .any, false⟩]⟩ := by
  decide +kernel

theorem findReg_cmpLutSel : ∀ c < 16, findReg (R.cmpLutSel c) = some ⟨R.cmpLutSel 0, (0x10000, 16), (4, 1),
    [⟨0, 5, .rw, .any, false⟩, ⟨5, 1, .rw, .any, false⟩]⟩ := by
  decide +kernel

section
variable (s : State) {c : Nat} (hc : c < 16) (v : Word)
include hc

/-- A write of CMP_COEF_SEL stores the set and its taps code. -/
theorem State.get_store_cmpCoefSel : (s.store (R.cmpCoefSel c) v allBits).get (F.cmpCoefSelSet c) = bitsAt v 0 4
    ∧ (s.store (R.cmpCoefSel c) v allBits).get (F.cmpCoefSelTaps c) = bitsAt v 4 2 :=
  ⟨State.get_store (f := ⟨0, 4, .rw, .any, false⟩) (findReg_cmpCoefSel c hc) ⟨rfl, rfl, by decide⟩ (by simp) (by decide)
      (by decide),
    State.get_store (f := ⟨4, 2, .rw, .any, false⟩) (findReg_cmpCoefSel c hc) ⟨rfl, rfl, by decide⟩ (by simp) (by decide)
      (by decide)⟩

/-- A write of CMP_LUT_SEL stores the slot and the type of its table. -/
theorem State.get_store_cmpLutSel : (s.store (R.cmpLutSel c) v allBits).get (F.cmpLutSelSlot c) = bitsAt v 0 5
    ∧ (s.store (R.cmpLutSel c) v allBits).get (F.cmpLutSelPost c) = bitsAt v 5 1 :=
  ⟨State.get_store (f := ⟨0, 5, .rw, .any, false⟩) (findReg_cmpLutSel c hc) ⟨rfl, rfl, by decide⟩ (by simp) (by decide)
      (by decide),
    State.get_store (f := ⟨5, 1, .rw, .any, false⟩) (findReg_cmpLutSel c hc) ⟨rfl, rfl, by decide⟩ (by simp) (by decide)
      (by decide)⟩

end

/-! Staging (R237, R239) -/

section
variable {s : State} {h c : Nat} {k : Instr} {v : Word} {x : Cmp → Cmp}

/-- A write, taken at once, that stores all bits of a register and changes the context of compositor c. -/
theorem State.writes_of_store_setCmp {a : Nat} {P : State → Prop} (ready : s.Ready h)
    (step : exec k s = .next (s.takeWrite h a v false (fun s => (s.store a v allBits).setCmp c (x (s.cmpr c)))))
    (hp : ∀ t : State, P ((t.store a v allBits).setCmp c (x (s.cmpr c)))) : s.Writes h k [a] [.cmps] P :=
  State.writes_of_taken ready step (fun t taken =>
    ⟨((t.frame_store a v allBits).mono (fun _ => id) (by simp)).setCmp (by simp), taken.cmpr c ▸ hp t⟩)

/-- A write, taken at once, that changes the context of compositor c and no register. -/
theorem State.writes_of_setCmp {a : Nat} (ready : s.Ready h)
    (step : exec k s = .next (s.takeWrite h a v false (fun s => s.setCmp c (x (s.cmpr c))))) :
    s.Writes h k [] [.cmps] (fun t => t.cmpr c = x (s.cmpr c) ∧ ∀ d, d ≠ c → t.cmpr d = s.cmpr d) :=
  State.writes_of_taken ready step (fun t taken =>
    ⟨(State.Frame.refl t _ _).setCmp (by simp), by rw [State.cmpr_setCmp, taken.cmpr],
      fun d hd => (t.cmpr_setCmp_ne c _ hd).trans (taken.cmpr d)⟩)

end

section
variable {s : State} {h c : Nat} (ready : s.Ready h) (hc : c < 16) (v : Word)
include ready hc

theorem State.coefSelect_writes : s.Writes h (.coefSelect h c v) [R.cmpCoefSel c] [.cmps] (fun t =>
    t.get (F.cmpCoefSelSet c) = bitsAt v 0 4 ∧ t.get (F.cmpCoefSelTaps c) = bitsAt v 4 2 ∧ (t.cmpr c).stage = []
      ∧ (t.cmpr c).coef = (s.cmpr c).coef) := by
  refine State.writes_of_store_setCmp (v := v) (c := c) (x := fun x => { x with stage := [] }) ready
    (by simp only [exec, execCoefSelect, Nat.mod_eq_of_lt hc]; rfl) (fun t => ?_)
  obtain ⟨set, taps⟩ := t.get_store_cmpCoefSel hc v
  rw [State.get_setCmp, State.get_setCmp, State.cmpr_setCmp]
  exact ⟨set, taps, rfl, rfl⟩

theorem State.lutSelect_writes : s.Writes h (.lutSelect h c v) [R.cmpLutSel c] [.cmps] (fun t =>
    t.get (F.cmpLutSelSlot c) = bitsAt v 0 5 ∧ t.get (F.cmpLutSelPost c) = bitsAt v 5 1 ∧ (t.cmpr c).lstage = []
      ∧ (t.cmpr c).lut = (s.cmpr c).lut) := by
  refine State.writes_of_store_setCmp (v := v) (c := c) (x := fun x => { x with lstage := [] }) ready
    (by simp only [exec, execLutSelect, Nat.mod_eq_of_lt hc]; rfl) (fun t => ?_)
  obtain ⟨slot, post⟩ := t.get_store_cmpLutSel hc v
  rw [State.get_setCmp, State.get_setCmp, State.cmpr_setCmp]
  exact ⟨slot, post, rfl, rfl⟩

theorem State.coefDataWrite_writes : s.Writes h (.coefDataWrite h c v) [] [.cmps] (fun t =>
    (t.cmpr c).stage = (s.cmpr c).stage ++ [v] ∧ (t.cmpr c).coef = (s.cmpr c).coef ∧ ∀ d, d ≠ c → t.cmpr d = s.cmpr d) := by
  obtain ⟨t, step, frame, staged, others⟩ := State.writes_of_setCmp (k := .coefDataWrite h c v)
    (x := fun x => { x with stage := x.stage ++ [v] }) ready (by simp only [exec, execCoefDataWrite, Nat.mod_eq_of_lt hc]; rfl)
  exact ⟨t, step, frame, by rw [staged], by rw [staged], others⟩

theorem State.lutDataWrite_writes : s.Writes h (.lutDataWrite h c v) [] [.cmps] (fun t =>
    (t.cmpr c).lstage = (s.cmpr c).lstage ++ [bitsAt v 0 14] ∧ (t.cmpr c).lut = (s.cmpr c).lut
      ∧ ∀ d, d ≠ c → t.cmpr d = s.cmpr d) := by
  obtain ⟨t, step, frame, staged, others⟩ := State.writes_of_setCmp (k := .lutDataWrite h c v)
    (x := fun x => { x with lstage := x.lstage ++ [bitsAt v 0 14] }) ready
    (by simp only [exec, execLutDataWrite, Nat.mod_eq_of_lt hc]; rfl)
  exact ⟨t, step, frame, by rw [staged], by rw [staged], others⟩

end

/-- Settles O41 (R200, R237, R239). -/
theorem layerAndTableWrites : Obligations.LayerAndTableWrites := by
  intro s h c i n v ready hc hi hn
  exact ⟨(requestReg_cmpLyrCommit c hc i hi).writes (v := v) ready
      (by simp only [exec, execLayerCommit, Nat.mod_eq_of_lt hc, Nat.mod_eq_of_lt hi]),
    (requestReg_cmpChlCommit (n / 16) (by omega) (n % 16) (by omega)).writes (v := v) ready
      (by simp only [exec, execSetCommit, Nat.mod_eq_of_lt hn]),
    State.coefSelect_writes ready hc v, State.coefDataWrite_writes ready hc v,
    (requestReg_cmpCoefLoad c hc).writes (v := v) ready
      (by simp only [exec, execCoefLoad, State.writeCoefLoad, Nat.mod_eq_of_lt hc]),
    State.lutSelect_writes ready hc v, State.lutDataWrite_writes ready hc v,
    (requestReg_cmpLutLoad c hc).writes (v := v) ready
      (by simp only [exec, execLutLoad, State.writeLutLoad, Nat.mod_eq_of_lt hc])⟩

end Sys2Proof.Machine
end

