-- ==== Sys2Proof/Proofs/LoadChecks.lean ====
section
/-!
SUPPORT. Sys2Proof/Proofs/LoadChecks.lean: the checks of a coefficient set and of a table that wait to be loaded (R236 to R239);
the statement of O42 settled.
-/

namespace Sys2Proof.Machine

/-! A load that was checked -/

/-- The load request of register a was answered at a tick with result r. -/
structure State.Answered (t : State) (a r : Nat) : Prop where
  gone   : t.is ⟨a, 0, 1⟩ = false
  result : t.get ⟨a, 4, 3⟩ = r
  tick   : t.now % 1000 = 0

/-- The request of register a is taken at the next tick and its result r is shown. -/
def State.answer (s : State) (a r : Nat) : State := (s.tick.flag ⟨a, 0, 1⟩ false).put ⟨a, 4, 3⟩ r

section
variable {s t u : State} {a r : Nat}

theorem State.frame_answer (s : State) (a r : Nat) : s.Frame (s.answer a r) [a] [.now, .tim] :=
  ((s.frame_tick.mono (by simp) (fun _ => id)).flag (by simp)).put (by simp)

theorem State.answered_answer (s : State) (a : Nat) (hr : r < 8) : (s.answer a r).Answered a r where
  gone := by rw [State.answer, State.is_put_apart _ _ (.inr (.inl (by simp))), State.is_flag _ _ _ (by simp) rfl]
  result := by rw [State.answer, State.get_put _ _ _ (by simp)]; exact Nat.mod_eq_of_lt hr
  tick := s.tick_now

/-- A change of the bits above the result leaves the answer as it is. -/
theorem State.Answered.put (h : t.Answered a r) {f : Fld} (v : Nat) (above : 7 ≤ f.lo) : (t.put f v).Answered a r where
  gone := (State.is_put_apart _ _ (.inr (.inl (by simp; omega)))).trans h.gone
  result := (State.get_put_apart (g := ⟨a, 4, 3⟩) _ _ (.inr (.inl above))).trans h.result
  tick := by rw [State.put_now]; exact h.tick

theorem State.Answered.of_frame {q : List Nat} {m : List Part} (h : t.Answered a r) (f : t.Frame u q m) (ha : a ∉ q)
    (hn : .now ∉ m) : u.Answered a r where
  gone := (f.is _ ha).trans h.gone
  result := (f.get _ ha).trans h.result
  tick := by rw [f.now hn]; exact h.tick

end

theorem State.frame_loadResult (s : State) (c r slot : Nat) (table : Bool) :
    s.Frame (s.loadResult c r slot table) [R.selEvtOvf] [.arb] :=
  (State.Frame.refl s _ _).stateEv (by simp) (by simp)

/-- Two tests that agree below n find the same below n. -/
theorem any_range_congr {n : Nat} {p q : Nat → Bool} (h : ∀ i < n, p i = q i) :
    (List.range n).any p = (List.range n).any q := by
  rw [Bool.eq_iff_iff]
  simp only [List.any_eq_true, List.mem_range]
  exact exists_congr (fun i => and_congr_right (fun hi => by rw [h i hi]))

/-! Coefficient sets (R236 to R238) -/

/-- The first of 64 phases whose weights do not sum to 1,024. -/
def badPhase (ph : List (List Int)) : Option Nat := (List.range 64).find? (fun p => decide ((ph.getD p []).sum ≠ 1024))

theorem badPhase_eq_none {ph : List (List Int)} :
    badPhase ph = none ↔ (List.range 64).all (fun p => decide ((ph.getD p []).sum = 1024)) = true := by
  simp only [badPhase, List.find?_eq_none, List.all_eq_true, decide_eq_true_eq, not_not]

theorem badPhase_eq_some {ph : List (List Int)} {p : Nat} (h : badPhase ph = some p) : p < 64 ∧ (ph.getD p []).sum ≠ 1024 :=
  ⟨List.mem_range.mp (List.mem_of_find?_eq_some h), by simpa using List.find?_some h⟩

/-- The phases that are staged in compositor c, by the taps of its selection. -/
def State.stagedPhases (s : State) (c : Nat) : List (List Int) :=
  phasesOf (2 * (s.get (F.cmpCoefSelTaps c) + 1)) (s.cmpr c).stage

/-- What the check of a coefficient load finds: FIXED, BUSY, COUNT, SUM, or nothing. -/
def State.coefResult (s : State) (c : Nat) : Nat :=
  if s.get (F.cmpCoefSelSet c) ≤ 1 then 1
  else if s.coefBusy c (s.get (F.cmpCoefSelSet c)) then 2
  else if (s.cmpr c).stage.length ≠ 32 * (2 * (s.get (F.cmpCoefSelTaps c) + 1)) then 3
  else if (badPhase (s.stagedPhases c)).isSome then 4 else 0

/-- The phase that is shown with result r. -/
def State.shownPhase (s : State) (c r : Nat) : Nat := if Nat.beq r 4 then (badPhase (s.stagedPhases c)).getD 0 else 0

/-- The load of compositor c is answered with result r, and with the phase that fails. -/
def State.coefAnswer (s : State) (c r : Nat) : State :=
  (s.answer (R.cmpCoefLoad c) r).put (F.cmpCoefLoadPhase c) (s.shownPhase c r)

/-- Set v holds these phases of taps code `code`. -/
def State.coefLoaded (s : State) (c v code : Nat) (ph : List (List Int)) : State :=
  ((s.setCmp c { s.cmpr c with coef := Tab.put [] (s.cmpr c).coef v ph }).put (F.cmpCoefValidValid c)
    (s.get (F.cmpCoefValidValid c) ||| 2 ^ v)).setWord (R.cmpCoefTaps c) (setBitsAt (s.word (R.cmpCoefTaps c)) (2 * v) 2 code)

section
variable {s : State} {c : Nat}

theorem State.Frame.coefBusy {t : State} {m : List Part} (h : s.Frame t [R.cmpCoefLoad c] m) (ha : .act ∉ m) (v : Nat) :
    t.coefBusy c v = s.coefBusy c v := by
  have commit : ∀ i, (F.cmpLyrCommitCommit c i).addr ∉ [R.cmpCoefLoad c] := fun i => by
    simp only [F.cmpLyrCommitCommit, R.cmpLyrCommit, R.cmpCoefLoad, List.mem_singleton]; omega
  have scale : ∀ i, R.cmpLyrScl c i ∉ [R.cmpCoefLoad c] := fun i => by
    simp only [R.cmpLyrScl, R.cmpCoefLoad, List.mem_singleton]; omega
  refine any_range_congr (fun i _ => ?_)
  simp only [State.ais, h.aget ha, h.is (F.cmpLyrCommitCommit c i) (commit i), h.get (F.cmpLyrSclHset c i) (scale i),
    h.get (F.cmpLyrSclVset c i) (scale i)]

theorem State.coefCheck_eq (load : s.is (F.cmpCoefLoadLoad c) = true) : s.coefCheck c =
    ((s.coefAnswer c (s.coefResult c)).cond (Nat.beq (s.coefResult c) 0) (fun t => t.coefLoaded c
      (s.get (F.cmpCoefSelSet c)) (s.get (F.cmpCoefSelTaps c)) (s.stagedPhases c))).loadResult c (s.coefResult c)
        (s.get (F.cmpCoefSelSet c)) false := by
  have frame : s.Frame (s.tick.flag (F.cmpCoefLoadLoad c) false) [R.cmpCoefLoad c] [.now, .tim] :=
    (s.frame_tick.mono (by simp) (fun _ => id)).flag (by simp [F.cmpCoefLoadLoad])
  have sel : R.cmpCoefSel c ∉ [R.cmpCoefLoad c] := by simp [R.cmpCoefSel, R.cmpCoefLoad]
  have result : (if Nat.ble (s.get (F.cmpCoefSelSet c)) 1 then 1
      else if s.coefBusy c (s.get (F.cmpCoefSelSet c)) then 2
      else if !Nat.beq (s.cmpr c).stage.length (32 * (2 * (s.get (F.cmpCoefSelTaps c) + 1))) then 3
      else if (badPhase (s.stagedPhases c)).isSome then 4 else 0) = s.coefResult c := by
    simp [State.coefResult, nat_beq_eq]
  unfold State.stagedPhases badPhase at result
  simp only [State.coefCheck, load, if_true, frame.get (F.cmpCoefSelSet c) sel, frame.get (F.cmpCoefSelTaps c) sel,
    frame.cmpr (by simp), frame.coefBusy (by simp), result]
  rfl

/-- An answered load: the request is gone, the result and the failing phase are shown, and nothing else changed. -/
theorem State.frame_coefAnswer (s : State) (c r : Nat) : s.Frame (s.coefAnswer c r) [R.cmpCoefLoad c] [.now, .tim] :=
  (s.frame_answer _ r).put (by simp [F.cmpCoefLoadPhase])

theorem State.answered_coefAnswer (s : State) (c : Nat) {r : Nat} (hr : r < 8) :
    (s.coefAnswer c r).Answered (R.cmpCoefLoad c) r :=
  (s.answered_answer _ hr).put _ (by simp [F.cmpCoefLoadPhase])

/-- With result SUM the phase that is shown is one that does not sum to 1,024. -/
theorem State.phase_coefAnswer (s : State) (c : Nat) {p : Nat} (bad : badPhase (s.stagedPhases c) = some p) :
    (s.coefAnswer c 4).get (F.cmpCoefLoadPhase c) = p := by
  have small : p < 2 ^ 6 := (badPhase_eq_some bad).1
  rw [State.coefAnswer, State.get_put _ _ _ (by simp [F.cmpCoefLoadPhase]), State.shownPhase, bad]
  exact Nat.mod_eq_of_lt small

theorem State.frame_coefLoaded (s : State) (c v code : Nat) (ph : List (List Int)) :
    s.Frame (s.coefLoaded c v code ph) [R.cmpCoefValid c, R.cmpCoefTaps c] [.cmps] :=
  (((State.Frame.refl s _ _).setCmp (by simp)).put (by simp [F.cmpCoefValidValid])).setWord (by simp)

/-- From s to t, set v of compositor c has come to hold these phases and is valid, its taps code is shown, and no other set
changed. -/
structure State.SetLoaded (s t : State) (c v code : Nat) (ph : List (List Int)) : Prop where
  holds  : Tab.get [] (t.cmpr c).coef v = ph
  valid  : Nat.testBit (t.get (F.cmpCoefValidValid c)) v = true
  taps   : bitsAt (t.word (R.cmpCoefTaps c)) (2 * v) 2 = code
  others : ∀ w, w ≠ v → Tab.get [] (t.cmpr c).coef w = Tab.get [] (s.cmpr c).coef w

theorem State.setLoaded_coefLoaded (s : State) (c : Nat) {v code : Nat} (hv : v < 16) (hcode : code < 4) (ph : List (List Int)) :
    s.SetLoaded (s.coefLoaded c v code ph) c v code ph := by
  have coef : ((s.coefLoaded c v code ph).cmpr c).coef = Tab.put [] (s.cmpr c).coef v ph :=
    congrArg Cmp.coef (State.cmpr_setCmp s c _)
  have valid : (s.coefLoaded c v code ph).get (F.cmpCoefValidValid c) = (s.get (F.cmpCoefValidValid c) ||| 2 ^ v) % 2 ^ 16 :=
    (State.get_of_word _ (State.word_setWord_ne _ _ (by simp [F.cmpCoefValidValid, R.cmpCoefTaps, R.cmpCoefValid]))).trans
      (State.get_put _ _ _ (by simp [F.cmpCoefValidValid]))
  refine ⟨by rw [coef, Tab.get_put_same], ?_, ?_, fun w hw => by rw [coef, Tab.get_put_ne _ _ _ _ hw.symm]⟩
  · rw [valid, Nat.testBit_mod_two_pow, Nat.testBit_or, Nat.testBit_two_pow_self]
    simp [hv]
  · rw [State.coefLoaded, State.word_setWord, bitsAt_setBitsAt _ _ _ _ (by omega)]
    exact Nat.mod_eq_of_lt hcode

/-- What is not a set or its registers may change before and after the load of a set. -/
theorem State.SetLoaded.between {r t u : State} {v code : Nat} {ph : List (List Int)} {q : List Nat} {m : List Part}
    (h : s.SetLoaded t c v code ph) (before : r.Frame s q m) (hm : .cmps ∉ m) (after : t.Frame u [R.selEvtOvf] [.arb]) :
    r.SetLoaded u c v code ph where
  holds := by rw [after.cmpr (by simp)]; exact h.holds
  valid := by rw [after.get _ (by simp [F.cmpCoefValidValid, R.cmpCoefValid, R.selEvtOvf]; omega)]; exact h.valid
  taps := by rw [after.word (by simp [R.cmpCoefTaps, R.selEvtOvf]; omega)]; exact h.taps
  others := fun w hw => by rw [after.cmpr (by simp), ← before.cmpr hm]; exact h.others w hw

theorem State.coefResult_lt (s : State) (c : Nat) : s.coefResult c < 8 := by
  unfold State.coefResult
  split_ifs <;> decide

variable (load : s.is (F.cmpCoefLoadLoad c) = true)
include load

/-- After the answer the check changes the set, where it is loaded, and sends its event. -/
theorem State.frame_coefChecked : (s.coefAnswer c (s.coefResult c)).Frame (s.coefCheck c)
    [R.cmpCoefValid c, R.cmpCoefTaps c, R.selEvtOvf] [.arb, .cmps] := by
  rw [State.coefCheck_eq load]
  exact ((State.Frame.refl _ _ _).cond (fun u hu => hu.andThen (u.frame_coefLoaded ..) (by simp) (by simp))).andThen
    (State.frame_loadResult ..) (by simp) (by simp)

theorem State.coefCheck_answered : (s.coefCheck c).Answered (R.cmpCoefLoad c) (s.coefResult c) :=
  (s.answered_coefAnswer c (s.coefResult_lt c)).of_frame (State.frame_coefChecked load)
    (by simp [R.cmpCoefLoad, R.cmpCoefValid, R.cmpCoefTaps, R.selEvtOvf]; omega) (by simp)

theorem State.coefCheck_phase {p : Nat} (sum : s.coefResult c = 4) (bad : badPhase (s.stagedPhases c) = some p) :
    (s.coefCheck c).get (F.cmpCoefLoadPhase c) = p := by
  rw [(State.frame_coefChecked load).get _
    (by simp [F.cmpCoefLoadPhase, R.cmpCoefLoad, R.cmpCoefValid, R.cmpCoefTaps, R.selEvtOvf]; omega), sum]
  exact s.phase_coefAnswer c bad

/-- A load that is refused leaves the sets as they were. -/
theorem State.coefCheck_keeps (refused : s.coefResult c ≠ 0) : (s.coefCheck c).cmpr c = s.cmpr c
    ∧ (s.coefCheck c).word (R.cmpCoefValid c) = s.word (R.cmpCoefValid c)
    ∧ (s.coefCheck c).word (R.cmpCoefTaps c) = s.word (R.cmpCoefTaps c) := by
  rw [State.coefCheck_eq load, nat_beq_eq, decide_eq_false refused, State.cond_false]
  have frame := ((s.frame_coefAnswer c (s.coefResult c)).mono (q := [R.cmpCoefLoad c, R.selEvtOvf]) (m := [.now, .tim, .arb])
    (by simp) (by simp)).andThen (State.frame_loadResult _ c (s.coefResult c) (s.get (F.cmpCoefSelSet c)) false) (by simp) (by simp)
  exact ⟨frame.cmpr (by simp) c, frame.word (by simp [R.cmpCoefValid, R.cmpCoefLoad, R.selEvtOvf]; omega),
    frame.word (by simp [R.cmpCoefTaps, R.cmpCoefLoad, R.selEvtOvf]; omega)⟩

/-- A load with no fault: the selected set holds the staged phases. -/
theorem State.coefCheck_loads (good : s.coefResult c = 0) :
    s.SetLoaded (s.coefCheck c) c (s.get (F.cmpCoefSelSet c)) (s.get (F.cmpCoefSelTaps c)) (s.stagedPhases c) := by
  rw [State.coefCheck_eq load, good]
  exact ((s.coefAnswer c 0).setLoaded_coefLoaded c (bitsAt_lt _ 0 4) (bitsAt_lt _ 4 2) (s.stagedPhases c)).between
    (s.frame_coefAnswer c 0) (by simp) (State.frame_loadResult ..)

end

/-! Tables (R238, R239) -/

/-- What the check of a table load finds: BUSY, COUNT, RANGE, or nothing. -/
def State.lutResult (s : State) (c : Nat) : Nat :=
  if s.lutBusy c (s.get (F.cmpLutSelSlot c)) then 2
  else if (s.cmpr c).lstage.length ≠ 771 then 3
  else if s.is (F.cmpLutSelPost c) = true ∧ ∃ x, x ∈ (s.cmpr c).lstage ∧ 1023 < x then 5 else 0

/-- Slot v holds these points, as a post-blend table or not. -/
def State.lutLoaded (s : State) (c v : Nat) (post : Bool) (l : List Nat) : State :=
  ((s.setCmp c { s.cmpr c with lut := Tab.put [] (s.cmpr c).lut v l }).put (F.cmpLutValidValid c)
    (s.get (F.cmpLutValidValid c) ||| 2 ^ v)).setWord (R.cmpLutType c)
      (setBitsAt (s.word (R.cmpLutType c)) v 1 (if post then 1 else 0))

section
variable {s : State} {c : Nat}

theorem State.Frame.lutBusy {t : State} {m : List Part} (h : s.Frame t [R.cmpLutLoad c] m) (ha : .act ∉ m) (v : Nat) :
    t.lutBusy c v = s.lutBusy c v := by
  have commit : ∀ i, (F.cmpLyrCommitCommit c i).addr ∉ [R.cmpLutLoad c] := fun i => by
    simp only [F.cmpLyrCommitCommit, R.cmpLyrCommit, R.cmpLutLoad, List.mem_singleton]; omega
  have pre : ∀ i, R.cmpLyrPre c i ∉ [R.cmpLutLoad c] := fun i => by
    simp only [R.cmpLyrPre, R.cmpLutLoad, List.mem_singleton]; omega
  have out : ∀ i < 16, R.cmpChlOut c i ∉ [R.cmpLutLoad c] := fun i hi => by
    simp only [R.cmpChlOut, R.cmpLutLoad, List.mem_singleton]; omega
  refine congrArg₂ or (any_range_congr (fun i _ => ?_)) (any_range_congr (fun i hi => ?_))
  · simp only [State.ais, h.aget ha, h.is (F.cmpLyrCommitCommit c i) (commit i), h.is (F.cmpLyrPreEn c i) (pre i),
      h.get (F.cmpLyrPreSlot c i) (pre i)]
  · simp only [State.ais, h.aget ha, h.is (F.cmpChlOutPostEn c i) (out i hi), h.get (F.cmpChlOutPost c i) (out i hi)]

theorem State.lutCheck_eq (load : s.is (F.cmpLutLoadLoad c) = true) : s.lutCheck c =
    ((s.answer (R.cmpLutLoad c) (s.lutResult c)).cond (Nat.beq (s.lutResult c) 0) (fun t => t.lutLoaded c
      (s.get (F.cmpLutSelSlot c)) (s.is (F.cmpLutSelPost c)) (s.cmpr c).lstage)).loadResult c (s.lutResult c)
        (s.get (F.cmpLutSelSlot c)) true := by
  have frame : s.Frame (s.tick.flag (F.cmpLutLoadLoad c) false) [R.cmpLutLoad c] [.now, .tim] :=
    (s.frame_tick.mono (by simp) (fun _ => id)).flag (by simp [F.cmpLutLoadLoad])
  have sel : R.cmpLutSel c ∉ [R.cmpLutLoad c] := by simp [R.cmpLutSel, R.cmpLutLoad]
  have result : (if s.lutBusy c (s.get (F.cmpLutSelSlot c)) then 2 else if !Nat.beq (s.cmpr c).lstage.length 771 then 3
      else if s.is (F.cmpLutSelPost c) && (s.cmpr c).lstage.any (fun x => Nat.blt 1023 x) then 5 else 0) = s.lutResult c := by
    simp [State.lutResult, nat_beq_eq]
  simp only [State.lutCheck, load, if_true, frame.get (F.cmpLutSelSlot c) sel, frame.is (F.cmpLutSelPost c) sel,
    frame.cmpr (by simp), frame.lutBusy (by simp), result]
  rfl

theorem State.frame_lutLoaded (s : State) (c v : Nat) (post : Bool) (l : List Nat) :
    s.Frame (s.lutLoaded c v post l) [R.cmpLutValid c, R.cmpLutType c] [.cmps] :=
  (((State.Frame.refl s _ _).setCmp (by simp)).put (by simp [F.cmpLutValidValid])).setWord (by simp)

/-- Slot v of compositor c holds these points and is valid, and its type is shown. -/
structure State.SlotLoaded (t : State) (c v : Nat) (post : Bool) (l : List Nat) : Prop where
  holds : Tab.get [] (t.cmpr c).lut v = l
  valid : Nat.testBit (t.get (F.cmpLutValidValid c)) v = true
  type  : Nat.testBit (t.get (F.cmpLutTypePost c)) v = post

theorem State.slotLoaded_lutLoaded (s : State) (c : Nat) {v : Nat} (hv : v < 32) (post : Bool) (l : List Nat) :
    (s.lutLoaded c v post l).SlotLoaded c v post l := by
  have valid : (s.lutLoaded c v post l).get (F.cmpLutValidValid c) = (s.get (F.cmpLutValidValid c) ||| 2 ^ v) % 2 ^ 32 :=
    (State.get_of_word _ (State.word_setWord_ne _ _ (by simp [F.cmpLutValidValid, R.cmpLutType, R.cmpLutValid]))).trans
      (State.get_put _ _ _ (by simp [F.cmpLutValidValid]))
  refine ⟨(congrArg (fun x => Tab.get [] (Cmp.lut x) v) (State.cmpr_setCmp s c _)).trans (Tab.get_put_same _ _ _ _), ?_, ?_⟩
  · rw [valid, Nat.testBit_mod_two_pow, Nat.testBit_or, Nat.testBit_two_pow_self]
    simp [hv]
  · rw [State.get, F.cmpLutTypePost, State.lutLoaded, State.word_setWord, testBit_bitsAt, testBit_setBitsAt]
    cases post <;> simp [hv]

/-- What is not a table or its registers may change after the load of a table. -/
theorem State.SlotLoaded.of_frame {t u : State} {v : Nat} {post : Bool} {l : List Nat} (h : t.SlotLoaded c v post l)
    (after : t.Frame u [R.selEvtOvf] [.arb]) : u.SlotLoaded c v post l where
  holds := by rw [after.cmpr (by simp)]; exact h.holds
  valid := by rw [after.get _ (by simp [F.cmpLutValidValid, R.cmpLutValid, R.selEvtOvf]; omega)]; exact h.valid
  type := by rw [after.get _ (by simp [F.cmpLutTypePost, R.cmpLutType, R.selEvtOvf]; omega)]; exact h.type

theorem State.lutResult_lt (s : State) (c : Nat) : s.lutResult c < 8 := by
  unfold State.lutResult
  split_ifs <;> decide

variable (load : s.is (F.cmpLutLoadLoad c) = true)
include load

/-- After the answer the check changes the slot, where it is loaded, and sends its event. -/
theorem State.frame_lutChecked : (s.answer (R.cmpLutLoad c) (s.lutResult c)).Frame (s.lutCheck c)
    [R.cmpLutValid c, R.cmpLutType c, R.selEvtOvf] [.arb, .cmps] := by
  rw [State.lutCheck_eq load]
  exact ((State.Frame.refl _ _ _).cond (fun u hu => hu.andThen (u.frame_lutLoaded ..) (by simp) (by simp))).andThen
    (State.frame_loadResult ..) (by simp) (by simp)

theorem State.lutCheck_answered : (s.lutCheck c).Answered (R.cmpLutLoad c) (s.lutResult c) :=
  (s.answered_answer _ (s.lutResult_lt c)).of_frame (State.frame_lutChecked load)
    (by simp [R.cmpLutLoad, R.cmpLutValid, R.cmpLutType, R.selEvtOvf]; omega) (by simp)

/-- A load that is refused leaves the tables as they were. -/
theorem State.lutCheck_keeps (refused : s.lutResult c ≠ 0) : (s.lutCheck c).cmpr c = s.cmpr c
    ∧ (s.lutCheck c).word (R.cmpLutValid c) = s.word (R.cmpLutValid c)
    ∧ (s.lutCheck c).word (R.cmpLutType c) = s.word (R.cmpLutType c) := by
  rw [State.lutCheck_eq load, nat_beq_eq, decide_eq_false refused, State.cond_false]
  have frame := ((s.frame_answer (R.cmpLutLoad c) (s.lutResult c)).mono (q := [R.cmpLutLoad c, R.selEvtOvf])
    (m := [.now, .tim, .arb]) (by simp) (by simp)).andThen
      (State.frame_loadResult _ c (s.lutResult c) (s.get (F.cmpLutSelSlot c)) true) (by simp) (by simp)
  exact ⟨frame.cmpr (by simp) c, frame.word (by simp [R.cmpLutValid, R.cmpLutLoad, R.selEvtOvf]; omega),
    frame.word (by simp [R.cmpLutType, R.cmpLutLoad, R.selEvtOvf]; omega)⟩

/-- A load with no fault: the selected slot holds the staged points. -/
theorem State.lutCheck_loads (good : s.lutResult c = 0) :
    (s.lutCheck c).SlotLoaded c (s.get (F.cmpLutSelSlot c)) (s.is (F.cmpLutSelPost c)) (s.cmpr c).lstage := by
  rw [State.lutCheck_eq load, good]
  exact (State.slotLoaded_lutLoaded _ c (bitsAt_lt _ 0 5) _ _).of_frame (State.frame_loadResult ..)

end

/-- Settles O42 (R236, R237, R238, R239). -/
theorem coefficientAndTableLoads : Obligations.CoefficientAndTableLoads := by
  refine fun s c hc => ⟨fun load => ?_, fun load => ?_⟩
  · obtain ⟨gone, result, tick⟩ := State.coefCheck_answered load
    refine ⟨s.coefCheck c, by simp only [exec, execCoefLoadCheck, Nat.mod_eq_of_lt hc],
      ((s.frame_coefAnswer c _).mono (by simp) (by simp)).andThen (State.frame_coefChecked load) (by simp) (by simp),
      gone, tick, ?_⟩
    intro v n ph kept
    have refused : ∀ r, s.coefResult c = r → r ≠ 0 → (s.coefCheck c).get (F.cmpCoefLoadResult c) = r ∧ kept :=
      fun r hr h0 => ⟨result.trans hr, State.coefCheck_keeps load (hr ▸ h0)⟩
    split_ifs with fixed busy count sums
    · exact refused 1 (if_pos fixed) (by decide)
    · exact refused 2 ((if_neg fixed).trans (if_pos busy)) (by decide)
    · exact refused 3 ((if_neg fixed).trans ((if_neg busy).trans (if_pos count))) (by decide)
    · have none : badPhase (s.stagedPhases c) = none := badPhase_eq_none.mpr sums
      have good : s.coefResult c = 0 :=
        (if_neg fixed).trans ((if_neg busy).trans ((if_neg count).trans (if_neg (by simp [none]))))
      obtain ⟨holds, valid, taps, others⟩ := State.coefCheck_loads load good
      exact ⟨result.trans good, holds, valid, taps, others⟩
    · obtain ⟨p, bad⟩ := Option.ne_none_iff_exists'.mp (fun none => sums (badPhase_eq_none.mp none))
      have sum : s.coefResult c = 4 :=
        (if_neg fixed).trans ((if_neg busy).trans ((if_neg count).trans (if_pos (Option.isSome_of_eq_some bad))))
      obtain ⟨four, kept⟩ := refused 4 sum (by decide)
      exact ⟨four, kept, State.coefCheck_phase load sum bad ▸ (badPhase_eq_some bad).2⟩
  · obtain ⟨gone, result, tick⟩ := State.lutCheck_answered load
    refine ⟨s.lutCheck c, by simp only [exec, execLutLoadCheck, Nat.mod_eq_of_lt hc],
      ((s.frame_answer _ _).mono (by simp) (by simp)).andThen (State.frame_lutChecked load) (by simp) (by simp),
      gone, tick, ?_⟩
    intro v l kept
    have refused : ∀ r, s.lutResult c = r → r ≠ 0 → (s.lutCheck c).get (F.cmpLutLoadResult c) = r ∧ kept :=
      fun r hr h0 => ⟨result.trans hr, State.lutCheck_keeps load (hr ▸ h0)⟩
    split_ifs with busy count range
    · exact refused 2 (if_pos busy) (by decide)
    · exact refused 3 ((if_neg busy).trans (if_pos count)) (by decide)
    · exact refused 5 ((if_neg busy).trans ((if_neg count).trans (if_pos range))) (by decide)
    · have good : s.lutResult c = 0 := (if_neg busy).trans ((if_neg count).trans (if_neg range))
      obtain ⟨holds, valid, type⟩ := State.lutCheck_loads load good
      exact ⟨result.trans good, holds, valid, type⟩

end Sys2Proof.Machine
end

