-- ==== Sys2Proof/Proofs/EncodedRows.lean ====
section
/-!
SUPPORT. Sys2Proof/Proofs/EncodedRows.lean: a row of a picture while it is composed, searched, coded, packed and repaired (R227,
R250, R253, R278, R418); the statement of O51 settled.
-/

namespace Sys2Proof.Machine

/-! Frames -/

section
variable {s t : State} {q : List Nat} {m : List Part}

theorem State.Frame.setEng {e : Nat} {x : Eng} (h : s.Frame t q m) (he : .engs ∈ m) : s.Frame (t.setEng e x) q m :=
  h.part he rfl (fun p hp => by cases p <;> simp_all [State.Same])

theorem State.Frame.updEng {e : Nat} {f : Eng → Eng} (h : s.Frame t q m) (he : .engs ∈ m) : s.Frame (t.updEng e f) q m :=
  h.setEng he

theorem State.Frame.setBob {b : BobSt} (h : s.Frame t q m) (hb : .bob ∈ m) : s.Frame { t with bob := b } q m :=
  h.part hb rfl (fun p hp => by cases p <;> simp_all [State.Same])

theorem State.Frame.showDepth {x : Nat} (h : s.Frame t q m) (hx : R.bobExQ x ∈ q) : s.Frame (t.showDepth x) q m :=
  (h.put hx).peak hx

theorem State.Frame.addBusy {e dt : Nat} (h : s.Frame t q m) (he : .engs ∈ m) (hl : R.encLoad e ∈ q) :
    s.Frame (t.addBusy e dt) q m :=
  ((h.setEng he).put hl).ite (h.setEng he)

/-- An engine whose front end is freed changes the scheduler, its busy time and ENC_LOAD only. -/
theorem State.Frame.freeEngine {e : Nat} (h : s.Frame t q m) (hb : .bob ∈ m) (he : .engs ∈ m) (hl : R.encLoad e ∈ q) :
    s.Frame (t.freeEngine e) q m := by
  unfold State.freeEngine
  split
  · exact ((h.release hb).addBusy he hl).put hl
  · exact h

theorem State.Frame.row (h : s.Frame t q m) (hc : .chans ∉ m) (n k j : Nat) : t.row n k j = s.row n k j := by
  simp only [State.row, h.chan hc]

theorem State.Frame.bob (h : s.Frame t q m) (hb : .bob ∉ m) : t.bob = s.bob := h.2 .bob hb

theorem State.Frame.mode (h : s.Frame t q m) (hm : R.sysMode ∉ q) : t.mode = s.mode := h.get F.sysModeMode hm

theorem State.Frame.modeIn (h : s.Frame t q m) (hm : R.sysMode ∉ q) (l : List Nat) : t.modeIn l = s.modeIn l := by
  simp only [State.modeIn, h.mode hm]

end

/-- A value that spans two registers reads as before when another register is set. -/
theorem State.get64_put_ne (s : State) {f : Fld} {lo hi : Nat} (v : Nat) (hlo : f.addr ≠ lo) (hhi : f.addr ≠ hi) :
    (s.put f v).get64 lo hi = s.get64 lo hi := by
  simp only [State.get64, State.word_put_ne _ _ hlo, State.word_put_ne _ _ hhi]

@[simp] theorem State.get_setBob (s : State) (b : BobSt) (g : Fld) : ({ s with bob := b } : State).get g = s.get g := rfl

theorem State.cond_true (s : State) (f : State → State) : s.cond true f = f s := rfl

theorem State.each_singleton {α : Type} (s : State) (x : α) (f : State → α → State) : s.each [x] f = f s x := rfl

/-! Tasks -/

/-- From s to t the task y was created and stands last on its list, for a credit of its type (R427). -/
structure State.Created (s t : State) (y : Task) : Prop where
  frame  : s.Frame t [R.bobCred y.typ, R.bobExQ y.list] [.bob]
  tasks  : t.bob.tasks = s.bob.tasks ++ [{ y with seq := s.bob.next }]
  run    : t.bob.run = s.bob.run
  credit : t.get (F.bobCredFree y.typ) = s.get (F.bobCredFree y.typ) - 1

theorem State.bob_showDepth (s : State) (x : Nat) : (s.showDepth x).bob = s.bob := by
  simp only [State.showDepth, State.peak_bob, State.put_bob]

/-- Outside SAFE and RECOVER a task is created while a credit of its type is free (R425, R427). -/
theorem State.created_create {s : State} {y : Task} (typ : y.typ < 7) (mode : s.modeIn [Mode.safe, Mode.recover] = false)
    (free : s.get (F.bobCredFree y.typ) ≠ 0) : s.Created (s.create y).1 y := by
  have some : Nat.beq (s.get (F.bobCredFree y.typ)) 0 = false := by rw [nat_beq_eq, decide_eq_false free]
  have small : s.get (F.bobCredFree y.typ) - 1 < 2 ^ 16 := Nat.lt_of_le_of_lt (Nat.sub_le _ _) (bitsAt_lt _ 16 16)
  simp only [State.create, mode, some, Bool.and_false, Bool.false_eq_true, if_false]
  refine ⟨(((State.Frame.refl s _ _).put (by simp [F.bobCredFree])).setBob (by simp)).showDepth (by simp), ?_, ?_, ?_⟩
  · rw [State.bob_showDepth]; rfl
  · rw [State.bob_showDepth]; rfl
  · have apart : R.bobExQ y.list ≠ (F.bobCredFree y.typ).addr := by simp only [R.bobExQ, F.bobCredFree, R.bobCred]; omega
    rw [State.showDepth, State.peak, State.get_put_apart _ _ (.inl apart), State.get_put_apart _ _ (.inl apart),
      State.get_setBob, State.get_put _ _ _ (by simp [F.bobCredFree])]
    exact Nat.mod_eq_of_lt small

/-- What an executor runs stands in the list of running tasks with the instant of its dispatch. -/
theorem State.run_of_running {s : State} {e : Nat} {q : Task} (h : s.running e = some q) :
    ∃ i t0, s.bob.run.find? (fun r => Nat.beq r.1 e) = some (i, q, t0) := by
  unfold State.running at h
  split at h
  · next r found => exact ⟨r.1, r.2.2, found.trans (by cases h; rfl)⟩
  · cases h

/-! Channel contexts at work -/

/-- Context d is context c but for what its rows hold and what motion search has reported of them. -/
structure Chan.Keeps (c d : Chan) : Prop where
  placed : d.placed = c.placed
  rc     : d.rc = c.rc
  keys   : d.rows.map (fun y => (y.k, y.j)) = c.rows.map (fun y => (y.k, y.j))

/-- From s to t no context changes but for what its rows hold and what motion search has reported of them, no context changes
its engines, and no channel its state. -/
structure State.KeepsCoding (s t : State) : Prop where
  chan : ∀ m, (s.chan m).Keeps (t.chan m)
  act  : t.act = s.act
  stat : ∀ m, t.word (R.chnStat m) = s.word (R.chnStat m)
  dup  : ∀ m, t.word (R.chnDupStat m) = s.word (R.chnDupStat m)

theorem Chan.Keeps.refl (c : Chan) : c.Keeps c := ⟨rfl, rfl, rfl⟩

section
variable {s t u : State}

theorem State.KeepsCoding.trans (h : s.KeepsCoding t) (g : t.KeepsCoding u) : s.KeepsCoding u where
  chan m := ⟨(g.chan m).placed.trans (h.chan m).placed, (g.chan m).rc.trans (h.chan m).rc, (g.chan m).keys.trans (h.chan m).keys⟩
  act := g.act.trans h.act
  stat m := (g.stat m).trans (h.stat m)
  dup m := (g.dup m).trans (h.dup m)

/-- Registers and parts that no context rests on may change. -/
theorem State.Frame.keepsCoding {q : List Nat} {m : List Part} (h : s.Frame t q m) (hc : .chans ∉ m) (ha : .act ∉ m)
    (stat : ∀ n, R.chnStat n ∉ q) (dup : ∀ n, R.chnDupStat n ∉ q) : s.KeepsCoding t :=
  ⟨fun n => by rw [h.chan hc]; exact .refl _, h.2 .act ha, fun n => h.word (stat n), fun n => h.word (dup n)⟩

theorem State.keepsCoding_setChan {n : Nat} {d : Chan} (h : (s.chan n).Keeps d) : s.KeepsCoding (s.setChan n d) where
  chan m := by
    by_cases hm : n = m
    · subst hm; rw [State.chan_setChan]; exact h
    · rw [State.chan_setChan_ne _ _ hm]; exact .refl _
  act := rfl
  stat _ := rfl
  dup _ := rfl

/-- A row that changes in its content. -/
theorem State.keepsCoding_updRow {n k j : Nat} {f : Row → Row} (hf : ∀ y : Row, (f y).k = y.k ∧ (f y).j = y.j) :
    s.KeepsCoding (s.updRow n k j f) :=
  State.keepsCoding_setChan ⟨rfl, rfl, by
    rw [List.map_map]
    refine List.map_congr_left (fun y _ => ?_)
    simp only [Function.comp_apply]
    split <;> simp [hf]⟩

variable (h : s.KeepsCoding t)
include h

theorem State.KeepsCoding.aget (f : Fld) : t.aget f = s.aget f := by simp only [State.aget, State.actWord, h.act]

theorem State.KeepsCoding.chState (m : Nat) : t.chState m = s.chState m := State.get_of_word _ (h.stat m)

theorem State.KeepsCoding.admitted (m : Nat) : t.admitted m = s.admitted m := by simp only [State.admitted, h.chState]

theorem State.KeepsCoding.leadOf (m : Nat) : t.leadOf m = s.leadOf m := by simp only [State.leadOf, h.admitted, h.aget]

theorem State.KeepsCoding.rc (m : Nat) : t.rc m = s.rc m := (h.chan m).rc

theorem State.KeepsCoding.finalOf (m k j : Nat) : t.finalOf m k j = s.finalOf m k j := by
  simp only [State.finalOf, State.qpFinal, h.rc]

theorem State.KeepsCoding.leadEng (m : Nat) : t.leadEng m = s.leadEng m := State.get_of_word _ (h.dup m)

theorem State.KeepsCoding.stbyValid (m : Nat) : t.is (F.chnDupStatStbyValid m) = s.is (F.chnDupStatStbyValid m) := by
  rw [State.is, State.get_of_word _ (h.dup m)]; rfl

theorem State.KeepsCoding.stby (m : Nat) : t.get (F.chnDupStatStby m) = s.get (F.chnDupStatStby m) :=
  State.get_of_word _ (h.dup m)

theorem State.KeepsCoding.stbyEng (m : Nat) : t.stbyEng m = s.stbyEng m := by
  simp only [State.stbyEng, h.stbyValid, h.stby]

theorem State.KeepsCoding.placedOn (e : Nat) : t.placedOn e = s.placedOn e := by
  simp only [State.placedOn, (h.chan _).placed, h.leadEng, h.stbyValid, h.stby]

end

/-! Final QPs -/

/-- No row of a context placed on engine e has its final QP (R250). -/
def State.NoneFinal (s : State) (e : Nat) : Prop :=
  ∀ m ∈ s.placedOn e, ∀ y ∈ (s.chan m).rows, s.finalOf (s.leadOf m) y.k y.j = none

theorem State.KeepsCoding.noneFinal {s t : State} {e : Nat} (h : s.KeepsCoding t) (none : s.NoneFinal e) : t.NoneFinal e := by
  intro m hm y hy
  rw [h.placedOn] at hm
  have key : (y.k, y.j) ∈ (s.chan m).rows.map (fun y => (y.k, y.j)) := (h.chan m).keys ▸ List.mem_map_of_mem hy
  obtain ⟨x, hx, same⟩ := List.mem_map.mp key
  obtain ⟨hk, hj⟩ := Prod.mk.inj same
  rw [h.finalOf, h.leadOf, ← hk, ← hj]
  exact none m hm x hx

/-- A back end takes no row that has no final QP (R250). -/
theorem State.NoneFinal.kickBack {s : State} {e : Nat} (none : s.NoneFinal e) : s.kickBack e = s := by
  unfold State.kickBack
  extract_lets rows
  have found : rows.find? (fun x => Nat.beq (x.2.1.side x.2.2).st 2
      && (s.finalOf (s.leadOf x.1) x.2.1.k x.2.1.j).isSome) = Option.none := by
    refine List.find?_eq_none.mpr (fun x hx => ?_)
    simp only [rows, List.mem_flatMap, List.mem_map] at hx
    obtain ⟨m, hm, y, hy, w, -, rfl⟩ := hx
    simp [none m hm y hy]
  rw [found]
  split <;> rfl

/-- Rate control takes no row of a picture that is not begun (R321). -/
theorem State.rcAdvance_of_later {s : State} {n k : Nat} (later : (s.rc n).pic < k) : s.rcAdvance n k = s := by
  have ahead : Nat.ble k (s.rc n).pic = false := by rw [Bool.eq_false_iff]; simpa using later
  exact State.foldl_fixed (fun j _ => by simp [ahead])

/-- The buffer of a composed picture is not read to its end by a row that is not its last. -/
theorem State.composedRead_of_not_last {s : State} {n k j : Nat} (last : j + 1 ≠ s.rows n) : s.composedRead n k j = s := by
  have other : Nat.beq (j + 1) (s.rows n) = false := by rw [nat_beq_eq, decide_eq_false last]
  unfold State.composedRead
  split
  · rw [other]; rfl
  · rfl

/-- Nor by a row that the lead's back end has not taken. -/
theorem State.composedRead_of_front {s : State} {n k j : Nat} {r : Row} (row : s.row n k j = some r) (front : r.lead.st < 3) :
    s.composedRead n k j = s := by
  have other : Nat.ble 3 r.lead.st = false := by rw [Bool.eq_false_iff]; simpa using front
  simp [State.composedRead, row, other]

/-! A row at work -/

/-- Channel n is its own only context and has row j of picture k at work with entry r, and its rate control is on an earlier
picture. -/
structure State.RowAtWork (s : State) (n k j : Nat) (r : Row) : Prop where
  strips : s.strips n = [n]
  lead   : s.leadOf n = n
  row    : s.row n k j = some r
  later  : (s.rc n).pic < k

/-! Packing and repair (R253, R278, R418) -/

/-- A row whose last byte is in the pacing buffer is ready, unless it is decided before. -/
def Row.packed (now : Nat) (r : Row) : Row := if Nat.beq r.dec 0 then { r with ready := some now } else r

/-- A row whose reference content is what the decoder holds. -/
def Row.repaired (r : Row) : Row := { r with fin := true }

section
variable {s : State} {n k j p : Nat} {r : Row} {q : Task} (h : s.RowAtWork n k j r) (own : q.own = n) (frame : q.frame = k)
  (row : q.row = j)
include h own frame row

/-- PACK_ROW_COMPLETE of a row that is not decided: the row is ready from now on. -/
theorem State.packRowComplete_does (hp : p < 8) (run : s.running (160 + p) = some q) (dec : r.dec = 0) :
    s.Does (.packRowComplete p) [] [.bob, .chans] (fun t => t.running (160 + p) = none ∧ t.bob.tasks = s.bob.tasks
      ∧ t.row n k j = some { r with ready := some s.now }) := by
  have step : s.packDone p = (s.release (160 + p)).updRow n k j (Row.packed s.now) := by
    simp only [State.packDone, run, own, frame, row]
    rfl
  have keys : ∀ y : Row, (y.packed s.now).k = y.k ∧ (y.packed s.now).j = y.j := fun y => by
    unfold Row.packed
    split <;> exact ⟨rfl, rfl⟩
  have ready : r.packed s.now = { r with ready := some s.now } := if_pos (by rw [dec]; rfl)
  exact ⟨_, by simp only [exec, execPackRowComplete, Nat.mod_eq_of_lt hp, step],
    ((s.frame_release _).mono (by simp) (by simp)).updRow (by simp), s.running_release _, rfl,
    (State.row_updRow (s.release (160 + p)) h.row keys).trans (congrArg some ready)⟩

/-- REFERENCE_REPAIR_COMPLETE without poison, of a row that does not complete its picture: the row is final. -/
theorem State.referenceRepairComplete_does (hp : p < 4) (run : s.running (168 + p) = some q) (typ : q.typ = 6)
    (which : q.which = 1) (poison : (s.chan n).poison = []) (count : s.rowCount n k ≠ s.rows n) :
    s.Does (.referenceRepairComplete p) [] [.bob, .chans] (fun t => t.running (168 + p) = none ∧ t.bob.tasks = s.bob.tasks
      ∧ t.row n k j = some { r with fin := true }) := by
  have open_ : ((s.release (168 + p)).updRow n k j Row.repaired).pictureFinal n k =
      (s.release (168 + p)).updRow n k j Row.repaired :=
    State.pictureFinal_of_count _ (by rw [State.rowCount_updRow (f := Row.repaired) _ (fun _ => rfl)]; exact count)
  have clean : ((s.release (168 + p)).chan n).poison = [] := poison
  have step : s.repairDone p = (s.release (168 + p)).updRow n k j Row.repaired := by
    simp only [State.repairDone, run, own, frame, row, typ, which, clean, List.any_nil, State.cond_false, State.rowFinal]
    exact open_
  exact ⟨_, by simp only [exec, execReferenceRepairComplete, Nat.mod_eq_of_lt hp, step],
    ((s.frame_release _).mono (by simp) (by simp)).updRow (by simp), s.running_release _, rfl,
    State.row_updRow (s.release (168 + p)) (f := Row.repaired) h.row (fun _ => ⟨rfl, rfl⟩)⟩

end

/-! The front end (R250, R287 to R289, R294) -/

/-- The registers of what motion search has reported of the rows that engine e searched. -/
def searchRegs (e : Nat) : List Nat := [R.encMeCntHint e, R.encMeCntHash e, R.encMeCntHfalse e, R.encMeCntDrop e]

/-- The counts of motion search go up by what it reports of a row. -/
def State.searchCounted (s : State) (e : Nat) (x : Search) : State :=
  (((s.bump (F.encMeCntHint e) x.hint).bump (F.encMeCntHash e) x.hash).bump (F.encMeCntHfalse e) x.hfalse).bump
    (F.encMeCntDrop e) x.drop

/-- The context with the sectors that a search has read from its references; each second they start anew (R294). -/
def Chan.searched (c : Chan) (now : Nat) (x : Search) : Chan :=
  if Nat.ble (c.refAt + 1000000000) now then { c with refSec := x.sectors, refFull := x.full, refAt := now }
  else { c with refSec := c.refSec + x.sectors, refFull := c.refFull + x.full }

/-- From s to t the counts of hints, of hash matches and of drops of engine e went up by what x reports. -/
structure State.SearchShown (s t : State) (e : Nat) (x : Search) : Prop where
  hint : t.get (F.encMeCntHint e) = (s.get (F.encMeCntHint e) + x.hint) % 2 ^ 32
  hash : t.get (F.encMeCntHash e) = (s.get (F.encMeCntHash e) + x.hash) % 2 ^ 32
  drop : t.get (F.encMeCntDrop e) = (s.get (F.encMeCntDrop e) + x.drop) % 2 ^ 32

/-- What is no count of motion search may change before and after a search. -/
theorem State.SearchShown.between {r s t u : State} {e : Nat} {x : Search} {q q' : List Nat} {m m' : List Part}
    (h : s.SearchShown t e x) (before : r.Frame s q m) (after : t.Frame u q' m') (hq : ∀ a ∈ searchRegs e, a ∉ q ∧ a ∉ q') :
    r.SearchShown u e x := by
  obtain ⟨hint, hint'⟩ := hq (R.encMeCntHint e) (by simp [searchRegs])
  obtain ⟨hash, hash'⟩ := hq (R.encMeCntHash e) (by simp [searchRegs])
  obtain ⟨drop, drop'⟩ := hq (R.encMeCntDrop e) (by simp [searchRegs])
  exact ⟨by rw [after.get _ hint', h.hint, before.get _ hint], by rw [after.get _ hash', h.hash, before.get _ hash],
    by rw [after.get _ drop', h.drop, before.get _ drop]⟩

theorem Chan.rows_searched (c : Chan) (now : Nat) (x : Search) : (c.searched now x).rows = c.rows := by
  unfold Chan.searched
  split <;> rfl

theorem Chan.keeps_searched (c : Chan) (now : Nat) (x : Search) : c.Keeps (c.searched now x) := by
  unfold Chan.searched
  split <;> exact ⟨rfl, rfl, rfl⟩

section
variable (s : State) (n k j e : Nat) (x : Search)

theorem State.frame_searchCounted : s.Frame (s.searchCounted e x) (searchRegs e) [] :=
  ((((State.Frame.refl s _ _).bump (by simp [searchRegs, F.encMeCntHint])).bump (by simp [searchRegs, F.encMeCntHash])).bump
    (by simp [searchRegs, F.encMeCntHfalse])).bump (by simp [searchRegs, F.encMeCntDrop])

theorem State.searchShown_searchCounted : s.SearchShown (s.searchCounted e x) e x := by
  constructor
  · rw [State.searchCounted, State.get_bump_apart, State.get_bump_apart, State.get_bump_apart, State.get_bump] <;>
      simp [Fld.Apart, F.encMeCntHint, R.encMeCntHint, F.encMeCntHash, R.encMeCntHash,
        F.encMeCntHfalse, R.encMeCntHfalse, F.encMeCntDrop, R.encMeCntDrop]
  · rw [State.searchCounted, State.get_bump_apart, State.get_bump_apart, State.get_bump, State.get_bump_apart] <;>
      simp [Fld.Apart, F.encMeCntHint, R.encMeCntHint, F.encMeCntHash, R.encMeCntHash,
        F.encMeCntHfalse, R.encMeCntHfalse, F.encMeCntDrop, R.encMeCntDrop]
  · rw [State.searchCounted, State.get_bump, State.get_bump_apart, State.get_bump_apart, State.get_bump_apart] <;>
      simp [Fld.Apart, F.encMeCntHint, R.encMeCntHint, F.encMeCntHash, R.encMeCntHash,
        F.encMeCntHfalse, R.encMeCntHfalse, F.encMeCntDrop, R.encMeCntDrop]

theorem State.searched_eq : ∃ b v, s.searched n e x = ((s.searchCounted e x).setChan n
    (((s.searchCounted e x).chan n).searched (s.searchCounted e x).now x)).cond b (fun t => t.put (F.chnRefRatioRatio n) v) := by
  unfold State.searched Chan.searched
  change ∃ b v, (if Nat.ble (((s.searchCounted e x).chan n).refAt + 1000000000) (s.searchCounted e x).now then _ else _) = _
  split
  · exact ⟨true, _, rfl⟩
  · exact ⟨false, 0, rfl⟩

/-- After its counts a search changes what the channel has read, and once a second its ratio. -/
theorem State.frame_searched : (s.searchCounted e x).Frame (s.searched n e x) [R.chnRefRatio n] [.chans] := by
  obtain ⟨b, v, eq⟩ := s.searched_eq n e x
  rw [eq]
  exact ((State.Frame.refl _ _ _).setChan (by simp)).cond (fun _ hu => hu.put (by simp [F.chnRefRatioRatio]))

theorem State.keepsCoding_searched : s.KeepsCoding (s.searched n e x) := by
  obtain ⟨b, v, eq⟩ := s.searched_eq n e x
  rw [eq]
  have counts : s.KeepsCoding (s.searchCounted e x) := (s.frame_searchCounted e x).keepsCoding (by simp) (by simp)
    (fun m => by simp only [searchRegs, R.chnStat, R.encMeCntHint, R.encMeCntHash, R.encMeCntHfalse, R.encMeCntDrop, List.mem_cons,
      List.not_mem_nil, or_false]; omega) (fun m => by
      simp only [searchRegs, R.chnDupStat, R.encMeCntHint, R.encMeCntHash, R.encMeCntHfalse, R.encMeCntDrop, List.mem_cons,
      List.not_mem_nil, or_false]; omega)
  refine (counts.trans (State.keepsCoding_setChan ?_)).trans (((State.Frame.refl _ [R.chnRefRatio n] []).cond
    (fun _ hu => hu.put (by simp [F.chnRefRatioRatio]))).keepsCoding (by simp) (by simp) (fun m => ?_) (fun m => ?_))
  · exact Chan.keeps_searched _ _ x
  · simp only [R.chnStat, R.chnRefRatio, List.mem_singleton]; omega
  · simp only [R.chnDupStat, R.chnRefRatio, List.mem_singleton]; omega

theorem State.row_searched : (s.searched n e x).row n k j = s.row n k j := by
  obtain ⟨b, v, eq⟩ := s.searched_eq n e x
  rw [eq, (((State.Frame.refl _ [R.chnRefRatio n] []).cond (fun _ hu => hu.put (by simp [F.chnRefRatioRatio]))).row (by simp)),
    State.row, State.chan_setChan, Chan.rows_searched, (s.frame_searchCounted e x).chan (by simp)]
  rfl

/-- The front end of engine e is free, where it still runs the lead's task for row j of picture k of context n. -/
def State.frontFreed (s : State) (n k j e : Nat) : State :=
  match s.running e with
  | some t => if Nat.beq t.typ 3 && Nat.beq t.own n && Nat.beq t.frame k && Nat.beq t.row j && Nat.beq t.which 0 then
      s.freeEngine e else s
  | none => s

theorem State.frame_frontFreed : s.Frame (s.frontFreed n k j e) [R.encLoad e] [.bob, .engs] := by
  unfold State.frontFreed
  split
  · exact ((State.Frame.refl _ _ _).freeEngine (by simp) (by simp) (by simp)).ite (.refl _ _ _)
  · exact .refl _ _ _

theorem State.keepsCoding_frontFreed : s.KeepsCoding (s.frontFreed n k j e) :=
  (s.frame_frontFreed n k j e).keepsCoding (by simp) (by simp)
    (fun m => by simp only [R.chnStat, R.encLoad, List.mem_singleton]; omega)
    (fun m => by simp only [R.chnDupStat, R.encLoad, List.mem_singleton]; omega)

end

section
variable {s : State} {n k j e : Nat} {r : Row}

/-- The front end of the lead is done with a row. -/
def Row.searched (r : Row) : Row := { r with lead := { r.lead with st := 2 } }

/-- After the search of row j the lead's front end is done with it. -/
theorem State.RowAtWork.row_frontSearched (h : s.RowAtWork n k j r) (e : Nat) (x : Search) :
    (((s.frontFreed n k j e).updRow n k j Row.searched).searched n e x).row n k j = some r.searched := by
  rw [State.row_searched]
  exact State.row_updRow _ (f := Row.searched) (((s.frame_frontFreed n k j e).row (by simp) n k j).trans h.row)
    (fun _ => ⟨rfl, rfl⟩)

/-- FRONT_END_COMPLETE while the lead's front end is on the row and no row has its final QP. -/
theorem State.frontDone_eq (h : s.RowAtWork n k j r) (st : r.lead.st = 1) (eng : r.lead.eng = e) (none : s.NoneFinal e)
    (x : Search) : s.frontDone n k j 0 x = ((s.frontFreed n k j e).updRow n k j Row.searched).searched n e x := by
  have kept : s.KeepsCoding (((s.frontFreed n k j e).updRow n k j Row.searched).searched n e x) :=
    ((s.keepsCoding_frontFreed n k j e).trans (State.keepsCoding_updRow (f := Row.searched) (fun _ => ⟨rfl, rfl⟩))).trans
      (State.keepsCoding_searched _ n e x)
  have front := State.composedRead_of_front (h.row_frontSearched e x) (show 2 < 3 by decide)
  have still := (kept.noneFinal none).kickBack
  have side : r.side 0 = r.lead := rfl
  have one : Nat.beq r.lead.st 1 = true := by rw [st]; rfl
  have step : s.frontDone n k j 0 x =
      ((((s.frontFreed n k j e).updRow n k j Row.searched).searched n e x).kickBack e).composedRead n k j := by
    simp only [State.frontDone, h.row, side, one, eng, Bool.not_true, Bool.false_eq_true, if_false]
    rfl
  rw [step, still, front]

theorem State.frontEndComplete_does (h : s.RowAtWork n k j r) (hn : n < 256) (st : r.lead.st = 1) (eng : r.lead.eng = e)
    (none : s.NoneFinal e) (x : Search) : s.Does (.frontEndComplete n k j 0 x) [R.encLoad e, R.encMeCntHint e, R.encMeCntHash e,
      R.encMeCntHfalse e, R.encMeCntDrop e, R.chnRefRatio n] [.bob, .engs, .chans] (fun t =>
        t.row n k j = some { r with lead := { r.lead with st := 2 } }
        ∧ t.get (F.encMeCntHint e) = (s.get (F.encMeCntHint e) + x.hint) % 2 ^ 32
        ∧ t.get (F.encMeCntHash e) = (s.get (F.encMeCntHash e) + x.hash) % 2 ^ 32
        ∧ t.get (F.encMeCntDrop e) = (s.get (F.encMeCntDrop e) + x.drop) % 2 ^ 32) := by
  have freed : s.Frame ((s.frontFreed n k j e).updRow n k j Row.searched) [R.encLoad e] [.bob, .engs, .chans] :=
    ((s.frame_frontFreed n k j e).mono (by simp) (by simp)).updRow (by simp)
  have counted := State.frame_searchCounted ((s.frontFreed n k j e).updRow n k j Row.searched) e x
  have searched := State.frame_searched ((s.frontFreed n k j e).updRow n k j Row.searched) n e x
  obtain ⟨hint, hash, drop⟩ := (State.searchShown_searchCounted ((s.frontFreed n k j e).updRow n k j Row.searched) e x).between
    freed searched (by
      simp only [searchRegs, List.mem_cons, List.not_mem_nil, or_false, R.encLoad, R.chnRefRatio, R.encMeCntHint, R.encMeCntHash,
        R.encMeCntHfalse, R.encMeCntDrop]
      omega)
  refine ⟨_, by simp only [exec, execFrontEndComplete, Nat.mod_eq_of_lt hn, State.frontDone_eq h st eng none],
    ((freed.mono (by simp) (fun _ => id)).andThen counted (by simp [searchRegs]) (by simp)).andThen searched (by simp) (by simp),
    h.row_frontSearched e x, hint, hash, drop⟩

end

/-! The back end (R278, R412) -/

/-- The lead's back end has coded a row, with its size and signature. -/
def Row.coded (size sig : Nat) (r : Row) : Row := { r with lead := { r.lead with st := 4, size := size, sig := sig } }

/-- The registers that show what engine e has coded. -/
def codedRegs (e : Nat) : List Nat := [R.encRowsLo e, R.encRowsHi e, R.encSig e, R.encSigtag e]

/-- One more row of engine e counts, and its signature is shown with the row that it is of. -/
def State.rowShown (s : State) (n k j e sig : Nat) : State :=
  ((((s.put64 (R.encRowsLo e) (R.encRowsHi e) (s.get64 (R.encRowsLo e) (R.encRowsHi e) + 1)).put (F.encSigSig e) sig).put
    (F.encSigtagCtx e) n).put (F.encSigtagRow e) j).put (F.encSigtagFrame e) k

/-- The lead's engine e has coded a row: no injected signature waits any more, and the row is shown. -/
def State.rowCoded (s : State) (n k j e size sig : Nat) : State :=
  ((s.updEng e (fun x => { x with injSig := false })).updRow n k j (Row.coded size sig)).rowShown n k j e sig

section
variable (s : State) (n k j e size sig : Nat)

theorem State.frame_rowShown : s.Frame (s.rowShown n k j e sig) (codedRegs e) [] :=
  (((((State.Frame.refl s _ _).put64 (by simp [codedRegs]) (by simp [codedRegs])).put (by simp [codedRegs, F.encSigSig])).put
    (by simp [codedRegs, F.encSigtagCtx])).put (by simp [codedRegs, F.encSigtagRow])).put (by simp [codedRegs, F.encSigtagFrame])

theorem State.frame_rowCoded : s.Frame (s.rowCoded n k j e size sig) (codedRegs e) [.engs, .chans] :=
  (((State.Frame.refl s _ _).updEng (by simp)).updRow (by simp)).andThen (State.frame_rowShown ..) (fun _ => id) (by simp)

/-- What the registers of engine e show of a row with this signature that it has coded for context n. -/
structure State.CodingShown (s t : State) (n e sig : Nat) : Prop where
  rows : t.get64 (R.encRowsLo e) (R.encRowsHi e) = (s.get64 (R.encRowsLo e) (R.encRowsHi e) + 1) % 2 ^ 64
  sig  : t.get (F.encSigSig e) = sig
  ctx  : t.get (F.encSigtagCtx e) = n

theorem State.codingShown_rowShown (hn : n < 256) (hsig : sig < 2 ^ 32) : s.CodingShown (s.rowShown n k j e sig) n e sig where
  rows := by
    rw [State.rowShown, State.get64_put_ne, State.get64_put_ne, State.get64_put_ne, State.get64_put_ne, State.get64_put64]
    all_goals simp [F.encSigSig, R.encSig, F.encSigtagCtx, F.encSigtagRow, F.encSigtagFrame, R.encSigtag, R.encRowsLo, R.encRowsHi]
  sig := by
    rw [State.rowShown, State.get_put_apart, State.get_put_apart, State.get_put_apart, State.get_put]
    · exact Nat.mod_eq_of_lt hsig
    all_goals simp [Fld.Apart, F.encSigSig, R.encSig, F.encSigtagCtx, F.encSigtagRow, F.encSigtagFrame, R.encSigtag]
  ctx := by
    rw [State.rowShown, State.get_put_apart, State.get_put_apart, State.get_put]
    · exact Nat.mod_eq_of_lt (Nat.lt_trans hn (show 256 < 2 ^ 9 by decide))
    all_goals simp [Fld.Apart, F.encSigtagCtx, F.encSigtagRow, F.encSigtagFrame]

/-- What does not show what engine e has coded may change before and after. -/
theorem State.CodingShown.between {r s t u : State} {n e sig : Nat} {q q' : List Nat} {m m' : List Part}
    (h : s.CodingShown t n e sig) (before : r.Frame s q m) (after : t.Frame u q' m') (hq : ∀ a ∈ codedRegs e, a ∉ q ∧ a ∉ q') :
    r.CodingShown u n e sig := by
  obtain ⟨lo, lo'⟩ := hq (R.encRowsLo e) (by simp [codedRegs])
  obtain ⟨hi, hi'⟩ := hq (R.encRowsHi e) (by simp [codedRegs])
  obtain ⟨-, sig'⟩ := hq (R.encSig e) (by simp [codedRegs])
  obtain ⟨-, tag'⟩ := hq (R.encSigtag e) (by simp [codedRegs])
  exact ⟨by rw [after.get64 lo' hi', h.rows, before.get64 lo hi], (after.get _ sig').trans h.sig, (after.get _ tag').trans h.ctx⟩

theorem State.codingShown_rowCoded (hn : n < 256) (hsig : sig < 2 ^ 32) : s.CodingShown (s.rowCoded n k j e size sig) n e sig :=
  (State.codingShown_rowShown _ n k j e sig hn hsig).between
    (((State.Frame.refl s [] [.engs, .chans]).updEng (by simp)).updRow (by simp)) (State.Frame.refl _ [] []) (by simp)

theorem State.keepsCoding_rowCoded : s.KeepsCoding (s.rowCoded n k j e size sig) := by
  have apart : ∀ b, b % 0x4000 = 0x14 ∨ b % 0x4000 = 0x300 → b ∉ codedRegs e := fun b hb => by
    simp only [codedRegs, R.encRowsLo, R.encRowsHi, R.encSig, R.encSigtag, List.mem_cons, List.not_mem_nil, or_false]
    omega
  have eng : s.KeepsCoding (s.updEng e (fun x => { x with injSig := false })) :=
    ((State.Frame.refl s [] [.engs]).updEng (by simp)).keepsCoding (by simp) (by simp) (by simp) (by simp)
  exact (eng.trans (State.keepsCoding_updRow (f := Row.coded size sig) (fun _ => ⟨rfl, rfl⟩))).trans
    ((State.frame_rowShown ..).keepsCoding (by simp) (by simp) (fun m => apart _ (.inl (by simp only [R.chnStat]; omega)))
      (fun m => apart _ (.inr (by simp only [R.chnDupStat]; omega))))

end

section
variable {s : State} {n k j e size sig : Nat} {r : Row}

theorem State.RowAtWork.row_rowCoded (h : s.RowAtWork n k j r) (e size sig : Nat) :
    (s.rowCoded n k j e size sig).row n k j = some (r.coded size sig) := by
  rw [State.rowCoded, (State.frame_rowShown ..).row (by simp)]
  exact State.row_updRow _ (f := Row.coded size sig) h.row (fun _ => ⟨rfl, rfl⟩)

/-- A row without a marker is handed to a packer (R418). -/
theorem State.created_handOff (row : s.row n k j = some r) (marker : r.lead.marker = false)
    (mode : s.modeIn [Mode.safe, Mode.recover] = false) (free : s.get (F.bobCredFree 4) ≠ 0) :
    ∃ y : Task, (y.typ = 4 ∧ y.own = n ∧ y.frame = k ∧ y.row = j ∧ y.list = 145) ∧ s.Created (s.handOff n k j) y := by
  simp only [State.handOff, row, marker, Bool.false_eq_true, if_false]
  exact ⟨_, ⟨rfl, rfl, rfl, rfl, rfl⟩, State.created_create (by simp) mode free⟩

/-- The lead codes a row of a context that is no pair, no checker having fired on it and no signature being injected. -/
structure State.LeadCodes (s : State) (n e : Nat) (r : Row) : Prop where
  st     : r.lead.st = 3
  eng    : r.lead.eng = e
  res    : r.lead.res = false
  par    : r.lead.par = false
  marker : r.lead.marker = false
  inj    : (s.eng e).injSig = false
  alone  : s.paired n = false

theorem State.backDone_eq (h : s.RowAtWork n k j r) (c : s.LeadCodes n e r) (none : s.NoneFinal e) (hsig : sig < 2 ^ 32) :
    s.backDone n k j 0 size sig = ((s.rowCoded n k j e size sig).handOff n k j).composedRead n k j := by
  obtain ⟨st, eng, res, par, marker, inj, alone⟩ := c
  have kept := s.keepsCoding_rowCoded n k j e size sig
  have advance : (s.rowCoded n k j e size sig).rcAdvance n k = s.rowCoded n k j e size sig :=
    State.rcAdvance_of_later (by rw [kept.rc]; exact h.later)
  have still := (kept.noneFinal none).kickBack
  have side : r.side 0 = r.lead := rfl
  have three : Nat.beq r.lead.st 3 = true := by rw [st]; rfl
  have step : s.backDone n k j 0 size sig =
      ((((s.rowCoded n k j e size sig).rcAdvance n k).kickBack e).handOff n k j).composedRead n k j := by
    simp only [State.backDone, h.row, side, three, eng, res, par, inj, alone, h.lead, Nat.mod_eq_of_lt hsig, Bool.not_true,
      Bool.false_eq_true, if_false, Nat.beq_refl, if_true, Bool.or_self, Bool.false_and, Bool.false_or, State.cond_true]
    rfl
  rw [step, advance, still]

/-- BACK_END_COMPLETE of the lead of a context that is no pair, with a credit for the row's PACK_ROW task. -/
theorem State.backEndComplete_does (h : s.RowAtWork n k j r) (hn : n < 256) (c : s.LeadCodes n e r) (none : s.NoneFinal e)
    (free : s.get (F.bobCredFree 4) ≠ 0) (mode : s.modeIn [Mode.safe, Mode.recover] = false) (last : j + 1 ≠ s.rows n)
    (hsig : sig < 2 ^ 32) : s.Does (.backEndComplete n k j 0 size sig)
      [R.encRowsLo e, R.encRowsHi e, R.encSig e, R.encSigtag e, R.bobCred 4, R.bobExQ 145] [.bob, .engs, .chans] (fun t =>
        t.row n k j = some { r with lead := { r.lead with st := 4, size := size, sig := sig } }
        ∧ t.get64 (R.encRowsLo e) (R.encRowsHi e) = (s.get64 (R.encRowsLo e) (R.encRowsHi e) + 1) % 2 ^ 64
        ∧ t.get (F.encSigSig e) = sig ∧ t.get (F.encSigtagCtx e) = n
        ∧ ∃ y, t.bob.tasks = s.bob.tasks ++ [y] ∧ y.typ = 4 ∧ y.own = n ∧ y.frame = k ∧ y.row = j) := by
  have done := State.backDone_eq (size := size) h c none hsig
  have coded := s.frame_rowCoded n k j e size sig
  have row := h.row_rowCoded e size sig
  have shown := s.codingShown_rowCoded n k j e size sig hn hsig
  have apart : ∀ a ∈ codedRegs e, 0x800000 ≤ a := by simp [codedRegs, R.encRowsLo, R.encRowsHi, R.encSig, R.encSigtag]; omega
  have low : ∀ b, b < 0x800000 → b ∉ codedRegs e := fun b hb hm => absurd (apart b hm) (by omega)
  generalize s.rowCoded n k j e size sig = u at done coded row shown
  obtain ⟨y, ⟨typ, own, frame, yrow, list⟩, packs, added, -, -⟩ := State.created_handOff row c.marker
    (by rw [coded.modeIn (low _ (by decide))]; exact mode) (by rw [coded.get _ (low _ (by decide))]; exact free)
  rw [typ, list] at packs
  rw [coded.bob (by simp)] at added
  have whole : s.Frame (u.handOff n k j) [R.encRowsLo e, R.encRowsHi e, R.encSig e, R.encSigtag e, R.bobCred 4, R.bobExQ 145]
      [.bob, .engs, .chans] := (coded.mono (by simp [codedRegs]) (by simp)).andThen packs (by simp) (by simp)
  have rows : (u.handOff n k j).rows n = s.rows n := by
    refine (whole.sameShape (by simp) (fun m => ?_) (fun m => ?_)).rows n
    · simp [R.chnStat, R.encRowsLo, R.encRowsHi, R.encSig, R.encSigtag, R.bobCred, R.bobExQ]; omega
    · simp [R.chnFmt, R.encRowsLo, R.encRowsHi, R.encSig, R.encSigtag, R.bobCred, R.bobExQ]; omega
  obtain ⟨shownRows, shownSig, shownCtx⟩ := shown.between (State.Frame.refl s [] []) packs (fun a ha =>
    ⟨List.not_mem_nil, by have := apart a ha; simp [R.bobCred, R.bobExQ]; omega⟩)
  refine ⟨u.handOff n k j, ?_, whole, (packs.row (by simp) n k j).trans row, shownRows, shownSig, shownCtx, _, added, typ, own,
    frame, yrow⟩
  simp only [exec, execBackEndComplete, Nat.mod_eq_of_lt hn, Nat.zero_mod, done]
  rw [State.composedRead_of_not_last (by rw [rows]; exact last)]

end

/-! Composing (R227, R418) -/

/-- Compositor c has ended task q, which it began at t0: it is free, a late row counts, and its busy time is shown. -/
def State.composerFreed (s : State) (c : Nat) (q : Task) (t0 : Nat) : State :=
  let t := (s.release (128 + c)).cond (Nat.blt q.due s.now) (fun s => s.sat (F.cmpLatecmp c) 1)
  let x := t.eng (128 + c)
  if Nat.ble (x.since + 1000000000) t.now then
    (t.setEng (128 + c) { x with busy := t.now - t0, since := t.now }).put (F.cmpLoadBusy c) (min 100 (x.busy / 10000000))
  else t.setEng (128 + c) { x with busy := x.busy + (t.now - t0) }

/-- A row that is composed. -/
def Row.composed (r : Row) : Row := { r with comp := true }

/-- Compositor c has composed row j of picture k of context n, its task q. -/
def State.rowComposed (s : State) (n k j c : Nat) (q : Task) (t0 : Nat) : State :=
  (s.composerFreed c q t0).updRow n k j Row.composed

theorem State.Frame.codes {s t : State} {q : List Nat} {m : List Part} {n : Nat} (h : s.Frame t q m) (hc : .chans ∉ m)
    (hq : R.chnStat n ∉ q) (k : Nat) : t.codes n k = s.codes n k := by
  simp only [State.codes, State.chState, h.chan hc, h.get (F.chnStatState n) hq]

section
variable (s : State) (n k j c : Nat) (q : Task) (t0 : Nat)

/-- After the release of its executor a task that ends changes the registers and the busy time of the compositor. -/
theorem State.frame_released_composerFreed :
    (s.release (128 + c)).Frame (s.composerFreed c q t0) [R.cmpLoad c, R.cmpLatecmp c] [.engs] := by
  have late : (s.release (128 + c)).Frame ((s.release (128 + c)).cond (Nat.blt q.due s.now) (fun s => s.sat (F.cmpLatecmp c) 1))
      [R.cmpLoad c, R.cmpLatecmp c] [.engs] := (State.Frame.refl _ _ _).cond (fun _ hu => hu.sat (by simp [F.cmpLatecmp]))
  exact ((late.setEng (by simp)).put (by simp [F.cmpLoadBusy])).ite (late.setEng (by simp))

theorem State.frame_composerFreed : s.Frame (s.composerFreed c q t0) [R.cmpLoad c, R.cmpLatecmp c] [.bob, .engs] :=
  ((s.frame_release _).mono (by simp) (by simp)).andThen (s.frame_released_composerFreed c q t0) (by simp) (by simp)

theorem State.frame_rowComposed :
    s.Frame (s.rowComposed n k j c q t0) [R.cmpLoad c, R.cmpLatecmp c] [.bob, .engs, .chans] :=
  ((s.frame_composerFreed c q t0).mono (fun _ => id) (by simp)).updRow (by simp)

theorem State.bob_rowComposed : (s.rowComposed n k j c q t0).bob = (s.release (128 + c)).bob :=
  (((s.frame_released_composerFreed c q t0).mono (m := [.engs, .chans]) (fun _ => id) (by simp)).updRow (by simp)).bob (by simp)

theorem State.keepsCoding_rowComposed : s.KeepsCoding (s.rowComposed n k j c q t0) := by
  have freed : s.KeepsCoding (s.composerFreed c q t0) := (s.frame_composerFreed c q t0).keepsCoding (by simp) (by simp)
    (fun m => by simp [R.chnStat, R.cmpLoad, R.cmpLatecmp]; omega)
    (fun m => by simp [R.chnDupStat, R.cmpLoad, R.cmpLatecmp]; omega)
  exact freed.trans (State.keepsCoding_updRow (f := Row.composed) (fun _ => ⟨rfl, rfl⟩))

end

section
variable {s : State} {n k j c : Nat} {r : Row} {q : Task}

theorem State.RowAtWork.row_rowComposed (h : s.RowAtWork n k j r) (c : Nat) (q : Task) (t0 : Nat) :
    (s.rowComposed n k j c q t0).row n k j = some r.composed :=
  State.row_updRow _ (f := Row.composed) (((s.frame_composerFreed c q t0).row (by simp) n k j).trans h.row) (fun _ => ⟨rfl, rfl⟩)

/-- The ENCODE_ROW task of a row of a context without a standby goes to its home engine (R402, R418). -/
theorem State.created_encodeTasks (lead : s.leadOf n = n) (alone : s.stbyEng n = none)
    (mode : s.modeIn [Mode.safe, Mode.recover] = false) (free : s.get (F.bobCredFree 3) ≠ 0) :
    ∃ y : Task, (y.typ = 3 ∧ y.own = n ∧ y.frame = k ∧ y.row = j ∧ y.which = 0 ∧ y.list = s.leadEng n)
      ∧ s.Created (s.encodeTasks n k j) y := by
  simp only [State.encodeTasks, lead, alone]
  exact ⟨_, ⟨rfl, rfl, rfl, rfl, rfl, rfl⟩, State.created_create (by simp) mode free⟩

/-- The row of a task is composed: it is neither released nor decided, and the engine codes its picture. -/
structure State.Composes (s : State) (n k j c : Nat) (q : Task) (r : Row) : Prop where
  run   : s.running (128 + c) = some q
  own   : q.own = n
  frame : q.frame = k
  row   : q.row = j
  rel   : r.rel = false
  dec   : r.dec = 0
  codes : s.codes n k = true
  alone : s.stbyEng n = none

/-- COMPOSE_ROW_COMPLETE creates the ENCODE_ROW tasks of the row; rate control has not come to its picture. -/
theorem State.composeDone_eq (h : s.RowAtWork n k j r) (d : s.Composes n k j c q r) : ∃ t0, s.composeDone c =
    ((s.rowComposed n k j c q t0).encodeTasks n k j).rcAdvance n k := by
  obtain ⟨run, own, frame, row, rel, dec, codes, -⟩ := d
  obtain ⟨i, t0, found⟩ := State.run_of_running run
  have freed := s.frame_composerFreed c q t0
  have strips : (s.composerFreed c q t0).strips n = [n] := by rw [State.strips, freed.aget (by simp)]; exact h.strips
  have work : (s.composerFreed c q t0).row n k j = some r := (freed.row (by simp) n k j).trans h.row
  have coding : (s.composerFreed c q t0).codes n k = true :=
    (freed.codes (by simp) (by simp [R.chnStat, R.cmpLoad, R.cmpLatecmp]; omega) k).trans codes
  have pic : Nat.beq ((s.composerFreed c q t0).rc n).pic k = false := by
    rw [State.rc, freed.chan (by simp), nat_beq_eq]
    exact decide_eq_false (Nat.ne_of_lt h.later)
  have undecided : Nat.beq r.dec 0 = true := by rw [dec]; rfl
  refine ⟨t0, ?_⟩
  simp only [State.composeDone, found]
  change ((s.composerFreed c q t0).each ((s.composerFreed c q t0).strips q.own) _).rcAdvance q.own q.frame = _
  rw [own, frame, row, strips, State.each_singleton]
  simp only [work, rel, undecided, coding, pic, Bool.not_true, Bool.or_self, Bool.false_and, Bool.false_eq_true, if_false]
  rfl

/-- COMPOSE_ROW_COMPLETE of a row that is to be coded, with a credit for its ENCODE_ROW task. -/
theorem State.composeRowComplete_does (hc : c < 16) (h : s.RowAtWork n k j r) (d : s.Composes n k j c q r)
    (mode : s.modeIn [Mode.safe, Mode.recover] = false) (free : s.get (F.bobCredFree 3) ≠ 0) :
    s.Does (.composeRowComplete c) [R.cmpLoad c, R.cmpLatecmp c, R.bobCred 3, R.bobExQ (s.leadEng n)] [.bob, .engs, .chans]
      (fun t => t.running (128 + c) = none ∧ t.row n k j = some { r with comp := true }
        ∧ (∃ y, t.bob.tasks = s.bob.tasks ++ [y] ∧ y.typ = 3 ∧ y.own = n ∧ y.frame = k ∧ y.row = j ∧ y.which = 0
          ∧ y.list = s.leadEng n)
        ∧ t.get (F.bobCredFree 3) = s.get (F.bobCredFree 3) - 1) := by
  obtain ⟨t0, done⟩ := State.composeDone_eq h d
  have low : ∀ b, b < 0x600000 → b ∉ [R.cmpLoad c, R.cmpLatecmp c] := fun b hb => by simp [R.cmpLoad, R.cmpLatecmp]; omega
  have keeps := s.keepsCoding_rowComposed n k j c q t0
  have frame := s.frame_rowComposed n k j c q t0
  have bob := s.bob_rowComposed n k j c q t0
  have composed := h.row_rowComposed c q t0
  generalize s.rowComposed n k j c q t0 = u at done keeps frame bob composed
  have credits : u.get (F.bobCredFree 3) = s.get (F.bobCredFree 3) := frame.get _ (low _ (by decide))
  obtain ⟨y, ⟨typ, own, yframe, yrow, which, list⟩, encodes, added, run, credit⟩ :=
    State.created_encodeTasks (k := k) (j := j) ((keeps.leadOf n).trans h.lead) ((keeps.stbyEng n).trans d.alone)
      ((frame.modeIn (low _ (by decide)) _).trans mode) (credits ▸ free)
  rw [keeps.leadEng] at list
  rw [typ, list] at encodes
  rw [bob, s.tasks_release] at added
  rw [typ, credits] at credit
  have later : ((u.encodeTasks n k j).rc n).pic < k := by
    rw [State.rc, encodes.chan (by simp), ← State.rc, keeps.rc]; exact h.later
  refine ⟨u.encodeTasks n k j, ?_, (frame.mono (by simp) (fun _ => id)).andThen encodes (by simp) (by simp), ?_,
    (encodes.row (by simp) n k j).trans composed, ⟨_, added, typ, own, yframe, yrow, which, list⟩, credit⟩
  · simp only [exec, execComposeRowComplete, Nat.mod_eq_of_lt hc, done]
    rw [State.rcAdvance_of_later later]
  · have kept : (u.encodeTasks n k j).running (128 + c) = (s.release (128 + c)).running (128 + c) := by
      rw [State.running, State.running, run, bob]
    rw [kept]
    exact s.running_release (128 + c)

end

/-- Settles O51 (R227, R250, R253, R278, R418). -/
theorem encodedRows : Obligations.EncodedRows := by
  intro s c n k j e p size sig x q r hn hc strips lead row later final
  have work : s.RowAtWork n k j r := ⟨strips, lead, row, later⟩
  have none : s.NoneFinal e := fun m placed y hy => final e m y hy placed
  refine ⟨fun run own frame jrow rel dec codes alone mode free => ?_, fun st eng _ => ?_,
    fun st eng res par marker inj alone free mode last hsig => ?_, fun hp run own frame jrow dec => ?_,
    fun hp run own frame jrow typ which poison count => ?_⟩
  · exact State.composeRowComplete_does hc work ⟨run, own, frame, jrow, rel, dec, codes, alone⟩ mode free
  · exact State.frontEndComplete_does work hn st eng none x
  · exact State.backEndComplete_does work hn ⟨st, eng, res, par, marker, inj, alone⟩ none free mode last hsig
  · exact State.packRowComplete_does work own frame jrow hp run dec
  · exact State.referenceRepairComplete_does work own frame jrow hp run typ which poison count

end Sys2Proof.Machine
end

