-- ==== Sys2Proof/Proofs/EgressCommits.lean ====
section
/-!
SUPPORT. Sys2Proof/Proofs/EgressCommits.lean: what an activation of shadows leaves active; what the display of egress changes; the
request of an egress commit (R355) and its check, refused or applied (R351, R360); the statement of O47 settled.
-/

namespace Sys2Proof.Machine

/-! Activation of shadows -/

/-- A table that takes the value of w at each index of a list holds it there, and elsewhere what it held. -/
theorem Tab.get_foldl_put {α : Type} [DecidableEq α] (d : α) (w : Nat → α) (l : List Nat) (t : List (Nat × α)) (a : Nat) :
    Tab.get d (l.foldl (fun t b => Tab.put d t b (w b)) t) a = if a ∈ l then w a else Tab.get d t a := by
  induction l generalizing t with
  | nil => simp
  | cons b l ih =>
    rw [List.foldl_cons, ih]
    by_cases hl : a ∈ l
    · simp [hl]
    · by_cases hb : b = a
      · subst hb; simp [hl]
      · simp [hl, Ne.symm hb, Tab.get_put_ne _ _ _ _ hb]

theorem State.actWord_activate (s : State) (l : List Nat) (a : Nat) :
    (s.activate l).actWord a = if a ∈ l then s.word a else s.actWord a :=
  Tab.get_foldl_put 0 s.word l s.act a

section
variable {s t : State} {q : List Nat} {m : List Part}

theorem State.Frame.activate {l : List Nat} (h : s.Frame t q m) (ha : .act ∈ m) : s.Frame (t.activate l) q m :=
  h.part ha rfl (fun p hp => by cases p <;> simp_all [State.Same])

theorem State.frame_refusalEv (i e n d : Nat) : s.Frame (s.refusalEv i e n d) [R.selEvtOvf] [.arb] :=
  (State.Frame.refl s _ _).refusalEv (by simp) (by simp)

theorem State.Frame.actWord (h : s.Frame t q m) (ha : .act ∉ m) (a : Nat) : t.actWord a = s.actWord a := by
  simp only [State.actWord, show t.act = s.act from h.2 .act ha]

end

/-! The registers of egress -/

/-- The registers that show the load of the lanes and of the packet stores. -/
def egrLoads : List Nat := R.egrMem :: (List.range 256).map R.egrLnLoad

/-- The loads stand below the registers of the channels. -/
theorem not_mem_egrLoads {a : Nat} (h : 0x01040000 ≤ a) : a ∉ egrLoads := by
  simp only [egrLoads, R.egrMem, R.egrLnLoad, List.mem_cons, List.mem_map, List.mem_range]
  rintro (rfl | ⟨l, hl, rfl⟩) <;> omega

/-- COMMIT stands in none of the shadow registers. -/
theorem egrChCommit_not_mem_egrAddrs (n : Nat) : R.egrChCommit n ∉ egrAddrs n := by
  simp only [egrAddrs, egrPaths, List.flatMap_cons, List.flatMap_nil, List.mem_append, List.mem_cons, List.not_mem_nil,
    R.egrChCommit, R.egrChCfg, R.egrChPace, R.egrChRtp, R.egrChSsrc, R.egrChTs, R.egrChProg, R.egrPathCfg, R.egrPathDst,
    R.egrPathUdp, R.egrPathMacLo, R.egrPathMacHi, or_false]
  omega

section
variable (n : Nat)

theorem egrChCommit_ne_egrChStat : R.egrChCommit n ≠ R.egrChStat n := by unfold R.egrChCommit R.egrChStat; omega

theorem egrChCommit_not_mem_selEvtOvf : R.egrChCommit n ∉ [R.selEvtOvf] := by
  simp only [R.egrChCommit, R.selEvtOvf, List.mem_singleton]; omega

theorem egrChStat_not_mem_selEvtOvf : R.egrChStat n ∉ [R.selEvtOvf] := by
  simp only [R.egrChStat, R.selEvtOvf, List.mem_singleton]; omega

theorem egrChStatRefuse_apart_refused : (F.egrChStatRefuse n).Apart (F.egrChStatRefused n) :=
  .inr (.inl (by simp [F.egrChStatRefuse, F.egrChStatRefused]))

theorem egrChStatRefuse_apart_adm : (F.egrChStatRefuse n).Apart (F.egrChStatAdm n) :=
  .inr (.inl (by simp [F.egrChStatRefuse, F.egrChStatAdm]))

theorem egrChStatRefused_apart_adm : (F.egrChStatRefused n).Apart (F.egrChStatAdm n) :=
  .inr (.inl (by simp [F.egrChStatRefused, F.egrChStatAdm]))

theorem egrChStatNpkt_apart_adm : (F.egrChStatNpkt n).Apart (F.egrChStatAdm n) :=
  .inr (.inl (by simp [F.egrChStatNpkt, F.egrChStatAdm]))

theorem egrChCommit_not_mem_egrLoads : R.egrChCommit n ∉ egrLoads := not_mem_egrLoads (by unfold R.egrChCommit; omega)

theorem egrChStat_not_mem_egrLoads : R.egrChStat n ∉ egrLoads := not_mem_egrLoads (by unfold R.egrChStat; omega)

end

theorem requestReg_egrChCommit : ∀ n < 256, RequestReg (R.egrChCommit n) [] := by
  have row : ∀ n < 256, (findReg (R.egrChCommit n)).map RegRow.fields = some [⟨0, 1, .w1s, .any, false⟩] := by
    decide +kernel
  exact fun n hn => ⟨row n hn, by simp⟩

theorem State.frame_showEgress (s : State) : s.Frame s.showEgress egrLoads [] := by
  refine ((State.Frame.refl s egrLoads []).foldl (fun u l hl hu => ?_)).put (by simp [egrLoads, F.egrMemPbufUsed])
  have shown : R.egrLnLoad l ∈ egrLoads := List.mem_cons_of_mem _ (List.mem_map_of_mem hl)
  exact (hu.put shown).put shown

/-! The check of a commit (R360) -/

section
variable (s : State) (n : Nat)

theorem State.egrReason_le : s.egrReason n ≤ 8 := by
  unfold State.egrReason
  dsimp only
  split_ifs <;> decide

/-- The commit is refused for reason r. -/
def State.egrRefused (r : Nat) : State :=
  (((s.flag (F.egrChCommitCommit n) false).flag (F.egrChStatRefused n) true).put (F.egrChStatRefuse n) r).refusalEv 17 1 n r

/-- The commit is applied; the loads are still to be shown. -/
def State.egrApplied : State :=
  (((s.flag (F.egrChCommitCommit n) false).activate (egrAddrs n)).flag (F.egrChStatAdm n) true).put (F.egrChStatNpkt n)
    (min 0xFFFF (s.nPkt false (s.admitted n) n))

theorem State.frame_egrRefused (r : Nat) :
    s.Frame (s.egrRefused n r) [R.egrChCommit n, R.egrChStat n, R.selEvtOvf] [.arb] :=
  ((((State.Frame.refl s _ _).flag (by simp [F.egrChCommitCommit])).flag (by simp [F.egrChStatRefused])).put
    (by simp [F.egrChStatRefuse])).refusalEv (by simp) (by simp)

theorem State.frame_egrApplied : s.Frame (s.egrApplied n) [R.egrChCommit n, R.egrChStat n] [.act] :=
  ((((State.Frame.refl s _ _).flag (by simp [F.egrChCommitCommit])).activate (by simp)).flag (by simp [F.egrChStatAdm])).put
    (by simp [F.egrChStatNpkt])

/-- A refused commit: COMMIT is 0, REFUSED is 1, REFUSE reads the reason and ADM keeps its value. -/
theorem State.egrRefused_shows {r : Nat} (hr : r < 16) :
    (s.egrRefused n r).is (F.egrChCommitCommit n) = false ∧ (s.egrRefused n r).is (F.egrChStatRefused n) = true
      ∧ (s.egrRefused n r).get (F.egrChStatRefuse n) = r
      ∧ (s.egrRefused n r).is (F.egrChStatAdm n) = s.is (F.egrChStatAdm n) := by
  have commit := egrChCommit_ne_egrChStat n
  unfold State.egrRefused
  refine ⟨?_, ?_, ?_, ?_⟩
  · rw [(State.frame_refusalEv _ _ _ _).is _ (egrChCommit_not_mem_selEvtOvf n), State.is_put_apart _ _ (.inl commit.symm),
      State.is_flag_apart _ _ (.inl commit.symm), State.is_flag _ _ _ (by simp [F.egrChCommitCommit]) rfl]
  · rw [(State.frame_refusalEv _ _ _ _).is _ (egrChStat_not_mem_selEvtOvf n),
      State.is_put_apart _ _ (egrChStatRefuse_apart_refused n), State.is_flag _ _ _ (by simp [F.egrChStatRefused]) rfl]
  · rw [(State.frame_refusalEv _ _ _ _).get _ (egrChStat_not_mem_selEvtOvf n), State.get_put _ _ _ (by simp [F.egrChStatRefuse])]
    exact Nat.mod_eq_of_lt hr
  · rw [(State.frame_refusalEv _ _ _ _).is _ (egrChStat_not_mem_selEvtOvf n),
      State.is_put_apart _ _ (egrChStatRefuse_apart_adm n), State.is_flag_apart _ _ (egrChStatRefused_apart_adm n),
      State.is_flag_apart _ _ (.inl commit)]

/-- An applied commit: COMMIT is 0 and ADM is 1. -/
theorem State.egrApplied_shows :
    (s.egrApplied n).is (F.egrChCommitCommit n) = false ∧ (s.egrApplied n).is (F.egrChStatAdm n) = true := by
  have commit := egrChCommit_ne_egrChStat n
  unfold State.egrApplied
  constructor
  · rw [State.is_put_apart _ _ (.inl commit.symm), State.is_flag_apart _ _ (.inl commit.symm)]
    exact State.is_flag s _ _ (by simp [F.egrChCommitCommit]) rfl
  · rw [State.is_put_apart _ _ (egrChStatNpkt_apart_adm n), State.is_flag _ _ _ (by simp [F.egrChStatAdm]) rfl]

/-- The shadow registers of the channel become active, and no other one. -/
theorem State.actWord_egrApplied (a : Nat) :
    (s.egrApplied n).actWord a = if a ∈ egrAddrs n then s.word a else s.actWord a := by
  have commit : ∀ a ∈ egrAddrs n, R.egrChCommit n ≠ a := fun a ha e => egrChCommit_not_mem_egrAddrs n (e ▸ ha)
  have flags : (s.egrApplied n).actWord a = ((s.flag (F.egrChCommitCommit n) false).activate (egrAddrs n)).actWord a := by
    simp only [State.actWord, State.egrApplied, State.put_act, State.flag_act]
  rw [flags, State.actWord_activate]
  split
  · next ha => exact s.word_flag_ne false (commit a ha)
  · simp only [State.actWord, State.flag_act]

variable {s n}

theorem State.egrCommit_refused (h : s.egrReason n ≠ 0) : s.egrCommit n = s.egrRefused n (s.egrReason n) :=
  if_neg (fun e => h (Nat.eq_of_beq_eq_true e))

theorem State.egrCommit_accepted (h : s.egrReason n = 0) : s.egrCommit n = (s.egrApplied n).showEgress :=
  if_pos (by rw [h]; rfl)

/-- A waiting commit of an IDLE channel is checked at the next tick. -/
theorem State.exec_egrCommitCheck (hn : n < 256) (waits : s.is (F.egrChCommitCommit n) = true) (idle : s.admitted n = false) :
    exec (.egrCommitCheck n) s = .next (s.tick.egrCommit n) := by
  simp only [exec, execEgrCommitCheck, Nat.mod_eq_of_lt hn, State.egrCheck, waits, idle, Bool.not_false, Bool.and_self, if_true]

/-- EGR_COMMIT_CHECK of a waiting commit that is refused. -/
theorem State.egrCommitCheck_refused (hn : n < 256) (waits : s.is (F.egrChCommitCommit n) = true) (idle : s.admitted n = false)
    (reason : s.tick.egrReason n ≠ 0) :
    s.Does (.egrCommitCheck n) [R.egrChCommit n, R.egrChStat n, R.selEvtOvf] [.now, .tim, .timers, .arb] (fun t =>
      t.is (F.egrChCommitCommit n) = false ∧ t.is (F.egrChStatRefused n) = true
        ∧ t.get (F.egrChStatRefuse n) = s.tick.egrReason n ∧ t.is (F.egrChStatAdm n) = s.is (F.egrChStatAdm n)
        ∧ t.now % 1000 = 0) := by
  have frame := s.tick.frame_egrRefused n (s.tick.egrReason n)
  obtain ⟨gone, refused, refuse, adm⟩ := s.tick.egrRefused_shows n (Nat.lt_of_le_of_lt (s.tick.egrReason_le n) (by decide))
  refine ⟨s.tick.egrRefused n (s.tick.egrReason n), ?_, (s.frame_tick.mono (by simp) (by simp)).andThen frame (by simp) (by simp),
    gone, refused, refuse, adm.trans (s.frame_tick.is _ (by simp)), ?_⟩
  · rw [State.exec_egrCommitCheck hn waits idle, State.egrCommit_refused reason]
  · rw [frame.now (by simp), s.tick_now]

/-- EGR_COMMIT_CHECK of a waiting commit that passes. -/
theorem State.egrCommitCheck_accepted (hn : n < 256) (waits : s.is (F.egrChCommitCommit n) = true) (idle : s.admitted n = false)
    (reason : s.tick.egrReason n = 0) :
    s.Does (.egrCommitCheck n) ([R.egrChCommit n, R.egrChStat n, R.egrMem] ++ (List.range 256).map R.egrLnLoad)
      [.now, .tim, .timers, .act] (fun t =>
        t.is (F.egrChCommitCommit n) = false ∧ t.is (F.egrChStatAdm n) = true ∧ (∀ a, a ∈ egrAddrs n → t.actWord a = s.word a)
          ∧ (∀ a, a ∉ egrAddrs n → t.actWord a = s.actWord a) ∧ t.now % 1000 = 0) := by
  have applied := s.tick.frame_egrApplied n
  have shown := (s.tick.egrApplied n).frame_showEgress
  obtain ⟨gone, adm⟩ := s.tick.egrApplied_shows n
  have active : ∀ a, (s.tick.egrApplied n).showEgress.actWord a = if a ∈ egrAddrs n then s.word a else s.actWord a := fun a => by
    rw [shown.actWord (by simp), State.actWord_egrApplied, s.frame_tick.word (by simp), s.frame_tick.actWord (by simp)]
  refine ⟨(s.tick.egrApplied n).showEgress, ?_, ?_, (shown.is _ (egrChCommit_not_mem_egrLoads n)).trans gone,
    (shown.is _ (egrChStat_not_mem_egrLoads n)).trans adm, fun a ha => (active a).trans (if_pos ha),
    fun a ha => (active a).trans (if_neg ha), ?_⟩
  · rw [State.exec_egrCommitCheck hn waits idle, State.egrCommit_accepted reason]
  · exact ((s.frame_tick.mono (by simp) (by simp)).andThen applied (by simp) (by simp)).andThen shown
      (fun a ha => List.mem_append_right [R.egrChCommit n, R.egrChStat n] ha) (by simp)
  · rw [shown.now (by simp), applied.now (by simp), s.tick_now]

end

/-- Settles O47 (R351, R355, R360). -/
theorem egressCommits : Obligations.EgressCommits := by
  intro s h n v hn
  refine ⟨fun ready => ?_, fun waits idle => ⟨fun reason => ?_, fun reason => ?_⟩⟩
  · exact (requestReg_egrChCommit n hn).writes (v := v) ready (by simp only [exec, execEgrCommit, Nat.mod_eq_of_lt hn])
  · exact State.egrCommitCheck_refused hn waits idle reason
  · exact State.egrCommitCheck_accepted hn waits idle reason

end Sys2Proof.Machine
end

