-- ==== Sys2Proof/Proofs/Retrievals.lean ====
section
/-!
SUPPORT. Sys2Proof/Proofs/Retrievals.lean: a port's retrieval request: what a change of RSTATE changes, and what START, ABORT, the
search, the read of a segment and the delivery of a record do (R371 to R374, R579); the statement of O55 settled.
-/

namespace Sys2Proof.Machine

/-! Frames -/

section
variable {s t : State} {q : List Nat} {m : List Part}

theorem State.Frame.setPort {h : Nat} {x : Port} (hf : s.Frame t q m) (hp : .ports ∈ m) : s.Frame (t.setPort h x) q m :=
  hf.part hp rfl (fun p hn => by cases p <;> simp_all [State.Same])

theorem State.Frame.sendMsi {h v : Nat} (hf : s.Frame t q m) (hp : .ports ∈ m) : s.Frame (t.sendMsi h v) q m :=
  hf.ite ((hf.setPort hp).ite (hf.setPort hp))

theorem State.Frame.irqPort {h v : Nat} (hf : s.Frame t q m) (hr : R.hstIrqStat h ∈ q) (hp : .ports ∈ m) :
    s.Frame (t.irqPort h v) q m :=
  ((hf.put hr).sendMsi hp).ite hf

theorem State.Frame.setReq {h : Nat} {x : Req} (hf : s.Frame t q m) (hr : .ring ∈ m) : s.Frame (t.setReq h x) q m :=
  hf.part hr rfl (fun p hn => by cases p <;> simp_all [State.Same, State.setReq])

theorem State.Frame.showRing (hf : s.Frame t q m) (free : R.rplFree ∈ q) (held : R.rplHeld ∈ q) : s.Frame t.showRing q m :=
  (hf.put free).put held

/-- A new RSTATE is sent as an event, and DONE and EMPTY interrupt the port. -/
theorem State.Frame.setRstate {h v : Nat} (hf : s.Frame t q m)
    (regs : ∀ a ∈ [R.rplRqStat h, R.selEvtOvf, R.rplFree, R.rplHeld], a ∈ q)
    (arb : .arb ∈ m) (irq : 3 ≤ v → R.hstIrqStat h ∈ q ∧ .ports ∈ m) : s.Frame (t.setRstate h v) q m := by
  have moved : s.Frame (t.moveTo (F.rplRqStatRstate h) v 18 1 h 4 0) q m :=
    hf.moveTo (regs _ (by simp [F.rplRqStatRstate])) (regs _ (by simp)) arb
  refine hf.ite (State.Frame.showRing ?_ (regs _ (by simp)) (regs _ (by simp)))
  by_cases ended : 3 ≤ v
  · exact moved.cond (fun _ hu => hu.irqPort (irq ended).1 (irq ended).2)
  · have working : Nat.ble 3 v = false := Bool.eq_false_iff.mpr (fun e => ended (Nat.le_of_ble_eq_true e))
    rwa [working, State.cond_false]

theorem State.Frame.req (hf : s.Frame t q m) (hr : .ring ∉ m) (h : Nat) : t.req h = s.req h := by
  simp only [State.req, show t.ring = s.ring from hf.2 .ring hr]

end

/-! The request of a port -/

section
variable (s : State) (h : Nat) (x : Req) (f : Fld)

@[simp] theorem State.req_setReq : (s.setReq h x).req h = x := by simp [State.req, State.setReq, State.setRing]

@[simp] theorem State.get_setReq : (s.setReq h x).get f = s.get f := rfl

theorem State.frame_showRing : s.Frame s.showRing [R.rplFree, R.rplHeld] [] :=
  (State.Frame.refl s _ _).showRing (by simp) (by simp)

@[simp] theorem State.req_showRing : s.showRing.req h = s.req h := s.frame_showRing.req (by simp) h

end

/-! RSTATE -/

/-- The registers that a change of RSTATE may change. -/
def rstateRegs (h : Nat) : List Nat := [R.rplRqStat h, R.hstIrqStat h, R.selEvtOvf, R.rplFree, R.rplHeld]

/-- They leave out what the block of the requests holds beside RPL_RQ_STAT of the port. -/
theorem not_mem_rstateRegs {a h : Nat} (hh : h < 4) (lo : 0x01200100 ≤ a) (hs : a ≠ R.rplRqStat h) : a ∉ rstateRegs h := by
  simp only [rstateRegs, List.mem_cons, List.not_mem_nil, or_false, hs, false_or, R.hstIrqStat, R.selEvtOvf, R.rplFree, R.rplHeld]
  omega

section
variable (s : State) {h v : Nat}

theorem State.frame_setRstate : s.Frame (s.setRstate h v) (rstateRegs h) [.arb, .ports] :=
  (State.Frame.refl s _ _).setRstate (by simp [rstateRegs]) (by simp) (by simp [rstateRegs])

@[simp] theorem State.req_setRstate (k : Nat) : (s.setRstate h v).req k = s.req k := s.frame_setRstate.req (by simp) k

theorem State.rstate_showRing : s.showRing.rstate h = s.rstate h :=
  s.frame_showRing.get _ (by simp [F.rplRqStatRstate, R.rplRqStat, R.rplFree, R.rplHeld]; omega)

theorem State.rstate_irqPort (k : Nat) (hh : h < 4) : (s.irqPort h k).rstate h = s.rstate h :=
  ((State.Frame.refl s [R.hstIrqStat h] [.ports]).irqPort (by simp) (by simp)).get _
    (by simp [F.rplRqStatRstate, R.rplRqStat, R.hstIrqStat]; omega)

/-- RSTATE reads the state it was set to. -/
theorem State.rstate_setRstate (hh : h < 4) (hv : v < 8) : (s.setRstate h v).rstate h = v := by
  unfold State.setRstate
  split
  · next same => exact Nat.eq_of_beq_eq_true same
  · rw [State.rstate_showRing]
    refine (State.get_cond _ (fun u => u.rstate_irqPort 3 hh)).trans ?_
    exact State.get_moveTo _ _ _ _ _ _ (by simp [F.rplRqStatRstate]) hv
      (by simp [F.rplRqStatRstate, R.rplRqStat, R.selEvtOvf]; omega)

/-- A request that has a segment open does not end. -/
theorem State.reqEnd_of_open {x : Nat} (he : (s.req h).open_ = some x) : s.reqEnd h = s := by
  simp [State.reqEnd, he]

end

/-! A write of RPL_RQ_CFG -/

theorem findReg_rplRqCfg : ∀ p < 4, findReg (R.rplRqCfg p) = some ⟨R.rplRqCfg 0, (0x40, 4), (4, 1),
    [⟨0, 8, .rw, .any, false⟩, ⟨8, 1, .rw, .any, false⟩, ⟨9, 1, .rw, .any, false⟩, ⟨10, 1, .w1s, .any, false⟩,
      ⟨11, 1, .wo, .any, false⟩, ⟨16, 16, .rw, .any, false⟩]⟩ := by
  decide +kernel

section
variable (s : State) (p : Nat) (v : Word)

/-- The request's configuration as written, with START reading 0. -/
def State.rqCfgStored : State := (s.store (R.rplRqCfg p) v allBits).flag (F.rplRqCfgStart p) false

theorem State.frame_rqCfgStored : s.Frame (s.rqCfgStored p v) [R.rplRqCfg p] [] :=
  (s.frame_store _ v allBits).flag (by simp [F.rplRqCfgStart])

theorem State.start_rqCfgStored : (s.rqCfgStored p v).is (F.rplRqCfgStart p) = false :=
  State.is_flag _ _ _ (by simp [F.rplRqCfgStart]) rfl

theorem State.chan_rqCfgStored (hp : p < 4) : (s.rqCfgStored p v).get (F.rplRqCfgChan p) = bitsAt v 0 8 := by
  rw [State.rqCfgStored, State.get_flag_apart _ _ (.inr (.inl (by simp [F.rplRqCfgStart, F.rplRqCfgChan])))]
  exact State.get_store (f := ⟨0, 8, .rw, .any, false⟩) (findReg_rplRqCfg p hp) ⟨rfl, rfl, by decide⟩ (by simp) (by decide)
    (by decide)

theorem State.writeRqCfg_abort (abort : bitsAt v 11 1 = 1) : s.writeRqCfg p v = (s.rqCfgStored p v).reqAbort p := by
  simp [State.writeRqCfg, State.rqCfgStored, abort]

theorem State.writeRqCfg_start (start : bitsAt v 10 1 = 1) (noAbort : bitsAt v 11 1 = 0) :
    s.writeRqCfg p v = (s.rqCfgStored p v).reqStart p := by
  simp [State.writeRqCfg, State.rqCfgStored, start, noAbort]

end

/-! START (R371, R376) -/

section
variable (s : State) (h : Nat)

/-- The request that START begins: what the registers of the port select. -/
def State.newReq : Req :=
  { chan := s.get (F.rplRqCfgChan h)
    epoch := if Nat.beq (s.get (F.rplRqCfgEpoch h)) 0 then s.epoch (s.get (F.rplRqCfgChan h)) else s.get (F.rplRqCfgEpoch h)
    byFrame := s.is (F.rplRqCfgByframe h)
    rap := s.is (F.rplRqCfgRap h)
    t0 := s.get64 (R.rplRqT0Lo h) (R.rplRqT0Hi h)
    t1 := s.get64 (R.rplRqT1Lo h) (R.rplRqT1Hi h) }

/-- The counters of a request. -/
def rqCounters : List Fld := [F.rplRqCntRec h, F.rplRqCntGap h, F.rplRqCntCrc h, F.rplRqCntKbytes h]

/-- The counters of the port's request take the value 0. -/
def State.reqCleared : State := (rqCounters h).foldl (fun u f => u.put f 0) s

theorem State.frame_reqCleared : s.Frame (s.reqCleared h) ((rqCounters h).map Fld.addr) [] :=
  (State.Frame.refl s _ _).foldl (fun _ _ hf hu => hu.put (List.mem_map_of_mem hf))

/-- Fields that are cleared one after the other read 0. -/
theorem State.get_foldl_put_zero {s : State} {l : List Fld} {f : Fld} (fits : f.lo + f.width ≤ 32)
    (apart : ∀ g ∈ l, g = f ∨ g.Apart f) (hf : f ∈ l ∨ s.get f = 0) : (l.foldl (fun u g => u.put g 0) s).get f = 0 := by
  induction l generalizing s with
  | nil => exact hf.resolve_left List.not_mem_nil
  | cons g l ih =>
    refine ih (fun k hk => apart k (List.mem_cons_of_mem g hk)) ?_
    by_cases e : g = f
    · subst e
      exact .inr (by rw [State.get_put _ _ _ fits, Nat.zero_mod])
    · have hg : g.Apart f := (apart g List.mem_cons_self).resolve_left e
      rw [State.get_put_apart _ _ hg]
      exact hf.imp_left (fun hm => (List.mem_cons.mp hm).resolve_left (Ne.symm e))

theorem State.get_reqCleared {f : Fld} (hf : f ∈ rqCounters h) : (s.reqCleared h).get f = 0 := by
  have word : ∀ g ∈ rqCounters h, g.lo = 0 ∧ g.width = 32 := by
    simp [rqCounters, F.rplRqCntRec, F.rplRqCntGap, F.rplRqCntCrc, F.rplRqCntKbytes]
  refine State.get_foldl_put_zero (by have := word f hf; omega) (fun g hg => ?_) (.inl hf)
  by_cases ha : g.addr = f.addr
  · obtain ⟨glo, gwidth⟩ := word g hg
    obtain ⟨flo, fwidth⟩ := word f hf
    exact .inl (by cases g; cases f; simp_all)
  · exact .inr (.inl ha)

@[simp] theorem State.req_reqCleared (k : Nat) : (s.reqCleared h).req k = s.req k := (s.frame_reqCleared h).req (by simp) k

end

/-! START and ABORT, taken at once -/

section
variable {s t : State} {h p : Nat} {v : Word}

/-- START with the retrieval ring on and no request at work. -/
theorem State.reqStart_of_free (on : s.is (F.hstRdCfgEn p) = true) (search : s.rstate p ≠ 1) (copy : s.rstate p ≠ 2) :
    s.reqStart p = ((s.setReq p (s.newReq p)).reqCleared p).setRstate p 1 := by
  have guard : (Nat.beq (s.rstate p) 1 || Nat.beq (s.rstate p) 2 || !s.is (F.hstRdCfgEn p)) = false := by
    simp [nat_beq_eq, on, search, copy]
  rw [State.reqStart, guard]
  rfl

theorem State.reqAbort_of_running (running : s.rstate p = 1 ∨ s.rstate p = 2) :
    s.reqAbort p = (s.setReq p {}).setRstate p 3 :=
  if_pos (by simpa [nat_beq_eq] using running)

/-- What a write of RPL_RQ_CFG, taken at once, has changed before START or ABORT acts. -/
theorem State.Taken.frame_rqCfgStored {a : Nat} {w : Word} (taken : s.Taken t h a w) (v : Word) :
    s.Frame (t.rqCfgStored p v) [R.hstCntWrites h, R.rplRqCfg p] takingParts :=
  (taken.frame.mono (by simp) (fun _ => id)).andThen (t.frame_rqCfgStored p v) (by simp) (by simp)

/-- RPL_RQ_CFG is the first register of a request. -/
theorem not_mem_rqCfgTaken {a : Nat} (hh : h < 4) (above : R.rplRqCfg p < a) : a ∉ [R.hstCntWrites h, R.rplRqCfg p] := by
  simp only [List.mem_cons, List.not_mem_nil, or_false, R.hstCntWrites, R.rplRqCfg] at above ⊢
  omega

theorem rplRqCfg_lt (p : Nat) : R.rplRqCfg p < R.rplRqStat p ∧ R.rplRqCfg p < R.rplRqT0Lo p ∧ R.rplRqCfg p < R.rplRqT0Hi p
    ∧ R.rplRqCfg p < R.rplRqT1Lo p ∧ R.rplRqCfg p < R.rplRqT1Hi p := by
  simp [R.rplRqCfg, R.rplRqStat, R.rplRqT0Lo, R.rplRqT0Hi, R.rplRqT1Lo, R.rplRqT1Hi]

theorem rqCounters_addr {p : Nat} {f : Fld} (hf : f ∈ rqCounters p) : R.rplRqStat p < f.addr := by
  revert f
  simp [rqCounters, F.rplRqCntRec, F.rplRqCntGap, F.rplRqCntCrc, F.rplRqCntKbytes, R.rplRqStat, R.rplRqCntRec, R.rplRqCntGap,
    R.rplRqCntCrc, R.rplRqCntKbytes]

/-- What START leaves: SEARCHING, with the counters 0 and the configuration as it was. -/
theorem State.reqStarted_shows (s : State) (hp : p < 4) (x : Req) :
    (((s.setReq p x).reqCleared p).setRstate p 1).rstate p = 1
      ∧ (∀ f ∈ rqCounters p, (((s.setReq p x).reqCleared p).setRstate p 1).get f = 0)
      ∧ (((s.setReq p x).reqCleared p).setRstate p 1).is (F.rplRqCfgStart p) = s.is (F.rplRqCfgStart p) := by
  refine ⟨State.rstate_setRstate _ hp (by decide), fun f hf => ?_, ?_⟩
  · have above := rqCounters_addr hf
    rw [(State.frame_setRstate _).get _ (not_mem_rstateRegs hp (by unfold R.rplRqStat at above; omega) (by omega)),
      State.get_reqCleared _ _ hf]
  · have other : R.rplRqCfg p ∉ (rqCounters p).map Fld.addr := fun hm => by
      obtain ⟨f, hf, addr⟩ := List.mem_map.mp hm
      have above := rqCounters_addr hf
      have first := rplRqCfg_lt p
      omega
    have block : R.rplRqCfg p ∉ rstateRegs p :=
      not_mem_rstateRegs hp (by unfold R.rplRqCfg; omega) (rplRqCfg_lt p).1.ne
    rw [(State.frame_setRstate _).is _ block, (State.frame_reqCleared _ _).is _ other]
    rfl

/-- RPL_REQUEST_START with the ring on and no request at work. -/
theorem State.rplRequestStart_writes (ready : s.Ready h) (hp : p < 4) (start : bitsAt v 10 1 = 1) (noAbort : bitsAt v 11 1 = 0)
    (on : s.is (F.hstRdCfgEn p) = true) (search : s.rstate p ≠ 1) (copy : s.rstate p ≠ 2) :
    s.Writes h (.rplRequestStart h p v) ([R.rplRqCfg p, R.rplRqStat p, R.rplRqCntRec p, R.rplRqCntGap p, R.rplRqCntCrc p,
      R.rplRqCntKbytes p, R.selEvtOvf] ++ [R.rplFree, R.rplHeld]) [.ring] (fun t => t.rstate p = 1
        ∧ t.get (F.rplRqCntRec p) = 0 ∧ t.get (F.rplRqCntGap p) = 0 ∧ t.get (F.rplRqCntCrc p) = 0
        ∧ t.get (F.rplRqCntKbytes p) = 0 ∧ t.is (F.rplRqCfgStart p) = false ∧ (t.req p).chan = bitsAt v 0 8
        ∧ (t.req p).t0 = s.get64 (R.rplRqT0Lo p) (R.rplRqT0Hi p) ∧ (t.req p).t1 = s.get64 (R.rplRqT1Lo p) (R.rplRqT1Hi p)) := by
  have port : h < 4 := ready.2.1
  refine State.writes_of_taken ready (by simp only [exec, execRplRequestStart, Nat.mod_eq_of_lt hp]; rfl) (fun t taken => ?_)
  have stored := taken.frame_rqCfgStored (p := p) v
  obtain ⟨stat, t0Lo, t0Hi, t1Lo, t1Hi⟩ := rplRqCfg_lt p
  have state : (t.rqCfgStored p v).rstate p = s.rstate p := stored.get _ (not_mem_rqCfgTaken port stat)
  have ring : (t.rqCfgStored p v).is (F.hstRdCfgEn p) = s.is (F.hstRdCfgEn p) :=
    stored.is _ (by simp [F.hstRdCfgEn, R.hstRdCfg, R.hstCntWrites, R.rplRqCfg]; omega)
  rw [State.writeRqCfg_start t p v start noAbort,
    State.reqStart_of_free (ring.trans on) (state.trans_ne search) (state.trans_ne copy)]
  obtain ⟨searching, cleared, cfg⟩ := (t.rqCfgStored p v).reqStarted_shows hp ((t.rqCfgStored p v).newReq p)
  refine ⟨?_, searching, cleared _ (by simp [rqCounters]), cleared _ (by simp [rqCounters]), cleared _ (by simp [rqCounters]),
    cleared _ (by simp [rqCounters]), cfg.trans (t.start_rqCfgStored p v), ?_, ?_, ?_⟩
  · exact ((((t.frame_rqCfgStored p v).mono (by simp) (by simp)).setReq (by simp)).andThen (State.frame_reqCleared _ p)
      (by simp [rqCounters, F.rplRqCntRec, F.rplRqCntGap, F.rplRqCntCrc, F.rplRqCntKbytes]) (by simp)).setRstate
      (by simp) (by simp [takingParts]) (by simp)
  · rw [State.req_setRstate, State.req_reqCleared, State.req_setReq]
    exact t.chan_rqCfgStored p v hp
  · rw [State.req_setRstate, State.req_reqCleared, State.req_setReq]
    exact stored.get64 (not_mem_rqCfgTaken port t0Lo) (not_mem_rqCfgTaken port t0Hi)
  · rw [State.req_setRstate, State.req_reqCleared, State.req_setReq]
    exact stored.get64 (not_mem_rqCfgTaken port t1Lo) (not_mem_rqCfgTaken port t1Hi)

/-- RPL_REQUEST_ABORT with ABORT = 1 of a request at work (R374). -/
theorem State.rplRequestAbort_writes (ready : s.Ready h) (hp : p < 4) (abort : bitsAt v 11 1 = 1)
    (running : s.rstate p = 1 ∨ s.rstate p = 2) :
    s.Writes h (.rplRequestAbort h p v) ([R.rplRqCfg p, R.rplRqStat p, R.hstIrqStat p, R.selEvtOvf] ++ [R.rplFree, R.rplHeld])
      [.ring] (fun t => t.rstate p = 3 ∧ t.req p = {}) := by
  refine State.writes_of_taken ready (by simp only [exec, execRplRequestAbort, Nat.mod_eq_of_lt hp]; rfl) (fun t taken => ?_)
  have state : (t.rqCfgStored p v).rstate p = s.rstate p :=
    (taken.frame_rqCfgStored v).get _ (not_mem_rqCfgTaken ready.2.1 (rplRqCfg_lt p).1)
  rw [State.writeRqCfg_abort t p v abort, State.reqAbort_of_running (state.symm ▸ running)]
  refine ⟨?_, State.rstate_setRstate _ hp (by decide), (State.req_setRstate _ p).trans (State.req_setReq _ p _)⟩
  exact (((t.frame_rqCfgStored p v).mono (by simp) (by simp)).setReq (by simp)).setRstate (by simp) (by simp [takingParts])
    (by simp [takingParts])

end

/-! The search (R371) -/

section
variable (s : State) (p : Nat)

/-- The request that delivers from frame lo on, with frame hi the first it selects. -/
def Req.since (q : Req) (lo hi : Nat) : Req := { q with lo := lo, hi := hi }

/-- The segments that hold the channel and epoch of the port's request, in the order they were taken. -/
def State.reqSegs : List Seg :=
  s.ring.segs.filter (fun y => Nat.beq y.chan (s.req p).chan && Nat.beq y.epoch (s.req p).epoch)

variable {s p}

theorem State.exec_retrievalSearchDone (hp : p < 4) : exec (.retrievalSearchDone p) s = .next (s.searchDone p) := by
  simp only [exec, execRetrievalSearchDone, Nat.mod_eq_of_lt hp]

/-- RETRIEVAL_SEARCH_DONE where no record is selected. -/
theorem State.retrievalSearchDone_empty (hp : p < 4) (search : s.rstate p = 1)
    (noRec : ((s.reqSegs p).flatMap Seg.recs).find? (s.req p).selects = none) :
    s.Does (.retrievalSearchDone p) ([R.rplRqStat p, R.hstIrqStat p, R.selEvtOvf] ++ [R.rplFree, R.rplHeld]) [.arb, .ports]
      (fun t => t.rstate p = 4) := by
  have done : s.searchDone p = s.setRstate p 4 := by
    unfold State.reqSegs at noRec
    simp only [State.searchDone, search, noRec]
    rfl
  exact ⟨_, (State.exec_retrievalSearchDone hp).trans (congrArg _ done), s.frame_setRstate, s.rstate_setRstate hp (by decide)⟩

/-- RETRIEVAL_SEARCH_DONE where f is the first record selected. -/
theorem State.retrievalSearchDone_copy {f : Rec} (hp : p < 4) (search : s.rstate p = 1)
    (first : ((s.reqSegs p).flatMap Seg.recs).find? (s.req p).selects = some f) :
    s.Does (.retrievalSearchDone p) ([R.rplRqStat p, R.selEvtOvf] ++ [R.rplFree, R.rplHeld]) [.arb, .ring] (fun t =>
      t.rstate p = 2 ∧ (t.req p).hi = f.k ∧ ((s.req p).rap = false → (t.req p).lo = f.k)
        ∧ (t.req p).todo = ((s.reqSegs p).filter (fun y => y.recs.any (t.req p).gives)).map Seg.seq) := by
  obtain ⟨lo, fromFirst, done⟩ : ∃ lo, ((s.req p).rap = false → lo = f.k) ∧ s.searchDone p =
      (s.setReq p { (s.req p).since lo f.k with todo := ((s.reqSegs p).filter (fun y =>
        y.recs.any ((s.req p).since lo f.k).gives)).map Seg.seq }).setRstate p 2 := by
    unfold State.reqSegs at first ⊢
    simp only [State.searchDone, search, first]
    exact ⟨_, fun rap => if_neg (by simp [rap]), rfl⟩
  refine ⟨_, (State.exec_retrievalSearchDone hp).trans (congrArg _ done), ?_, State.rstate_setRstate _ hp (by decide), ?_⟩
  · exact ((State.Frame.refl s _ _).setReq (by simp)).setRstate (by simp) (by simp) (by simp)
  · rw [State.req_setRstate, State.req_setReq]
    exact ⟨rfl, fromFirst, rfl⟩

end

/-! The read of a segment (R372) -/

/-- RETRIEVAL_SEGMENT_READ of a segment that still is the one of its index entry. -/
theorem State.retrievalSegmentRead_opens {s : State} {p x : Nat} {g : Seg} {rest : List Nat} (hp : p < 4) (copy : s.rstate p = 2)
    (closed : (s.req p).open_ = none) (next : (s.req p).todo = x :: rest)
    (there : s.ring.segs.find? (fun y => y.is (s.req p).chan (s.req p).epoch x) = some g) :
    s.Does (.retrievalSegmentRead p) [R.rplFree, R.rplHeld] [.ring] (fun t => (t.req p).open_ = some x ∧ (t.req p).todo = rest
      ∧ (t.req p).recs = g.recs.filter (s.req p).gives ∧ t.ring.segs = s.ring.segs) := by
  have read : s.segmentRead p
      = (s.setReq p { s.req p with todo := rest, open_ := some x, recs := g.recs.filter (s.req p).gives }).showRing := by
    simp only [State.segmentRead, copy, closed, next, there]
    rfl
  have step : exec (.retrievalSegmentRead p) s = .next (s.segmentRead p) := by
    simp only [exec, execRetrievalSegmentRead, Nat.mod_eq_of_lt hp]
  refine ⟨_, step.trans (congrArg _ read), ((State.Frame.refl s _ _).setReq (by simp)).showRing (by simp) (by simp), ?_⟩
  dsimp only
  rw [State.req_showRing, State.req_setReq]
  exact ⟨rfl, rfl, rfl, rfl⟩

/-! The delivery of a record (R373, R579) -/

section
variable (s : State) (p head : Nat) (q : Req) (bad : Bool)

/-- A record delivered, which leaves q of the request: the head of the retrieval ring moves past it and it counts, in CRC also
where its check values do not match. -/
def State.delivered : State :=
  ((((s.setReq p q).put (F.hstRdHeadOfs p) head).bump (F.rplRqCntRec p) 1).put (F.rplRqCntKbytes p) (q.bytes / 1024)).cond bad
    (fun u => u.bump (F.rplRqCntCrc p) 1)

theorem State.frame_delivered :
    s.Frame (s.delivered p head q bad) [R.hstRdHead p, R.rplRqCntRec p, R.rplRqCntKbytes p, R.rplRqCntCrc p] [.ring] :=
  (((((State.Frame.refl s _ _).setReq (by simp)).put (by simp [F.hstRdHeadOfs])).bump (by simp [F.rplRqCntRec])).put
    (by simp [F.rplRqCntKbytes])).cond (fun _ hu => hu.bump (by simp [F.rplRqCntCrc]))

@[simp] theorem State.req_delivered : (s.delivered p head q bad).req p = q := by
  cases bad <;> exact State.req_setReq s p q

theorem deliveredFlds_addr_ne (p : Nat) :
    (F.hstRdHeadOfs p).addr ≠ (F.rplRqCntRec p).addr ∧ (F.hstRdHeadOfs p).addr ≠ (F.rplRqCntKbytes p).addr
      ∧ (F.hstRdHeadOfs p).addr ≠ (F.rplRqCntCrc p).addr ∧ (F.rplRqCntRec p).addr ≠ (F.rplRqCntKbytes p).addr
      ∧ (F.rplRqCntRec p).addr ≠ (F.rplRqCntCrc p).addr ∧ (F.rplRqCntKbytes p).addr ≠ (F.rplRqCntCrc p).addr := by
  simp only [F.hstRdHeadOfs, F.rplRqCntRec, F.rplRqCntKbytes, F.rplRqCntCrc, R.hstRdHead, R.rplRqCntRec, R.rplRqCntKbytes,
    R.rplRqCntCrc]
  omega

/-- What a delivered record shows beside the bytes. -/
theorem State.delivered_shows :
    (s.delivered p head q bad).get (F.hstRdHeadOfs p) = head % 2 ^ 30
      ∧ (s.delivered p head q bad).get (F.rplRqCntRec p) = (s.get (F.rplRqCntRec p) + 1) % 2 ^ 32
      ∧ (s.delivered p head q bad).get (F.rplRqCntCrc p) = (s.get (F.rplRqCntCrc p) + (if bad then 1 else 0)) % 2 ^ 32 := by
  obtain ⟨headRec, headKb, headCrc, recKb, recCrc, kbCrc⟩ := deliveredFlds_addr_ne p
  unfold State.delivered
  refine ⟨?_, ?_, ?_⟩
  · rw [State.get_cond _ (fun u => u.get_bump_apart 1 (.inl headCrc.symm)), State.get_put_apart _ _ (.inl headKb.symm),
      State.get_bump_apart _ _ (.inl headRec.symm), State.get_put _ _ _ (by simp [F.hstRdHeadOfs])]
    rfl
  · rw [State.get_cond _ (fun u => u.get_bump_apart 1 (.inl recCrc.symm)), State.get_put_apart _ _ (.inl recKb.symm),
      State.get_bump _ _ _ (by simp [F.rplRqCntRec]), State.get_put_apart _ _ (.inl headRec), State.get_setReq]
    rfl
  · have before : ((((s.setReq p q).put (F.hstRdHeadOfs p) head).bump (F.rplRqCntRec p) 1).put (F.rplRqCntKbytes p)
        (q.bytes / 1024)).get (F.rplRqCntCrc p) = s.get (F.rplRqCntCrc p) := by
      rw [State.get_put_apart _ _ (.inl kbCrc), State.get_bump_apart _ _ (.inl recCrc), State.get_put_apart _ _ (.inl headCrc),
        State.get_setReq]
    cases bad
    · rw [State.cond_false, before]
      exact (Nat.mod_eq_of_lt (bitsAt_lt _ _ _)).symm
    · exact (State.get_bump _ _ _ (by simp [F.rplRqCntCrc])).trans (by rw [before]; rfl)

theorem State.rstate_delivered (hp : p < 4) : (s.delivered p head q bad).rstate p = s.rstate p :=
  (s.frame_delivered p head q bad).get _ (by
    simp [F.rplRqStatRstate, R.rplRqStat, R.hstRdHead, R.rplRqCntRec, R.rplRqCntKbytes, R.rplRqCntCrc]; omega)

end

section
variable {s : State} {p x head : Nat} {r r2 : Rec} {more : List Rec}

/-- The request that has the records `recs` still to deliver, with len bytes and a header more delivered. -/
def Req.after (q : Req) (recs : List Rec) (len : Nat) : Req := { q with recs := recs, bytes := q.bytes + 32 + len }

variable (hp : p < 4) (copy : s.rstate p = 2) (on : s.is (F.hstRdCfgEn p) = true) (up : s.linkUp p = true)
  (recs : (s.req p).recs = r :: r2 :: more) (opened : (s.req p).open_ = some x)
  (place : ringPlace (s.get (F.hstRdCfgSize p)) (s.get (F.hstRdHeadOfs p)) (s.get (F.hstRdTailOfs p)) r.len = some head)
include copy on up recs opened place

/-- A record that is not the last of its segment leaves the segment open. -/
theorem State.recordDelivered_of_more (bad : Bool) :
    s.recordDelivered p bad = (s.delivered p head ((s.req p).after (r2 :: more) r.len) bad).showRing := by
  have still : ((s.req p).after (r2 :: more) r.len).open_ = some x := opened
  have goesOn := State.reqEnd_of_open (s := s.delivered p head ((s.req p).after (r2 :: more) r.len) bad) (h := p) (x := x)
    (by rw [State.req_delivered, still])
  simp only [State.recordDelivered, copy, on, up, recs, place]
  exact congrArg State.showRing goesOn

include hp

/-- RETRIEVAL_RECORD_DELIVERY of a record that is not the last of its segment. -/
theorem State.retrievalRecordDelivery_of_more (bad : Bool) :
    s.Does (.retrievalRecordDelivery p bad) ([R.hstRdHead p, R.rplRqCntRec p, R.rplRqCntKbytes p, R.rplRqCntCrc p]
      ++ [R.rplFree, R.rplHeld]) [.ring] (fun t => t.get (F.hstRdHeadOfs p) = head % 2 ^ 30
        ∧ t.get (F.rplRqCntRec p) = (s.get (F.rplRqCntRec p) + 1) % 2 ^ 32
        ∧ t.get (F.rplRqCntCrc p) = (s.get (F.rplRqCntCrc p) + (if bad then 1 else 0)) % 2 ^ 32
        ∧ (t.req p).recs = r2 :: more ∧ (t.req p).bytes = (s.req p).bytes + 32 + r.len ∧ t.rstate p = 2) := by
  have step : exec (.retrievalRecordDelivery p bad) s = .next (s.recordDelivered p bad) := by
    simp only [exec, execRetrievalRecordDelivery, Nat.mod_eq_of_lt hp]
  rw [State.recordDelivered_of_more copy on up recs opened place] at step
  obtain ⟨moved, counted, mismatch⟩ := s.delivered_shows p head ((s.req p).after (r2 :: more) r.len) bad
  have shown := (s.delivered p head ((s.req p).after (r2 :: more) r.len) bad).frame_showRing
  have apart : ∀ {f : Fld}, f = F.hstRdHeadOfs p ∨ f = F.rplRqCntRec p ∨ f = F.rplRqCntCrc p →
      f.addr ∉ [R.rplFree, R.rplHeld] := by
    simp only [List.mem_cons, List.not_mem_nil, or_false, R.rplFree, R.rplHeld]
    rintro f (rfl | rfl | rfl)
    · simp only [F.hstRdHeadOfs, R.hstRdHead]; omega
    · simp only [F.rplRqCntRec, R.rplRqCntRec]; omega
    · simp only [F.rplRqCntCrc, R.rplRqCntCrc]; omega
  refine ⟨_, step, ((s.frame_delivered p head _ bad).mono (by simp) (fun _ => id)).andThen shown (by simp) (by simp),
    (shown.get _ (apart (by simp))).trans moved, (shown.get _ (apart (by simp))).trans counted,
    (shown.get _ (apart (by simp))).trans mismatch, ?_, ?_, ?_⟩
  · rw [State.req_showRing, State.req_delivered]; rfl
  · rw [State.req_showRing, State.req_delivered]; rfl
  · rw [State.rstate_showRing, State.rstate_delivered _ _ _ _ _ hp, copy]

end

/-- Settles O55 (R371 to R374, R579). -/
theorem retrievals : Obligations.Retrievals := by
  intro s h p x head v g r r2 rest more f bad hp
  refine ⟨fun ready => ⟨?_, ?_⟩, fun search => ⟨?_, ?_⟩, fun copy => ⟨?_, ?_⟩⟩
  · exact fun start noAbort on search copy => State.rplRequestStart_writes ready hp start noAbort on search copy
  · exact fun abort running => State.rplRequestAbort_writes ready hp abort running
  · exact fun noRec => State.retrievalSearchDone_empty hp search noRec
  · exact fun first => State.retrievalSearchDone_copy hp search first
  · exact fun closed next there => State.retrievalSegmentRead_opens hp copy closed next there
  · exact fun on up recs opened place => State.retrievalRecordDelivery_of_more hp copy on up recs opened place bad

end Sys2Proof.Machine
end

