-- ==== Sys2Proof/Proofs/AudioOps.lean ====
section
/-!
SUPPORT. Sys2Proof/Proofs/AudioOps.lean: the state field of an audio port and the tables behind ports and inputs: their frames,
and what each reads after the operations of chapter 14.
-/

namespace Sys2Proof.Machine

/-! Tables -/

section
variable {s t : State} {q : List Nat} {m : List Part}

theorem State.Frame.updAin {i : Nat} {f : AIn → AIn} (h : s.Frame t q m) (ha : .ains ∈ m) : s.Frame (t.updAin i f) q m :=
  h.setAin ha

theorem State.Frame.setAport {a : Nat} {x : APort} (h : s.Frame t q m) (ha : .aports ∈ m) : s.Frame (t.setAport a x) q m :=
  h.part ha rfl (fun p hp => by cases p <;> simp_all [State.Same, State.setAport])

theorem State.Frame.ain (h : s.Frame t q m) (ha : .ains ∉ m) (i : Nat) : t.ain i = s.ain i := by
  simp only [State.ain, show t.ains = s.ains from h.2 .ains ha]

end

section
variable (s : State) (i : Nat)

@[simp] theorem State.ain_setAin (x : AIn) : (s.setAin i x).ain i = x := by simp [State.ain, State.setAin]

@[simp] theorem State.ain_updAin (f : AIn → AIn) : (s.updAin i f).ain i = f (s.ain i) := s.ain_setAin i _

@[simp] theorem State.aport_setAport (x : APort) : (s.setAport i x).aport i = x := by simp [State.aport, State.setAport]

@[simp] theorem State.get_setAin (x : AIn) (g : Fld) : (s.setAin i x).get g = s.get g := rfl

@[simp] theorem State.get_updAin (f : AIn → AIn) (g : Fld) : (s.updAin i f).get g = s.get g := rfl

@[simp] theorem State.get_setAport (x : APort) (g : Fld) : (s.setAport i x).get g = s.get g := rfl

end

/-! Places in block AUD -/

/-- The count of the writes of a host port lies outside the block. -/
theorem aud_not_mem_count {a h : Nat} (hh : h < 4) (lo : 0x00080000 ≤ a) : a ∉ [R.hstCntWrites h] := by
  simp only [List.mem_singleton, R.hstCntWrites]
  omega

theorem audPortStat_ne_selEvtOvf (a : Nat) : R.audPortStat a ≠ R.selEvtOvf := by unfold R.audPortStat R.selEvtOvf; omega

/-- The registers that a change of PSTATE may change. -/
def audStateRegs (a : Nat) : List Nat := [R.audPortStat a, R.selEvtOvf]

theorem audPortCfg_not_mem_audStateRegs (a : Nat) : R.audPortCfg a ∉ audStateRegs a := by
  simp only [audStateRegs, List.mem_cons, List.not_mem_nil, or_false, R.audPortCfg, R.audPortStat, R.selEvtOvf]
  omega

/-! PSTATE -/

section
variable {s t : State} {q : List Nat} {m : List Part} {a v : Nat}

theorem State.Frame.setAudState (h : s.Frame t q m) (hs : R.audPortStat a ∈ q) (hr : R.selEvtOvf ∈ q) (ha : .arb ∈ m) :
    s.Frame (t.setAudState a v) q m :=
  (h.moveTo hs hr ha).cond (fun _ hu => hu.flag hs)

theorem State.frame_setAudState (s : State) (a v : Nat) : s.Frame (s.setAudState a v) (audStateRegs a) [.arb] :=
  (State.Frame.refl s _ _).setAudState (by simp [audStateRegs]) (by simp [audStateRegs]) (by simp)

theorem State.audState_setAudState (s : State) (a : Nat) (hv : v < 8) : (s.setAudState a v).audState a = v := by
  have lock : ∀ u : State, (u.flag (F.audPortStatLock a) false).get (F.audPortStatPstate a) = u.get (F.audPortStatPstate a) :=
    fun u => u.get_flag_apart _ (.inr (.inl (by simp [F.audPortStatPstate, F.audPortStatLock])))
  exact (State.get_cond _ lock).trans
    (State.get_moveTo _ _ _ _ _ _ (by simp [F.audPortStatPstate]) hv (audPortStat_ne_selEvtOvf a))

/-- A port that does not stop its clocks keeps LOCK (R379). -/
theorem State.lock_setAudState (s : State) (a : Nat) (hv : v ≠ AState.off) :
    (s.setAudState a v).is (F.audPortStatLock a) = s.is (F.audPortStatLock a) := by
  have clocks : Nat.beq v AState.off = false := by rw [nat_beq_eq, decide_eq_false hv]
  rw [State.setAudState, clocks, State.cond_false, State.is, State.get_moveTo_apart _ _ _ _ _ _ _
    (.inr (.inr (by simp [F.audPortStatPstate, F.audPortStatLock]))) (audPortStat_ne_selEvtOvf a)]
  rfl

/-- LOCK is a field of its own beside PSTATE. -/
theorem State.audState_flag_lock (s : State) (a : Nat) (b : Bool) : (s.flag (F.audPortStatLock a) b).audState a = s.audState a :=
  s.get_flag_apart b (.inr (.inl (by simp [F.audPortStatPstate, F.audPortStatLock])))

theorem State.lock_flag_lock (s : State) (a : Nat) (b : Bool) : (s.flag (F.audPortStatLock a) b).is (F.audPortStatLock a) = b :=
  s.is_flag _ b (by simp [F.audPortStatLock]) rfl

end

/-! The clock of a port (R378 to R380) -/

section
variable {s t : State} {a : Nat}

/-- What decides whether a port drives its own clock stays within a change of PSTATE. -/
theorem State.Frame.ownClock {m : List Part} (h : s.Frame t (audStateRegs a) m) : t.ownClock a = s.ownClock a := by
  have pll : R.clkPllStat (9 + a / 8) ∉ audStateRegs a := by
    simp only [audStateRegs, List.mem_cons, List.not_mem_nil, or_false, R.clkPllStat, R.audPortStat, R.selEvtOvf]
    omega
  simp only [State.ownClock, State.isAes3, State.pllUp, h.is (F.audPortCfgMaster a) (audPortCfg_not_mem_audStateRegs a),
    h.get (F.audPortCfgMode a) (audPortCfg_not_mem_audStateRegs a), h.get (F.clkPllStatPstate (9 + a / 8)) pll]

/-- A waiting port that gets its clock shows LOCK and primes. -/
theorem State.clockOk_of_wait (wait : s.audState a = AState.clkWait) :
    s.clockOk a = (s.flag (F.audPortStatLock a) true).setAudState a AState.prime :=
  if_pos (by rw [wait]; rfl)

theorem State.frame_clockOk (s : State) (a : Nat) : s.Frame (s.clockOk a) (audStateRegs a) [.arb] :=
  (((State.Frame.refl s _ _).flag (by simp [audStateRegs, F.audPortStatLock])).setAudState (by simp [audStateRegs])
    (by simp [audStateRegs]) (by simp)).ite (State.Frame.refl s _ _)

theorem State.frame_portOn (s : State) (a : Nat) : s.Frame (s.portOn a) (audStateRegs a) [.arb] :=
  (((s.frame_setAudState a AState.clkWait).andThen (State.frame_clockOk _ a) (fun _ => id) (fun _ => id))).ite
    (s.frame_setAudState a AState.clkWait)

/-- A port that starts waits for its clock, or primes where it drives its own (R380). -/
theorem State.audState_portOn (s : State) (a : Nat) :
    (s.portOn a).audState a = if s.ownClock a then AState.prime else AState.clkWait := by
  have waits := s.audState_setAudState a (v := AState.clkWait) (by decide)
  have own := (s.frame_setAudState a AState.clkWait).ownClock
  by_cases drives : s.ownClock a
  · rw [State.portOn, own, if_pos drives, if_pos drives, State.clockOk_of_wait waits, State.audState_setAudState _ _ (by decide)]
  · rw [State.portOn, own, if_neg drives, if_neg drives, waits]

end

/-! A frame that is cut short (R381) -/

section
variable {s t : State} {q : List Nat} {m : List Part} {a : Nat}

theorem State.Frame.partialFrame {got : Nat} (h : s.Frame t q m) (hr : R.audInCntRecv a ∈ q) (hp : R.audInCntPartial a ∈ q)
    (ha : .ains ∈ m) : s.Frame (t.partialFrame a got) q m :=
  ((h.bump hr).bump hp).setAin ha

theorem State.data_partialFrame (s : State) (a got : Nat) : ((s.partialFrame a got).ain a).data = 0 :=
  congrArg AIn.data (State.ain_setAin _ a _)

/-- The counters of an input lie outside the status of the port. -/
theorem State.word_partialFrame_audPortStat (s : State) (a got : Nat) :
    (s.partialFrame a got).word (R.audPortStat a) = s.word (R.audPortStat a) :=
  ((State.Frame.refl s [R.audInCntRecv a, R.audInCntPartial a] [.ains]).partialFrame (by simp) (by simp) (by simp)).word (by
    simp only [List.mem_cons, List.not_mem_nil, or_false, R.audPortStat, R.audInCntRecv, R.audInCntPartial]; omega)

end

/-! Numbers in two's complement -/

/-- A number within the range of `w` bits reads back from them. -/
theorem signedOf_unsignedOf_of_range {w : Nat} (hw : 0 < w) {z : Int} (lo : -(2 ^ (w - 1) : Int) ≤ z) (hi : z < 2 ^ (w - 1)) :
    signedOf w (unsignedOf w z) = z := by
  obtain ⟨k, rfl⟩ := Nat.exists_eq_succ_of_ne_zero hw.ne'
  simp only [Nat.succ_eq_add_one, Nat.add_sub_cancel] at lo hi
  have half : (2 : Int) ^ (k + 1) = 2 * 2 ^ k := by ring
  have read := unsignedOf_cast (k + 1) z
  have less : unsignedOf (k + 1) z % 2 ^ (k + 1) = unsignedOf (k + 1) z := Nat.mod_eq_of_lt (unsignedOf_lt _ _)
  have same : unsignedOf (k + 1) z < 2 ^ k ↔ (unsignedOf (k + 1) z : Int) < 2 ^ k := by exact_mod_cast Iff.rfl
  have value : z % 2 ^ (k + 1) = if z < 0 then z + 2 ^ (k + 1) else z := by
    split
    · rw [← Int.add_emod_right, Int.emod_eq_of_lt] <;> omega
    · exact Int.emod_eq_of_lt (by omega) (by omega)
  simp only [signedOf, Nat.succ_eq_add_one, less, Nat.add_sub_cancel, same, read, value]
  split_ifs <;> omega

theorem clampSigned_of_range {w : Nat} {z : Int} (lo : -(2 ^ (w - 1) : Int) ≤ z) (hi : z < 2 ^ (w - 1)) :
    clampSigned w z = z := by
  rw [clampSigned, min_eq_right (by omega), max_eq_right lo]

end Sys2Proof.Machine
end

