-- ==== Sys2Proof/Proofs/AudioWrites.lean ====
section
/-!
SUPPORT. Sys2Proof/Proofs/AudioWrites.lean: writes of AUD_PORT_CFG and AUD_IN_CFG: what is stored, what they start and stop, and
the bits that an enabled input locks; the statement of O59 settled.
-/

namespace Sys2Proof.Machine

/-! Bits outside the mask of a write -/

theorem bitsAt_maskWrite_outside {mask : Word} (old new : Word) {lo width : Nat} (h : bitsAt mask lo width = 0) :
    bitsAt (maskWrite mask old new) lo width = bitsAt old lo width := by
  refine Nat.eq_of_testBit_eq (fun i => ?_)
  rw [testBit_bitsAt, testBit_bitsAt]
  by_cases hi : i < width
  · have zero : mask.toNat.testBit (lo + i) = false := by
      have := testBit_bitsAt mask lo width i
      rw [h, Nat.zero_testBit] at this
      simpa [hi] using this.symm
    rw [BitVec.testBit_toNat] at zero
    simp only [maskWrite, BitVec.testBit_toNat, BitVec.getLsbD_or, BitVec.getLsbD_and, BitVec.getLsbD_not, zero, Bool.and_false,
      Bool.false_or, Bool.not_false, Bool.and_true]
    by_cases place : lo + i < 32
    · simp [place]
    · rw [BitVec.getLsbD_of_ge old (lo + i) (by omega), Bool.false_and]
  · simp [hi]

/-- A write leaves the bits outside its mask as they were. -/
theorem State.bitsAt_store_outside (s : State) (a : Nat) (v : Word) {mask : Word} {lo width : Nat}
    (h : bitsAt mask lo width = 0) : bitsAt ((s.store a v mask).word a) lo width = bitsAt (s.word a) lo width := by
  unfold State.store
  split
  · rw [State.word_setWord, bitsAt_maskWrite_outside _ _ h]
  · rfl

/-- Words that agree bit by bit are equal. -/
theorem word_eq_of_bits {v w : Word} (h : ∀ k < 32, bitsAt v k 1 = bitsAt w k 1) : v = w := by
  refine BitVec.eq_of_toNat_eq (Nat.eq_of_testBit_eq (fun k => ?_))
  by_cases hk : k < 32
  · have bit := congrArg (fun n => n.testBit 0) (h k hk)
    simpa only [testBit_bitsAt, Nat.lt_one_iff, decide_true, Bool.true_and, Nat.add_zero] using bit
  · rw [BitVec.testBit_toNat, BitVec.testBit_toNat, BitVec.getLsbD_of_ge v _ (by omega), BitVec.getLsbD_of_ge w _ (by omega)]

/-- A write that masks all bits but one, and writes this bit as it stands, leaves the register as it was. -/
theorem State.word_store_same (s : State) (a : Nat) (v : Word) {mask : Word} {n : Nat}
    (hm : ∀ k < 32, k ≠ n → bitsAt mask k 1 = 0) (bit : bitsAt ((s.store a v mask).word a) n 1 = bitsAt (s.word a) n 1) :
    (s.store a v mask).word a = s.word a := by
  refine word_eq_of_bits (fun k hk => ?_)
  by_cases e : k = n
  · rw [e, bit]
  · exact s.bitsAt_store_outside a v (hm k hk e)

/-- A store that leaves the word of its register as it was changes nothing. -/
theorem State.frame_store_same {s : State} {a : Nat} {v mask : Word} (h : (s.store a v mask).word a = s.word a) :
    s.Frame (s.store a v mask) [] [] := by
  have frame := s.frame_store a v mask
  refine ⟨fun b _ => ?_, frame.2⟩
  by_cases e : b = a
  · rw [e, h]
  · exact frame.word (by simpa using e)

/-! AUD_PORT_CFG (R380, R382) -/

theorem findReg_audPortCfg : ∀ a < 16, findReg (R.audPortCfg a) = some ⟨R.audPortCfg 0, (0x100, 16), (0x4, 1),
    [⟨0, 2, .rw, .between 0 2, true⟩, ⟨2, 1, .rw, .any, true⟩, ⟨3, 2, .rw, .any, true⟩, ⟨5, 1, .rw, .any, true⟩]⟩ := by
  decide +kernel

/-- AUD_PORT_CFG as a write leaves it: only EN is taken while the port's input is enabled. -/
def State.audPortStored (s : State) (a : Nat) (v : Word) : State :=
  s.store (R.audPortCfg a) v (if s.is (F.audInCfgEn a) then 0x20 else allBits)

section
variable (s : State) {a : Nat} (v : Word)

theorem State.frame_audPortStored : s.Frame (s.audPortStored a v) [R.audPortCfg a] [] := s.frame_store _ _ _

theorem State.audState_audPortStored : (s.audPortStored a v).audState a = s.audState a :=
  (s.frame_audPortStored v).get _ (by simp [F.audPortStatPstate, R.audPortStat, R.audPortCfg])

theorem State.en_audPortStored (ha : a < 16) : (s.audPortStored a v).get (F.audPortCfgEn a) = bitsAt v 5 1 :=
  State.get_store (f := ⟨5, 1, .rw, .any, true⟩) (findReg_audPortCfg a ha) ⟨rfl, rfl, by decide⟩ (by simp) (by decide)
    (by split <;> decide)

/-- A write with EN = 1 to an OFF port with EN = 0 starts it. -/
theorem State.writeAudPort_starts (en : bitsAt v 5 1 = 1) (off : s.is (F.audPortCfgEn a) = false)
    (stopped : s.audState a = AState.off) : s.writeAudPort a v = (s.audPortStored a v).portOn a := by
  have state := (s.audState_audPortStored (a := a) v).trans stopped
  unfold State.audPortStored at state ⊢
  simp only [State.writeAudPort, en, off, state, Nat.beq_refl, Bool.not_false, Bool.and_self, if_true]

/-- A write with EN = 1 to a port with EN = 1 stores. -/
theorem State.writeAudPort_keeps (en : bitsAt v 5 1 = 1) (on : s.is (F.audPortCfgEn a) = true) :
    s.writeAudPort a v = s.audPortStored a v := by
  simp only [State.writeAudPort, en, on, Nat.beq_refl, Bool.not_true, Bool.false_and, Bool.false_eq_true, if_true, if_false,
    State.audPortStored]

/-- A write with EN = 0 to a port in RUN ends its data at the next frame boundary and stops it. -/
theorem State.writeAudPort_stops (en : bitsAt v 5 1 = 0) (run : s.audState a = AState.run) :
    s.writeAudPort a v = ((s.audPortStored a v).inputOff a).setAudState a AState.stopping := by
  have state := (s.audState_audPortStored (a := a) v).trans run
  unfold State.audPortStored at state ⊢
  simp only [State.writeAudPort, en, state, AState.clkWait, AState.prime, AState.run, nat_beq_eq]
  rfl

/-- Whatever a write of AUD_PORT_CFG starts or stops, it changes PSTATE, LOCK and the data enable only. -/
theorem State.frame_writeAudPort : (s.audPortStored a v).Frame (s.writeAudPort a v) (audStateRegs a) [.arb, .ains] := by
  have stays := State.Frame.refl (s.audPortStored a v) (audStateRegs a) [.arb, .ains]
  have turned : ∀ {u : State} (x : Nat), (s.audPortStored a v).Frame u (audStateRegs a) [.arb, .ains] →
      (s.audPortStored a v).Frame (u.setAudState a x) (audStateRegs a) [.arb, .ains] := fun x h =>
    h.setAudState (by simp [audStateRegs]) (by simp [audStateRegs]) (by simp)
  have started := stays.andThen (State.frame_portOn _ a) (fun _ => id) (by simp)
  exact .ite (.ite started stays) (.ite (turned _ stays) (.ite (turned _ (stays.updAin (by simp))) stays))

/-- EN reads what was written. -/
theorem State.en_writeAudPort (ha : a < 16) : (s.writeAudPort a v).get (F.audPortCfgEn a) = bitsAt v 5 1 :=
  ((s.frame_writeAudPort v).get _ (audPortCfg_not_mem_audStateRegs a)).trans (s.en_audPortStored v ha)

/-- The bits of AUD_PORT_CFG that an enabled input locks. -/
theorem State.bit_writeAudPort (on : s.is (F.audInCfgEn a) = true) {k : Nat} (hk : k < 32) (hn : k ≠ 5) :
    bitsAt ((s.writeAudPort a v).word (R.audPortCfg a)) k 1 = bitsAt (s.word (R.audPortCfg a)) k 1 := by
  have outside : ∀ k < 32, k ≠ 5 → bitsAt 0x20 k 1 = 0 := by decide
  rw [(s.frame_writeAudPort v).word (audPortCfg_not_mem_audStateRegs a), State.audPortStored, on, if_pos rfl]
  exact s.bitsAt_store_outside _ v (outside k hk hn)

/-- EN = 1 written again, with the input enabled, changes nothing. -/
theorem State.frame_writeAudPort_same (ha : a < 16) (on : s.is (F.audInCfgEn a) = true) (en : bitsAt v 5 1 = 1)
    (was : s.is (F.audPortCfgEn a) = true) : s.Frame (s.writeAudPort a v) [] [] := by
  have bit := (s.en_audPortStored v ha).trans (en.trans (Nat.eq_of_beq_eq_true was).symm)
  rw [s.writeAudPort_keeps v en was]
  rw [State.audPortStored, on, if_pos rfl] at bit ⊢
  exact State.frame_store_same (s.word_store_same _ v (n := 5) (by decide) bit)

end

/-! AUD_IN_CFG (R380, R382, R387) -/

theorem findReg_audInCfg : ∀ i < 48, findReg (R.audInCfg i) = some ⟨R.audInCfg 0, (0x40, 48), (0x4, 1),
    [⟨0, 16, .rw, .any, true⟩, ⟨16, 1, .rw, .any, true⟩, ⟨17, 3, .rw, .any, true⟩, ⟨20, 8, .rw, .any, true⟩]⟩ := by
  decide +kernel

/-- AUD_IN_CFG as a write leaves it: only EN is taken while the input is enabled. -/
def State.audInStored (s : State) (i : Nat) (v : Word) : State :=
  s.store (R.audInCfg i) v (if s.is (F.audInCfgEn i) then 0x10000 else allBits)

section
variable (s : State) {i : Nat} (v : Word)

theorem State.frame_audInStored : s.Frame (s.audInStored i v) [R.audInCfg i] [] := s.frame_store _ _ _

theorem State.en_audInStored (hi : i < 48) : (s.audInStored i v).get (F.audInCfgEn i) = bitsAt v 16 1 :=
  State.get_store (f := ⟨16, 1, .rw, .any, true⟩) (findReg_audInCfg i hi) ⟨rfl, rfl, by decide⟩ (by simp) (by decide)
    (by split <;> decide)

/-- A write to a disabled input is taken with all its fields. -/
theorem State.fields_audInStored (hi : i < 48) (off : s.is (F.audInCfgEn i) = false) :
    (s.audInStored i v).get (F.audInCfgMask i) = bitsAt v 0 16 ∧ (s.audInStored i v).get (F.audInCfgChan i) = bitsAt v 20 8 := by
  rw [State.audInStored, off, if_neg Bool.false_ne_true]
  exact ⟨State.get_store (f := ⟨0, 16, .rw, .any, true⟩) (findReg_audInCfg i hi) ⟨rfl, rfl, by decide⟩ (by simp) (by decide)
      (by decide),
    State.get_store (f := ⟨20, 8, .rw, .any, true⟩) (findReg_audInCfg i hi) ⟨rfl, rfl, by decide⟩ (by simp) (by decide)
      (by decide)⟩

/-- A write to an enabled input leaves the bits outside EN as they were. -/
theorem State.bitsAt_audInStored (on : s.is (F.audInCfgEn i) = true) {lo width : Nat} (h : bitsAt 0x10000 lo width = 0) :
    bitsAt ((s.audInStored i v).word (R.audInCfg i)) lo width = bitsAt (s.word (R.audInCfg i)) lo width := by
  rw [State.audInStored, on, if_pos rfl]
  exact s.bitsAt_store_outside _ v h

/-- EN = 1 written to a disabled input is checked. -/
theorem State.writeAudIn_checks (en : bitsAt v 16 1 = 1) (off : s.is (F.audInCfgEn i) = false) :
    s.writeAudIn i v = (s.audInStored i v).inputCheck i := by
  simp only [State.writeAudIn, en, off, Nat.beq_refl, Bool.false_eq_true, if_true, if_false, State.audInStored]

section
variable (on : s.is (F.audInCfgEn i) = true)
include on

/-- EN = 1 written to an enabled input stores. -/
theorem State.writeAudIn_keeps (en : bitsAt v 16 1 = 1) : s.writeAudIn i v = s.audInStored i v := by
  simp only [State.writeAudIn, en, on, Nat.beq_refl, if_true, State.audInStored]

/-- EN = 0 written to an enabled input ends its data at the next frame boundary. -/
theorem State.writeAudIn_ends (en : bitsAt v 16 1 = 0) : s.writeAudIn i v = (s.audInStored i v).inputOff i := by
  simp only [State.writeAudIn, en, on, if_true, State.audInStored]
  rfl

/-- A write to an enabled input changes the data enable beside its register. -/
theorem State.frame_writeAudIn : (s.audInStored i v).Frame (s.writeAudIn i v) [] [.ains] := by
  rcases Nat.lt_succ_iff_lt_or_eq.mp (bitsAt_lt v 16 1) with en | en
  · rw [s.writeAudIn_ends v on (Nat.lt_one_iff.mp en)]
    exact (State.Frame.refl _ _ _).updAin (by simp)
  · rw [s.writeAudIn_keeps v on en]
    exact State.Frame.refl _ _ _

theorem State.en_writeAudIn (hi : i < 48) : (s.writeAudIn i v).get (F.audInCfgEn i) = bitsAt v 16 1 :=
  ((s.frame_writeAudIn v on).get _ (by simp)).trans (s.en_audInStored v hi)

theorem State.bitsAt_writeAudIn {lo width : Nat} (h : bitsAt 0x10000 lo width = 0) :
    bitsAt ((s.writeAudIn i v).word (R.audInCfg i)) lo width = bitsAt (s.word (R.audInCfg i)) lo width :=
  (congrArg (bitsAt · lo width) ((s.frame_writeAudIn v on).word (by simp))).trans (s.bitsAt_audInStored v on h)

/-- EN = 1 written again changes nothing. -/
theorem State.frame_writeAudIn_same (hi : i < 48) (en : bitsAt v 16 1 = 1) : s.Frame (s.writeAudIn i v) [] [] := by
  have bit := (s.en_audInStored v hi).trans (en.trans (Nat.eq_of_beq_eq_true on).symm)
  rw [s.writeAudIn_keeps v on en]
  rw [State.audInStored, on, if_pos rfl] at bit ⊢
  exact State.frame_store_same (s.word_store_same _ v (n := 16) (by decide) bit)

end

end

/-! The register arbiter in block AUD -/

section
variable (s : State) {x a i : Nat} (v : Word)

/-- In block AUD the writes with an effect of their own are those of the two configuration registers. -/
theorem State.writeReg_aud (lo : 0x00080000 ≤ x) (hi : x < 0x00100000) : s.writeReg x v =
    if isInst x (R.audPortCfg 0) 0x100 16 then s.writeAudPort (instOf x (R.audPortCfg 0) 0x100) v
    else if isInst x (R.audInCfg 0) 0x40 48 then s.writeAudIn (instOf x (R.audInCfg 0) 0x40) v
    else s.writePlainReg x v := by
  have low : Nat.blt x 0x00100000 = true := by rw [Nat.blt_eq]; omega
  have other : ∀ b, b < 0x00080000 → Nat.beq x b = false := fun b hb => by rw [nat_beq_eq]; exact decide_eq_false (by omega)
  have after : ∀ b, b < 0x00080000 → Nat.ble x b = false := fun b hb =>
    Bool.eq_false_iff.mpr (fun e => by have := Nat.le_of_ble_eq_true e; omega)
  have past : ∀ b, b ≤ 0x00080000 → Nat.blt x b = false := fun b hb =>
    Bool.eq_false_iff.mpr (fun e => by rw [Nat.blt_eq] at e; omega)
  have below : ∀ b st m, b + (m - 1) * st < 0x00080000 → isInst x b st m = false := fun b st m hb => isInst_of_gt (by omega)
  simp only [State.writeReg, low, if_true, State.writeLow, other R.selClr (by decide), other R.clkCtl (by decide),
    other R.timCtl (by decide), other R.nvmUpdCtl (by decide), other R.nvmRdCtl (by decide), after R.nvmUpdLen (by decide),
    past 0x00065000 (by decide), past (R.ckvCfg 8) (by decide), below (R.selTypeCfg 0) 4 256 (by decide),
    below (R.selForce 0) 4 2048 (by decide), below (R.bobExHclr 0) 0x80 148 (by decide), below (R.clkPllTgt 0) 0x40 76 (by decide),
    below (R.timDomCfg 0) 0x100 2 (by decide), below (R.hstEqCfg 0) 0x1000 4 (by decide),
    below (R.hstRdCfg 0) 0x1000 4 (by decide), below (R.ckvCtl 0) 0x100 8 (by decide), Bool.and_false, Bool.false_and,
    Bool.false_eq_true, if_false]

theorem State.writeReg_audPortCfg (ha : a < 16) : s.writeReg (R.audPortCfg a) v = s.writeAudPort a v := by
  have here : ∀ a < 16, isInst (R.audPortCfg a) (R.audPortCfg 0) 0x100 16 = true
      ∧ instOf (R.audPortCfg a) (R.audPortCfg 0) 0x100 = a := by
    decide
  rw [s.writeReg_aud v (by unfold R.audPortCfg; omega) (by unfold R.audPortCfg; omega), if_pos (here a ha).1, (here a ha).2]

theorem State.writeReg_audInCfg (hi : i < 48) : s.writeReg (R.audInCfg i) v = s.writeAudIn i v := by
  have here : ∀ i < 48, isInst (R.audInCfg i) (R.audInCfg 0) 0x40 48 = true
      ∧ instOf (R.audInCfg i) (R.audInCfg 0) 0x40 = i := by
    decide
  have port : isInst (R.audInCfg i) (R.audPortCfg 0) 0x100 16 = false := isInst_of_gt (by unfold R.audInCfg R.audPortCfg; omega)
  rw [s.writeReg_aud v (by unfold R.audInCfg; omega) (by unfold R.audInCfg; omega), port, if_neg Bool.false_ne_true,
    if_pos (here i hi).1, (here i hi).2]

/-- HOST_REGISTER_WRITE in block AUD goes through the register arbiter as every write but that of SYS_REQ. -/
theorem State.exec_hostRegisterWrite_aud (h : Nat) (lo : 0x00080000 ≤ x) :
    exec (.hostRegisterWrite h x v) s = .next (s.takeWrite h x v false (fun s => s.writeReg x v)) := by
  have other : Nat.beq x R.sysReq = false := by rw [nat_beq_eq]; exact decide_eq_false (by unfold R.sysReq; omega)
  simp only [exec, execHostRegisterWrite, other, Bool.false_eq_true, if_false]

theorem State.exec_write_audPortCfg (h : Nat) (ha : a < 16) : exec (.hostRegisterWrite h (R.audPortCfg a) v) s =
    .next (s.takeWrite h (R.audPortCfg a) v false (fun s => s.writeAudPort a v)) := by
  have effect : (fun s : State => s.writeReg (R.audPortCfg a) v) = fun s => s.writeAudPort a v :=
    funext (fun s => s.writeReg_audPortCfg v ha)
  rw [s.exec_hostRegisterWrite_aud v h (by unfold R.audPortCfg; omega), effect]

theorem State.exec_write_audInCfg (h : Nat) (hi : i < 48) : exec (.hostRegisterWrite h (R.audInCfg i) v) s =
    .next (s.takeWrite h (R.audInCfg i) v false (fun s => s.writeAudIn i v)) := by
  have effect : (fun s : State => s.writeReg (R.audInCfg i) v) = fun s => s.writeAudIn i v :=
    funext (fun s => s.writeReg_audInCfg v hi)
  rw [s.exec_hostRegisterWrite_aud v h (by unfold R.audInCfg; omega), effect]

theorem State.exec_audPortEnable (h : Nat) (ha : a < 16) :
    exec (.audPortEnable h a v) s = exec (.hostRegisterWrite h (R.audPortCfg a) (setBitsAt v 5 1 1)) s := by
  rw [s.exec_write_audPortCfg _ h ha]
  simp only [exec, execAudPortEnable, Nat.mod_eq_of_lt ha]

theorem State.exec_audPortDisable (h : Nat) (ha : a < 16) :
    exec (.audPortDisable h a v) s = exec (.hostRegisterWrite h (R.audPortCfg a) (setBitsAt v 5 1 0)) s := by
  rw [s.exec_write_audPortCfg _ h ha]
  simp only [exec, execAudPortDisable, Nat.mod_eq_of_lt ha]

theorem State.exec_audInputEnable (h : Nat) (hi : i < 48) :
    exec (.audInputEnable h i v) s = exec (.hostRegisterWrite h (R.audInCfg i) (setBitsAt v 16 1 1)) s := by
  rw [s.exec_write_audInCfg _ h hi]
  simp only [exec, execAudInputEnable, Nat.mod_eq_of_lt hi]

theorem State.exec_audInputDisable (h : Nat) (hi : i < 48) :
    exec (.audInputDisable h i v) s = exec (.hostRegisterWrite h (R.audInCfg i) (setBitsAt v 16 1 0)) s := by
  rw [s.exec_write_audInCfg _ h hi]
  simp only [exec, execAudInputDisable, Nat.mod_eq_of_lt hi]

end

/-! Fields that an enabled input locks (R382) -/

section
variable {s : State} {h i : Nat} (hr : s.Ready h) (v : Word) (on : s.is (F.audInCfgEn i) = true)
include hr on

/-- A write of AUD_IN_CFG of an enabled input, taken at once, acts on EN only. -/
theorem State.write_audInCfg_locked (hi : i < 48) :
    ∃ t u, s.Taken t h (R.audInCfg i) v ∧ exec (.hostRegisterWrite h (R.audInCfg i) v) s = .next u
      ∧ t.Frame u [R.audInCfg i] [.ains] ∧ (bitsAt v 16 1 = 1 → t.Frame u [] [])
      ∧ u.get (F.audInCfgEn i) = bitsAt v 16 1
      ∧ ∀ k, k < 32 → k ≠ 16 → bitsAt (u.word (R.audInCfg i)) k 1 = bitsAt (s.word (R.audInCfg i)) k 1 := by
  obtain ⟨t, taken, act⟩ := State.takeWrite_ready (R.audInCfg i) v false (fun s => s.writeAudIn i v) hr
  have place : R.audInCfg i ∉ [R.hstCntWrites h] := aud_not_mem_count hr.2.1 (by unfold R.audInCfg; omega)
  have still : t.is (F.audInCfgEn i) = true := (taken.frame.is _ place).trans on
  have outside : ∀ k < 32, k ≠ 16 → bitsAt 0x10000 k 1 = 0 := by decide
  refine ⟨t, t.writeAudIn i v, taken, by rw [s.exec_write_audInCfg v h hi, act], ?_, t.frame_writeAudIn_same v still hi,
    t.en_writeAudIn v still hi, fun k hk hn => ?_⟩
  · exact ((t.frame_audInStored v).mono (fun _ => id) (by simp)).andThen (t.frame_writeAudIn v still) (by simp) (fun _ => id)
  · rw [t.bitsAt_writeAudIn v still (outside k hk hn), taken.frame.word place]

/-- A write of AUD_PORT_CFG of a port whose input is enabled, taken at once, acts on EN only. -/
theorem State.write_audPortCfg_locked (hi : i < 16) :
    ∃ t u, s.Taken t h (R.audPortCfg i) v ∧ exec (.hostRegisterWrite h (R.audPortCfg i) v) s = .next u
      ∧ t.Frame u [R.audPortCfg i, R.audPortStat i, R.selEvtOvf] [.arb, .ains]
      ∧ (bitsAt v 5 1 = 1 → s.is (F.audPortCfgEn i) = true → t.Frame u [] [])
      ∧ u.get (F.audPortCfgEn i) = bitsAt v 5 1
      ∧ ∀ k, k < 32 → k ≠ 5 → bitsAt (u.word (R.audPortCfg i)) k 1 = bitsAt (s.word (R.audPortCfg i)) k 1 := by
  obtain ⟨t, taken, act⟩ := State.takeWrite_ready (R.audPortCfg i) v false (fun s => s.writeAudPort i v) hr
  have place : R.audPortCfg i ∉ [R.hstCntWrites h] := aud_not_mem_count hr.2.1 (by unfold R.audPortCfg; omega)
  have still : t.is (F.audInCfgEn i) = true :=
    (taken.frame.is _ (aud_not_mem_count hr.2.1 (by unfold F.audInCfgEn R.audInCfg; dsimp only; omega))).trans on
  refine ⟨t, t.writeAudPort i v, taken, by rw [s.exec_write_audPortCfg v h hi, act], ?_, fun en was => ?_,
    t.en_writeAudPort v hi, fun k hk hn => ?_⟩
  · exact ((t.frame_audPortStored v).mono (by simp) (by simp)).andThen (t.frame_writeAudPort v) (by simp [audStateRegs])
      (fun _ => id)
  · exact t.frame_writeAudPort_same v hi still en ((taken.frame.is _ place).trans was)
  · rw [t.bit_writeAudPort v still hk hn, taken.frame.word place]

end

/-- Settles O59 (R382). -/
theorem audioFieldsLocked : Obligations.AudioFieldsLocked := by
  intro s h i v ready
  refine ⟨fun hi on => ?_, fun hi on => ?_⟩
  · exact ⟨State.write_audInCfg_locked ready v on hi, s.exec_audInputEnable v h hi, s.exec_audInputDisable v h hi⟩
  · exact ⟨State.write_audPortCfg_locked ready v on hi, s.exec_audPortEnable v h hi, s.exec_audPortDisable v h hi⟩

end Sys2Proof.Machine
end

