-- ==== Sys2Proof/Proofs/AudioPorts.lean ====
section
/-!
SUPPORT. Sys2Proof/Proofs/AudioPorts.lean: the check of an audio input, and the commands that switch, clock and lose a port; the
statement of O56 settled.
-/

namespace Sys2Proof.Machine

/-! What the check of an input looks at (R387) -/

/-- Between s and t the check of input i finds the same: its slots, the fields of every input, and which others are enabled. -/
structure State.SameInputs (s t : State) (i : Nat) : Prop where
  slots   : t.slotCount i = s.slotCount i
  mask    : ∀ j, t.get (F.audInCfgMask j) = s.get (F.audInCfgMask j)
  firstCh : ∀ j, t.get (F.audInCfgFirstCh j) = s.get (F.audInCfgFirstCh j)
  chan    : ∀ j, t.get (F.audInCfgChan j) = s.get (F.audInCfgChan j)
  en      : ∀ j, j ≠ i → t.is (F.audInCfgEn j) = s.is (F.audInCfgEn j)

section
variable {s t u : State} {i : Nat}

theorem State.SameInputs.inputErr (h : s.SameInputs t i) : t.inputErr i = s.inputErr i := by
  have others : ∀ j, (!Nat.beq j i && t.is (F.audInCfgEn j)) = (!Nat.beq j i && s.is (F.audInCfgEn j)) := fun j => by
    by_cases e : j = i
    · rw [e, Nat.beq_refl]; rfl
    · rw [h.en j e]
  have feeds : ∀ j, t.feeds j = s.feeds j := fun j => by simp only [State.feeds, h.mask, h.firstCh]
  simp only [State.inputErr, feeds, h.slots, h.mask, h.firstCh, h.chan, others]

theorem State.SameInputs.trans (h : s.SameInputs t i) (k : t.SameInputs u i) : s.SameInputs u i :=
  ⟨k.slots.trans h.slots, fun j => (k.mask j).trans (h.mask j), fun j => (k.firstCh j).trans (h.firstCh j),
    fun j => (k.chan j).trans (h.chan j), fun j e => (k.en j e).trans (h.en j e)⟩

/-- A frame that leaves the configuration of ports, flows and inputs alone. -/
theorem State.Frame.sameInputs {q : List Nat} {m : List Part} (h : s.Frame t q m) (port : R.audPortCfg i ∉ q)
    (flow : R.ingAflCfg (i - 16) ∉ q) (input : ∀ j, R.audInCfg j ∉ q) : s.SameInputs t i where
  slots   := by
    simp only [State.slotCount, h.get (F.audPortCfgMode i) port, h.get (F.audPortCfgSlots i) port,
      h.get (F.ingAflCfgCh (i - 16)) flow]
  mask j    := h.get _ (input j)
  firstCh j := h.get _ (input j)
  chan j    := h.get _ (input j)
  en j _    := h.is _ (input j)

/-- The check of an input does not ask whether this input is enabled. -/
theorem State.sameInputs_flag_en (s : State) (b : Bool) (hi : i < 48) : s.SameInputs (s.flag (F.audInCfgEn i) b) i := by
  have frame : s.Frame (s.flag (F.audInCfgEn i) b) [R.audInCfg i] [] :=
    (State.Frame.refl s _ _).flag (by simp [F.audInCfgEn])
  have port : R.audPortCfg i ∉ [R.audInCfg i] := by simp only [List.mem_singleton, R.audPortCfg, R.audInCfg]; omega
  have flow : R.ingAflCfg (i - 16) ∉ [R.audInCfg i] := by simp only [List.mem_singleton, R.ingAflCfg, R.audInCfg]; omega
  refine ⟨?_, fun j => ?_, fun j => ?_, fun j => ?_, fun j e => ?_⟩
  · simp only [State.slotCount, frame.get (F.audPortCfgMode i) port, frame.get (F.audPortCfgSlots i) port,
      frame.get (F.ingAflCfgCh (i - 16)) flow]
  · exact s.get_flag_apart b (.inr (.inl (by simp [F.audInCfgEn, F.audInCfgMask])))
  · exact s.get_flag_apart b (.inr (.inr (by simp [F.audInCfgEn, F.audInCfgFirstCh])))
  · exact s.get_flag_apart b (.inr (.inr (by simp [F.audInCfgEn, F.audInCfgChan])))
  · exact s.is_flag_apart b (.inl (by simp only [F.audInCfgEn, R.audInCfg]; omega))

end

/-! The check of an input (R387, R396) -/

/-- The counters of an input. -/
def audInCounters (i : Nat) : List Nat := (List.range 11).map (fun k => R.audInCntRecv i + 4 * k)

/-- They and the status of the input are no configuration. -/
theorem not_mem_audInState {a i : Nat} (h : a % 0x40 = 0 ∨ 0x00085000 ≤ a) (hi : i < 48) :
    a ∉ [R.audInStat i, R.selEvtOvf] ∧ a ∉ audInCounters i := by
  simp only [audInCounters, List.mem_cons, List.not_mem_nil, or_false, List.mem_map, List.mem_range, R.audInStat, R.selEvtOvf,
    R.audInCntRecv]
  refine ⟨by omega, ?_⟩
  rintro ⟨k, hk, rfl⟩
  omega

/-- An input that the check refuses with reason e: EN is 0 again, the reason is shown, and the refusal is reported. -/
def State.inputRefused (s : State) (i e : Nat) : State :=
  (((s.flag (F.audInCfgEn i) false).put (F.audInStatErr i) e).flag (F.audInStatRefused i) true).refusalEv 19 2 i e

/-- The counters of an input at 0. -/
def State.inputCleared (s : State) (i : Nat) : State := s.each (List.range 11) (fun s k => s.setWord (R.audInCntRecv i + 4 * k) 0)

section
variable (s : State) (i : Nat)

theorem State.inputCheck_of_refused (h : s.inputErr i ≠ 0) : s.inputCheck i = s.inputRefused i (s.inputErr i) := by
  simp only [State.inputCheck, nat_beq_eq, decide_eq_false h, Bool.not_false, if_true]
  rfl

/-- An allowed input starts with its counters at 0 and nothing stored. -/
theorem State.frame_inputCheck_of_allowed (h : s.inputErr i = 0) : (s.inputCleared i).Frame (s.inputCheck i) [] [.ains] := by
  simp only [State.inputCheck, h, Nat.beq_refl, Bool.not_true, Bool.false_eq_true, if_false]
  exact (State.Frame.refl (s.inputCleared i) _ _).setAin (by simp)

theorem State.inputErr_le : s.inputErr i ≤ 3 := by
  unfold State.inputErr
  dsimp only
  split_ifs <;> decide

/-- A refused input shows REFUSED and the reason. -/
theorem State.inputRefused_shows {e : Nat} (he : e < 16) :
    (s.inputRefused i e).is (F.audInStatRefused i) = true ∧ (s.inputRefused i e).get (F.audInStatErr i) = e := by
  let u := ((s.flag (F.audInCfgEn i) false).put (F.audInStatErr i) e).flag (F.audInStatRefused i) true
  have reported : u.Frame (s.inputRefused i e) [R.selEvtOvf] [.arb] := (State.Frame.refl u _ _).refusalEv (by simp) (by simp)
  have stat : R.audInStat i ∉ [R.selEvtOvf] := by simp only [List.mem_singleton, R.audInStat, R.selEvtOvf]; omega
  refine ⟨(reported.is _ stat).trans (State.is_flag _ _ true (by simp [F.audInStatRefused]) rfl), ?_⟩
  rw [reported.get _ stat, State.get_flag_apart _ _ (.inr (.inl (by simp [F.audInStatErr, F.audInStatRefused]))),
    State.get_put _ _ _ (by simp [F.audInStatErr])]
  exact Nat.mod_eq_of_lt he

theorem State.frame_flag_inputRefused (e : Nat) : (s.flag (F.audInCfgEn i) false).Frame (s.inputRefused i e)
    [R.audInStat i, R.selEvtOvf] [.arb] :=
  (((State.Frame.refl _ _ _).put (by simp [F.audInStatErr])).flag (by simp [F.audInStatRefused])).refusalEv (by simp) (by simp)

theorem State.frame_inputRefused (e : Nat) :
    s.Frame (s.inputRefused i e) [R.audInCfg i, R.audInStat i, R.selEvtOvf] [.arb] :=
  ((State.Frame.refl s _ _).flag (by simp [F.audInCfgEn])).andThen (s.frame_flag_inputRefused i e) (by simp) (fun _ => id)

theorem State.frame_inputCleared : s.Frame (s.inputCleared i) (audInCounters i) [] :=
  (State.Frame.refl s _ _).foldl (fun _ _ hk hu => hu.setWord (List.mem_map_of_mem hk))

theorem State.word_inputCleared {k : Nat} (hk : k < 11) : (s.inputCleared i).word (R.audInCntRecv i + 4 * k) = 0 :=
  State.word_foldl_setWord s (g := fun k => R.audInCntRecv i + 4 * k) (fun _ => 0) (fun a b h => by dsimp only at h; omega) hk

theorem State.frame_inputCheck :
    s.Frame (s.inputCheck i) ([R.audInCfg i, R.audInStat i, R.selEvtOvf] ++ audInCounters i) [.arb, .ains] := by
  by_cases h : s.inputErr i = 0
  · exact ((s.frame_inputCleared i).mono (fun _ ha => List.mem_append_right _ ha) (by simp)).andThen
      (s.frame_inputCheck_of_allowed i h) (by simp) (by simp)
  · rw [s.inputCheck_of_refused i h]
    exact (s.frame_inputRefused i _).mono (fun _ ha => List.mem_append_left _ ha) (by simp)

/-- The check changes nothing that it looks at. -/
theorem State.sameInputs_inputCheck (hi : i < 48) : s.SameInputs (s.inputCheck i) i := by
  have port := not_mem_audInState (a := R.audPortCfg i) (.inl (by unfold R.audPortCfg; omega)) hi
  have flow := not_mem_audInState (a := R.ingAflCfg (i - 16)) (.inr (by unfold R.ingAflCfg; omega)) hi
  have input : ∀ j, R.audInCfg j ∉ [R.audInStat i, R.selEvtOvf] ∧ R.audInCfg j ∉ audInCounters i := fun j =>
    not_mem_audInState (.inl (by unfold R.audInCfg; omega)) hi
  by_cases h : s.inputErr i = 0
  · have frame : s.Frame (s.inputCheck i) (audInCounters i) [.ains] :=
      ((s.frame_inputCleared i).mono (fun _ => id) (by simp)).andThen (s.frame_inputCheck_of_allowed i h) (by simp) (fun _ => id)
    exact frame.sameInputs port.2 flow.2 (fun j => (input j).2)
  · rw [s.inputCheck_of_refused i h]
    exact (s.sameInputs_flag_en false hi).trans
      ((s.frame_flag_inputRefused i _).sameInputs port.1 flow.1 (fun j => (input j).1))

/-- What a checked input shows: EN with its counters at 0, or EN = 0 with REFUSED and the reason. -/
theorem State.inputCheck_shows (hi : i < 48) (en : s.is (F.audInCfgEn i) = true) :
    if (s.inputCheck i).inputErr i = 0 then
      (s.inputCheck i).is (F.audInCfgEn i) = true ∧ ∀ k, k < 11 → (s.inputCheck i).word (R.audInCntRecv i + 4 * k) = 0
    else (s.inputCheck i).is (F.audInCfgEn i) = false ∧ (s.inputCheck i).is (F.audInStatRefused i) = true
      ∧ (s.inputCheck i).get (F.audInStatErr i) = (s.inputCheck i).inputErr i := by
  have cfg := not_mem_audInState (a := R.audInCfg i) (.inl (by unfold R.audInCfg; omega)) hi
  rw [(s.sameInputs_inputCheck i hi).inputErr]
  split
  · next h =>
    have started := s.frame_inputCheck_of_allowed i h
    exact ⟨((started.is _ (by simp)).trans ((s.frame_inputCleared i).is _ cfg.2)).trans en,
      fun k hk => (started.word (by simp)).trans (s.word_inputCleared i hk)⟩
  · next h =>
    rw [s.inputCheck_of_refused i h]
    exact ⟨((s.frame_flag_inputRefused i _).is _ cfg.1).trans (s.is_flag _ false (by simp [F.audInCfgEn]) rfl),
      s.inputRefused_shows i (Nat.lt_of_le_of_lt (s.inputErr_le i) (by decide))⟩

end

/-! Switching inputs and ports -/

section
variable {s : State} {h a i : Nat} (hr : s.Ready h) (v : Word)
include hr

/-- AUD_PORT_ENABLE of an OFF port with EN = 0, taken at once. -/
theorem State.audPortEnable_writes (ha : a < 16) (off : s.is (F.audPortCfgEn a) = false) (stopped : s.audState a = AState.off) :
    s.Writes h (.audPortEnable h a v) [R.audPortCfg a, R.audPortStat a, R.selEvtOvf] [] (fun t =>
      t.is (F.audPortCfgEn a) = true ∧ t.audState a = (if t.ownClock a then AState.prime else AState.clkWait)) := by
  refine State.writes_of_taken hr ((s.exec_audPortEnable v h ha).trans (s.exec_write_audPortCfg _ h ha)) (fun t taken => ?_)
  have cfg : R.audPortCfg a ∉ [R.hstCntWrites h] := aud_not_mem_count hr.2.1 (by unfold R.audPortCfg; omega)
  have stat : R.audPortStat a ∉ [R.hstCntWrites h] := aud_not_mem_count hr.2.1 (by unfold R.audPortStat; omega)
  have en : bitsAt (setBitsAt v 5 1 1) 5 1 = 1 := bitsAt_setBitsAt v 5 1 1 (by decide)
  have starts := t.writeAudPort_starts _ en ((taken.frame.is _ cfg).trans off) ((taken.frame.get _ stat).trans stopped)
  have reads := t.en_writeAudPort (setBitsAt v 5 1 1) ha
  rw [starts] at reads ⊢
  have frame := State.frame_portOn (t.audPortStored a (setBitsAt v 5 1 1)) a
  refine ⟨?_, ?_, ?_⟩
  · exact ((t.frame_audPortStored _).mono (by simp) (by simp)).andThen frame (by simp [audStateRegs]) (by simp [takingParts])
  · rw [State.is, reads, en]; rfl
  · rw [frame.ownClock, State.audState_portOn]

/-- AUD_PORT_DISABLE of a port in RUN, taken at once. -/
theorem State.audPortDisable_writes (ha : a < 16) (run : s.audState a = AState.run) :
    s.Writes h (.audPortDisable h a v) [R.audPortCfg a, R.audPortStat a, R.selEvtOvf] [.ains] (fun t =>
      t.is (F.audPortCfgEn a) = false ∧ t.audState a = AState.stopping) := by
  refine State.writes_of_taken hr ((s.exec_audPortDisable v h ha).trans (s.exec_write_audPortCfg _ h ha)) (fun t taken => ?_)
  have stat : R.audPortStat a ∉ [R.hstCntWrites h] := aud_not_mem_count hr.2.1 (by unfold R.audPortStat; omega)
  have en : bitsAt (setBitsAt v 5 1 0) 5 1 = 0 := bitsAt_setBitsAt v 5 1 0 (by decide)
  refine ⟨?_, ?_, ?_⟩
  · exact ((t.frame_audPortStored _).mono (by simp) (by simp)).andThen (t.frame_writeAudPort _) (by simp [audStateRegs])
      (by simp [takingParts])
  · rw [State.is, t.en_writeAudPort _ ha, en]; rfl
  · rw [t.writeAudPort_stops _ en ((taken.frame.get _ stat).trans run), State.audState_setAudState _ _ (by decide)]

/-- AUD_INPUT_ENABLE of an input with EN = 0, taken at once. -/
theorem State.audInputEnable_writes (hi : i < 48) (off : s.is (F.audInCfgEn i) = false) :
    s.Writes h (.audInputEnable h i v) ([R.audInCfg i, R.audInStat i, R.selEvtOvf] ++ audInCounters i) [.ains] (fun t =>
      t.get (F.audInCfgMask i) = bitsAt v 0 16 ∧ t.get (F.audInCfgChan i) = bitsAt v 20 8 ∧
        if t.inputErr i = 0 then t.is (F.audInCfgEn i) = true ∧ ∀ k, k < 11 → t.word (R.audInCntRecv i + 4 * k) = 0
        else t.is (F.audInCfgEn i) = false ∧ t.is (F.audInStatRefused i) = true ∧ t.get (F.audInStatErr i) = t.inputErr i) := by
  refine State.writes_of_taken hr ((s.exec_audInputEnable v h hi).trans (s.exec_write_audInCfg _ h hi)) (fun t taken => ?_)
  have cfg : R.audInCfg i ∉ [R.hstCntWrites h] := aud_not_mem_count hr.2.1 (by unfold R.audInCfg; omega)
  have off' : t.is (F.audInCfgEn i) = false := (taken.frame.is _ cfg).trans off
  have en : bitsAt (setBitsAt v 16 1 1) 16 1 = 1 := bitsAt_setBitsAt v 16 1 1 (by decide)
  have stored : (t.audInStored i (setBitsAt v 16 1 1)).is (F.audInCfgEn i) = true := by
    rw [State.is, t.en_audInStored _ hi, en]; rfl
  obtain ⟨mask, chan⟩ := t.fields_audInStored (setBitsAt v 16 1 1) hi off'
  have same := (t.audInStored i (setBitsAt v 16 1 1)).sameInputs_inputCheck i hi
  rw [t.writeAudIn_checks _ en off']
  refine ⟨?_, ?_, ?_, State.inputCheck_shows _ i hi stored⟩
  · exact ((t.frame_audInStored _).mono (by simp) (by simp)).andThen (State.frame_inputCheck _ i) (fun _ => id)
      (by simp [takingParts])
  · rw [same.mask, mask, bitsAt_setBitsAt_ne _ _ _ _ _ _ (.inl (by decide))]
  · rw [same.chan, chan, bitsAt_setBitsAt_ne _ _ _ _ _ _ (.inr (by decide))]

/-- AUD_INPUT_DISABLE of an input with EN = 1, taken at once. -/
theorem State.audInputDisable_writes (hi : i < 48) (on : s.is (F.audInCfgEn i) = true) :
    s.Writes h (.audInputDisable h i v) [R.audInCfg i] [.ains] (fun t => t.is (F.audInCfgEn i) = false
      ∧ t.get (F.audInCfgMask i) = s.get (F.audInCfgMask i) ∧ t.get (F.audInCfgChan i) = s.get (F.audInCfgChan i)) := by
  refine State.writes_of_taken hr ((s.exec_audInputDisable v h hi).trans (s.exec_write_audInCfg _ h hi)) (fun t taken => ?_)
  have cfg : R.audInCfg i ∉ [R.hstCntWrites h] := aud_not_mem_count hr.2.1 (by unfold R.audInCfg; omega)
  have on' : t.is (F.audInCfgEn i) = true := (taken.frame.is _ cfg).trans on
  have en : bitsAt (setBitsAt v 16 1 0) 16 1 = 0 := bitsAt_setBitsAt v 16 1 0 (by decide)
  refine ⟨?_, ?_, ?_, ?_⟩
  · exact ((t.frame_audInStored _).mono (fun _ => id) (by simp)).andThen (t.frame_writeAudIn _ on') (by simp) (by simp)
  · rw [State.is, t.en_writeAudIn _ on' hi, en]; rfl
  · exact (t.bitsAt_writeAudIn _ on' (lo := 0) (width := 16) (by decide)).trans (taken.frame.get (F.audInCfgMask i) cfg)
  · exact (t.bitsAt_writeAudIn _ on' (lo := 20) (width := 8) (by decide)).trans (taken.frame.get (F.audInCfgChan i) cfg)

end

/-! The clock of a port (R379, R380) -/

section
variable {s : State} {a : Nat}

/-- A port in RUN that loses its clock waits for it again, with its frame cut short, and reports it to SEL. -/
theorem State.clockLost_of_run (run : s.audState a = AState.run) (got : Nat) :
    s.clockLost a got = ((s.partialFrame a got).setAudState a AState.clkWait).raise (Src.audClk a) := by
  simp only [State.clockLost, run]
  rfl

variable (ha : a < 16)
include ha

theorem State.portClockValid_primes (wait : s.audState a = AState.clkWait) :
    s.Does (.portClockValid a) [R.audPortStat a, R.selEvtOvf] [.arb] (fun t =>
      t.audState a = AState.prime ∧ t.is (F.audPortStatLock a) = true) := by
  refine ⟨s.clockOk a, by simp only [exec, execPortClockValid, Nat.mod_eq_of_lt ha], s.frame_clockOk a, ?_⟩
  rw [State.clockOk_of_wait wait]
  exact ⟨State.audState_setAudState _ _ (by decide), (State.lock_setAudState _ _ (by decide)).trans (s.lock_flag_lock a true)⟩

theorem State.portPrimeDone_runs (prime : s.audState a = AState.prime) :
    s.Does (.portPrimeDone a) [R.audPortStat a, R.selEvtOvf] [.arb, .ains] (fun t =>
      t.audState a = AState.run ∧ (t.ain a).data = (if s.is (F.audInCfgEn a) then 2 else 0)) := by
  have primed : Nat.beq (s.audState a) AState.prime = true := by rw [prime]; rfl
  refine ⟨_, by simp only [exec, execPortPrimeDone, Nat.mod_eq_of_lt ha, State.primeDone, primed, if_true]; rfl, ?_, ?_, ?_⟩
  · exact ((State.Frame.refl s _ _).updAin (by simp)).setAudState (by simp) (by simp) (by simp)
  · exact State.audState_setAudState _ _ (by decide)
  · rw [(State.frame_setAudState _ a _).ain (by simp), State.ain_updAin]

theorem State.portStopDone_off (stopping : s.audState a = AState.stopping) (off : s.is (F.audPortCfgEn a) = false) :
    s.Does (.portStopDone a) [R.audPortStat a, R.selEvtOvf] [.arb, .ains] (fun t =>
      t.audState a = AState.off ∧ (t.ain a).data = 0) := by
  have stops : Nat.beq (s.audState a) AState.stopping = true := by rw [stopping]; rfl
  have frame := (s.updAin a (fun x => { x with data := 0 })).frame_setAudState a AState.off
  have still := (frame.is (F.audPortCfgEn a) (audPortCfg_not_mem_audStateRegs a)).trans off
  refine ⟨_, by simp only [exec, execPortStopDone, Nat.mod_eq_of_lt ha, State.stopDone, stops, still, if_true,
    Bool.false_eq_true, if_false]; rfl, ?_, State.audState_setAudState _ _ (by decide), ?_⟩
  · exact ((State.Frame.refl s _ _).updAin (by simp)).setAudState (by simp) (by simp) (by simp)
  · rw [frame.ain (by simp), State.ain_updAin]

theorem State.portClockLoss_waits (run : s.audState a = AState.run) (got : Nat) :
    s.Does (.portClockLoss a got) [R.audPortStat a, R.audInCntRecv a, R.audInCntPartial a, R.selEvtOvf] [.arb, .ains, .sel]
      (fun t => t.audState a = AState.clkWait ∧ t.is (F.audPortStatLock a) = false ∧ (t.ain a).data = 0
        ∧ t.sel.occ = s.sel.occ ++ [(Src.audClk a, false)]) := by
  have clocked : Nat.ble (s.audState a) 1 = false := by rw [run]; rfl
  let u := s.flag (F.audPortStatLock a) false
  have lost : u.clockLost a got = _ := State.clockLost_of_run ((s.audState_flag_lock a false).trans run) got
  have cut := (u.partialFrame a got).frame_setAudState a AState.clkWait
  have step : exec (.portClockLoss a got) s = .next (u.clockLost a got) := by
    simp only [exec, execPortClockLoss, Nat.mod_eq_of_lt ha, clocked, Bool.false_eq_true, if_false, u]
  refine ⟨u.clockLost a got, step, ?_⟩
  rw [lost]
  refine ⟨?_, State.audState_setAudState _ _ (by decide), ?_, ?_, ?_⟩
  · exact ((((State.Frame.refl s _ _).flag (by simp [F.audPortStatLock])).partialFrame (by simp) (by simp) (by simp)).setAudState
      (by simp) (by simp) (by simp)).raise (by simp)
  · rw [State.is_raise, State.lock_setAudState _ _ (by decide), State.is,
      State.get_of_word _ (u.word_partialFrame_audPortStat a got)]
    exact s.lock_flag_lock a false
  · exact (congrArg AIn.data (cut.ain (by simp) a)).trans (u.data_partialFrame a got)
  · rw [State.raise_occ, cut.occ (by simp)]
    rfl

/-- PORT_RATE_GATE of a running port whose rate lies within 1,000 ppm. -/
theorem State.portRateGate_shows (clocked : s.audState a ≠ AState.off) {ppm : Int} (lo : -10000 ≤ ppm) (hi : ppm ≤ 10000)
    (got : Nat) : s.Does (.portRateGate a ppm got) [R.audPortStat a] [.aports] (fun t => t.getInt (F.audPortStatPpm a) = ppm
      ∧ t.audState a = s.audState a ∧ (t.aport a).bad = 0) := by
  have runs : Nat.beq (s.audState a) AState.off = false := by rw [nat_beq_eq, decide_eq_false clocked]
  have good : Nat.blt 10000 ppm.natAbs = false := Bool.eq_false_iff.mpr (fun e => by rw [Nat.blt_eq] at e; omega)
  refine ⟨(s.put (F.audPortStatPpm a) (unsignedOf 16 (clampSigned 16 ppm))).setAport a { s.aport a with bad := 0 },
    ?_, ?_, ?_, ?_, ?_⟩
  · simp only [exec, execPortRateGate, Nat.mod_eq_of_lt ha, State.rateGate, runs, good, Bool.false_eq_true, if_false]
    rfl
  · exact ((State.Frame.refl s _ _).put (by simp [F.audPortStatPpm])).setAport (by simp)
  · rw [clampSigned_of_range (by omega) (by omega), State.getInt, State.get_setAport,
      State.get_put _ _ _ (by simp [F.audPortStatPpm])]
    simp only [F.audPortStatPpm, Nat.mod_eq_of_lt (unsignedOf_lt 16 ppm)]
    exact signedOf_unsignedOf_of_range (by decide) (by omega) (by omega)
  · exact s.get_put_apart _ (.inr (.inl (by simp [F.audPortStatPpm, F.audPortStatPstate])))
  · rw [State.aport_setAport]

end

/-- Settles O56 (R378 to R380, R387). -/
theorem audioPorts : Obligations.AudioPorts := by
  intro s h a i got v ppm ha hi
  refine ⟨fun ready => ⟨?_, ?_, ?_, ?_⟩, ?_, ?_, ?_, ?_, ?_⟩
  · exact fun off stopped => State.audPortEnable_writes ready v ha off stopped
  · exact fun run => State.audPortDisable_writes ready v ha run
  · exact fun off => State.audInputEnable_writes ready v hi off
  · exact fun on => State.audInputDisable_writes ready v hi on
  · exact fun wait => State.portClockValid_primes ha wait
  · exact fun prime => State.portPrimeDone_runs ha prime
  · exact fun stopping off => State.portStopDone_off ha stopping off
  · exact fun run => State.portClockLoss_waits ha run got
  · exact fun clocked lo hi => State.portRateGate_shows ha clocked lo hi got

end Sys2Proof.Machine
end
